-- ==== Sys2Proof/Word.lean ====
section
/-! DEFINITION. Word.lean: the units of data of the NQ1440 (spec/00_scope.md, R1 to R6). -/

namespace Sys2Proof

/-- A word: 14 bits, bit 13 most significant (R1). -/
abbrev Word := BitVec 14
/-- A pair: 28 bits; instructions and CSRs are pairs (R2). -/
abbrev Pair := BitVec 28
/-- A flit: type in [255:252], eighteen words in [251:0] (R5). -/
abbrev Flit := BitVec 256
/-- A byte of host or octet data. -/
abbrev Octet := BitVec 8
/-- A tick of TCLK, 56 bits (R37). -/
abbrev Tick := BitVec 56
/-- An epoch number, 56 bits (R41). -/
abbrev Epoch := BitVec 56
/-- A BAR0 byte offset, 64 MiB (R34). -/
abbrev Off := BitVec 26
/-- A 42-bit Lumen word address (R31). -/
abbrev WAddr := BitVec 42

end Sys2Proof
end

