-- ==== Sys2Proof/Syntax.lean ====
section
/-! DEFINITION. Syntax.lean: the commands of the NQ1440, one constructor of `Instr` per row of
spec/opcode_table.json, in the table's order. The table gives the rows no operand bits; the operands below
are what the row's rule says the event is about: the port, quadrant, thread, cluster, channel, slice or
queue pair that it happens on, the value written, and what arrives from outside with it (a flit, a frame, a
measured time, a host reply). Events that the spec decides by what happens in the same cycle carry that
coincidence as an operand. -/

namespace Sys2Proof

/-- Who performs a CSR access (R22, R33, R444, R458): the host driver of the PF, a system-mode thread
through the CSR window, or Umbra firmware. -/
inductive Master where
  | host
  | thread (t : Fin 1024)
  | umbra
  deriving DecidableEq, Repr

/-- Where a register lies: PF BAR0, the function page of a function (R396: PF BAR2, VF BAR0), or its configuration space (R395). -/
inductive Space where
  | bar0
  | page (fn : Fin 64)
  | cfg (fn : Fin 64)
  deriving DecidableEq, Repr

/-- A master that can own a semaphore (Table 12.1). -/
inductive SemMaster where
  | thread (t : Fin 1024)
  | queue (sl : Fin 64) (qp : Fin 8)
  | umbra
  deriving DecidableEq, Repr

/-- Where a dispatch command comes from (R169): DSP.CMD of a quadrant with the value written, or the oldest
message a thread has committed on the DISPATCH channel. -/
inductive DspSrc where
  | csr (q : Fin 4) (v : Pair)
  | chan (t : Fin 1024)
  deriving DecidableEq, Repr

/-- A CANCEL and whether a RELEASE of the same task falls in its CCLK (R180). -/
structure Cancel where
  src : DspSrc
  same : Bool
  deriving DecidableEq, Repr

/-- A TRIG write to a ring and whether records for it are appended in the same CCLK (R301). -/
structure RingTrig where
  ring : Fin 256
  same : Bool
  deriving DecidableEq, Repr

/-- The bits that arrive on one physical receive lane for one block, first bit in bit 0, or, where the block begins a RINEK-F
codeword, for the whole codeword (R77, R98). -/
abbrev LaneBits := BitVec 680

/-- A training sequence that arrives on a lane, and its place in UI against the first lane (R94 to R96). -/
structure TsArrival where
  bits : BitVec 64
  ui : Nat
  deriving DecidableEq, Repr

/-- A register access: its size in octets, and the value of a write. -/
structure Access where
  size : Nat
  v : BitVec 64 := 0
  deriving DecidableEq, Repr

/-- What the ECC check of a DRAM line finds (R356): no error, one device in error, or an uncorrectable error. -/
inductive Ecc where
  | ok
  | ce (dev : Fin 10)
  | ue
  deriving DecidableEq, Repr

/-- What a step of memory training met on one DQS lane (0 to 9) of a rank of a subchannel (R353, Table 13.7): at each Vref from 0 on,
the delays 0 to 127 that pass. Steps 3, 5 and 6 have one set: the delays of CS that pass, those at which the sampled CK is 1, those
inside the read preamble; steps 3 and 4 have lane 0 alone. -/
structure TrainPoint where
  step : BitVec 4
  sc : Bool
  rank : BitVec 2
  lane : BitVec 4
  points : List (BitVec 128)
  deriving DecidableEq, Repr

/-- The module facts that the SPD read of training gives (R327, Table 13.10 DIMM). -/
structure Spd where
  supported : Bool
  fastEnough : Bool
  dpc : BitVec 2
  ranks : BitVec 2
  die : Bool
  rfmReq : Bool
  drfm : Bool
  deriving DecidableEq, Repr

/-- How the host answers a read that a DMA-WR makes (R404, R401): units delivered, and whether a read
failed after them. -/
structure HostData where
  units : List (BitVec 16)
  error : Bool
  deriving DecidableEq, Repr

/-- On-chip SRAMs that R450 distinguishes, with the item concerned. -/
inductive Sram where
  | lumenWord (a : WAddr)
  | imem (c : Fin 8) (a : BitVec 16)
  | waveFlit (pkt : Nat)
  | rule (q : Fin 4) (bank : Bool) (i : Fin 4096)
  | prsStep (q : Fin 4) (i : Fin 1024)
  | format (q : Fin 4) (i : Fin 8)
  | etype (q : Fin 4) (i : Fin 16)
  | portset (q : Fin 4) (i : Fin 64)
  | fwdEntry (q : Fin 4) (pos : BitVec 19)
  | slot (q : Fin 4) (i : Fin 4096)
  | chanQueue (ch : Fin 512)
  | semaphore (i : Fin 4096)
  | retryBuffer (p : Fin 32)
  | umbra
  | retention (d : Fin 15)
  /-- Flits of an output in a wave buffer. -/
  | outFlit (out : Nat)
  /-- An entry of another SRAM: SOURCE of Table 18.3, instance and entry index. -/
  | other (src : Fin 14) (inst : BitVec 8) (idx : BitVec 28)
  deriving DecidableEq, Repr

/-- A queue pair of a function: slice 0 is the PF, slice n is VF n (R371). -/
structure Qp where
  fn : Fin 64
  qp : Fin 8
  deriving DecidableEq, Repr

/-- The commands. -/
inductive Instr where
  -- CSR access: spec/00_scope.md
  | csrWrite (m : Master) (sp : Space) (off : Off) (v : BitVec 32) (ev : Pair)
  | rcRead (m : Master) (sp : Space) (off : Off) (ev : Pair)
  | csrBadAccess (wr : Bool) (sp : Space) (off : Off) (x : Access)
  | tickLoRead
  | epochLoRead
  | counterLoRead (p : Fin 32) (n : Fin 22)
  -- epochs and the Beacon: spec/02
  | runArm
  | runStop
  | ctlHalt
  | commit
  | epochStart
  | phaseStart (i : Fin 16)
  | goDecision
  | announceSend
  | pinPulseSend
  | announceReceive (p : Fin 32) (stop : Bool) (n : Epoch) (remain : Pair) (a : Tick)
  | beaconPulseReceive (edge : Tick) (width : Nat)
  | announceTimeout
  | delayReqSend (p : Fin 32)
  | delayReqReceive (p : Fin 32) (tag : Word) (a : Tick)
  | delayRspReceive (p : Fin 32) (tag : Word) (residence : Pair) (t4 : Tick)
  | delayMeasurementDrop (p : Fin 32)
  | refLost
  | waveArrival (p : Fin 32)
  | deadline (o : Nat)
  | taskLate (q : Fin 4) (slot : Fin 4096)
  | lastLate (p : Fin 32)
  | arrival (p : Fin 32)
  | haltFlitReceive (p : Fin 32) (cause : BitVec 5) (e : Epoch)
  | epochStop
  | outputRelease (o : Nat)
  | egressStart (p : Fin 32)
  | lastWaveSend (p : Fin 32)
  | nonwaveEgress (p : Fin 32)
  -- ports: spec/03
  | portEnable (p : Fin 32)
  | portDisable (p : Fin 32)
  | modeWrite (p : Fin 32) (mode : BitVec 3)
  | retrain (p : Fin 32)
  | clrCnt (p : Fin 32)
  | signalDetect (p : Fin 32)
  | eqComplete (p : Fin 32)
  | tsReceive (p : Fin 32) (lane : Fin 4) (ts : TsArrival)
  | trainingTimeout (p : Fin 32)
  | lossOfSignal (p : Fin 32)
  | flitTransmit (p : Fin 32)
  | flitReceive (p : Fin 32) (l0 l1 l2 l3 : LaneBits)
  | checkFlitReceive (p : Fin 32) (lo hi : LaneBits × LaneBits)
  | replayTimeout (p : Fin 32)
  | ethFrameReceive (p : Fin 32) (octets : List Octet) (corr : Nat) (uncorr : Nat)
  -- Prism: spec/04
  | contextTake (q : Fin 4)
  | passStart (k : Nat)
  | prsEnd (k : Nat)
  | prsExtract (k : Nat)
  | prsMatch (k : Nat)
  | prsAdvance (k : Nat)
  | prsSet (k : Nat)
  | prsEtype (k : Nat)
  | prsIpv4 (k : Nat)
  | prsIpv6 (k : Nat)
  | prsStop (k : Nat)
  | ruleMatch (k : Nat)
  | forwardLookup (k : Nat)
  | resultRelease (p : Fin 32)
  | bucketRefill
  | swap (q : Fin 4) (v : Pair)
  | bankDrained (q : Fin 4) (bank : Bool)
  | ruleRead (q : Fin 4) (v : Pair)
  | ruleWrite (q : Fin 4) (v : Pair)
  | ruleInvalidate (q : Fin 4) (v : Pair)
  | stepRead (q : Fin 4) (v : Pair)
  | stepWrite (q : Fin 4) (v : Pair)
  | spRateWrite (q : Fin 4) (k : Fin 16) (v : Pair)
  -- forwarding: spec/05
  | learnInsert (q : Fin 4)
  | search (q : Fin 4) (v : Pair)
  | next (q : Fin 4) (v : Pair)
  | insert (q : Fin 4) (v : Pair)
  | delete (q : Fin 4) (v : Pair)
  | flushPort (q : Fin 4) (v : Pair)
  | fwdCmdEnd (q : Fin 4)
  | hashSeedWrite (q : Fin 4) (hi : Bool) (v : Pair)
  | ageingStrobe
  | ageingVisit (q : Fin 4) (b : BitVec 17) (hit : BitVec 8)
  | evtInfoRead (q : Fin 4)
  | flushOnDown (p : Fin 32)
  -- dispatch: spec/06
  | submit (src : DspSrc)
  | release (src : DspSrc)
  | cancel (c : Cancel)
  | slotAllocation (q : Fin 4)
  | dispatch (q : Fin 4)
  | deadlineClamp (q : Fin 4) (slot : Fin 4096)
  -- Lumen instructions: spec/07, spec/08: thread t issues the instruction at its pc, which is the one named
  | add (t : Fin 1024) | addc (t : Fin 1024) | sub (t : Fin 1024) | subc (t : Fin 1024)
  | and (t : Fin 1024) | or (t : Fin 1024) | xor (t : Fin 1024) | andn (t : Fin 1024)
  | shl (t : Fin 1024) | shr (t : Fin 1024) | sar (t : Fin 1024) | rol (t : Fin 1024)
  | cmp (t : Fin 1024) | tst (t : Fin 1024) | mov (t : Fin 1024)
  | addp (t : Fin 1024) | subp (t : Fin 1024) | andp (t : Fin 1024) | orp (t : Fin 1024)
  | xorp (t : Fin 1024) | shlp (t : Fin 1024) | shrp (t : Fin 1024) | sarp (t : Fin 1024)
  | rolp (t : Fin 1024) | cmpp (t : Fin 1024) | movp (t : Fin 1024)
  | nop (t : Fin 1024) | addi (t : Fin 1024) | andi (t : Fin 1024) | ori (t : Fin 1024)
  | xori (t : Fin 1024) | cmpi (t : Fin 1024) | shi (t : Fin 1024) | movi (t : Fin 1024)
  | mul (t : Fin 1024) | bfx (t : Fin 1024) | bfi (t : Fin 1024) | clz (t : Fin 1024)
  | perm (t : Fin 1024) | wire (t : Fin 1024) | wand (t : Fin 1024) | wor (t : Fin 1024)
  | and4 (t : Fin 1024) | or4 (t : Fin 1024) | xor4 (t : Fin 1024) | not4 (t : Fin 1024)
  | to2 (t : Fin 1024) | from2 (t : Fin 1024)
  | ld (t : Fin 1024) | st (t : Fin 1024) | ldp (t : Fin 1024) | stp (t : Fin 1024)
  | lspi (t : Fin 1024)
  | loadResponse (t : Fin 1024)
  | storeAnswer (t : Fin 1024) (i : Fin 16)
  | mtb (t : Fin 1024) | mfb (t : Fin 1024) | bcc (t : Fin 1024) | bra (t : Fin 1024)
  | call (t : Fin 1024) | jr (t : Fin 1024) | callr (t : Fin 1024) | ret (t : Fin 1024)
  | eret (t : Fin 1024) | loop (t : Fin 1024) | rep (t : Fin 1024)
  | task (t : Fin 1024) | done (t : Fin 1024) | gather (t : Fin 1024) | out (t : Fin 1024)
  | fork (t : Fin 1024) (lost : Bool) (squashed : Bool)
  | join (t : Fin 1024)
  | joinWake (t : Fin 1024)
  | chr (t : Fin 1024) | chw (t : Fin 1024) | chc (t : Fin 1024)
  | channelAccept (ch : Fin 512)
  | messageTake (ch : Fin 512)
  | hostMessageAccept (qp : Qp)
  | wfe (t : Fin 1024)
  | wfeWake (t : Fin 1024)
  | sev (t : Fin 1024)
  | cpl (t : Fin 1024)
  | contextGrant (c : Fin 8) (u : Fin 3)
  | cpu (t : Fin 1024)
  | contextRelease (c : Fin 8) (u : Fin 3) (k : Fin 4)
  | cpq (t : Fin 1024) (squashed : Bool)
  | cpm (t : Fin 1024) (squashed : Bool)
  | cps (t : Fin 1024)
  | copCompletion (c : Fin 8) (u : Fin 3)
  | cas (t : Fin 1024) | rdf (t : Fin 1024) | mfs (t : Fin 1024) | mts (t : Fin 1024)
  | timerExpiry (t : Fin 1024)
  | stall (sl : Fin 64)
  | halt (t : Fin 1024)
  | resume (t : Fin 1024)
  | kill (t : Fin 1024)
  | step (t : Fin 1024)
  | dbgDataAccess (wr : Bool) (v : Pair)
  | chanCfgWrite (ch : Fin 512) (v : Pair)
  | chanClear (ch : Fin 512)
  -- coprocessor commands: context k of the unit of cluster c runs its oldest queued command
  | enc (c : Fin 8) (k : Fin 4) | dec (c : Fin 8) (k : Fin 4)
  | vwire (c : Fin 8) (k : Fin 4) | vwand (c : Fin 8) (k : Fin 4) | vwor (c : Fin 8) (k : Fin 4)
  | vand4 (c : Fin 8) (k : Fin 4) | vor4 (c : Fin 8) (k : Fin 4) | vxor4 (c : Fin 8) (k : Fin 4)
  | vnot4 (c : Fin 8) (k : Fin 4) | vto2 (c : Fin 8) (k : Fin 4) | vfrom2 (c : Fin 8) (k : Fin 4)
  | xcount (c : Fin 8) (k : Fin 4) | xevMatch (c : Fin 8) (k : Fin 4) | wirek (c : Fin 8) (k : Fin 4)
  | sinit (c : Fin 8) (k : Fin 4) | absorb (c : Fin 8) (k : Fin 4) | final (c : Fin 8) (k : Fin 4)
  | squeeze (c : Fin 8) (k : Fin 4) | crc (c : Fin 8) (k : Fin 4)
  -- trace rings: spec/11
  | ringStart (r : Fin 256) | ringStop (r : Fin 256) | ringTrig (x : RingTrig) | ringFlush (r : Fin 256)
  | ringRdWrite (r : Fin 256) (v : Pair)
  | recordAppend (src : Fin 14)
  -- semaphores: spec/12
  | acquire (m : SemMaster) (s : Fin 4096) | semRelease (m : SemMaster) (s : Fin 4096)
  | renew (m : SemMaster) (s : Fin 4096) | query (m : SemMaster) (s : Fin 4096)
  | leaseStrobe
  | force (v : Pair)
  -- memory: spec/13
  | dramAccess (k : Fin 16) (sc : Bool) (ecc : Ecc)
  | refreshDue (k : Fin 16) (sc : Bool) (rk : Fin 4)
  | owedRefresh (k : Fin 16) (sc : Bool) (rk : Fin 4)
  | tempReading (k : Fin 16) (t0 : BitVec 8) (t1 : BitVec 8)
  | sweepEnd (k : Fin 16) (sc : Bool) (rk : Fin 4) (bank : Fin 32)
  | shadowClear (k : Fin 16) (sc : Bool) (rk : Fin 4)
  | writeTimingCheck (k : Fin 16) (rk : Fin 4) (osc : Int)
  | censusStart (k : Fin 16) | censusStop (k : Fin 16) | censusClear (k : Fin 16)
  | censusWindowEnd (k : Fin 16)
  | trainStart (k : Fin 16) (v : Pair) (spd : Spd)
  | trainEnd (k : Fin 16) (o : List TrainPoint)
  | wipeAll (v : Pair) | wipeExtent (v : Pair) | wipeEnd
  | scrub (k : Fin 16) (ecc : Ecc)
  | extentMoveEnd (x : Fin 4096)
  -- slices: spec/14
  | create (v : Pair) | destroy (v : Pair) | grantExt (v : Pair) | returnExt (v : Pair)
  | arm (v : Pair) | disarm (v : Pair) | thaw (v : Pair) | save (v : Pair)
  | saveComplete
  | restore (v : Pair)
  | restoreLoadDone
  | restoreLimit
  | reset (v : Pair)
  | resetComplete (sl : Fin 64)
  | freezeComplete (sl : Fin 64)
  | freezeLimit (sl : Fin 64)
  | shareWrite (sl : Fin 64) (c : Fin 8) (v : Pair)
  | coreIdle (core : Fin 128)
  -- host: spec/15
  | sqTail (qp : Qp) (v : Pair) | cqHead (qp : Qp) (v : Pair) | rqHead (qp : Qp) (v : Pair)
  | qpEnable (qp : Qp) (v : Pair)
  | qpStop (qp : Qp)
  | entryFetch (entry : BitVec 512)
  | entryNop (qp : Qp)
  | entryTask (qp : Qp)
  | dmaWr (qp : Qp) (data : HostData)
  | dmaRd (qp : Qp)
  | dmaComplete (qp : Qp)
  | entryChan (qp : Qp) | entrySem (qp : Qp) | entryCas (qp : Qp)
  | msixUnmask (fn : Fin 64) (v : Fin 32)
  | flr (fn : Fin 64)
  | vfEnableClear
  | perst
  -- power: spec/16
  | powerEntry (m : Master) (v : Pair)
  | powerWake (m : Master) (v : Pair)
  | domainEntryComplete (d : Fin 15)
  | domainWakeComplete (d : Fin 15) (crcOk : Bool)
  | wakeTimeout (d : Fin 15)
  | glint (src : Fin 14) (d : Fin 15)
  | wakeTimer
  | glintTest (v : Pair)
  | thermalSample (temp : BitVec 8)
  | porAssert
  | porRelease (straps : BitVec 8)
  | sysResetAssert
  | sysResetRelease
  | vaonLow
  -- boot, identity, life cycle: spec/17
  | firmwareStart (flash : List Octet)
  | bootStop (flash : List Octet)
  | load
  | attest (rnd : BitVec 256)
  | mboxLc
  | mboxRevoke
  | mailboxComplete
  | lcReq (v : Pair) (uds : BitVec 256)
  | revoke (v : Pair)
  | svnSet (v : Pair)
  | keyProg (v : Pair)
  | extend (v : Pair)
  -- errors: spec/18
  | hostRdWrite (v : Pair)
  | umbRdWrite (v : Pair)
  | post (v : Pair)
  | kick
  | wdog
  | fatalRequest
  | umbraDoubleFault
  | fatalSrComplete (trained : BitVec 16)
  | sramError (item : Sram) (ue : Bool)
  | refclkLnLoss (q : Fin 4)
  | refclkSysLoss
  | illOp (t : Fin 1024)
  | ethLinkTraining (p : Fin 32) (up : Option (BitVec 4))
  | perstRelease
  | d3hot (fn : Fin 64) (on : Bool)
  deriving DecidableEq, Repr

end Sys2Proof
end

