-- ==== Sys2Proof/Decode.lean ====
section
/-! DEFINITION. Decode.lean: the command that a word spells by the bits of spec/opcode_table.json. No row of the
table gives bits (spec/98_reader.md: 319 rows unread), so no word spells a command. The bits of Lumen
instructions are decoded where a thread issues them (Machine/Operands.lean). -/

namespace Sys2Proof

/-- The table spells no word. -/
def decodeTableWord (_nbits _w : Nat) : Option Instr := none

end Sys2Proof
end

