-- ==== Sys2Proof/Config.lean ====
section
/-! DEFINITION. Config.lean: what the spec leaves to the device, as opaque constants without a body
(no proof can see a value of them). Notes: notes/assumptions/3.md and 4.md. -/

namespace Sys2Proof.Config

/-- The n-th free choice of the device: which waiting thread, core, context or chunk it takes (R15, R105,
R175, R194, R237, R271, R330). Applied to the counter `State.free`. -/
opaque choice : Nat → Nat

/-- A value the spec leaves undefined or does not state. Applied to the counter `State.free`. -/
opaque freeValue : Nat → BitVec 64

/-- The value at reset of the rotating pointers that advance by one every clock (R105, R172, R253, R272,
R297, R323, R401), by arbiter: the spec gives their step and not where they start. -/
opaque pointerPhase : Nat → Nat

/-- ML-DSA-65.Verify of FIPS 204 with an empty context string (R429): public key, message, signature. -/
opaque mldsaVerify : List Octet → List Octet → List Octet → Bool

/-- ML-DSA-65.Sign in hedged form (R439): secret seed, message, randomness; none when the signing has not
ended after 1,000 rejection iterations. -/
opaque mldsaSign : BitVec 256 → List Octet → BitVec 256 → Option (List Octet)

/-- The public key of ML-DSA-65.KeyGen_internal on a seed (R438). -/
opaque mldsaPublicKey : BitVec 256 → List Octet

/-- Activates of a bank after which the modules of channel k require an RFM (R348): the spec leaves the figure to the mode
registers of the module. -/
opaque raaLimit : Nat → Nat

/-- Where the SR-IOV capability stands in the PF's configuration space: the spec does not say. -/
opaque sriovAt : Nat

/-- Octet o of the window behind the end of a frame with these octets: R116 does not say what a header check reads there. -/
opaque padOctet : List Octet → Nat → Octet

end Sys2Proof.Config
end

