-- ==== Sys2Proof/Machine/SMap.lean ====
section
/-! DEFINITION. SMap.lean: a sparse table in one canonical form. A table is a list of (key, value) pairs,
keys strictly rising, no listed value equal to what an unlisted key reads as. Registers, memories, slots,
threads and entries of the NQ1440 are held in such tables. -/

namespace Sys2Proof.Machine.SMap

/-- Read key `k`; an unlisted key reads as `d`. -/
def get {α : Type} (d : α) : List (Nat × α) → Nat → α
  | [], _ => d
  | (i, v) :: m, k => if i = k then v else get d m k

/-- The value listed at key `k`. -/
def find? {α : Type} : List (Nat × α) → Nat → Option α
  | [], _ => none
  | (i, v) :: m, k => if i = k then some v else find? m k

/-- Insert or replace the pair of key `k`, keeping the keys rising. -/
def put {α : Type} (k : Nat) (v : α) : List (Nat × α) → List (Nat × α)
  | [] => [(k, v)]
  | (i, w) :: m => if k < i then (k, v) :: (i, w) :: m else if k = i then (k, v) :: m else (i, w) :: put k v m

/-- Remove every pair of key `k`. -/
def del {α : Type} (k : Nat) : List (Nat × α) → List (Nat × α)
  | [] => []
  | (i, w) :: m => if i = k then del k m else (i, w) :: del k m

/-- Write `v` at key `k`; writing what an unlisted key reads as removes the pair. -/
def set {α : Type} [DecidableEq α] (d : α) (m : List (Nat × α)) (k : Nat) (v : α) : List (Nat × α) :=
  if v = d then del k m else put k v m

/-- Change the value at key `k` by `f`. -/
def modify {α : Type} [DecidableEq α] (d : α) (m : List (Nat × α)) (k : Nat) (f : α → α) : List (Nat × α) :=
  set d m k (f (get d m k))

/-- Change every listed value by `f`; what becomes the default is listed no more. -/
def mapVals {α : Type} [DecidableEq α] (d : α) (f : α → α) (m : List (Nat × α)) : List (Nat × α) :=
  (m.map fun x => (x.1, f x.2)).filter fun x => !decide (x.2 = d)

/-- Every listed key is above `lo`, keys rise strictly, and no listed value equals its default. -/
def wfFrom {α : Type} [DecidableEq α] (d : Nat → α) : Nat → List (Nat × α) → Bool
  | _, [] => true
  | lo, (i, v) :: m => decide (lo ≤ i) && decide (v ≠ d i) && wfFrom d (i + 1) m

/-- The canonical form. -/
def wf {α : Type} [DecidableEq α] (d : Nat → α) (m : List (Nat × α)) : Bool := wfFrom d 0 m

/-- Every listed key is above `lo`, and keys rise strictly. -/
def risesFrom {α : Type} : Nat → List (Nat × α) → Bool
  | _, [] => true
  | lo, (i, _) :: m => decide (lo ≤ i) && risesFrom (i + 1) m

/-- Keys rise strictly. -/
def rises {α : Type} (m : List (Nat × α)) : Bool := risesFrom 0 m

/-- The table without the pairs whose key or value fails `p`. -/
def keep {α : Type} (p : Nat → α → Bool) (m : List (Nat × α)) : List (Nat × α) :=
  m.filter (fun kv => p kv.1 kv.2)

end Sys2Proof.Machine.SMap
end

