-- ==== Sys2Proof/Machine/State.lean ====
section
/-! DEFINITION. State.lean: the state of one NQ1440 as plain data. Registers lie in one sparse store keyed by
BAR0 byte offset (`csr`), function-page registers in a second (`page`); an unlisted register holds its reset
value (Machine/RegMap.lean). What the spec keeps behind the registers (threads, slots, packets, tables,
lines, queues) is typed. Every sparse table is in the canonical form of Machine/SMap.lean. -/

namespace Sys2Proof.Machine

/-- A sparse table (Machine/SMap.lean). -/
abbrev SMap (α : Type) := List (Nat × α)

/-- Stops of a step. No command of this model ends in one: the spec gives every command an effect, and an
event offered where its precondition does not hold changes nothing (notes/assumptions/1.md). -/
inductive Fault where
  /-- Raised by nothing; kept so that the type is inhabited. Safe. -/
  | none
  deriving DecidableEq, Repr

/-- Refusals of a step. -/
inductive Refusal where
  /-- A command whose meaning is not written yet; raised only by an arm of Dispatch.lean. Safe. -/
  | notModelled (mnemonic : String)
  deriving DecidableEq, Repr

/-! ## Lumen threads: spec/07, spec/08, spec/09 -/

/-- Thread states (Table 9.1). -/
inductive TState where
  | waitTask | run | blocked | halted | faulted
  deriving DecidableEq, Repr

/-- What a BLOCKED thread waits for (Table 9.8, DBG_STATUS.BLOCK). -/
inductive Block where
  | none | chr | chc | wfe | join | cpl | cpq | done
  deriving DecidableEq, Repr

/-- The answer of a memory access or of a CPM read. -/
inductive Answer where
  | value (v : Pair)
  | cas (old : Pair) (ok : Bool)
  | fault (cause : BitVec 6)
  deriving DecidableEq, Repr

/-- A load, CAS or CPM read that a thread waits for (R217). `after` is the post-increment write (R193), `cas` the
pair compared with and the new pair, `cpm` the unit of a CPM read and its register. `st` is the value of an on-chip store
that waits for its domain (R418): it is posted once the domain is ON. `ans` is none until the target has served it. -/
structure Await where
  dst : Nat
  pair : Bool
  addr : WAddr := 0
  cpm : Option (Fin 3 × BitVec 6) := none
  cas : Option (Pair × Pair) := none
  st : Option Pair := none
  after : Option (Nat × Word) := none
  ans : Option Answer := none
  deriving DecidableEq, Repr

/-- A posted store (R203); `ans` is none until the target has served it; `arrived` when its fault has come back and its
exception waits. -/
structure PStore where
  id : Nat
  addr : WAddr
  pair : Bool
  val : Pair
  ans : Option Answer := none
  arrived : Bool := false
  deriving DecidableEq, Repr

/-- An output entry of a thread (R232, Tables 8.9, 8.10). -/
structure OutEntry where
  valid : Bool := false
  rs : Word := 0
  cls : BitVec 2 := 0
  keyed : Bool := false
  hdr : WAddr := 0
  xseq : BitVec 16 := 0
  inPort : BitVec 5 := 0
  /-- Set for entry 0 of DONE with D 1: the ports the task was dispatched with (R233). -/
  ports : Option (BitVec 32) := none
  deriving DecidableEq, Repr

/-- Kinds of output on an egress port (R59, R64). -/
inductive OKind where
  | wave | msg | tunnel | frame | ctrl
  deriving DecidableEq, Repr

/-- An output of a DONE that stands ready: its entry, its ports, what leaves, and by quadrant where its words stand (R233). -/
structure Gathered where
  idx : Nat
  ent : OutEntry
  ports : BitVec 32
  kind : OKind := .wave
  flits : List Flit := []
  octets : List Octet := []
  size : Nat := 0
  places : List (Nat × WAddr) := []
  deriving DecidableEq, Repr

/-- One hardware loop level (R207). -/
structure Loop where
  start : BitVec 16 := 0
  last : BitVec 16 := 0
  count : BitVec 16 := 0
  deriving DecidableEq, Repr

/-- A Lumen thread (spec/07 to spec/09). Registers: keys 0 to 7 are k0 to k7, keys 8 + 8g + i word i of
group g (R187). -/
structure Thread where
  st : TState := .waitTask
  blk : Block := .none
  /-- The instruction that a blocked thread waits in. -/
  bw : Pair := 0
  /-- State that a HALTED thread returns to (Table 9.5 RESUME). -/
  prior : TState := .waitTask
  /-- What a halted thread was blocked on: the instruction at its pc issues again (R266, Table 14.8). -/
  priorBlk : Block := .none
  /-- Halted by debug before a freeze (R377). -/
  dbg : Bool := false
  /-- Halted by the freeze of its slice (R377). -/
  frz : Bool := false
  /-- It runs on to DONE and TASK while its slice freezes (R377 step 1). -/
  runsOn : Bool := false
  /-- A debug STEP is in effect (R267). -/
  stepping : Bool := false
  child : Bool := false
  parent : Nat := 0
  hasTask : Bool := false
  handle : Word := 0
  pc : BitVec 16 := 0
  regs : SMap Word := []
  banks : SMap Pair := []
  d : Nat := 0
  spilled : Nat := 0
  z : Bool := false
  n : Bool := false
  c : Bool := false
  v : Bool := false
  u : Bool := false
  us : Bool := false
  lsusp : Bool := false
  exc : Bool := false
  ecause : BitVec 6 := 0
  epcx : BitVec 16 := 0
  einfo : BitVec 42 := 0
  esFlags : BitVec 5 := 0
  esUs : Bool := false
  esLsusp : Bool := false
  esRepv : Bool := false
  esImp : Bool := false
  edepth : BitVec 6 := 0
  erep : Word := 0
  l0 : Loop := {}
  l1 : Loop := {}
  l2 : Loop := {}
  /-- Repetitions left of the instruction at `pc` under REP (R208). -/
  rep : Option Word := none
  await : Option Await := none
  stores : List PStore := []
  staged : List Word := []
  stagedCh : BitVec 10 := 0
  outs : SMap OutEntry := []
  /-- Expiry tick of the armed timer (R258), and the ticks left while frozen (R379). -/
  timer : Option (BitVec 28) := none
  timerLeft : Option (BitVec 28) := none
  timerWord : Option Word := none
  reply : List Word := []
  replyDue : Bool := false
  /-- Completion words on COPROC (R282), oldest first. -/
  copq : List Word := []
  evr : BitVec 8 := 0
  /-- DONE has passed its wait step (R233). -/
  gathered : Bool := false
  /-- The outputs of that DONE whose gather has ended. -/
  gath : List Gathered := []
  deriving DecidableEq, Repr

/-- A core: the slice that holds it (none: spare) and whether it is lent (R194, R373). -/
structure Core where
  slice : Option (BitVec 6) := none
  lent : Bool := false
  deriving DecidableEq, Repr

/-- A message of a cluster channel. -/
structure ChanWriter where
  /-- Rotation position: thread number, or 1,024 for a hardware writer (R253). -/
  pos : Nat
  /-- The host queue pair of a CHAN entry, or none for a trigger notice or a thread. -/
  qp : Option Qp
  words : List Word
  deriving DecidableEq, Repr

/-- A cluster channel (R249 to R254): whole messages oldest first, the reader that holds a partly read
message with the words left, and the commits waiting for room. -/
structure Chan where
  msgs : List (List Word) := []
  holder : Option (Fin 1024) := none
  rest : List Word := []
  writers : List ChanWriter := []
  deriving DecidableEq, Repr

/-! ## Waves and packets: spec/02 to spec/06 -/

/-- The fields of the wave concerned by an overrun (R65). -/
structure WaveId where
  seq : Word
  src : Word
  dst : Word
  slice : BitVec 6
  deriving DecidableEq, Repr

/-- A declared overrun (Table 2.3). -/
structure Overrun where
  cause : Nat
  epoch : Epoch
  wave : Option WaveId := none
  inPort : Option Nat := none
  outPort : Option Nat := none
  deadline : Pair := 0
  remote : Nat := 0
  deriving DecidableEq, Repr

/-- An event that came after its limit and fewer than 5 ticks later (R40): its overrun is declared when TCLK reaches the limit
plus 5. `id` is the output, 4096 * quadrant + slot, or the port. -/
structure LateEvent where
  id : Nat
  ovr : Overrun
  deriving DecidableEq, Repr

/-- The epoch before the current one with its schedule, for waves stamped before the current start (R40, R43). -/
structure PrevEpoch where
  epoch : Epoch
  start : Tick
  period : Nat
  table : List Pair
  deriving DecidableEq, Repr

/-- Where a packet stands between arrival and release. -/
inductive PStage where
  | arriving | waitCtx | waitPass | stepping | matching | lookup | result | released
  deriving DecidableEq, Repr

/-- The result of a packet's passes (R110, R122, R128). -/
inductive PResult where
  | drop
  /-- A task: handler, egress ports, k6 of Table 6.6, lookup miss. -/
  | task (handler : BitVec 12) (ports : BitVec 32) (k6 : Word) (miss : Bool)
  | slow (cause : BitVec 4) (trap : BitVec 8)
  deriving DecidableEq, Repr

/-- Link check of a packet (R28): an Ethernet frame counts as passed once its FCS has (R110). -/
inductive LinkCheck where
  | open | passed | failed
  deriving DecidableEq, Repr

/-- A packet in the wave buffer, a received wave included (R43, R104 to R130). -/
structure Pkt where
  port : Fin 32
  cls : BitVec 3 := 0
  flits : List Flit := []
  octets : List Octet := []
  /-- Flits still to come. -/
  missing : Nat := 0
  link : LinkCheck := .open
  stage : PStage := .arriving
  /-- A protocol error has ended the packet; it goes when its group's check flit confirms the error (R80, R87). -/
  doomed : Bool := false
  /-- EPC's judgement (R43): `counted` when it holds a place; `idle` under R478; `ovr` the overruns to declare
  once the link check has passed (R28, R62). -/
  stamped : Bool := false
  counted : Bool := false
  idle : Bool := false
  discard : Bool := false
  ovr : List Nat := []
  /-- Its SEQ has been judged (R62). -/
  judged : Bool := false
  epoch : Epoch := 0
  phase : Nat := 0
  xseq : BitVec 16 := 0
  due : Tick := 0
  /-- Rule bank stamp of the first pass (R126). -/
  bank : Option Bool := none
  slice : Option (BitVec 6) := none
  /-- Second pass (R124). -/
  pass : Bool := false
  key : SMap (BitVec 16) := []
  cursor : Nat := 0
  step : BitVec 10 := 0
  issued : Nat := 0
  limit : Nat := 24
  /-- The end of an Ethernet frame is still to come when its pass begins; its IP length check has failed there (R116). -/
  tail : Bool := false
  ipBad : Bool := false
  /-- Action of the matched rule (Table 4.5). -/
  rule : BitVec 56 := 0
  res : Option PResult := none
  /-- Where its words stand in a wave buffer, and how many (R195). -/
  addr : WAddr := 0
  len : Nat := 0
  /-- Nothing of it is left but its link check, and it is never completed (R129, R165, R182). -/
  gone : Bool := false
  /-- The task's outputs that read these flits and have not left (R236). -/
  uses : Nat := 0
  /-- The task has completed. -/
  ended : Bool := false
  /-- Re-presented after a freeze (R382). -/
  replay : Bool := false
  /-- Slice that has the packet captured or discarded in place of a task, once its link check passes (R28, R361, R378). -/
  capFor : Option (BitVec 6) := none
  deriving DecidableEq, Repr

/-- An output between DONE and its egress port (R59 to R64, R233 to R235). -/
structure EOut where
  port : Fin 32
  kind : OKind := .wave
  flits : List Flit := []
  octets : List Octet := []
  xseq : BitVec 16 := 0
  inPort : BitVec 5 := 0
  idx : BitVec 6 := 0
  /-- A re-presented wave's output goes before every other (R382). -/
  replay : Bool := false
  epoch : Epoch := 0
  /-- Egress deadline of a wave; start tick of an announce. -/
  dl : Tick := 0
  slice : BitVec 6 := 0
  /-- The packet it derives from. -/
  pkt : Option Nat := none
  /-- The egress port is known from the rule or the lookup, and the task has not executed DONE (R56, R65). -/
  expect : Bool := false
  released : Bool := false
  started : Bool := false
  /-- DEADLINE has been declared. -/
  late : Bool := false
  /-- Reported under UNFED or DUP-KEY: never sent. -/
  bad : Bool := false
  mirror : Bool := false
  /-- Where its flits stand in the wave buffer of the egress quadrant (R32, R233). -/
  addr : WAddr := 0
  len : Nat := 0
  /-- It has still to cross the flit plane into the egress quadrant (R18). -/
  cross : Bool := false
  deriving DecidableEq, Repr

/-- One received wave, as EPC keeps it for numbering, watermarks and R235. -/
structure WaveRec where
  epoch : Epoch
  xseq : BitVec 16
  seq : Word
  arr : Tick
  due : Tick
  last : Bool
  /-- Its link check has passed (R62). -/
  ok : Bool := false
  completed : Bool
  deriving DecidableEq, Repr

/-- EPC's record of a port (R52, R60 to R63). -/
structure EPort where
  /-- Waves received, oldest first. -/
  recs : List WaveRec := []
  /-- Keys of the outputs given to the port. -/
  used : List (Epoch × BitVec 16 × BitVec 5 × BitVec 6) := []
  txEpoch : Epoch := 0
  txSeq : Nat := 0
  /-- LAST waves still to send on a SCHED port: epoch, egress deadline, LAST-LATE declared (R61). -/
  lastDl : List (Epoch × Tick × Bool) := []
  /-- ARRIVAL checks of a SCHED port still to make: epoch and last tick of arrival (R62). -/
  arrDl : List (Epoch × Tick) := []
  /-- Outstanding delay request: tag, and transmit tick once it has been sent; tick of the last one (R52). -/
  req : Option (Word × Option Tick) := none
  reqAt : Option Tick := none
  /-- The last measurements, doubled, in 1/16 tick, newest first, at most 16. -/
  meas : List Int := []
  deriving DecidableEq, Repr

/-- EPC (spec/02). -/
structure Epc where
  epoch : Epoch := 0
  epochHi : Pair := 0
  tickHi : Pair := 0
  /-- An epoch is running, and its start tick. -/
  live : Bool := false
  start : Tick := 0
  /-- An epoch has started since RUN was set. -/
  begun : Bool := false
  /-- Phase in progress. -/
  phase : Option Nat := none
  /-- D ticks after the write of RUN 1: the start of the master's first epoch (R42). -/
  armed : Option Tick := none
  /-- GO accepted or decided and not yet started, oldest first: number and start tick. -/
  gos : List (Epoch × Tick) := []
  /-- STOP accepted or decided. -/
  stop : Option (Epoch × Tick) := none
  /-- Decisions to be announced and to be pulsed: STOP flag, epoch, start tick. -/
  anns : List (Bool × Epoch × Tick) := []
  pulses : List (Bool × Epoch × Tick) := []
  /-- The epoch whose announce has been missed (R50). -/
  missed : Option Epoch := none
  /-- The number that the next pulse of a FOLLOW_PIN device counts (R54). -/
  pulseNo : Epoch := 0
  prev : Option PrevEpoch := none
  lates : List LateEvent := []
  /-- An overrun has been declared since RUN (R66 to R68). -/
  overrun : Bool := false
  /-- The run has been stopped (R69). -/
  stopped : Bool := false
  /-- Tick at which the overrun record was filled, and the error record that counts overruns (R66, R449). -/
  ovrAt : Option Tick := none
  ovrRec : Option Nat := none
  ports : SMap EPort := []
  deriving DecidableEq, Repr

/-- A receive lane in training (R95). -/
structure Lane where
  /-- Consecutive good TS, and the UI at which the last one began. -/
  good : Nat := 0
  ui : Nat := 0
  /-- Consecutive TS with ACK 1, and CONFIRM or START TS, since the training state was entered (R96). -/
  acks : Nat := 0
  confirms : Nat := 0
  inv : Bool := false
  locked : Bool := false
  lane : BitVec 2 := 0
  tsn : BitVec 8 := 0
  /-- TSN of the last START received (R96). -/
  start : Option (BitVec 8) := none
  deriving DecidableEq, Repr

/-- One group held in a retry buffer (R88). -/
structure Group where
  gseq : BitVec 12
  flits : List Flit
  /-- Tick of its last sending (R91). -/
  sent : Tick := 0
  deriving DecidableEq, Repr

/-- The link layer of a port (spec/03). -/
structure Port where
  lanes : SMap Lane := []
  /-- CONFIRM training sequences sent, the next TSN, own deskew done, and the tick of entry into the state (R94, R96). -/
  sent : Nat := 0
  tsn : BitVec 8 := 0
  ack : Bool := false
  since : Tick := 0
  /-- PRBS31 state by transmit lane (R96). -/
  prbs : SMap (BitVec 31) := []
  /-- Consecutive timeouts of ALIGN. -/
  timeouts : Nat := 0
  /-- In RETRAIN: the training state it is in (3 ALIGN, 4 DESKEW, 5 CONFIRM), and retrain requests still to send. -/
  phase : Nat := 0
  reqLeft : Nat := 0
  rxScr : BitVec 31 := 0x7FFFFFFF#31
  txScr : BitVec 31 := 0x7FFFFFFF#31
  /-- Blocks received since START, and the numbers of the last blocks with invalid headers (R78). -/
  blocks : Nat := 0
  badAt : List Nat := []
  /-- Consecutive retrain-request blocks received. -/
  retrainReq : Nat := 0
  /-- Receiver: expected group, last accepted group (R87, R89); the flits of the group in progress, whether one of
  them spoils it, and the protocol errors in it. -/
  rxExp : BitVec 12 := 0
  rxLast : Option (BitVec 12) := none
  rxBad : Bool := false
  rxFlits : List Flit := []
  proto : Nat := 0
  /-- The packet open at the flit level (R80), and the one that was open when the group began with its flits then. -/
  openPkt : Option Nat := none
  snapOpen : Option (Nat × Nat) := none
  /-- Packets received and not complete, oldest first, each with its header's group and place (R89). -/
  incomplete : List (Nat × BitVec 12 × Nat) := []
  /-- Header groups of the waves that were discarded with a failed group or a retrain and whose copies have not come (R97). -/
  lost : List (BitVec 12) := []
  /-- CTRL flits of the group in progress, and those whose group has passed and that EPC has still to take (R84). -/
  ctrl : List Flit := []
  ctrlIn : List Flit := []
  /-- A replay is awaited from this group; `skip` is the place of the oldest incomplete header in it (R90). -/
  nack : Option (BitVec 12) := none
  skip : Nat := 0
  /-- Transmitter: next group number, groups held, group being filled (R88). -/
  txGseq : BitVec 12 := 0
  held : List Group := []
  filling : List Flit := []
  /-- Groups of the replay still to send, and flits sent of the first (R90, R91). -/
  replay : List Group := []
  replayAt : Nat := 0
  /-- The group the last replay began at, and the replays that began there with nothing freed in between (R91). -/
  replayFrom : Option (BitVec 12) := none
  replays : Nat := 0
  /-- NACK_SEQ that a replay has answered (R90). -/
  lastNack : Option (BitVec 12) := none
  /-- Announces to send afresh after the replay: flag and epoch (R93). -/
  fresh : List (Bool × Epoch) := []
  /-- The egress flit queue, at most 32 flits; the flits of the packet that has started and still stand in the wave buffer, and
  its output (R27). -/
  txq : List Flit := []
  feed : List Flit := []
  feedOut : Option Nat := none
  txUp : Bool := false
  rxUp : Bool := false
  /-- Blocks sent since START (R77), and those of the RINEK-F codeword in progress; received blocks of a decoded codeword that
  have not been taken (R98). -/
  txn : Nat := 0
  fecTx : List (BitVec 258) := []
  fecRx : List (BitVec 258) := []
  /-- Counters of Table 3.12 and their latched upper halves (R103). -/
  cnt : SMap (BitVec 56) := []
  hi : SMap Pair := []
  deriving DecidableEq, Repr

/-! ## Prism, forwarding and dispatch tables: spec/04 to spec/06 -/

/-- A rule entry (R118): value and mask of K0 to K11, of the meta fields, VALID and action. -/
structure Rule where
  vals : SMap (BitVec 16) := []
  msks : SMap (BitVec 16) := []
  metaVal : Pair := 0
  metaMsk : Pair := 0
  act : BitVec 56 := 0
  deriving DecidableEq, Repr

/-- Prism of a quadrant (spec/04): steps by index, rules by 4096 * bank + index, bucket levels by cause. -/
structure Prs where
  steps : SMap (BitVec 56) := []
  rules : SMap Rule := []
  buckets : SMap Nat := []
  deriving DecidableEq, Repr

/-- A forwarding entry (R133, R134). -/
structure FEntry where
  valid : Bool := false
  key : BitVec 67 := 0
  dkind : Bool := false
  dest : BitVec 6 := 0
  kind : BitVec 2 := 0
  ts : Word := 0
  deriving DecidableEq, Repr

/-- A learning event (R159). -/
structure FEvent where
  event : BitVec 2
  key : BitVec 67
  port : BitVec 5
  old : BitVec 5
  fromCopy : Bool
  deriving DecidableEq, Repr

/-- A queued learn: its key, its port, and NOW at its check (R145, R147). -/
structure Learn where
  key : BitVec 67
  port : BitVec 5
  ts : Word
  deriving DecidableEq, Repr

/-- A flush that scans the table (R157): its command word, the next bucket, 65,536 + i for stash place i, the entries removed so far,
and whether a port's return to DETECT has begun it. -/
structure Flush where
  cmd : Pair
  next : Nat := 0
  removed : Nat := 0
  down : Bool := false
  deriving DecidableEq, Repr

/-- Forwarding of a quadrant (spec/05): entries by position. -/
structure Fwd where
  tab : SMap FEntry := []
  learnq : List Learn := []
  /-- The insertion engine's next turn belongs to a learn; a command that waits for it (R147). -/
  learnTurn : Bool := false
  cmd : Option Pair := none
  /-- The next bucket of the sweep in progress, 65,536 for the stash (R150). -/
  sweep : Option Nat := none
  events : List FEvent := []
  /-- Code and result of the running command, written when it ends (R153). -/
  code : Option (BitVec 4) := none
  walk : Bool := false
  cursor : Nat := 0
  catchup : List Nat := []
  /-- Ports whose flush waits (R157), and the flush in progress. -/
  flushes : List (BitVec 5) := []
  flush : Option Flush := none
  deriving DecidableEq, Repr

/-- Slot states (Table 6.1). -/
inductive SState where
  | free | waiting | held | ready | running
  deriving DecidableEq, Repr

/-- A task slot (spec/06). -/
structure Slot where
  st : SState := .free
  last : BitVec 2 := 0
  gen : BitVec 2 := 0
  src : BitVec 3 := 0
  slice : BitVec 6 := 0
  count : BitVec 6 := 0
  dl : Pair := 0
  handler : BitVec 12 := 0
  succ0 : Option Word := none
  succ1 : Option Word := none
  arg0 : Pair := 0
  arg1 : Pair := 0
  pkt : Option Nat := none
  ports : BitVec 32 := 0
  k6 : Word := 0
  miss : Bool := false
  cause : BitVec 4 := 0
  trap : BitVec 8 := 0
  late : Bool := false
  /-- The CCLK of a cancel in which other events of the slot fall (R180). -/
  cancelAt : Option Nat := none
  /-- The model's number of the task's allocation, for the order of the capture (R378). -/
  born : Nat := 0
  /-- Slice that a RESTORE has claimed the slot for (R389). -/
  claim : Option (BitVec 6) := none
  deriving DecidableEq, Repr

/-- Fields of a descriptor (Table 6.3). -/
structure Desc where
  p0 : Pair
  p1 : Pair
  p2 : Pair
  p3 : Pair
  p4 : Pair
  p5 : Pair
  deriving DecidableEq, Repr

/-- Who submits: source code 3 HOST, 4 THREAD, 5 CSR; its slice; whether it may name every slice; the quadrant
of the DSP.CMD block, or of the thread. -/
structure Submitter where
  src : Nat
  slice : Nat
  system : Bool
  quad : Option Nat
  deriving DecidableEq, Repr

/-- Who gets the answer of a SUBMIT: a thread, DSP.CMD of a quadrant, a queue pair. -/
inductive SubmitTo where
  | thread (t : Fin 1024)
  | csr (q : Nat)
  | host (qp : Qp)
  deriving DecidableEq, Repr

/-- An allocation request waiting for its turn (R172): a packet, on ports 0 to 9, or a submission. -/
structure AReq where
  pkt : Option Nat := none
  slice : BitVec 6 := 0
  handler : BitVec 12 := 0
  src : BitVec 3 := 0
  ports : BitVec 32 := 0
  k6 : Word := 0
  miss : Bool := false
  cause : BitVec 4 := 0
  trap : BitVec 8 := 0
  sub : Option (Submitter × Desc × SubmitTo) := none
  deriving DecidableEq, Repr

/-- Dispatch of a quadrant (spec/06). -/
structure Dsp where
  slots : SMap Slot := []
  /-- Requests by request port 0 to 11, oldest first. -/
  reqs : SMap (List AReq) := []
  /-- The DSP.CMD command in progress: CCLK of its write, whether it is a SUBMIT, and its code and handle (R169). -/
  cmdAt : Option (Nat × Bool) := none
  res : Option (BitVec 4 × Word) := none
  deriving DecidableEq, Repr

/-! ## Coprocessors, rings, semaphores: spec/10 to spec/12 -/

/-- A coprocessor context (R271 to R275). `sponge` is 0 closed, 1 absorbing, 2 squeezing. -/
structure Ctx where
  holder : Option (Fin 1024) := none
  releasing : Bool := false
  last : BitVec 10 := 0
  uregs : SMap Pair := []
  keccak : BitVec 1600 := 0
  sponge : BitVec 2 := 0
  /-- Bits absorbed into, or squeezed from, the current 1,088-bit block. -/
  pos : Nat := 0
  deriving DecidableEq, Repr

/-- A queued coprocessor command (R276 to R280). -/
structure Cmd where
  tag : Nat
  thread : Fin 1024
  ctx : Fin 4
  cmd : BitVec 6
  ptr : Bool
  bank : Pair
  /-- The pair RA. -/
  arg : Pair
  /-- Epoch in force at its commit (Table 11.2). -/
  epoch : Epoch := 0
  /-- STATUS and U once it has run (R282). -/
  done : Option (BitVec 6 × Bool) := none
  /-- Its thread has executed TASK or been killed: the completion is discarded (R282). -/
  dead : Bool := false
  /-- Released contexts that wait for its completion (R273). -/
  holds : List Nat := []
  deriving DecidableEq, Repr

/-- A CPM write that waits behind the command of a tag, which has not read its operands yet (R278). -/
structure CpmWrite where
  ctx : Fin 4
  tag : Nat
  reg : BitVec 6
  v : Pair
  deriving DecidableEq, Repr

/-- A coprocessor unit: contexts 0 to 3, commands in issue order, CPM writes behind them, threads waiting on CPL. -/
structure CopUnit where
  ctxs : SMap Ctx := []
  cmds : List Cmd := []
  cpms : List CpmWrite := []
  waiters : List (Fin 1024) := []
  deriving DecidableEq, Repr

/-- A record offered to a ring (R297, R298). -/
structure Offer where
  ring : BitVec 8
  src : Fin 14
  rtype : BitVec 4
  slice : BitVec 6
  system : Bool
  epoch : Epoch
  ref : WAddr
  change : Bool
  words : List Word
  /-- The Echo command (unit, tag) that waits for the disposal. -/
  cmd : Option (Nat × Nat)
  /-- Deadline that the ring writes of an ECHO record carry (R336). -/
  dl : Option Pair := none
  deriving DecidableEq, Repr

/-- What a trace ring holds on chip (R292, R293, R302): the words of the line being filled from word 1, the
index of the first record that starts in it, and epoch starts counted. `sent` are the lines on their way to DRAM, oldest first,
each with whether it has been written (R292, R299); `run` numbers the STARTs. -/
structure Ring where
  line : List Word := []
  first : BitVec 6 := 0
  starts : Nat := 0
  sent : List Bool := []
  run : Nat := 0
  /-- An EPOCH trigger of this epoch, whose record comes behind the MARK of the same CCLK (R297, R301). -/
  due : Option Epoch := none
  deriving DecidableEq, Repr

/-- The operations of Table 12.2. -/
inductive SemOp where
  | acquire | release | renew | query
  deriving DecidableEq, Repr

/-- A semaphore (R315). -/
structure Sem where
  held : Bool := false
  broken : Bool := false
  owner : Word := 0x3000#14
  left : BitVec 16 := 0
  deriving DecidableEq, Repr

/-! ## Memory: spec/13 -/

/-- A DRAM line (R6): tag and 504 data bits. -/
structure Line where
  slice : BitVec 6 := 0
  kind : BitVec 2 := 0
  data : BitVec 504 := 0
  deriving DecidableEq, Repr

/-- A logical extent (R328 to R331). `moving` is the copy pointer of a move in progress. -/
structure Extent where
  valid : Bool := false
  owner : BitVec 6 := 0
  /-- 0 to 3 QUAD q, 4 WIDE. -/
  group : BitVec 3 := 0
  pbase : BitVec 12 := 0
  moving : Option Nat := none
  /-- The line at the copy pointer has been read and its copy is not yet written (R331). -/
  copying : Bool := false
  /-- Group and chunk the move copies to. -/
  toGroup : BitVec 3 := 0
  toPbase : BitVec 12 := 0
  /-- Tag slice of its lines that no write has reached since their wipe (R358). -/
  tagOf : BitVec 6 := 0
  deriving DecidableEq, Repr

/-- What a DRAM request does to its line (Table 13.3): `words` writes every word of a trace ring line, `visit` makes the access of an
operation that takes effect once all its lines have been visited, `wipe` zeroes the line (R358), and `drain` writes back what
stands in the write queue (R339). -/
inductive LineOp where
  | read
  | write (word : Nat) (pair : Bool) (v : Pair)
  | cas (word : Nat) (cmp : Pair) (new : Pair)
  | words (data : BitVec 504)
  | visit (wr : Bool)
  | wipe
  | drain
  deriving DecidableEq, Repr

/-- An operation on several lines: the gather of a DONE, the command of a tag of a unit, the entry of a queue pair, Umbra's
reading of its area, SLC's work on an Afterimage or on a capture. -/
inductive Holder where
  | gather (t : Fin 1024)
  | cmd (n tag : Nat)
  | entry (q : Qp)
  | umbra
  | image
  /-- The capture of slice i (R378). -/
  | capture (i : Nat)
  deriving DecidableEq, Repr

/-- Who waits for the answer of a DRAM request. -/
inductive Reply where
  | load (t : Fin 1024) (word : Nat) (pair : Bool)
  | store (t : Fin 1024) (id : Nat)
  | cas (t : Fin 1024)
  | entry (q : Qp)
  /-- Line `i` of ring r since START number `run`. -/
  | ring (r run i : Nat)
  | op (h : Holder)
  /-- The move of an extent. -/
  | move (x : Nat)
  | none
  deriving DecidableEq, Repr

/-- A request waiting at a DRAM channel (R336 to R339). -/
structure DReq where
  line : Nat
  /-- The channel line, where the request names it itself: a copy, a wipe, a write-back. -/
  m : Option Nat := none
  op : LineOp
  slice : BitVec 6
  port : BitVec 3
  /-- Its master (Table 18.2). -/
  mkind : Nat := 0
  mid : Nat := 0
  /-- The queue tag of a coprocessor's command (Table 1.2). -/
  tag : Option Nat := none
  dl : Option Pair
  /-- Arrival in MCLK of the channel. -/
  arr : Nat
  reply : Reply
  deriving DecidableEq, Repr

/-- A line that an operation has visited: whether that took an ACT (none: it was answered from the write queue), and met an uncorrectable
error. -/
structure Visit where
  h : Holder
  line : Nat
  acted : Option Bool
  ue : Bool
  deriving DecidableEq, Repr

/-- The wipe of a channel: its first and its next channel line and the one behind its last, the new tag slice, and whether it ends a training. -/
structure Wiping where
  first : Nat := 0
  next : Nat
  stop : Nat
  slice : BitVec 6
  train : Bool
  deriving DecidableEq, Repr

/-- What a sweep found (R353): Vref and delay chosen, and the widest eye. -/
structure Eye where
  vref : Nat := 0
  delay : Nat := 0
  width : Nat := 0
  deriving DecidableEq, Repr

/-- The Shadow table of a bank (R345, R349): entries 0 to 31 as (row, count), SPILL, and census entries
0 to 15 as (row, count, line). -/
structure Shadow where
  rows : SMap (Nat × Nat) := []
  spill : Nat := 0
  census : SMap (Nat × Nat × Nat) := []
  row : Option Nat := none
  sweeping : Bool := false
  /-- Rows of a neighbour refresh that the bank activates before it serves another request (R346). -/
  todo : List Nat := []
  /-- Activates since the last RFM, on a module that requires RFM (R348). -/
  raa : Nat := 0
  deriving DecidableEq, Repr

/-- A DRAM channel (spec/13). -/
structure DChan where
  reqs : List DReq := []
  /-- Lines of the write queue, at most 64 (R339). -/
  wq : List DReq := []
  visits : List Visit := []
  wiping : Option Wiping := none
  /-- Results of training by step, subchannel, rank and lane (R353). -/
  eyes : SMap Eye := []
  /-- The ports of the last 256 data bursts, newest first (R337). -/
  bursts : List (BitVec 3) := []
  /-- By 4 * SC + RK: REFs issued since the counts were cleared, and refreshes that wait until OWED is 0 (R343, R348). -/
  refs : SMap Nat := []
  flush : SMap Bool := []
  /-- By rank: steps the write delays have moved (R354). -/
  drift : SMap Int := []
  /-- By ((SC * 4 + RK) * 32 + bank). -/
  shadow : SMap Shadow := []
  /-- The next line of the patrol scrub, and the MCLK count at which its read falls due (R357). -/
  scrub : Nat := 0
  scrubAt : Nat := 0
  censusAt : Nat := 0
  trained : Bool := false
  deriving DecidableEq, Repr

/-- The wipe in progress (R358): everything, or an extent for a new owner. -/
inductive Wipe where
  | all
  | extent (x : Nat) (owner : BitVec 6)
  deriving DecidableEq, Repr

/-! ## Slices, host, power, boot, errors: spec/14 to spec/19 -/

/-- A captured packet (R378). -/
structure Capture where
  port : Fin 32
  cls : BitVec 3
  slice : BitVec 6
  epoch : Pair
  flits : List Flit
  octets : List Octet
  deriving DecidableEq, Repr

/-- What SLC keeps of a slice beside its registers (spec/14). -/
structure Slice where
  state : BitVec 4 := 0
  freezeAt : Option Pair := none
  freezeStart : Tick := 0
  thawAt : Option Pair := none
  /-- Freeze epoch F in full and the pick of a quadrant for moved waves (R374, R376). -/
  freezeEpoch : Epoch := 0
  pick : Option (Fin 4) := none
  /-- Image area of the freeze: base line, lines, capture lines. -/
  imgBase : Nat := 0
  imgLines : Nat := 0
  capLines : Nat := 0
  captured : List Capture := []
  /-- Packets to be captured whose link check, or that of one before them, is still open, in the order in which their tasks would
  have been allocated (R378). -/
  capQueue : List Nat := []
  capWords : Nat := 0
  capLost : Bool := false
  /-- A write of the capture met a line that is not a slice 0 word line (R387). -/
  capBad : Bool := false
  saveable : Bool := false
  saved : Bool := false
  rpWaves : Bool := false
  rpOther : Bool := false
  /-- Threads killed and slots cancelled by the reset in progress. -/
  killed : Nat := 0
  cancelled : Nat := 0
  destroying : Bool := false
  /-- FREEZE_LIMIT has passed: threads of packet tasks halt as well (R377). -/
  limited : Bool := false
  /-- Consecutive CCLK in which it has been stalled; STALL has been raised and the condition has not failed since (R263, R264). -/
  stallRun : Nat := 0
  stallShut : Bool := false
  /-- THAW or RESTORE with RUN 0: the slice thaws with the first epoch to run (R381). -/
  thawFirst : Bool := false
  deriving DecidableEq, Repr

/-- The SLC command in progress (R366): its code, slice and extent. -/
structure SlcCmd where
  op : BitVec 4
  slice : BitVec 6
  ext : Nat
  /-- Extents still to be returned by a DESTROY. -/
  rest : List Nat
  /-- GRANT-EXT: group and chunk chosen (R330). -/
  place : Option (BitVec 3 × BitVec 12) := none
  /-- RESTORE: the time of its command, and whether it has loaded the slice (R389). -/
  since : Tick := 0
  loaded : Bool := false
  /-- RESTORE: the image has passed R388; the core of each core record; the contexts taken, by number of their record, with unit and
  context (R389). -/
  checked : Bool := false
  cores : Option (List Nat) := none
  ctxs : List (Nat × Nat × Nat) := []
  deriving DecidableEq, Repr

/-- A fetched submission entry (R401, R404). -/
structure Fetched where
  entry : BitVec 512
  engine : Nat
  started : Bool
  /-- The group of a SEM entry, or DSP for a TASK entry, has still to take it (R407, R408). -/
  sent : Bool := false
  /-- Units moved by a DMA entry, and its outcome. -/
  moved : Nat
  status : Option (BitVec 6)
  res0 : Pair
  res1 : Pair
  deriving DecidableEq, Repr

/-- A queue pair beside its registers (spec/15). -/
structure QpState where
  entry : Option Fetched := none
  /-- Entries fetched behind it, in SQ order (R401). -/
  ahead : List Fetched := []
  cqHead : Nat := 0
  rqHead : Nat := 0
  /-- Receive entries written and not consumed. -/
  rqUsed : Nat := 0
  /-- Messages accepted and not yet written (R409), oldest first. -/
  rqWait : List (List Word) := []
  /-- Whether the completions between CQ_HEAD and CQ_TAIL carried IRQ 1, oldest first. -/
  irqs : List Bool := []
  deriving DecidableEq, Repr

/-- An access stalled at the boundary of a sleeping domain (R418). -/
structure Stalled where
  domain : Nat
  m : Master
  sp : Space := .bar0
  wr : Bool
  off : Off
  v : BitVec 32
  /-- A read of 64 bits (R396). -/
  wide : Bool := false
  deriving DecidableEq, Repr

/-- Who waits for a domain (R418): a stalled register access, an access or a store of a thread, a coprocessor command, a host
queue entry, the gather of a DONE, or one of the last three. -/
inductive Waiter where
  | acc (x : Stalled)
  | load (t : Fin 1024)
  | store (t : Fin 1024) (id : Nat)
  | cmd (n k : Nat) (c : Cmd) (addr : Nat)
  | entry (q : Qp)
  | gather (t : Fin 1024) (addr : Nat)
  /-- The oldest message of a thread on its dispatcher channel. -/
  | disp (t : Fin 1024)
  /-- A line of a trace ring, as in `Reply`. -/
  | ring (r run i : Nat)
  /-- Umbra's work on its mailbox area. -/
  | umbra
  deriving DecidableEq, Repr

/-- The power controller beside its registers (spec/16). -/
structure Power where
  /-- Entry in progress: domain and target. -/
  entering : Option (Nat × BitVec 3) := none
  /-- Wakes in progress: domain, source, and whether the domain comes from OFF. -/
  waking : List (Nat × BitVec 4) := []
  stalled : List Stalled := []
  /-- Tick at which the wake limit of each waiting access passes (R418). -/
  limits : List (Waiter × Nat) := []
  /-- Pending sources that GLINT_TEST has fired, with their domain (R421). -/
  tests : List (Nat × Nat) := []
  /-- UCLK count at which UMB.WAKE_TIMER expires (R419). -/
  timerAt : Nat := 0
  /-- Domains whose part of the retention store has an uncorrectable error (R450). -/
  badRet : List Nat := []
  deriving DecidableEq, Repr

/-- OTP fuses (Table 17.1). `started` and `wiped` have a bit per state DEVELOP, DEPLOYED, RMA, SCRAPPED. -/
structure Otp where
  started : BitVec 4 := 0
  wiped : BitVec 4 := 0
  uds : BitVec 256 := 0
  keys : SMap (BitVec 256) := []
  revoked : BitVec 4 := 0
  svn : BitVec 7 := 0
  sigReq : Bool := false
  deriving DecidableEq, Repr

/-- Boot, identity and measurement beside the registers (spec/17). -/
structure Boot where
  otp : Otp := {}
  /-- Umbra firmware runs. -/
  running : Bool := false
  stopped : Bool := false
  fwSvn : BitVec 7 := 0
  /-- Identity seed of the boot (R438), none in BLANK. -/
  seed : Option (BitVec 256) := none
  /-- MEAS0 to MEAS7, and SLICE_MEAS[s] at 64 + s. -/
  meas : SMap (BitVec 512) := []
  unsignedMark : SMap Bool := []
  restoredMark : SMap Bool := []
  staging : SMap Pair := []
  /-- Tokens that have passed R429 since the last reset: RMA, and REVOKE of a slot with the signing slot. -/
  tokenRma : Bool := false
  tokenRevoke : List (Nat × Nat) := []
  /-- Result of the mailbox operation in progress. -/
  mbox : Option (BitVec 4 × BitVec 4 × Pair) := none
  /-- The ports that CONFIG lists, and the UCLK count at which its link wait has passed (Table 17.4, steps 8 and 10). -/
  links : List Nat := []
  linkUntil : Nat := 0
  /-- UCLK count at the last KICK, or at the release of a reset (R452). -/
  kickAt : Nat := 0
  deriving DecidableEq, Repr

/-- Pins that the device drives or reads (spec/19). -/
structure Pins where
  porLow : Bool := false
  sysLow : Bool := false
  perstLow : Bool := false
  fatalN : Bool := false
  spiOff : Bool := false
  cclkLost : Bool := false
  deriving DecidableEq, Repr

/-- The periodic strobes: bucket refill (R129), ageing (R149), leases (R320), the thermal sample (R422). -/
inductive Strobe where
  | bucket | ageing | lease | thermal
  deriving DecidableEq, Repr

/-- What leaves the device at its boundary, oldest first in `State.out`. -/
inductive Output where
  | msix (fn : Nat) (vec : Nat)
  /-- n bits of transmit lane k of port p, bit 0 first, as they stand on the balls (R77, R94, R95). -/
  | lane (p : Fin 32) (k : Fin 4) (n : Nat) (bits : Nat)
  /-- A frame with its FCS, and the lanes inverted by TX_INV. -/
  | frame (p : Fin 32) (octets : List Octet) (inv : BitVec 4)
  | pulse (width : Nat)
  /-- The read of a submission entry, a completion, and a receive entry, at a host address and with a PASID (R398, R405). -/
  | entryRead (qp : Qp) (addr : BitVec 64) (pasid : Option (BitVec 20))
  | completion (qp : Qp) (addr : BitVec 64) (pasid : Option (BitVec 20)) (entry : BitVec 128)
  | rqEntry (qp : Qp) (addr : BitVec 64) (pasid : Option (BitVec 20)) (entry : BitVec 512)
  /-- A host write of a DMA-RD, with the PASID of its entry. -/
  | hostWrite (qp : Qp) (addr : BitVec 64) (pasid : Option (BitVec 20)) (units : List (BitVec 16))
  | errFatal
  | completerAbort
  deriving DecidableEq, Repr

/-- The machine. -/
structure State where
  /-- Commands that wait, first in, first out. -/
  pending : List Instr := []
  /-- Tick counter (R37), the quarter of the tick, the CCLK copy of the counter (R25), and the cycle counts of the other domains. -/
  tick : Tick := 0
  quarter : Nat := 0
  copy : Tick := 0
  cclk : Nat := 0
  hclk : Nat := 0
  uclk : Nat := 0
  /-- Count at the last strobe of each kind, in the clock of its period. -/
  bucketAt : Nat := 0
  ageingAt : Nat := 0
  leaseAt : Nat := 0
  thermalAt : Nat := 0
  /-- The model's own counter of free values and choices. -/
  free : Nat := 0
  /-- The model's own counter of packet, output and store numbers. -/
  nextId : Nat := 0
  csr : SMap Pair := []
  page : SMap Pair := []
  /-- What the last register read returned: 32 bits (R7), or 64 of a function page's MSI-X table (R396). -/
  readData : BitVec 64 := 0
  epc : Epc := {}
  ports : SMap Port := []
  pkts : List (Nat × Pkt) := []
  eouts : List (Nat × EOut) := []
  prs : SMap Prs := []
  fwd : SMap Fwd := []
  dsp : SMap Dsp := []
  threads : SMap Thread := []
  cores : SMap Core := []
  imem : SMap Pair := []
  /-- Words of core scratch, cluster shared memory and wave buffers, by word address. -/
  mem : SMap Word := []
  poison : SMap Bool := []
  chans : SMap Chan := []
  units : SMap CopUnit := []
  offers : List Offer := []
  rings : SMap Ring := []
  sems : SMap Sem := []
  /-- The operation of Umbra that waits at its group (R318, R323). -/
  umbraSem : Option (SemOp × Fin 4096) := none
  /-- A CCLK, and the semaphore groups that execute no further operation in it (R323). -/
  semDone : Nat × List Nat := (0, [])
  lines : SMap Line := []
  exts : SMap Extent := []
  dchans : SMap DChan := []
  wipe : Option Wipe := none
  slices : SMap Slice := []
  slcCmd : Option SlcCmd := none
  qps : SMap QpState := []
  /-- MSI-X vectors by 32 * function + vector: mask bit cleared; message pending (PBA). -/
  unmasked : SMap Bool := []
  /-- Address and data of the MSI-X table, by 96 * function + 3 * vector + dword (R396). -/
  vectors : SMap (BitVec 32) := []
  pba : SMap Bool := []
  /-- Functions in D3hot (R395). -/
  d3 : SMap Bool := []
  power : Power := {}
  boot : Boot := {}
  pins : Pins := {}
  errSeq : Pair := 0
  /-- The CCLK of the last error record and the number of the first record of that CCLK (R448); the CCLK of the last vector 29
  (R406). -/
  errAt : Nat × Nat := (0, 0)
  alertAt : Option Nat := none
  fatal : Nat := 0
  savedExts : SMap Extent := []
  /-- Ports whose HALT flit of the fatal path has still to leave (R453). -/
  halts : List (Fin 32) := []
  /-- Dispatch commands committed on DISPATCH channels, by thread. -/
  dcmds : List (Fin 1024 × List Word) := []
  out : List Output := []
  deriving DecidableEq, Repr

/-- The machine right after the release of POR_N on a device whose fuses are blank: every register at its
reset value, every table empty, the tick counter at 0 (R37, R35, R71, R102, R131, R160, R184, R270, R290,
R307, R324, R359, R394, R411, R412, R425, R444, R458). -/
def State.reset : State := {}

end Sys2Proof.Machine
end

