-- ==== Sys2Proof/Machine/RegMap.lean ====
section
/-! DEFINITION. RegMap.lean: the register map of PF BAR0 and of a function page (R34, R35, R71, R102, R131,
R160, R184, R211, R270, R290, R307, R324, R359, R394, R411, R412, R425, R444, R458, Table 19.7): for each byte
offset the bits that each access code of Table 0.5 covers and the value at reset. A bit that no code covers is
RO, WO or reserved: a write of software leaves it (R8, R9). -/

namespace Sys2Proof.Machine

/-- A register: bits by access code, and its reset value. -/
structure Info where
  rw : Pair := 0
  w1c : Pair := 0
  rwl : Pair := 0
  rc : Pair := 0
  reset : Pair := 0
  deriving DecidableEq, Repr

/-- The mask of bits [hi:lo]. -/
def bits (hi lo : Nat) : Pair := BitVec.ofNat 28 (2 ^ (hi + 1) - 2 ^ lo)

/-- Registers in a list of (offset, register). -/
def look (o : Nat) : List (Nat × Info) → Info
  | [] => {}
  | (k, i) :: l => if k = o then i else look o l

/-- A plain RC counter of 28 bits. -/
def rc28 : Info := { rc := bits 27 0 }
/-- A plain RW register of n bits that resets to 0. -/
def rwN (n : Nat) : Info := { rw := bits (n - 1) 0 }

/-- GEN (Tables 1.8 to 1.12, 19.7). -/
def genInfo (o : Nat) : Info := look o
  [(0x0, { reset := 0x5A71440 }), (0x4, { reset := 0x10 }), (0xC, { rwl := 0x10 }), (0x10, { rwl := 1 })]

/-- Per-port registers of EPC (Table 2.7). -/
def epcPortInfo (o : Nat) : Info := look o
  [(0x0, { rw := bits 4 0 ||| bits 27 12 }), (0x4, rwN 15), (0xC, rwN 16), (0x10, rwN 16)]

/-- EPC (Tables 2.4 to 2.8); `o` is relative to 0x010_0000. -/
def epcInfo (o : Nat) : Info :=
  if 0x100 ≤ o ∧ o < 0x140 ∧ o % 4 = 0 then { rw := bits 27 27 ||| bits 24 0 }
  else if 0x1000 ≤ o ∧ o < 0x1400 then epcPortInfo ((o - 0x1000) % 0x20)
  else look o
  [(0x0, { rw := 1 }), (0x4, { rw := bits 14 0, reset := 800 }), (0x8, { reset := 800 }),
   (0x14, rwN 28), (0x18, rwN 28), (0x20, { w1c := 4 }), (0x24, rwN 28),
   (0x28, { rw := bits 26 0, reset := 0xA0028 }), (0x40, rwN 8), (0x44, { rw := bits 22 0, reset := 0x20190 }),
   (0x48, { rw := bits 27 0, reset := 200 }), (0x4C, rwN 16), (0x50, rwN 16),
   (0x60, { w1c := 0x41 }), (0x8C, rc28)]

/-- LNK (Tables 3.10, 3.11); `o` is relative to the block of a quadrant. -/
def lnkInfo (o : Nat) : Info :=
  if o = 0x80000 then { rwl := 1 }
  else if o < 0x80000 then look (o % 0x10000)
    [(0x0, { rw := bits 0 0 ||| bits 13 6, rwl := bits 5 1, reset := 0x20 }), (0x4, { w1c := 0x2000 }),
     (0xC, { rw := bits 15 0, reset := 0x812C }), (0x10, rwN 14), (0x14, { rw := bits 11 0, reset := 1522 }),
     (0x20, { rw := bits 14 0, reset := 0x2302 }), (0x24, { rw := bits 14 0, reset := 0x2302 }),
     (0x28, { rw := bits 14 0, reset := 0x2302 }), (0x2C, { rw := bits 14 0, reset := 0x2302 })]
  else {}

/-- PRS (Tables 4.7, 4.8, 4.2, 4.5); `o` is relative to the block of a quadrant. -/
def prsInfo (o : Nat) : Info :=
  if o % 4 ≠ 0 then {}
  else if 0x40 ≤ o ∧ o < 0x70 then rwN 16
  else if 0x80 ≤ o ∧ o < 0xB0 then rwN 16
  else if 0x200 ≤ o ∧ o < 0x220 then { rw := bits 14 0 ||| bits 27 27, reset := 0x6000 }
  else if 0x240 ≤ o ∧ o < 0x280 then { rw := bits 25 0 ||| bits 27 27 }
  else if 0x280 ≤ o ∧ o < 0x2A0 then { rw := bits 13 0 ||| bits 27 27 }
  else if 0x300 ≤ o ∧ o < 0x380 then look (o % 0x10) [(0x0, rwN 7), (0x4, rwN 28), (0x8, rwN 28), (0xC, rwN 8)]
  else if 0x800 ≤ o ∧ o < 0xA00 then rwN 16
  else if 0xA04 ≤ o ∧ o ≤ 0xA34 then { rw := bits 23 0, reset := 0x40010 }
  else if 0xA44 ≤ o ∧ o ≤ 0xA74 then rwN 12
  else if 0xA84 ≤ o ∧ o ≤ 0xAB4 then rc28
  else if 0xAC4 ≤ o ∧ o ≤ 0xAF4 then rc28
  else look o
  [(0x0, rwN 2), (0x4, rwN 28), (0x8, { w1c := 0x10, reset := 1 }), (0x10, rwN 15),
   (0x18, { rw := bits 14 0 ||| bits 27 27 }), (0x1C, rwN 15), (0x20, rwN 28), (0x24, rwN 18),
   (0x100, rwN 28), (0x104, rwN 28), (0x108, rwN 11),
   (0xB00, rc28), (0xB04, rc28), (0xB08, rc28), (0xB0C, rc28)]

/-- FWD (Tables 5.5, 5.6); `o` is relative to the block of a quadrant. -/
def fwdInfo (o : Nat) : Info :=
  if o % 4 ≠ 0 then {}
  else if 0x100 ≤ o ∧ o < 0x140 then if o % 8 = 0 then { rw := bits 17 0, reset := 0x30000 } else {}
  else if 0x200 ≤ o ∧ o < 0x300 then rwN 7
  else if 0x300 ≤ o ∧ o < 0x338 then rc28
  else look o
  [(0x0, rwN 19), (0x4, { w1c := 0x20 }), (0x8, rwN 19), (0xC, rwN 24), (0x10, rwN 24),
   (0x14, { rw := bits 22 0 ||| bits 27 27 }), (0x20, { rw := bits 15 0, reset := 0xFFFF }),
   (0x24, { rw := bits 15 0, reset := 0xFFFF }), (0x28, rwN 15), (0x30, { w1c := bits 24 24 }),
   (0x4C, { rc := bits 12 0 }), (0x50, { w1c := bits 10 10, rc := bits 27 12 }),
   (0x54, { rw := bits 12 0, reset := 8 })]

/-- DSP (Tables 6.8, 6.9); `o` is relative to the block of a quadrant. -/
def dspInfo (o : Nat) : Info :=
  if o % 4 ≠ 0 then {}
  else if 0x20 ≤ o ∧ o < 0x38 then rwN 28
  else if 0x100 ≤ o ∧ o < 0x300 then if o % 8 = 0 then rwN 26 else {}
  else if 0x300 ≤ o ∧ o < 0x328 then rc28
  else look o
  [(0x0, { rw := bits 14 0, reset := 4000 }), (0x8, rwN 18), (0xC, { w1c := 0x20 }), (0x40, rwN 12)]

/-- LUM (Tables 7.10, 9.7, 9.8); `o` is relative to 0x140_0000. -/
def lumInfo (o : Nat) : Info :=
  if 0x1000 ≤ o ∧ o < 0x1800 ∧ o % 4 = 0 then rwN 7
  else look o
  [(0x0, { reset := 0x3FF1 }), (0x4, { reset := 0x7F }), (0x8, { reset := 0x5C3A0B3 }), (0xC, { reset := 0x84880 }),
   (0x100, rwN 18), (0x108, { w1c := bits 14 14 ||| bits 17 17 }), (0x114, rwN 28), (0x2000, rc28), (0x2004, rc28)]

/-- COP units (Tables 10.9, 10.10) and trace rings (Tables 11.4, 11.5); `o` is relative to 0x180_0000. -/
def copInfo (o : Nat) : Info :=
  if o < 0x20000 then
    if o / 0x1000 % 4 < 3 then look (o % 0x1000) [(0x20, rc28), (0x24, rc28), (0x28, rc28), (0x2C, rc28), (0x30, rc28)]
    else {}
  else if 0x200000 ≤ o ∧ o < 0x210000 then look (o % 0x100)
    [(0x0, { rw := bits 27 0, reset := 0x1800 }), (0x4, rwN 28), (0x8, rwN 8), (0x10, rwN 27),
     (0x14, { reset := 1 }), (0x18, rwN 28), (0x1C, rwN 14), (0x20, rwN 28), (0x24, rwN 14), (0x28, rwN 28),
     (0x2C, rwN 28), (0x30, rwN 14), (0x34, rwN 28), (0x3C, { w1c := bits 4 3 }),
     (0x44, rc28), (0x48, rc28), (0x4C, rc28), (0x50, rc28)]
  else {}

/-- ATM (Tables 12.4, 12.5); `o` is relative to 0x1C0_0000. -/
def atmInfo (o : Nat) : Info :=
  if 0x100 ≤ o ∧ o < 0x200 then
    look (o % 0x10) [(0x0, rwN 16), (0x4, { rw := bits 27 1, reset := 1 }), (0x8, rwN 28), (0xC, rwN 8)]
  else look o [(0x4, rwN 12), (0x200, rc28), (0x204, rc28), (0x208, rc28), (0x20C, rc28)]

/-- Reset value of MEM.PORT_CFG[p] (Table 13.4). -/
def memPortReset (p : Nat) : Pair := BitVec.ofNat 28 (match p with
  | 0 => 15 + 0x4000 * 20 + 0x200000
  | 1 => 40 + 0x4000 * 25 + 0x200000
  | 2 => 30 + 0x1000 + 0x4000 * 10
  | 3 => 50 + 0x1000
  | 4 => 100 + 0x2000 + 0x4000 * 5
  | 5 => 200 + 0x3000
  | 6 => 1000 + 0x3000
  | _ => 200 + 0x2000)

/-- MEM (Tables 13.9, 13.10); `k` is the channel, `o` relative to its copy. -/
def memInfo (k o : Nat) : Info :=
  if o % 4 ≠ 0 then {}
  else if 0x20 ≤ o ∧ o < 0x40 then { rw := bits 20 0, reset := memPortReset ((o - 0x20) / 4) }
  else if 0x80 ≤ o ∧ o < 0xA4 then rc28
  else if 0x3F000 ≤ o then
    if k = 0 then look (o - 0x3F000)
      [(0x0, { rw := bits 23 0, reset := 0x2864C8 }), (0x4, rwN 28), (0x8, rwN 28), (0xC, rwN 8),
       (0x10, rwN 28), (0x14, rwN 28), (0x18, rwN 8), (0x20, rwN 20), (0x28, rwN 12)]
    else {}
  else look o
  [(0x0, { rwl := 1 }), (0x4, { w1c := 0x10 }), (0xC, { rw := bits 8 1, reset := 0x30 }),
   (0x14, { rwl := bits 2 0, reset := 4 }), (0x1C, { w1c := bits 19 18 }),
   (0x40, { rwl := bits 16 0, reset := 0x8400 }), (0x44, rwN 23), (0x4C, rwN 12),
   (0x60, { rw := bits 7 0, reset := 24 }), (0x6C, { w1c := 1 })]

/-- SLC registers of slice `s` (Tables 14.9, 14.10); `o` is relative to them. -/
def slcSliceInfo (s o : Nat) : Info :=
  if 0x40 ≤ o ∧ o < 0xC0 then look (o % 0x10)
    [(0x0, { rw := bits 21 0, reset := if s = 0 then 0x200002 else 0 }),
     (0x4, { rw := bits 16 0, reset := if s = 0 then 0x10000 else 0 }),
     (0x8, { rw := bits 15 0, reset := if s = 0 then 0x20 else 0 }), (0xC, { reset := if s = 0 then 2 else 0 })]
  else look o
  [(0x4, rwN 1), (0x8, rc28), (0x10, rwN 21), (0x14, rwN 21), (0x18, rwN 21), (0x1C, rwN 21)]

/-- SLC (Tables 14.9, 14.10); `o` is relative to 0x240_0000. -/
def slcInfo (o : Nat) : Info :=
  if 0x1000 ≤ o ∧ o < 0x5000 then slcSliceInfo ((o - 0x1000) / 0x100) (o % 0x100)
  else look o
  [(0x0, rwN 25), (0x4, { w1c := 0x20 }), (0x8, rwN 28), (0xC, rwN 28), (0x10, rwN 8), (0x14, rwN 28), (0x18, rwN 28),
   (0x1C, { rw := bits 19 0, reset := 0x19064 }), (0x20, { w1c := 1 }),
   (0x30, { w1c := bits 27 0 }), (0x34, { w1c := bits 27 0 }), (0x38, { w1c := bits 7 0 }),
   (0x40, { w1c := bits 27 0 }), (0x44, { w1c := bits 27 0 }), (0x48, { w1c := bits 7 0 })]

/-- HST (Table 15.9); `o` is relative to 0x280_0000. -/
def hstInfo (o : Nat) : Info := look o
  [(0x8, rwN 6), (0x10, rc28), (0x14, rc28), (0x18, rc28), (0x1C, rc28), (0x20, rc28), (0x24, rc28), (0x28, rc28)]

/-- UMB power (Table 16.7); `o` is relative to 0x2C0_0000. -/
def pwrInfo (o : Nat) : Info :=
  if o % 4 ≠ 0 then {}
  else if 0x140 ≤ o ∧ o < 0x17C then { rw := bits 13 5, reset := 0x18 }
  else if 0x180 ≤ o ∧ o < 0x1BC then { w1c := bits 13 0 }
  else if 0x1C0 ≤ o ∧ o < 0x1FC then { rc := bits 15 0 }
  else look o
  [(0x0, { rwl := bits 1 0 }), (0x4, rwN 7), (0x8, { w1c := 2 }), (0x200, { reset := 1 }), (0x208, { reset := 1 }),
   (0x210, rwN 24), (0x214, rwN 8), (0x220, rwN 3), (0x224, { rwl := bits 15 8, w1c := bits 16 16, reset := 0x5F00 }),
   (0x228, { rc := bits 19 4 }), (0x230, { w1c := bits 16 16 })]

/-- UMB security (Table 17.8); `o` is relative to 0x2E0_0000. -/
def secInfo (o : Nat) : Info :=
  if 0x100 ≤ o ∧ o < 0x14C ∧ o % 4 = 0 then rwN 28
  else look o
  [(0x8, rwN 3), (0xC, rwN 2), (0x10, rwN 7), (0x14, rwN 2), (0x20, rwN 19), (0x24, rwN 28), (0x28, rwN 8),
   (0x2C, { w1c := 0x20 }), (0x80, rwN 7)]

/-- ERR (Table 18.7); `o` is relative to 0x340_0000. -/
def errInfo (o : Nat) : Info := look o
  [(0x0, { w1c := bits 10 9 }), (0x4, { rw := bits 10 0, reset := 0x601 }), (0xC, rwN 9), (0x10, rwN 9), (0x14, rc28),
   (0x18, rwN 17), (0x20, rwN 28), (0x24, rwN 28), (0x28, rwN 28), (0x2C, rwN 28),
   (0x30, { rwl := bits 9 0 ||| bits 11 11, reset := 100 })]

/-- The register at a byte offset of BAR0 (Table 1.7); a hole or a reserved range has no bits (R8, R34). -/
def regInfo (o : Nat) : Info :=
  if o % 4 ≠ 0 then {}
  else if o < 0x100000 then genInfo o
  else if o < 0x400000 then epcInfo (o - 0x100000)
  else if o < 0x800000 then lnkInfo (o % 0x100000)
  else if o < 0xC00000 then prsInfo (o % 0x100000)
  else if o < 0x1000000 then fwdInfo (o % 0x100000)
  else if o < 0x1400000 then dspInfo (o % 0x100000)
  else if o < 0x1800000 then lumInfo (o - 0x1400000)
  else if o < 0x1C00000 then copInfo (o - 0x1800000)
  else if o < 0x2000000 then atmInfo (o - 0x1C00000)
  else if o < 0x2400000 then memInfo ((o - 0x2000000) / 0x40000) (o % 0x40000)
  else if o < 0x2800000 then slcInfo (o - 0x2400000)
  else if o < 0x2C00000 then hstInfo (o - 0x2800000)
  else if o < 0x2E00000 then pwrInfo (o - 0x2C00000)
  else if o < 0x3000000 then secInfo (o - 0x2E00000)
  else if 0x3400000 ≤ o ∧ o < 0x3800000 then errInfo (o - 0x3400000)
  else {}

/-- The register and bit that lock the RWL fields of the register at `o` (R9, R35, R102, R359, R425, R458). -/
def lockBit (o : Nat) : Nat × Nat :=
  if o < 0x100000 then (0x10, 0)
  else if o < 0x800000 then (o / 0x100000 * 0x100000 + 0x80000, 0)
  else if o < 0x2400000 then ((o / 0x40000) * 0x40000, 0)
  else if o < 0x2E00000 then (0x2C00000, 1)
  else (0x3400030, 11)

/-- A register of a function page (Tables 15.2, 15.8); `o` is relative to the page. -/
def pageInfo (o : Nat) : Info :=
  if o < 0x200 then look (o % 0x40)
    [(0x0, { rw := bits 12 0, reset := 0x888 }), (0x4, rwN 28), (0x8, rwN 24), (0xC, rwN 28), (0x10, rwN 24),
     (0x14, rwN 28), (0x18, rwN 24), (0x1C, rwN 21), (0x20, { w1c := bits 3 2 }), (0x24, { reset := 0x4001000 })]
  else if o = 0x2004 then { w1c := bits 5 0 }
  else if 0x8000 ≤ o ∧ o < 0x8200 ∧ o % 4 = 0 then if o % 16 = 12 then {} else rwN 28
  else {}

end Sys2Proof.Machine
end

