-- ==== Sys2Proof/Machine/Ops.lean ====
section
/-! DEFINITION. Ops.lean: the named operations over State that every command uses: bit fields, the CSR store,
typed tables, device choices, free values, outputs, MSI-X, function events and the error log. -/

namespace Sys2Proof.Machine

/-- The outcome type of a meaning. -/
abbrev Out := Host.Outcome State Fault Refusal

/-! ## Bit fields -/

/-- Bits [hi:lo] as a number. -/
def ext {w : Nat} (v : BitVec w) (hi lo : Nat) : Nat := v.toNat / 2 ^ lo % 2 ^ (hi + 1 - lo)

/-- Bit i. -/
def bit {w : Nat} (v : BitVec w) (i : Nat) : Bool := v.getLsbD i

/-- Replace bits [hi:lo] by the number `n`. -/
def ins {w : Nat} (v : BitVec w) (hi lo n : Nat) : BitVec w :=
  (v &&& ~~~ (BitVec.ofNat w (2 ^ (hi + 1) - 2 ^ lo))) ||| BitVec.ofNat w (n % 2 ^ (hi + 1 - lo) * 2 ^ lo)

/-- 1 for true. -/
def b2n (b : Bool) : Nat := if b then 1 else 0

/-- The pair of two words (R2). -/
def pairOf (lo hi : Word) : Pair := hi ++ lo

/-- Low and high word of a pair (R2). -/
def loW (p : Pair) : Word := p.extractLsb' 0 14
def hiW (p : Pair) : Word := p.extractLsb' 14 14

/-- Low 28 bits of a 56-bit number, and the high 28. -/
def lo28 (x : BitVec 56) : Pair := x.extractLsb' 0 28
def hi28 (x : BitVec 56) : Pair := x.extractLsb' 28 28

/-! ## The CSR store -/

/-- What the register at byte offset `o` of BAR0 holds. -/
def State.reg (s : State) (o : Nat) : Pair := SMap.get (regInfo o).reset s.csr o

/-- Put `v` into the register at `o`, whatever its access codes (the device's own write). -/
def State.setReg (s : State) (o : Nat) (v : Pair) : State :=
  { s with csr := SMap.set (regInfo o).reset s.csr o v }

/-- A field: offset, highest and lowest bit. -/
structure Fld where
  off : Nat
  hi : Nat
  lo : Nat
  deriving DecidableEq, Repr

def State.fld (s : State) (f : Fld) : Nat := ext (s.reg f.off) f.hi f.lo
def State.setFld (s : State) (f : Fld) (n : Nat) : State := s.setReg f.off (ins (s.reg f.off) f.hi f.lo n)

/-- Add `n` to a counter field, saturating. -/
def State.bumpFld (s : State) (f : Fld) (n : Nat) : State :=
  s.setFld f (min (s.fld f + n) (2 ^ (f.hi + 1 - f.lo) - 1))

/-- Add 1 to a 28-bit counter, saturating. -/
def State.count (s : State) (o : Nat) : State := s.bumpFld ⟨o, 27, 0⟩ 1

/-- A register of a function page (R396), by function and offset in the page. -/
def State.pageReg (s : State) (fn o : Nat) : Pair := SMap.get (pageInfo o).reset s.page (fn * 0x10000 + o)
def State.setPageReg (s : State) (fn o : Nat) (v : Pair) : State :=
  { s with page := SMap.set (pageInfo o).reset s.page (fn * 0x10000 + o) v }
def State.pageFld (s : State) (fn : Nat) (f : Fld) : Nat := ext (s.pageReg fn f.off) f.hi f.lo
def State.setPageFld (s : State) (fn : Nat) (f : Fld) (n : Nat) : State :=
  s.setPageReg fn f.off (ins (s.pageReg fn f.off) f.hi f.lo n)

/-! ## Typed tables -/

def State.thread (s : State) (t : Nat) : Thread := SMap.get {} s.threads t
def State.modThread (s : State) (t : Nat) (f : Thread → Thread) : State :=
  { s with threads := SMap.modify {} s.threads t f }
def State.port (s : State) (p : Nat) : Port := SMap.get {} s.ports p
def State.modPort (s : State) (p : Nat) (f : Port → Port) : State := { s with ports := SMap.modify {} s.ports p f }
def State.eport (s : State) (p : Nat) : EPort := SMap.get {} s.epc.ports p
def State.modEpc (s : State) (f : Epc → Epc) : State := { s with epc := f s.epc }
def State.modEPort (s : State) (p : Nat) (f : EPort → EPort) : State :=
  s.modEpc fun e => { e with ports := SMap.modify {} e.ports p f }
def State.prsQ (s : State) (q : Nat) : Prs := SMap.get {} s.prs q
def State.modPrs (s : State) (q : Nat) (f : Prs → Prs) : State := { s with prs := SMap.modify {} s.prs q f }
def State.fwdQ (s : State) (q : Nat) : Fwd := SMap.get {} s.fwd q
def State.modFwd (s : State) (q : Nat) (f : Fwd → Fwd) : State := { s with fwd := SMap.modify {} s.fwd q f }
def State.dspQ (s : State) (q : Nat) : Dsp := SMap.get {} s.dsp q
def State.modDsp (s : State) (q : Nat) (f : Dsp → Dsp) : State := { s with dsp := SMap.modify {} s.dsp q f }
def State.slot (s : State) (q i : Nat) : Slot := SMap.get {} (s.dspQ q).slots i
def State.modSlot (s : State) (q i : Nat) (f : Slot → Slot) : State :=
  s.modDsp q fun d => { d with slots := SMap.modify {} d.slots i f }
def State.chan (s : State) (c : Nat) : Chan := SMap.get {} s.chans c
def State.modChan (s : State) (c : Nat) (f : Chan → Chan) : State := { s with chans := SMap.modify {} s.chans c f }
/-- Unit u of cluster c has number 4c + u. -/
def State.unit (s : State) (n : Nat) : CopUnit := SMap.get {} s.units n
def State.modUnit (s : State) (n : Nat) (f : CopUnit → CopUnit) : State := { s with units := SMap.modify {} s.units n f }
def State.ring (s : State) (r : Nat) : Ring := SMap.get {} s.rings r
def State.modRing (s : State) (r : Nat) (f : Ring → Ring) : State := { s with rings := SMap.modify {} s.rings r f }
def State.sem (s : State) (i : Nat) : Sem := SMap.get {} s.sems i
def State.modSem (s : State) (i : Nat) (f : Sem → Sem) : State := { s with sems := SMap.modify {} s.sems i f }
def State.extent (s : State) (x : Nat) : Extent := SMap.get {} s.exts x
/-- A line that no write has reached since its wipe (R358); an extent that the map does not have is that of the copy of the fatal path,
whose tags the modules hold (R455). -/
def State.wiped (s : State) (l : Nat) : Line :=
  { slice := if (s.extent (l / 2 ^ 24)).valid then (s.extent (l / 2 ^ 24)).tagOf else (SMap.get {} s.savedExts (l / 2 ^ 24)).tagOf }
def State.line (s : State) (l : Nat) : Line := SMap.get (s.wiped l) s.lines l
def State.modLine (s : State) (l : Nat) (f : Line → Line) : State :=
  { s with lines := SMap.modify (s.wiped l) s.lines l f }
/-- The lines in their canonical form, after a change of what an unlisted line holds. -/
def State.tidyLines (s : State) : State := { s with lines := s.lines.filter fun x => !decide (x.2 = s.wiped x.1) }
def State.modExtent (s : State) (x : Nat) (f : Extent → Extent) : State := { s with exts := SMap.modify {} s.exts x f }
def State.dchan (s : State) (k : Nat) : DChan := SMap.get {} s.dchans k
def State.modDchan (s : State) (k : Nat) (f : DChan → DChan) : State := { s with dchans := SMap.modify {} s.dchans k f }
def State.qp (s : State) (n : Nat) : QpState := SMap.get {} s.qps n
def State.modQp (s : State) (n : Nat) (f : QpState → QpState) : State := { s with qps := SMap.modify {} s.qps n f }

/-- Slice 0 is ACTIVE at reset, the others FREE (R363). -/
def sliceReset (i : Nat) : Slice := if i = 0 then { state := 1 } else {}
def State.slice (s : State) (i : Nat) : Slice := SMap.get (sliceReset i) s.slices i
def State.modSlice (s : State) (i : Nat) (f : Slice → Slice) : State :=
  { s with slices := SMap.modify (sliceReset i) s.slices i f }

/-- Slice 0 holds two cores of every cluster at reset (R363); which two is DESIGN CHOICE, notes/assumptions/6.md. -/
def coreReset (n : Nat) : Core := if n % 16 < 2 then { slice := some 0 } else {}
def State.core (s : State) (n : Nat) : Core := SMap.get (coreReset n) s.cores n
def State.modCore (s : State) (n : Nat) (f : Core → Core) : State :=
  { s with cores := SMap.modify (coreReset n) s.cores n f }

def State.pkt? (s : State) (k : Nat) : Option Pkt := SMap.find? s.pkts k
def State.setPkt (s : State) (k : Nat) (p : Pkt) : State := { s with pkts := SMap.put k p s.pkts }
def State.delPkt (s : State) (k : Nat) : State := { s with pkts := SMap.del k s.pkts }
def State.modPkt (s : State) (k : Nat) (f : Pkt → Pkt) : State :=
  match s.pkt? k with
  | some p => s.setPkt k (f p)
  | none => s
def State.eout? (s : State) (o : Nat) : Option EOut := SMap.find? s.eouts o
def State.setEOut (s : State) (o : Nat) (e : EOut) : State := { s with eouts := SMap.put o e s.eouts }
def State.delEOut (s : State) (o : Nat) : State := { s with eouts := SMap.del o s.eouts }

/-! ## Choices, free values, numbers, outputs -/

/-- The next choice of the device (Config.choice), as a number below `n` when `n` is positive. -/
def State.choose (s : State) (n : Nat) : Nat × State :=
  (Config.choice s.free % max n 1, { s with free := s.free + 1 })

/-- The device's choice among the members of a list; a list of one is no choice. -/
def State.pick {α : Type} (s : State) : List α → Option α × State
  | [] => (none, s)
  | [a] => (some a, s)
  | a :: b :: l => ((a :: b :: l)[(s.choose (l.length + 2)).1]?, (s.choose (l.length + 2)).2)

/-- A value the spec does not give. -/
def State.freshVal (s : State) : BitVec 64 × State := (Config.freeValue s.free, { s with free := s.free + 1 })

/-- The MCLK copy of the tick counter at a DRAM channel: equal to it or one tick behind (R25). -/
def State.mclkCopy (s : State) : Tick × State :=
  (s.tick - BitVec.ofNat 56 (min (s.choose 2).1 s.tick.toNat), (s.choose 2).2)

/-- A new number of the model's own. -/
def State.newId (s : State) : Nat × State := (s.nextId, { s with nextId := s.nextId + 1 })

def State.emit (s : State) (o : Output) : State := { s with out := s.out ++ [o] }

/-- A rotating priority pointer over `n` places that advances by one every CCLK (R105, R172, R253, R272, R297,
R323); `k` names the arbiter. -/
def State.pointer (s : State) (k n : Nat) : Nat := (Config.pointerPhase k + s.cclk) % max n 1

/-- The first member at or after the pointer, in rotation order over `n` places. -/
def rotPick (ptr n : Nat) (ok : Nat → Bool) : Option Nat :=
  ((List.range n).map fun i => (ptr + i) % n).find? ok

/-! ## MSI-X and function events: R406 -/

/-- Send MSI-X vector `v` of function `fn`; a masked vector becomes pending. -/
def State.msix (s : State) (fn v : Nat) : State :=
  if SMap.get false s.unmasked (fn * 32 + v) then s.emit (.msix fn v)
  else { s with pba := SMap.set false s.pba (fn * 32 + v) true }

/-- Set bit `b` of FN_EVENT; a change from 0 to 1 sends vector 16 + b. -/
def State.fnEvent (s : State) (fn b : Nat) : State :=
  if bit (s.pageReg fn 0x2004) b then s
  else (s.setPageFld fn ⟨0x2004, b, b⟩ 1).msix fn (16 + b)

/-! ## Power domains and their clock -/

/-- The state of power domain d (Tables 16.1, 16.2). -/
def State.dom (s : State) (d : Nat) : Nat := s.fld ⟨0x2C00100 + 4 * d, 2, 0⟩
/-- CCLK runs in domain d: no state other than ON clocks it, and REFCLK_SYS is there (R414, R468). -/
def State.clocked (s : State) (d : Nat) : Bool := decide (s.dom d = 0) && !s.pins.cclkLost
/-- CCLK runs in the quadrant of port p. -/
def State.portClocked (s : State) (p : Nat) : Bool := s.clocked (3 + p / 8)

/-! ## The error log: R445 to R449 -/

def errStatus : Nat := 0x3400000
def errCfg : Nat := 0x3400004
def errWr : Nat := 0x3400008
def errHostRd : Nat := 0x340000C
def errUmbRd : Nat := 0x3400010
def errLost : Nat := 0x3400014
/-- Pair k of log entry i. -/
def errLog (i k : Nat) : Nat := 0x3401000 + 0x20 * i + 4 * k

/-- An error to report. `slice` none: SLICE_VALID 0; master: MKIND and MID (Table 18.2). -/
structure ErrEvent where
  src : Nat
  code : Nat
  cls : Nat
  unit : Nat := 0
  slice : Option Nat := none
  mkind : Nat := 0
  mid : Nat := 0
  info : List Nat := []
  deriving DecidableEq, Repr

/-- Pair 0 of the record of an event (Table 18.2). -/
def ErrEvent.p0 (e : ErrEvent) : Pair :=
  BitVec.ofNat 28 (e.unit % 256 + 2 ^ 8 * (e.src % 16) + 2 ^ 12 * (e.code % 64) + 2 ^ 18 * b2n e.slice.isSome
    + 2 ^ 19 * (e.slice.getD 0 % 64) + 2 ^ 25 * (e.cls % 4) + 2 ^ 27)

/-- The eight pairs of a record with COUNT 1. -/
def State.errPairs (s : State) (e : ErrEvent) : List Pair :=
  [e.p0, s.errSeq, lo28 s.tick, BitVec.ofNat 28 (1 + 2 ^ 14 * e.mkind + 2 ^ 17 * (e.mid % 1024)),
   BitVec.ofNat 28 (e.info.getD 0 0), BitVec.ofNat 28 (e.info.getD 1 0),
   BitVec.ofNat 28 (e.info.getD 2 0), BitVec.ofNat 28 (e.info.getD 3 0)]

def State.errUnread (s : State) : Nat := (s.fld ⟨errWr, 8, 0⟩ + 512 - s.fld ⟨errHostRd, 8, 0⟩) % 512

/-- An entry is free when every read count that counts has passed it (R447). -/
def State.errFree (s : State) : Bool :=
  decide (s.errUnread < 256) &&
    (decide (s.fld ⟨errCfg, 9, 9⟩ = 0) || decide ((s.fld ⟨errWr, 8, 0⟩ + 512 - s.fld ⟨errUmbRd, 8, 0⟩) % 512 < 256))

/-- The oldest entry the host has not consumed that agrees with `f` (R449). -/
def State.errFind (s : State) (f : Nat → Bool) : Option Nat :=
  ((List.range s.errUnread).map fun j => (s.fld ⟨errHostRd, 8, 0⟩ + j) % 256).find? f

/-- A CORRECTED record of the same SOURCE, CODE and UNIT: no other class is coalesced. -/
def State.errSame (s : State) (e : ErrEvent) (i : Nat) : Bool :=
  decide (ext (s.reg (errLog i 0)) 17 0 = ext e.p0 17 0) && decide (ext (s.reg (errLog i 0)) 26 25 = 0)

/-- Write the eight pairs of a record into entry `i`. -/
def State.errPut (s : State) (i : Nat) : Nat → List Pair → State
  | _, [] => s
  | k, p :: ps => (s.setReg (errLog i k) p).errPut i (k + 1) ps

/-- The cycle of CCLK in which the machine stands, which counts on while CCLK is lost. -/
def State.instant (s : State) : Nat := 4 * s.tick.toNat + s.quarter

/-- SOURCE and UNIT of log entry i as one number, SOURCE before UNIT (Table 18.2). -/
def State.errKey (s : State) (i : Nat) : Nat := ext (s.reg (errLog i 0)) 11 0

/-- Log entries i and j change places; each keeps its SEQ. -/
def State.errSwap (s : State) (i j : Nat) : State :=
  [0, 2, 3, 4, 5, 6, 7].foldl (fun t k => (t.setReg (errLog i k) (s.reg (errLog j k))).setReg (errLog j k) (s.reg (errLog i k))) s

/-- Move record n down among the last `k` records before it, to where SOURCE and UNIT ascend (R448). -/
def State.errSink (s : State) (n : Nat) : Nat → State
  | 0 => s
  | k + 1 =>
    let m := (n + 511) % 512
    if s.errKey (n % 256) < s.errKey (m % 256) then (s.errSwap (m % 256) (n % 256)).errSink m k else s

/-- How many records of this CCLK stand in the log before record n, which the host has not consumed (R448). -/
def State.errPeers (s : State) (n : Nat) : Nat :=
  if s.errAt.1 = s.instant then min ((n + 512 - s.errAt.2) % 512) s.errUnread else 0

/-- PF vector 29, once in a CCLK (R406). -/
def State.errVector (s : State) : State :=
  if s.alertAt = some s.instant then s else { s.msix 0 29 with alertAt := some s.instant }

/-- Notifications of a written record (Table 18.1, R406); `rose` when UNREAD has reached THRESH from below. -/
def State.errNotify (s : State) (e : ErrEvent) (rose : Bool) : State :=
  let s := if e.cls = 1 then s.fnEvent (e.slice.getD 0) 4 else s
  let s := if e.cls = 2 ∧ s.fld ⟨errCfg, 10, 10⟩ = 1 then s.setFld ⟨errStatus, 10, 10⟩ 1 else s
  if e.cls = 2 ∨ rose then s.errVector else s

/-- Write a new record, or count it lost (R447). The records of one CCLK stand in ascending SOURCE, then UNIT (R448). -/
def State.errWrite (s : State) (e : ErrEvent) : State :=
  if s.errFree then
    let before := s.errUnread
    let n := s.fld ⟨errWr, 8, 0⟩
    let t := (s.errPut (n % 256) 0 (s.errPairs e)).setFld ⟨errWr, 8, 0⟩ ((n + 1) % 512)
    let t := { t.errSink n (s.errPeers n) with errSeq := t.errSeq + 1, errAt := if s.errAt.1 = s.instant then s.errAt else (s.instant, n) }
    let th := t.fld ⟨errCfg, 8, 0⟩
    t.errNotify e (decide (before < th) && decide (th ≤ t.errUnread))
  else
    let t := s.setFld ⟨errStatus, 9, 9⟩ 1
    if e.cls = 0 then t.bumpFld ⟨errLost, 13, 0⟩ 1 else t.bumpFld ⟨errLost, 27, 14⟩ 1

/-- Report an error: a CORRECTED one is coalesced with a record the host has not consumed (R449). -/
def State.err (s : State) (e : ErrEvent) : State :=
  match (if e.cls = 0 then s.errFind (s.errSame e) else none) with
  | some i => s.bumpFld ⟨errLog i 3, 13, 0⟩ 1
  | none => s.errWrite e

/-! ## GEN -/

def genMode : Nat := 0xC
/-- GEN.MODE.STATE (R36): 0 BOOT, 1 TRAINING, 2 READY, 3 RUNNING, 4 HALTED, 5 FATAL. -/
def State.gen (s : State) : Nat := s.fld ⟨genMode, 2, 0⟩
def State.setGen (s : State) (n : Nat) : State := s.setFld ⟨genMode, 2, 0⟩ n

/-! ## Life-cycle fuses: R426, R442 -/

/-- The life-cycle code (Table 17.5): the latest state whose STARTED fuse is blown, or BLANK. -/
def Otp.lc (o : Otp) : Nat :=
  if o.started.getLsbD 3 then 4 else if o.started.getLsbD 2 then 3 else if o.started.getLsbD 1 then 2
  else if o.started.getLsbD 0 then 1 else 0
/-- A wipe is owed (R442). -/
def Otp.wipeOwed (o : Otp) : Bool := decide (0 < o.lc) && !o.wiped.getLsbD (o.lc - 1)
/-- Blow the WIPED fuse of the current state. -/
def Otp.blowWiped (o : Otp) : Otp := if o.lc = 0 then o else { o with wiped := o.wiped ||| BitVec.ofNat 4 (2 ^ (o.lc - 1)) }

/-- The CCLK copy of the tick counter after a cycle: equal to the counter or one tick behind, and never going back (R25). -/
def State.nextCopy (s : State) (now : Tick) : Tick :=
  let c := now - BitVec.ofNat 56 (min (s.choose 2).1 now.toNat)
  if s.pins.cclkLost ∨ 2 ^ 55 ≤ (c - s.copy).toNat then s.copy else c

/-- One period of CCLK, a quarter of a tick (0.625 ns, Table 0.4): CCLK counts unless REFCLK_SYS is lost (R468), TCLK every
fourth period (R37), HCLK five times and UCLK once in eight. -/
def State.cycle (s : State) : State :=
  let n := 4 * s.tick.toNat + s.quarter
  let now := s.tick + (if s.quarter = 3 then 1 else 0)
  { s with
    tick := now
    quarter := (s.quarter + 1) % 4
    copy := s.nextCopy now
    free := s.free + 1
    cclk := s.cclk + (if s.pins.cclkLost then 0 else 1)
    hclk := s.hclk + (5 * (n + 1) / 8 - 5 * n / 8)
    uclk := s.uclk + (if n % 8 = 7 then 1 else 0) }

/-- Run `f` for each member of a list, in order. -/
def State.each {α : Type} (s : State) (l : List α) (f : State → α → State) : State := l.foldl f s

/-- The ticks since `t`. -/
def State.since (s : State) (t : Tick) : Nat := (s.tick - t).toNat

/-- The count at the last strobe of a kind. -/
def State.strobeAt (s : State) : Strobe → Nat
  | .bucket => s.bucketAt
  | .ageing => s.ageingAt
  | .lease => s.leaseAt
  | .thermal => s.thermalAt
def State.setStrobe (s : State) (k : Strobe) (n : Nat) : State :=
  match k with
  | .bucket => { s with bucketAt := n }
  | .ageing => { s with ageingAt := n }
  | .lease => { s with leaseAt := n }
  | .thermal => { s with thermalAt := n }
/-- A strobe with a period, on a clock that stands at `now`: it acts once for each period that has passed. -/
def State.strobe (s : State) (k : Strobe) (period now : Nat) (f : State → State) : State :=
  if s.strobeAt k + period ≤ now then (f s).setStrobe k (s.strobeAt k + period) else s

/-- Keep the state unless the condition holds: a command whose precondition does not hold changes nothing
(notes/assumptions/1.md). -/
def State.when (s : State) (c : Bool) (f : State → State) : State := if c then f s else s

end Sys2Proof.Machine
end

