-- ==== Sys2Proof/Machine/Epc.lean ====
section
/-! DEFINITION. Epc.lean: what EPC computes (spec/02): the phase table, deadlines, the overrun record, HALT
flits, the judgement of waves, watermarks and the keys of outputs. -/

namespace Sys2Proof.Machine

/-! ## Flits and CTRL flits: R5, R79, R81, R83 -/

def ftype (f : Flit) : Nat := ext f 255 252
def fword (f : Flit) (i : Nat) : Word := f.extractLsb' (14 * i) 14
def setWord (f : Flit) (i : Nat) (w : Word) : Flit := ins f (14 * i + 13) (14 * i) w.toNat
/-- A flit of type `t` with the given words from word 0; further words are zero. -/
def mkFlit (t : Nat) (ws : List Word) : Flit :=
  (ws.zipIdx.foldl (fun f wi => setWord f wi.2 wi.1) (0 : Flit)) ||| BitVec.ofNat 256 (t % 16 * 2 ^ 252)

def word (n : Nat) : Word := BitVec.ofNat 14 n
/-- A 56-bit number in two pairs, as four words (Table 3.5). -/
def words56 (n : BitVec 56) : List Word := [n.extractLsb' 0 14, n.extractLsb' 14 14, n.extractLsb' 28 14, n.extractLsb' 42 14]

def flitAnnounce (stop : Bool) (n : Epoch) (remain : Pair) : Flit :=
  mkFlit 4 ([1, word (b2n stop)] ++ words56 n ++ [loW remain, hiW remain])
def flitDelayReq (tag : Word) : Flit := mkFlit 4 [2, tag]
def flitDelayRsp (tag : Word) (r : Pair) : Flit := mkFlit 4 [3, tag, loW r, hiW r]
def flitHalt (cause : Nat) (e : Epoch) : Flit := mkFlit 4 ([4, word (cause % 32)] ++ words56 e)

/-- Fields of a CTRL flit (Table 3.5). -/
def ckind (f : Flit) : Nat := ext (fword f 0) 3 0
def ctrlEpoch (f : Flit) : Epoch := fword f 5 ++ fword f 4 ++ fword f 3 ++ fword f 2
def ctrlStop (f : Flit) : Bool := bit (fword f 1) 0
/-- Bits of words 0 to 17 that Table 3.5 uses, by CKIND: last word used and the mask of word 1. -/
def ctrlOk (f : Flit) : Bool :=
  let rest (i : Nat) : Bool := (List.range 18).all fun j => decide (j < i) || decide (fword f j = 0)
  decide (ext (fword f 0) 13 4 = 0) && (match ckind f with
    | 1 => decide (ext (fword f 1) 13 1 = 0) && rest 8
    | 2 => rest 2
    | 3 => rest 4
    | 4 => decide (ext (fword f 1) 13 5 = 0) && rest 6
    | _ => false)

/-- Header fields of a wave (Table 3.4). -/
def hdrLength (f : Flit) : Nat := ext (fword f 3) 6 0
def hdrSlice (f : Flit) : BitVec 6 := (fword f 3).extractLsb' 8 6
def hdrEpoch (f : Flit) : Pair := pairOf (fword f 4) (fword f 5)
def hdrLast (f : Flit) : Bool := bit (fword f 6) 0

/-! ## Ports -/

/-- LNK register `o` of port p (R102). -/
def lnk (p o : Nat) : Nat := 0x400000 + p / 8 * 0x100000 + p % 8 * 0x10000 + o
/-- EPC per-port register (R71). -/
def epcPort (p o : Nat) : Nat := 0x101000 + 0x20 * p + o

def State.portMode (s : State) (p : Nat) : Nat := s.fld ⟨lnk p 0, 3, 1⟩
def State.isEth (s : State) (p : Nat) : Bool := decide (2 ≤ s.portMode p)
def State.linkUp (s : State) (p : Nat) : Bool := decide (s.fld ⟨lnk p 4, 4, 4⟩ = 1)

/-- A port set of two 16-bit registers as 32 bits. -/
def State.ports32 (s : State) (lo hi : Nat) : BitVec 32 :=
  BitVec.ofNat 32 (s.fld ⟨lo, 15, 0⟩ + 2 ^ 16 * s.fld ⟨hi, 15, 0⟩)
def State.downPorts (s : State) : BitVec 32 := s.ports32 0x10004C 0x100050
def State.feed (s : State) (p : Nat) : BitVec 32 := s.ports32 (epcPort p 0xC) (epcPort p 0x10)

/-- Ports of a set, ascending. -/
def portList (m : BitVec 32) : List (Fin 32) := (List.finRange 32).filter fun p => m.getLsbD p.val

/-- Queue a CTRL flit on a port as an output that leaves between packets (R64, R83). -/
def State.sendCtrl (s : State) (p : Fin 32) (f : Flit) (start : Tick) : State :=
  let (o, s) := s.newId
  s.setEOut o { port := p, kind := .ctrl, flits := [f], dl := start, released := true }

/-! ## Control and schedule registers: R42, R44, R46 -/

def State.run (s : State) : Bool := decide (s.fld ⟨0x100000, 0, 0⟩ = 1)
def State.role (s : State) : Nat := s.fld ⟨0x100040, 1, 0⟩
def State.upport (s : State) : Nat := s.fld ⟨0x100040, 6, 2⟩
def State.lead (s : State) : Nat := s.fld ⟨0x100044, 14, 0⟩
def State.tol (s : State) : Nat := s.fld ⟨0x100044, 22, 15⟩
def State.pinLead (s : State) : Nat := s.fld ⟨0x100048, 11, 0⟩
def State.pinDelay (s : State) : Nat := s.fld ⟨0x100048, 27, 12⟩
/-- The decision lead D (R42, R54). -/
def State.leadD (s : State) : Nat := max s.lead s.pinLead
def State.period (s : State) : Nat := s.fld ⟨0x100008, 14, 0⟩
def State.tablePending (s : State) : Bool := decide (s.fld ⟨0x100020, 1, 1⟩ = 1)
def State.applyEpoch (s : State) : Nat := s.fld ⟨0x100024, 27, 0⟩

/-- Entry i of the table in force and of the shadow (Table 2.1). -/
def State.phaseA (s : State) (i : Nat) : Pair := s.reg (0x100140 + 4 * i)
def State.phaseS (s : State) (i : Nat) : Pair := s.reg (0x100100 + 4 * i)
def phValid (e : Pair) : Bool := bit e 27
def phStart (e : Pair) : Nat := ext e 14 0
def phDue (e : Pair) : Nat := ext e 19 16
def phKind (e : Pair) : Nat := ext e 23 20
def phAccept (e : Pair) : Bool := bit e 15
def phEvent (e : Pair) : Bool := bit e 24

/-- END of entry i of a table with period `per` (R44). -/
def phEnd (tab : Nat → Pair) (per i : Nat) : Nat :=
  if i < 15 ∧ phValid (tab (i + 1)) then phStart (tab (i + 1)) else per
def State.endA (s : State) (i : Nat) : Nat := phEnd s.phaseA s.period i

/-- The phase of a table that contains an offset. -/
def phaseAt (tab : Nat → Pair) (off : Nat) : Nat :=
  ((List.range 16).filter fun i => phValid (tab i) && decide (phStart (tab i) ≤ off)).getLast?.getD 0

/-- Copy the shadow table and period into force (R46). -/
def State.applyTable (s : State) : State :=
  let s := s.each (List.range 16) fun s i => s.setReg (0x100140 + 4 * i) (s.phaseS i)
  (s.setFld ⟨0x100008, 14, 0⟩ (s.fld ⟨0x100004, 14, 0⟩)).setFld ⟨0x100020, 1, 1⟩ 0

/-- The last epoch that has started, or the one before the first (R41). -/
def State.lastStarted (s : State) : Epoch :=
  if s.epc.begun then s.epc.epoch else ((s.epc.gos.head?.map (·.1)).getD s.epc.epoch) - 1

/-- A pending table is in force in epoch n: its apply epoch is the next one with the low bits of PHASE_APPLY, and n does not
come before it (R46, R51). -/
def State.pendingIn (s : State) (n : Epoch) : Bool :=
  let e := s.lastStarted
  let wait := (BitVec.ofNat 28 s.applyEpoch - lo28 e - 1).toNat + 1
  s.tablePending && decide (e.toNat + wait ≤ n.toNat)

/-- The period in force during epoch n (R46, R51). -/
def State.periodOf (s : State) (n : Epoch) : Nat := if s.pendingIn n then s.fld ⟨0x100004, 14, 0⟩ else s.period

/-- The schedule of epoch n: entry i and END[i] (R40, R46). -/
def State.tableOf (s : State) (n : Epoch) : (Nat → Pair) × (Nat → Nat) :=
  match s.epc.prev with
  | some x =>
    if x.epoch = n then ((x.table.getD · 0), phEnd (x.table.getD · 0) x.period)
    else if s.pendingIn n then (s.phaseS, phEnd s.phaseS (s.fld ⟨0x100004, 14, 0⟩)) else (s.phaseA, s.endA)
  | none => if s.pendingIn n then (s.phaseS, phEnd s.phaseS (s.fld ⟨0x100004, 14, 0⟩)) else (s.phaseA, s.endA)

/-- start(N) of an epoch that has started, been decided or been announced. -/
def State.startOf (s : State) (n : Epoch) : Option Tick :=
  match s.epc.gos.find? fun g => decide (g.1 = n) with
  | some g => some g.2
  | none => match s.epc.stop with
    | some x => if x.1 = n then some x.2 else if s.epc.live ∧ s.epc.epoch = n then some s.epc.start else none
    | none => if s.epc.live ∧ s.epc.epoch = n then some s.epc.start else none

/-- The port's fixed transmit latency in ticks (R52). -/
def State.txLat (s : State) (p : Nat) : Nat := match s.fld ⟨lnk p 0, 5, 4⟩ with
  | 0 => 52
  | 1 => 33
  | _ => 26
/-- The tick at which the first bit of a flit inserted now leaves the balls of port p (R40, R52). -/
def State.leaves (s : State) (p : Nat) : Tick := s.copy + BitVec.ofNat 56 (s.txLat p)
/-- REMAIN of an announce of start tick t that is inserted on port p now, in 1/16 tick (R49). The master's announce leaves at
start(N) − LEAD with LEAD × 16 when it is inserted no later than that tick (DESIGN CHOICE, notes/assumptions/18.md); a free value
where the start lies before its departure (notes/assumptions/4.md). -/
def State.remainOf (s : State) (p : Nat) (t : Tick) : Pair × State :=
  if s.role = 1 ∧ s.copy.toNat + s.lead ≤ t.toNat then (BitVec.ofNat 28 (s.lead * 16), s)
  else if (s.leaves p).toNat ≤ t.toNat then (BitVec.ofNat 28 ((t - s.leaves p).toNat * 16), s)
  else (s.freshVal.1.extractLsb' 0 28, s.freshVal.2)

/-- Tick arithmetic on 56 bits. -/
def tadd (t : Tick) (n : Nat) : Tick := t + BitVec.ofNat 56 n
def tsub (t : Tick) (n : Nat) : Tick := t - BitVec.ofNat 56 n
/-- d1 precedes d2 (R39). -/
def precedes (d1 d2 : Pair) : Bool := decide (d1 ≠ d2) && decide ((d2 - d1).toNat < 2 ^ 27)

/-! ## Deadlines: R56 -/

/-- flit_ps of a port in 1/4 ps (R56, R99). -/
def State.flitPs4 (s : State) (p : Nat) : Nat :=
  match s.portMode p, s.fld ⟨lnk p 0, 5, 4⟩ with
  | 1, 0 => 17000
  | 1, 1 => 10880
  | 1, _ => 8500
  | _, 0 => 16125
  | _, 1 => 10320
  | _, _ => 8064

/-- Serialisation time in ticks of F flits with worst-case check flits (R56). -/
def State.ser (s : State) (p f : Nat) : Nat := ((f + (f + 15) / 16) * s.flitPs4 p + 9999) / 10000
def State.budget (s : State) (p : Nat) : Nat := s.fld ⟨epcPort p 4, 14, 0⟩
/-- Egress deadline on port p of a wave of f flits due at `due` (R56). -/
def State.egressDl (s : State) (due : Tick) (p f : Nat) : Tick := tsub due (s.budget p + s.ser p f)
/-- Task deadline of a wave of f flits (R56). -/
def State.taskDl (s : State) (due : Tick) (ports : BitVec 32) (f : Nat) : Tick :=
  match portList ports with
  | [] => tsub due (s.fld ⟨0x100028, 26, 12⟩)
  | p :: ps =>
    let m := ps.foldl (fun m q => max m (s.budget q + s.ser q f)) (s.budget p.val + s.ser p.val f)
    tsub due (m + s.fld ⟨0x100028, 11, 0⟩)

/-! ## Overruns: R65 to R68, R449, R480 -/

def waveId (p : Pkt) : WaveId :=
  let h := p.flits.headD 0
  { seq := fword h 2, src := fword h 1, dst := fword h 0, slice := hdrSlice h }

/-- OVR_STATUS of an overrun, with VALID 1 and MORE as given (Table 2.8). -/
def Overrun.status (v : Overrun) (more : Bool) : Pair :=
  BitVec.ofNat 28 (1 + 2 * (v.cause % 32) + 2 ^ 6 * b2n more + 2 ^ 7 * ((v.wave.map fun w => w.slice.toNat).getD 0)
    + 2 ^ 13 * b2n v.wave.isSome + 2 ^ 14 * (v.inPort.getD 0 % 32) + 2 ^ 19 * b2n v.inPort.isSome
    + 2 ^ 20 * (v.outPort.getD 0 % 32) + 2 ^ 25 * b2n v.outPort.isSome)

/-- Fill the overrun record (Table 2.8). -/
def State.fillOvr (s : State) (v : Overrun) (more : Bool) : State :=
  let w := v.wave.getD { seq := 0, src := 0, dst := 0, slice := 0 }
  let s := ((s.setReg 0x100060 (v.status more)).setReg 0x100064 (lo28 v.epoch)).setReg 0x100068 (hi28 v.epoch)
  let s := ((s.setReg 0x10006C (lo28 s.tick)).setReg 0x100070 v.deadline).setReg 0x100074 (pairOf w.seq w.src)
  (s.setReg 0x100078 (pairOf w.dst 0)).setReg 0x10007C (BitVec.ofNat 28 (v.remote % 32))

/-- The error of an overrun, with its own OVR_STATUS and the MORE bit of the record (Table 18.3). -/
def State.ovrErr (s : State) (v : Overrun) : ErrEvent :=
  { src := 1, code := v.cause, cls := 2,
    info := [(lo28 v.epoch).toNat, (v.status (bit (s.reg 0x100060) 6)).toNat, v.deadline.toNat] }

/-- Write an error record for an overrun and remember it as the one that counts later overruns (R449). -/
def State.ovrRecord (s : State) (v : Overrun) : State :=
  let free := s.errFree
  let n := s.fld ⟨errWr, 8, 0⟩
  (s.err (s.ovrErr v)).modEpc fun e => { e with ovrRec := if free then some n else none }

/-- The host has not consumed record n. -/
def State.errUnconsumed (s : State) (n : Nat) : Bool :=
  decide ((n + 512 - s.fld ⟨errHostRd, 8, 0⟩) % 512 < s.errUnread)

/-- Count a later overrun in the record of the one EPC holds, or write a new record (R449). -/
def State.ovrCount (s : State) (v : Overrun) : State :=
  match s.epc.ovrRec with
  | some n => if s.errUnconsumed n then s.bumpFld ⟨errLog (n % 256) 3, 13, 0⟩ 1 else s.ovrRecord v
  | none => s.ovrRecord v

/-- Send HALT on every up Rinek port but `skip` (R67). -/
def State.sendHalts (s : State) (skip : Option Nat) (cause : Nat) (e : Epoch) : State :=
  s.each (List.finRange 32) fun s p =>
    if s.linkUp p ∧ ¬ s.isEth p ∧ skip ≠ some p.val then s.sendCtrl p (flitHalt cause e) 0 else s

/-- Priority of an overrun among those of one tick: cause, then port (R66). -/
def Overrun.rank (v : Overrun) : Nat := v.cause * 64 + (match v.inPort, v.outPort with
  | some p, _ => p
  | none, some p => p
  | none, none => 0)
/-- The rank of the overrun that the record holds. -/
def State.ovrRank (s : State) : Nat :=
  let r := s.reg 0x100060
  ext r 5 1 * 64 + (if bit r 19 then ext r 18 14 else if bit r 25 then ext r 24 20 else 0)

/-- What the record and the error log take from an overrun (R66, R449). -/
def State.ovrLog (s : State) (v : Overrun) : State :=
  let valid := bit (s.reg 0x100060) 0
  let more := bit (s.reg 0x100060) 6
  if ¬ valid ∨ ¬ s.epc.overrun then
    let s := (s.fillOvr v more).modEpc fun e => { e with ovrAt := some s.tick }
    let s := s.ovrRecord v
    if valid then s else s.msix 0 26
  else if s.epc.ovrAt = some s.tick ∧ v.rank < s.ovrRank then
    (s.fillOvr v true).ovrRecord v
  else
    (s.setFld ⟨0x100060, 6, 6⟩ 1).ovrCount v

/-- Declare an overrun. With RUN 0 nothing runs that could overrun, and after the stop the device counts no
more (R66, R69). HALT carries the first overrun to be declared, although the record may then take a lower cause of the same tick
(R67; DESIGN CHOICE, notes/assumptions/18.md). -/
def State.overrun (s : State) (v : Overrun) : State :=
  if ¬ s.run ∨ s.epc.stopped then s
  else
    let v := if s.epc.begun then v
             else { v with epoch := ((s.epc.gos.head?.map (·.1)).orElse fun _ => s.epc.stop.map (·.1)).getD s.epc.epoch }
    let first := !s.epc.overrun
    let s := (s.ovrLog v).modEpc fun e => { e with overrun := true }
    if first then
      s.sendHalts (if v.cause = 14 then v.inPort else none) (if v.cause = 14 then v.remote else v.cause) v.epoch
    else s

/-- EPC judges deadlines while epochs run. -/
def State.judging (s : State) : Bool := s.run && s.epc.live && !s.epc.stopped
/-- A check against a limit has failed when TCLK reaches the limit plus 5 ticks (R40). -/
def State.overdue (s : State) (d : Pair) : Bool :=
  decide (5 ≤ (lo28 s.tick - d).toNat) && decide ((lo28 s.tick - d).toNat < 2 ^ 27)

/-- An event stamped after its limit (R40): its overrun is declared once TCLK has reached the limit plus 5. -/
def State.lateEvent (s : State) (id : Nat) (v : Overrun) : State :=
  if s.judging = false then s
  else if s.overdue v.deadline then s.overrun v
  else s.modEpc fun e => { e with lates := e.lates ++ [{ id := id, ovr := v }] }

/-- Declare the overrun of a late event with this cause and number that is due (R40). -/
def State.declareLate (s : State) (cause id : Nat) : State :=
  match s.epc.lates.find? fun l => decide (l.id = id) && decide (l.ovr.cause = cause) && s.overdue l.ovr.deadline with
  | some l => if s.judging then (s.modEpc fun e => { e with lates := e.lates.erase l }).overrun l.ovr else s
  | none => s

/-! ## Waves of a port: R43, R60 to R63 -/

/-- Records of port f for epoch e. -/
def State.recsOf (s : State) (f : Nat) (e : Epoch) : List WaveRec := (s.eport f).recs.filter fun r => r.epoch = e

/-- W[f] + 1 for epoch e: how many waves from XSEQ 0 on have completed without a gap (R60). -/
def State.water (s : State) (f : Nat) (e : Epoch) : Nat :=
  ((s.recsOf f e).takeWhile fun r => r.completed).length

/-- W[f] is final (R60). -/
def State.waterFinal (s : State) (f : Nat) (e : Epoch) : Bool :=
  ((s.recsOf f e).take (s.water f e)).any fun r => r.last

/-- Mark the wave of a packet as completed (R60, R178). -/
def State.completeWave (s : State) (p : Pkt) : State :=
  if p.counted then
    s.modEPort p.port fun ep => { ep with recs := ep.recs.map fun r =>
      if r.epoch = p.epoch ∧ r.xseq = p.xseq then { r with completed := true } else r }
  else s

/-- A LAST wave of epoch e has arrived on port f no later than `lim` (R62). -/
def State.lastIn (s : State) (f : Nat) (e : Epoch) (lim : Tick) : List WaveRec :=
  (s.recsOf f e).filter fun r => r.last && decide (r.arr.toNat ≤ lim.toNat)

/-- The wave of a packet has passed its link check and counts as received (R62). -/
def State.receivedWave (s : State) (p : Pkt) : State :=
  if p.counted then
    s.modEPort p.port fun ep => { ep with recs := ep.recs.map fun r =>
      if r.epoch = p.epoch ∧ r.xseq = p.xseq then { r with ok := true } else r }
  else s

/-- An extended number behind the place `x` that is taken back moves up by one (R62, R63). -/
def moveUp (e f : Epoch) (x y : BitVec 16) : BitVec 16 := if f = e ∧ x < y then y - 1 else y

/-- Take back the place of a packet: the waves of its epoch behind it on the port take the places before theirs (R62, R63). -/
def State.takePlace (s : State) (p : Pkt) : State :=
  if p.counted then
    let s := s.modEPort p.port fun ep => { ep with recs :=
      (ep.recs.filter fun r => ¬ (r.epoch = p.epoch ∧ r.xseq = p.xseq)).map fun r => { r with xseq := moveUp p.epoch r.epoch p.xseq r.xseq } }
    { s with
      pkts := s.pkts.map fun x => if x.2.port = p.port ∧ x.2.counted then (x.1, { x.2 with xseq := moveUp p.epoch x.2.epoch p.xseq x.2.xseq }) else x
      eouts := s.eouts.map fun x => if x.2.expect ∧ x.2.kind = .wave ∧ x.2.inPort.toNat = p.port.val then
        (x.1, { x.2 with xseq := moveUp p.epoch x.2.epoch p.xseq x.2.xseq }) else x }
  else s

/-- The SEQ of a wave that has passed its link check follows that of the wave before it (R62). -/
def State.seqOk (s : State) (p : Pkt) : Bool :=
  let n := fword (p.flits.headD 0) 2
  if p.xseq = 0 then decide (n = 0)
  else (s.recsOf p.port p.epoch).any fun r => decide (r.xseq = p.xseq - 1) && decide (n = r.seq + 1)

/-- Order of two outputs of one port: re-presented ones first within an epoch, then the key (R59, R61, R382). -/
def keyLt (a b : EOut) : Bool :=
  decide (a.epoch < b.epoch) || (decide (a.epoch = b.epoch) &&
    ((a.replay && !b.replay) || (decide (a.replay = b.replay) &&
      (decide (a.xseq < b.xseq) || (decide (a.xseq = b.xseq) &&
        (decide (a.inPort < b.inPort) || (decide (a.inPort = b.inPort) && decide (a.idx < b.idx))))))))

/-- Wave outputs of port p that are still to start, in table order. -/
def State.wavesOf (s : State) (p : Fin 32) : List (Nat × EOut) :=
  s.eouts.filter fun o => decide (o.2.port = p) && decide (o.2.kind = .wave) && !o.2.bad && !o.2.expect && !o.2.started

/-- Re-presented waves of epoch e, with a capture index below `n`, whose task has not completed (R382). -/
def State.replaysOf (s : State) (e : Epoch) (n : Nat) : Bool :=
  s.pkts.any fun x => x.2.replay && decide (x.2.cls = 0) && !x.2.ended && !x.2.gone && decide (x.2.epoch = e) && decide (x.2.xseq.toNat < n)
/-- No output of a re-presented wave that goes before `o` is still to be formed (R382). -/
def State.replaysDone (s : State) (o : EOut) : Bool := !s.replaysOf o.epoch (if o.replay then o.xseq.toNat else 2 ^ 16)

/-- The watermarks of p's feed ports allow output `o` (R60). That of a re-presented wave goes before every other of its epoch and
waits for none (R382). -/
def State.feedsAllow (s : State) (o : EOut) : Bool :=
  o.replay || (portList (s.feed o.port)).all fun f =>
    s.waterFinal f o.epoch ||
      (if f.val < o.inPort.toNat then decide (o.xseq.toNat + 1 ≤ s.water f o.epoch)
       else decide (o.xseq.toNat ≤ s.water f o.epoch))

/-- Every output bound for the port with a smaller key has been released (R60). -/
def State.firstKey (s : State) (id : Nat) (o : EOut) : Bool :=
  (s.wavesOf o.port).all fun x => decide (x.1 = id) || x.2.released || !keyLt x.2 o

/-- The ingress port of the key does not feed the egress port (R60). -/
def State.unfed (s : State) (o : EOut) : Bool := !(s.feed o.port).getLsbD o.inPort.toNat

/-- The overrun of an output (R65): Table 2.3 records a deadline for DEADLINE alone. -/
def State.outOvr (s : State) (cause : Nat) (o : EOut) (inPort : Option Nat) : Overrun :=
            { cause := cause, epoch := o.epoch, inPort := inPort, outPort := some o.port.val,
              deadline := if cause = 1 then lo28 o.dl else 0, wave := ((o.pkt.bind s.pkt?).map waveId).orElse fun _ =>
                o.flits.head?.map fun h => { seq := fword h 2, src := fword h 1, dst := fword h 0, slice := hdrSlice h } }
def State.outOverrun (s : State) (cause : Nat) (o : EOut) : State := s.overrun (s.outOvr cause o (some o.inPort.toNat))

/-- The packet table without what EPC and DSP have finished with: the packet's task has ended, no output reads
it, and its flits have all arrived (R28, R236). -/
def State.freePkt (s : State) (k : Nat) : State :=
  match s.pkt? k with
  | some p => if p.ended ∧ p.uses = 0 ∧ p.link ≠ .open then s.delPkt k else s
  | none => s

/-- Drop the outputs that classification promised for a packet (R65): its task has executed DONE or is gone. -/
def State.dropExpected (s : State) (k : Nat) : State :=
  { s with eouts := s.eouts.filter fun o => !(o.2.expect && decide (o.2.pkt = some k)) }

end Sys2Proof.Machine
end

