-- ==== Sys2Proof/Machine/SliceOps.lean ====
section
/-! DEFINITION. SliceOps.lean: what the slice record says to every other block (spec/14): states, shares,
placement, the slice and mode of a thread, and capture. -/

namespace Sys2Proof.Machine

/-- SLC register of slice s (R394). -/
def slcReg (s o : Nat) : Nat := 0x2401000 + 0x100 * s + o
def slcShare (s c : Nat) : Nat := slcReg s (0x40 + 0x10 * c)
def slcImem (s c : Nat) : Nat := slcReg s (0x44 + 0x10 * c)
def slcIbase (s c : Nat) : Nat := slcReg s (0x48 + 0x10 * c)

/-- Codes of Table 14.2: 0 FREE, 1 ACTIVE, 2 ARMED, 3 FREEZING, 4 FROZEN, 5 RESTORING, 6 RESETTING, 7 DESTROYING. -/
def State.sliceState (s : State) (i : Nat) : Nat := (s.slice i).state.toNat
def State.setSliceState (s : State) (i n : Nat) : State := s.modSlice i fun x => { x with state := BitVec.ofNat 4 n }

/-- SLC.SHARE[c].CORES of slice i. -/
def State.shareCores (s : State) (i c : Nat) : Nat := s.fld ⟨slcShare i c, 4, 0⟩
/-- The slice holds a share in quadrant q: CREATE has granted it and CORES is above 0 (R17, R362). -/
def State.hasShare (s : State) (i q : Nat) : Bool :=
  decide (s.sliceState i ≠ 0) && (decide (0 < s.shareCores i (2 * q)) || decide (0 < s.shareCores i (2 * q + 1)))

/-- Cores of cluster c held by slice i, and lent to it (PLACE). -/
def State.placeHeld (s : State) (i c : Nat) : Nat :=
  ((List.range 16).filter fun k =>
    decide ((s.core (16 * c + k)).slice = some (BitVec.ofNat 6 i)) && !(s.core (16 * c + k)).lent).length
def State.placeLent (s : State) (i c : Nat) : Nat :=
  ((List.range 16).filter fun k =>
    decide ((s.core (16 * c + k)).slice = some (BitVec.ofNat 6 i)) && (s.core (16 * c + k)).lent).length

/-- Cores that count for the pick of R374 in quadrant q. -/
def State.placeQ (s : State) (i q : Nat) : Nat :=
  s.placeHeld i (2 * q) + s.placeLent i (2 * q) + s.placeHeld i (2 * q + 1) + s.placeLent i (2 * q + 1)

/-- The quadrant the device picks (R374): most cores, ties to the lower; QUAD domain of q is 3 + q (Table 16.1). -/
def State.pickQuad (s : State) (i : Nat) : Option (Fin 4) :=
  (List.finRange 4).foldl (fun (best : Option (Fin 4)) (q : Fin 4) =>
    if s.hasShare i q ∧ s.dom (3 + q) = 0 then
      match best with
      | none => some q
      | some b => if s.placeQ i b < s.placeQ i q then some q else best
    else best) none

/-- Slice of a thread's core; slice 0 for a spare core, whose threads run nothing. -/
def State.sliceOf (s : State) (t : Nat) : Nat := ((s.core (t / 8)).slice.map (·.toNat)).getD 0
def State.assigned (s : State) (t i : Nat) : Bool := decide ((s.core (t / 8)).slice = some (BitVec.ofNat 6 i))
/-- System mode (R199). -/
def State.system (s : State) (t : Nat) : Bool := decide (s.sliceOf t = 0)
def clusterOf (t : Nat) : Nat := t / 128
def quadOf (t : Nat) : Nat := t / 256
/-- Threads of quadrant q, and of core n. -/
def threadsOfQuad (q : Nat) : List Nat := (List.range 256).map (· + 256 * q)
def threadsOfCore (n : Nat) : List Nat := (List.range 8).map (· + 8 * n)
/-- Threads of the slice, ascending. -/
def State.threadsOfSlice (s : State) (i : Nat) : List Nat := (List.range 1024).filter fun t => s.assigned t i

/-- A thread is live: it executes, or is blocked on an instruction, or halted or faulted with work (R244). -/
def Thread.live (t : Thread) : Bool := decide (t.st ≠ .waitTask)

/-- The instruction base of a slice in a cluster (R177, R201). -/
def State.ibase (s : State) (i c : Nat) : BitVec 16 := BitVec.ofNat 16 (s.fld ⟨slcIbase i c, 15, 0⟩)

/-- Words of a RAW record (Table 11.2): H0, H1, four body words, then the data. -/
def frameWords (octets : List Octet) : List Word :=
  let n := octets.length
  let v : Nat := (octets.zipIdx.foldl (fun acc oi => acc + oi.1.toNat * 2 ^ (8 * oi.2)) 0)
  (List.range ((8 * n + 13) / 14)).map fun i => word (v / 2 ^ (14 * i) % 2 ^ 14)
def flitWords (fs : List Flit) : List Word := fs.flatMap fun f => (List.range 18).map (fword f)

def rawRecord (cls port slice : Nat) (epoch : Pair) (flits : List Flit) (octets : List Octet) : List Word :=
  let data := if cls < 3 then flitWords flits else frameWords octets
  let n := if cls < 3 then flits.length else octets.length
  [word 2, word (4 + data.length), word (cls + 8 * port + 256 * slice), loW epoch, hiW epoch, word (n % 8192)] ++ data

/-- Count a packet discarded under Table 14.2 (SLC.LATE_DROP). -/
def State.lateDrop (s : State) (i : Nat) : State := s.count (slcReg i 8)

/-- Raise a bit of SLC.STALL or SLC.FROZEN; a change from 0 to 1 sends PF vector 27 (R406). -/
def State.raiseSlc (s : State) (base i : Nat) : State :=
  let f : Fld := ⟨base + 4 * (i / 28), i % 28, i % 28⟩
  if s.fld f = 1 then s else (s.setFld f 1).msix 0 27

end Sys2Proof.Machine
end

