-- ==== Sys2Proof/Machine/Packet.lean ====
section
/-! DEFINITION. Packet.lean: packets in the wave buffer (R26 to R32, R195): where they stand, what a slice may
reach, and what it means to discard, end and free one (R28, R62, R180, R236). -/

namespace Sys2Proof.Machine

/-- Word address of the wave buffer of quadrant q (Table 1.6). -/
def waveBase (q : Nat) : Nat := 0x3FD00000000 + q * 0x10000000
/-- Populated words of one wave buffer, and a page (R195). -/
def waveSize : Nat := 0x400000
def pageSize : Nat := 0x4000

/-- Parts of the wave buffers in use: first word and length. -/
def State.waveUsed (s : State) : List (Nat × Nat) :=
  (s.pkts.map fun k => (k.2.addr.toNat, k.2.len)) ++ (s.eouts.map fun o => (o.2.addr.toNat, o.2.len)) ++
    s.threads.flatMap fun t => t.2.gath.flatMap fun g => g.places.map fun x => (x.2.toNat, g.size)

/-- `n` words from offset `o` of quadrant q are free and lie in one page (R195). -/
def State.waveFree (s : State) (q n o : Nat) : Bool :=
  decide (o + n ≤ waveSize) && decide (o % pageSize + n ≤ pageSize) &&
    s.waveUsed.all fun u => decide (u.1 + u.2 ≤ waveBase q + o) || decide (waveBase q + o + n ≤ u.1)

/-- Offsets at which a free place of quadrant q can begin: behind a part in use, or with a page. -/
def State.waveStarts (s : State) (q : Nat) : List Nat :=
  (s.waveUsed.map fun u => u.1 + u.2 - waveBase q) ++ (List.range (waveSize / pageSize)).map fun k => k * pageSize
/-- n words have a place in the wave buffer of quadrant q. -/
def State.waveRoom (s : State) (q n : Nat) : Bool := (s.waveStarts q).any (s.waveFree q n)

/-- A place for `n` words in the wave buffer of quadrant q, which the device chooses among the free ones (R195); none where no
place is free. -/
def State.allocWave (s : State) (q n : Nat) : Option (WAddr × State) :=
  let (r, s) := s.choose waveSize
  ((r :: s.waveStarts q).find? (s.waveFree q n)).map fun o => (BitVec.ofNat 42 (waveBase q + o), s)

/-- Write the word at word address `a`; a written entry is good again (R450). -/
def State.putWord (s : State) (a : Nat) (w : Word) : State :=
  { s with mem := SMap.set 0 s.mem a w, poison := SMap.set false s.poison a false }

/-- Write words from word address `a` on. -/
def State.putWords (s : State) (a : Nat) : List Word → State
  | [] => s
  | w :: ws => (s.putWord a w).putWords (a + 1) ws

def State.getWord (s : State) (a : Nat) : Word := SMap.get 0 s.mem a
def State.getWords (s : State) (a n : Nat) : List Word := (List.range n).map fun i => s.getWord (a + i)

/-! ## Packets and their words: R82, R195 -/

/-- The octets of a tunnel's frame, from the flits that are there (R82). -/
def frameOf (flits : List Flit) : List Octet :=
  match flits with
  | [] => []
  | h :: ps =>
    let v := (ps.zipIdx.foldl (fun acc fi => acc + ext fi.1 251 0 * 2 ^ (252 * fi.2)) 0)
    (List.range (ext (fword h 7) 11 0)).map fun j => BitVec.ofNat 8 (v / 2 ^ (8 * j) % 256)
/-- Words of a packet in the wave buffer (R195); the words of an Ethernet frame are taken as those of Table 11.2
(notes/assumptions/12.md). -/
def Pkt.words (p : Pkt) : List Word := if p.cls = 3 then frameWords p.octets else flitWords p.flits
/-- Words it takes up when it is whole. -/
def Pkt.size (p : Pkt) : Nat := if p.cls = 3 then p.words.length else 18 * (hdrLength (p.flits.headD 0) + 1)
/-- Flits that a packet takes up in an ingress queue. -/
def Pkt.queued (p : Pkt) : Nat := if p.cls = 3 then (p.octets.length * 8 + 251) / 252 else p.flits.length
/-- The packet stands in a wave buffer; until then it waits in its ingress queue (R26). -/
def Pkt.placed (p : Pkt) : Bool := decide (0 < p.len) || p.gone

/-- Place a packet in the wave buffer of quadrant q; it stays where it is when no place is free. -/
def State.placePkt (s : State) (k : Nat) (p : Pkt) (q : Nat) : State :=
  match s.allocWave q p.size with
  | some (a, s) => (s.putWords a.toNat p.words).setPkt k { p with addr := a, len := p.size }
  | none => s

/-- The ingress queues of quadrant q drained as far as the wave buffer has room, in order of arrival (R26). -/
def State.drained (s : State) (q : Nat) : State :=
  s.each (s.pkts.filter fun x => decide (x.2.port.val / 8 = q) && !x.2.placed) fun s x => s.placePkt x.1 x.2 q
/-- Packets of port p leave the ingress queue in order, as far as the wave buffer has room, up to a wave that EPC has not taken yet
(R26, R105). -/
def State.drainPort (s : State) (p : Nat) : State :=
  ((s.pkts.filter fun x => decide (x.2.port.val = p) && !x.2.placed).takeWhile fun x => decide (x.2.cls ≠ 0) || x.2.stamped).foldl
    (fun (s : State) x =>
      if (s.pkts.any fun y => decide (y.2.port.val = p) && decide (y.1 < x.1) && !y.2.placed) then s else s.placePkt x.1 x.2 (p / 8)) s
/-- Flits in the ingress queue of port p. -/
def State.ingress (s : State) (p : Nat) : Nat :=
  (s.pkts.filter fun x => decide (x.2.port.val = p) && !x.2.placed).foldl (fun n x => n + x.2.queued) 0
/-- The ingress queue of port p holds its 32 flits, which happens only when the wave buffer has no free space (R26). -/
def State.ingressFull (s : State) (p : Nat) : Bool :=
  decide (32 ≤ s.ingress p) && decide (32 ≤ (s.drained (p / 8)).ingress p)

/-- The words at `a` belong to a packet or a gathered output held for slice i (R32). -/
def State.waveOpen (s : State) (i a : Nat) : Bool :=
  (s.pkts.any fun k => decide (k.2.slice = some (BitVec.ofNat 6 i)) && decide (k.2.addr.toNat ≤ a) &&
    decide (a < k.2.addr.toNat + k.2.len)) ||
  (s.eouts.any fun o => decide (o.2.slice = BitVec.ofNat 6 i) && decide (o.2.addr.toNat ≤ a) &&
    decide (a < o.2.addr.toNat + o.2.len)) ||
  (s.threads.any fun t => decide (s.sliceOf t.1 = i) && t.2.gath.any fun g => g.places.any fun x =>
    decide (x.2.toNat ≤ a) && decide (a < x.2.toNat + g.size))

/-- Free a slot with an outcome: 1 DONE, 2 CANCELLED, 3 DISCARDED (Table 6.1). -/
def State.freeSlot (s : State) (q i last : Nat) : State :=
  s.modSlot q i fun x => { x with st := .free, last := BitVec.ofNat 2 last, pkt := none, late := false }

/-- The slot that holds the task of packet k. -/
def State.slotOfPkt (s : State) (k : Nat) : Option (Nat × Nat) :=
  (List.range 4).findSome? fun q =>
    (List.find? (fun x : Nat × Slot => decide (x.2.st ≠ .free) && decide (x.2.pkt = some k)) (s.dspQ q).slots).map fun x => (q, x.1)

/-- Take a packet's waiting requests out of every allocation port. -/
def State.dropReqs (s : State) (k : Nat) : State :=
  s.each (List.range 4) fun s q => s.modDsp q fun d =>
    { d with reqs := d.reqs.foldl (fun m x => SMap.set [] m x.1 (x.2.filter fun r => r.pkt ≠ some k)) d.reqs }

/-- DSP counter k of quadrant q (Table 6.9). -/
def dspCnt (q k : Nat) : Nat := 0x1000300 + q * 0x100000 + 4 * k

/-- Discard a packet whose link check fails, or that is lost (R28): its slot becomes FREE with LAST DISCARDED,
its flits go, its place is taken back, and nothing else about it is counted. -/
def State.discardPkt (s : State) (k : Nat) : State :=
  match s.pkt? k with
  | none => s
  | some p =>
    let s := ((s.takePlace p).dropReqs k).dropExpected k
    let s := match s.slotOfPkt k with
      | some (q, i) => (s.freeSlot q i 3).count (dspCnt q 4)
      | none => s
    s.delPkt k

/-- A packet of which nothing goes on and that never counts as completed: its flits go, its record with its link check. -/
def State.forgetPkt (s : State) (k : Nat) : State :=
  let s := (s.dropReqs k).dropExpected k
  match s.pkt? k with
  | some p => if p.link = .open then s.setPkt k { p with gone := true, stage := .released, len := 0 } else s.delPkt k
  | none => s

/-- A packet's task has ended, or no task will exist, with no output of its own left: once the link check has
passed a wave counts as completed for R60 and the flits go (R122, R178, R181, R236). -/
def State.endPkt (s : State) (k : Nat) : State :=
  match (s.modPkt k fun p => { p with ended := true }).pkt? k with
  | none => s
  | some p =>
    let s := (s.modPkt k fun p => { p with ended := true }).dropExpected k
    if p.link = .passed then (s.completeWave p).freePkt k else s

/-- EPC's overruns of an arrived wave, declared once its link check has passed (R28, R62). -/
def State.waveOverrun (s : State) (p : Pkt) : State :=
  s.each p.ovr fun s c => s.overrun { cause := c, epoch := p.epoch, wave := some (waveId p), inPort := some p.port.val }

/-- What an arrived wave brings once it is both stamped and past its link check: a discarded one is dropped
(R43, R478, R479), an overrun is declared (R62), an ended one completes (R122, R181). -/
def State.settlePkt (s : State) (k : Nat) : State :=
  match s.pkt? k with
  | none => s
  | some p =>
    if p.link = .passed ∧ (p.stamped ∨ p.cls ≠ 0) then
      let s := s.receivedWave p
      let p := if p.counted ∧ p.judged = false ∧ s.seqOk p = false then { p with ovr := p.ovr ++ [8] } else p
      let s := (s.waveOverrun p).modPkt k fun p => { p with ovr := [], judged := true }
      if p.gone then s.delPkt k
      else if p.idle then (s.bumpFld ⟨0x10008C, 27, 0⟩ 1).delPkt k
      else if p.discard then (s.completeWave p).delPkt k
      else if p.ended then (s.completeWave p).freePkt k
      else s
    else s

/-- Captured packets of slice i go to its capture area now (R377, R378). -/
def State.capturing (s : State) (i : Nat) : Bool := decide (s.sliceState i = 3) || (decide (s.sliceState i = 4) && !(s.slice i).saved)
/-- The slot of a packet that is captured becomes FREE with LAST DISCARDED (R377); it is not counted (Table 6.9). -/
def State.freeCaptured (s : State) (k : Nat) : State := match s.slotOfPkt k with
  | some (q, n) => s.freeSlot q n 3
  | none => s

/-- Packet k of slice i is captured once its link check has passed, behind the packets before it (R378). -/
def State.captureAt (s : State) (i k : Nat) : State :=
  (s.modPkt k fun p => { p with capFor := some (BitVec.ofNat 6 i) }).modSlice i fun x => { x with capQueue := x.capQueue ++ [k] }

/-- A packet discarded in place of its task is counted once its link check has passed (R28, R361). -/
def State.discardLate (s : State) (i k : Nat) : State := ((s.freeCaptured k).lateDrop i).endPkt k
/-- Packet k of slice i is discarded under Table 14.2. -/
def State.discardFor (s : State) (i k : Nat) : State :=
  if (s.pkt? k).any fun p => decide (p.link = .passed) then s.discardLate i k
  else s.modPkt k fun p => { p with capFor := some (BitVec.ofNat 6 i), stage := .released }

/-- The link check of packet k passes (R28): HELD becomes READY. -/
def State.passPkt (s : State) (k : Nat) : State :=
  let s := s.modPkt k fun p => { p with link := .passed }
  let s := match s.slotOfPkt k with
    | some (q, i) => s.modSlot q i fun x => if x.st = SState.held then { x with st := .ready } else x
    | none => s
  let s := s.settlePkt k
  match (s.pkt? k).bind (·.capFor) with
  | some i => if (s.slice i.toNat).capQueue.contains k ∧ s.capturing i.toNat then s else s.discardLate i.toNat k
  | none => s

/-- Give a request to request port j of quadrant q (R172). -/
def State.addReq (s : State) (q j : Nat) (r : AReq) : State :=
  s.modDsp q fun d => { d with reqs := SMap.modify [] d.reqs j fun l => l ++ [r] }

/-! ## The flit plane: R18 -/

/-- Output o crosses into the wave buffer of its egress quadrant, once for all ports of that quadrant, where there is room (R18). -/
def State.crossOut (s : State) (o : Nat) : State :=
  match s.eout? o with
  | some e =>
    if e.cross = false then s
    else match (e.pkt.bind s.pkt?).bind fun p => (s.allocWave (e.port.val / 8) p.len).map fun r => (p, r.1, r.2) with
      | some (p, a, s) =>
        let s := s.putWords a.toNat (s.getWords p.addr.toNat p.len)
        let with' (x : EOut) : Bool := x.cross && decide (x.pkt = e.pkt) && decide (x.idx = e.idx) && decide (x.port.val / 8 = e.port.val / 8)
        { s with eouts := s.eouts.map fun x => if with' x.2 then (x.1, { x.2 with addr := a, len := p.len, cross := false }) else x }
      | none => s
  | none => s
/-- The outputs of packet k cross (R18); one that finds no room tries again at its egress port. -/
def State.crossAll (s : State) (k : Nat) : State :=
  s.each ((s.eouts.filter fun x => x.2.cross && decide (x.2.pkt = some k)).map (·.1)) State.crossOut

end Sys2Proof.Machine
end

