-- ==== Sys2Proof/Machine/Dsp.lean ====
section
/-! DEFINITION. Dsp.lean: task dispatch (spec/06): slots, dependences, the checks of Table 6.4, allocation,
selection and cancellation. -/

namespace Sys2Proof.Machine

/-- DSP register of quadrant q (R184). -/
def dspOff (q o : Nat) : Nat := 0x1000000 + q * 0x100000 + o
def State.handlers (s : State) (q i : Nat) : Nat := s.fld ⟨dspOff q (0x100 + 8 * i), 25, 13⟩
def State.quota (s : State) (q i : Nat) : Nat := s.fld ⟨dspOff q (0x100 + 8 * i), 12, 0⟩

/-- Handle of a slot (R161). -/
def handleOf (gen : BitVec 2) (i : Nat) : Word := word (i + 4096 * gen.toNat)

/-- Slots of quadrant q that slice i holds, and those of HOST, THREAD and CSR tasks (R171). -/
def State.slotsUsed (s : State) (q i : Nat) : Nat :=
  ((s.dspQ q).slots.filter fun x => decide (x.2.st ≠ .free) && decide (x.2.slice.toNat = i)).length
def State.slotsNonpkt (s : State) (q i : Nat) : Nat :=
  ((s.dspQ q).slots.filter fun x =>
    decide (x.2.st ≠ .free) && decide (x.2.slice.toNat = i) && decide (3 ≤ x.2.src.toNat)).length
def State.slotsIn (s : State) (q : Nat) (st : SState) : Nat :=
  ((s.dspQ q).slots.filter fun x => decide (x.2.st = st)).length

/-- The lowest-numbered FREE slot that no RESTORE has claimed (R172, R389). -/
def State.freeSlotIdx (s : State) (q : Nat) : Option Nat :=
  (List.range 4096).find? fun i => decide ((s.slot q i).st = .free) && (s.slot q i).claim.isNone

/-! ## Dependences: R173, R174 -/

/-- The task that handle `h` names has been cancelled in this CCLK: the cancel wins (R180). -/
def State.cancelWins (s : State) (q : Nat) (h : Word) : Bool :=
  let x := s.slot q (h.toNat % 4096)
  decide (x.st = .free) && decide (x.gen.toNat = h.toNat / 4096) && decide (x.cancelAt = some s.cclk)

/-- Decrement the slot that handle `h` names, for slice i. -/
def State.decr (s : State) (q i : Nat) (h : Word) : State :=
  let n := h.toNat % 4096
  let x := s.slot q n
  if s.cancelWins q h then s
  else if x.st = .free ∨ x.gen.toNat ≠ h.toNat / 4096 ∨ x.slice.toNat ≠ i then
    (s.count (dspCnt q 7)).err { src := 5, code := 2, cls := 1, unit := q, slice := some i, info := [h.toNat] }
  else if x.count = 0 then s.count (dspCnt q 8)
  else s.modSlot q n fun x =>
    { x with count := x.count - 1, st := if x.st = .waiting ∧ x.count = 1 then .ready else x.st }

/-- Decrement each successor that a task names. -/
def State.decrSuccs (s : State) (q : Nat) (x : Slot) : State :=
  s.each (x.succ0.toList ++ x.succ1.toList) fun s h => s.decr q x.slice.toNat h

/-- The DSP side of DONE (R178). -/
def State.dspDone (s : State) (q n : Nat) : State :=
  let x := s.slot q n
  ((s.decrSuccs q x).freeSlot q n 1).count (dspCnt q 2)

/-! ## Submission: R167 to R171 -/

/-- The quadrant of a submission (R170). -/
def State.submitQuad (s : State) (u : Submitter) (d : Desc) : Option Nat :=
  let i := ext d.p0 17 12
  if bit d.p0 27 then
    match (if u.src = 4 then u.quad else none) with
    | some q => if s.hasShare i q then some q else (s.pickQuad i).map (·.val)
    | none => (s.pickQuad i).map (·.val)
  else
    if s.hasShare i (ext d.p0 26 25) then some (ext d.p0 26 25) else none

/-- Status of a SUBMIT (Table 6.4) when the quadrant is `q`. -/
def State.submitCode (s : State) (u : Submitter) (d : Desc) (q : Option Nat) : Nat :=
  let i := ext d.p0 17 12
  if ext d.p3 27 2 ≠ 0 then 1
  else if ¬ u.system ∧ i ≠ u.slice then 3
  else if (¬ bit d.p0 24 ∧ 2 ^ 27 ≤ d.p1.toNat) ∨ (bit d.p0 27 ∧ (bit d.p3 0 ∨ bit d.p3 1))
      ∨ (bit d.p3 0 ∧ bit d.p3 1 ∧ loW d.p2 = hiW d.p2)
      ∨ (u.src = 5 ∧ (bit d.p0 27 ∨ u.quad ≠ some (ext d.p0 26 25))) then 4
  else match q with
    | none => 5
    | some q =>
      if s.handlers q i ≤ ext d.p0 11 0 then 6
      else if 3 ≤ s.sliceState i then 7
      else if s.quota q i ≤ s.slotsNonpkt q i ∨ (s.freeSlotIdx q).isNone then 8
      else 0

/-- The stored deadline of a descriptor against creation tick c (R168). -/
def descDl (d : Desc) (c : Pair) : Pair :=
  if bit d.p0 24 then (if (d.p1 - c).toNat < 2 ^ 27 then d.p1 else c) else c + d.p1

/-- Allocate slot n of quadrant q for a descriptor (R161, R168). -/
def State.submitSlot (s : State) (u : Submitter) (d : Desc) (q n : Nat) : State :=
  let c := s.copy
  let dep := ext d.p0 23 18
  (s.modSlot q n fun x =>
    { st := if dep = 0 then .ready else .waiting, last := x.last, gen := x.gen + 1, src := BitVec.ofNat 3 u.src,
      slice := BitVec.ofNat 6 (ext d.p0 17 12), count := BitVec.ofNat 6 dep, dl := descDl d (lo28 c),
      handler := BitVec.ofNat 12 (ext d.p0 11 0),
      succ0 := if bit d.p3 0 then some (loW d.p2) else none, succ1 := if bit d.p3 1 then some (hiW d.p2) else none,
      arg0 := d.p4, arg1 := d.p5 }).count (dspCnt q 0)

/-- Result of a dispatch command: code, handle, quadrant. -/
structure DspReply where
  code : Nat
  handle : Word := 0
  quad : Nat := 0
  deriving DecidableEq, Repr

/-- SUBMIT in its quadrant, at its turn of allocation (R168, R172). -/
def State.dspSubmit (s : State) (u : Submitter) (d : Desc) (q : Option Nat) : DspReply × State :=
  let code := s.submitCode u d q
  match code, q, q.bind s.freeSlotIdx with
  | 0, some q, some n =>
    let t := s.submitSlot u d q n
    ({ code := 0, handle := handleOf (t.slot q n).gen n, quad := q }, t)
  | c, q, _ => ({ code := c, quad := q.getD (u.quad.getD 0) }, s)

/-- The slot that a RELEASE or CANCEL names, when the submitter may name it (R169, R179). -/
def State.targetOk (s : State) (u : Submitter) (q : Nat) (h : Word) : Bool :=
  let x := s.slot q (h.toNat % 4096)
  decide (x.st ≠ .free) && decide (x.gen.toNat = h.toNat / 4096) && (u.system || decide (x.slice.toNat = u.slice))

/-- RELEASE (R173, R174, R180). -/
def State.dspRelease (s : State) (u : Submitter) (q : Nat) (h : Word) : DspReply × State :=
  if s.cancelWins q h then ({ code := 9, quad := q }, s)
  else if s.targetOk u q h then
    let x := s.slot q (h.toNat % 4096)
    (if x.count = 0 then { code := 10, quad := q } else { code := 0, handle := h, quad := q }, s.decr q x.slice.toNat h)
  else
    ({ code := 9, quad := q },
      (s.count (dspCnt q 7)).err { src := 5, code := 2, cls := 1, unit := q, slice := some u.slice, info := [h.toNat] })

/-- Free the slot of a cancelled task (R179, R181). -/
def State.cancelSlot (s : State) (q n : Nat) : State :=
  let x := s.slot q n
  let s := (s.freeSlot q n 2).count (dspCnt q 3)
  match x.pkt with
  | some k => s.endPkt k
  | none => s

/-- CANCEL (R179); `same` when other events of the slot fall in its CCLK and come behind it in the queue (R180). -/
def State.dspCancel (s : State) (u : Submitter) (q : Nat) (h : Word) (propagate same : Bool) : DspReply × State :=
  if s.targetOk u q h then
    let x := s.slot q (h.toNat % 4096)
    if x.st = .running then ({ code := 11, quad := q }, s)
    else
      let t := s.cancelSlot q (h.toNat % 4096)
      let t := if same then t.modSlot q (h.toNat % 4096) fun x => { x with cancelAt := some s.cclk } else t
      ({ code := 0, handle := h, quad := q }, if propagate then t.decrSuccs q x else t)
  else ({ code := 9, quad := q }, s)

/-! ## Packet tasks: R164 to R166, R172 -/

/-- The packet came over Rinek and its link check is still to come (R28, R163). -/
def Pkt.heldOn (p : Pkt) : Bool := decide (p.link = .open) && decide (p.cls ≠ 3)

/-- Deadline of a packet task (Table 6.2). -/
def State.pktDl (s : State) (q : Nat) (p : Pkt) (r : AReq) (c : Tick) : Pair :=
  if p.cls = 0 then lo28 (s.taskDl p.due (if r.src = 0 then r.ports else 0) (hdrLength (p.flits.headD 0) + 1))
  else lo28 c + BitVec.ofNat 28 (s.fld ⟨dspOff q 0, 14, 0⟩)

/-- Create the task of request r in slot n of quadrant q (R164). -/
def State.createTask (s : State) (q n : Nat) (r : AReq) (p : Pkt) : State :=
  let c := s.copy
  let (id, s) := s.newId
  (s.modSlot q n fun x =>
    { st := if p.heldOn then .held else .ready, last := x.last, gen := x.gen + 1, src := r.src, slice := r.slice,
      dl := s.pktDl q p r c, handler := r.handler, pkt := r.pkt, ports := r.ports, k6 := r.k6, miss := r.miss,
      cause := r.cause, trap := r.trap, born := id }).count (dspCnt q 0)

/-- A wave with an epoch field after the freeze epoch of slice i: it is discarded, not captured (R378). -/
def State.pastFreeze (s : State) (i : Nat) (p : Pkt) : Bool :=
  decide (p.cls = 0) && precedes (lo28 (s.slice i).freezeEpoch) (hdrEpoch (p.flits.headD 0))

/-- What a request becomes before it needs a slot: a capture, a discard or a rejection (R165, R361, R378). -/
inductive AFate where
  | create | capture | discard | reject
  deriving DecidableEq, Repr

def State.fate (s : State) (q : Nat) (r : AReq) (p : Pkt) : AFate :=
  let i := r.slice.toNat
  let sl := s.slice i
  if sl.state.toNat < 5 ∧ s.handlers q i ≤ r.handler.toNat then .reject
  else match sl.state.toNat with
  | 0 => .reject
  | 1 => .create
  | 2 => .create
  | 3 => if s.pastFreeze i p then .discard else .capture
  | 4 => if sl.saved ∨ s.pastFreeze i p then .discard else .capture
  | _ => .discard

/-- A packet refused for its handler (R165): gone, and not completed for R60. -/
def State.rejectPkt (s : State) (q k : Nat) (r : AReq) : State :=
  ((s.count (dspCnt q 5)).err { src := 5, code := 1, cls := 1, unit := q, slice := some r.slice.toNat,
                                mkind := 4, mid := q, info := [r.handler.toNat] }).forgetPkt k

/-! ## Selection and dispatch: R175 to R177 -/

/-- Dispatch to the slice of a slot is not stopped (Table 14.2, R376, R453), and a wave's task stays in its slot after the
stop (R69). -/
def State.mayDispatch (s : State) (x : Slot) : Bool :=
  !(s.epc.stopped && (x.pkt.bind s.pkt?).any fun p => decide (p.cls = 0)) &&
  match s.sliceState x.slice.toNat with
  | 1 => true
  | 2 => match (x.pkt.bind s.pkt?), (s.slice x.slice.toNat).freezeAt with
    | some p, some f => !(decide (p.cls = 0) && !precedes (hdrEpoch (p.flits.headD 0)) f)
    | _, _ => true
  | _ => false

/-- Threads of quadrant q that wait at TASK and are assigned to slice i (R176). -/
def State.waiters (s : State) (q i : Nat) : List Nat :=
  (threadsOfQuad q).filter fun t => s.assigned t i && decide ((s.thread t).st = .waitTask)

/-- The READY slot with the earliest deadline that a waiting thread can take (R175). -/
def State.bestSlot (s : State) (q : Nat) : Option Nat :=
  (s.dspQ q).slots.foldl (fun best x =>
    if x.2.st = .ready ∧ s.mayDispatch x.2 ∧ s.waiters q x.2.slice.toNat ≠ [] then
      match best with
      | none => some x.1
      | some b => if precedes x.2.dl (s.slot q b).dl then some x.1 else best
    else best) none

/-- The dispatch record (Table 6.6): k0 to k7, and b7. -/
def State.dispatchRegs (s : State) (x : Slot) (h : Word) : List Word × Pair :=
  let dlw := [loW x.dl, hiW x.dl]
  match x.pkt.bind s.pkt? with
  | some p =>
    let k1 := x.src.toNat + 8 * p.cls.toNat + 64 * b2n x.miss + 128 * b2n (decide (x.ports ≠ 0)) + 256 * p.port.val
    let k5 := x.cause.toNat + 16 * x.trap.toNat + (if p.cls = 0 then 4096 * (p.xseq.toNat / 2 ^ 14) else 0)
    let len := if p.cls.toNat < 3 then p.flits.length else p.octets.length
    ([h, word k1] ++ dlw ++ [word (p.addr.toNat % 2 ^ 14), word k5, x.k6, word len], BitVec.ofNat 28 (p.addr.toNat / 2 ^ 14))
  | none => ([h, word x.src.toNat] ++ dlw ++ [loW x.arg0, hiW x.arg0, loW x.arg1, hiW x.arg1], 0)

/-- The 72 words of the groups beyond w0 to w15 after dispatch or FORK: they keep nothing of the thread's earlier
work and the spec gives them no value (R177, R237): free values (notes/assumptions/4.md). -/
def freeGroups (f : Nat) : SMap Word :=
  (List.range 72).foldl (fun m i => SMap.set 0 m (24 + i) ((Config.freeValue (f + i)).extractLsb' 0 14)) []

/-- The thread that takes a task (R177): base frame with w0 to w15 zero, banks zero but b7, every special register
at its dispatch value (Table 7.6), event register clear (R260), timer disarmed (R258); what it has staged stays (R250). -/
def freshThread (x : Thread) (f : Nat) (h : Word) (k : List Word) (b7 : Pair) (pc : BitVec 16) : Thread :=
  { st := .run, hasTask := true, handle := h, pc := pc, stepping := x.stepping, staged := x.staged, stagedCh := x.stagedCh,
    regs := k.zipIdx.foldl (fun m wi => SMap.set 0 m wi.2 wi.1) (freeGroups f),
    banks := SMap.set 0 [] 7 b7 }

/-- Dispatch slot n of quadrant q to thread t (R175 to R177). A task past its deadline counts in CNT_LATE. -/
def State.dispatchTo (s : State) (q n t : Nat) : State :=
  let x := s.slot q n
  let h := handleOf x.gen n
  let r := s.dispatchRegs x h
  let c := s.copy
  let s := (s.modSlot q n fun x => { x with st := .running }).count (dspCnt q 1)
  let s := if precedes x.dl (lo28 c) then s.count (dspCnt q 6) else s
  let pc := s.ibase x.slice.toNat (clusterOf t) + BitVec.ofNat 16 x.handler.toNat
  { s with free := s.free + 72, threads := SMap.set {} s.threads t (freshThread (s.thread t) s.free h r.1 r.2 pc) }

/-- DISPATCH: DSP dispatches the task of the READY slot with the earliest deadline to a waiting thread of its slice
(R175). It does not happen after FATAL (R453) or while the quadrant is not clocked (R414, R468). -/
def State.dispatch (s : State) (q : Nat) : State :=
  if s.fatal ≠ 0 ∨ s.clocked (3 + q) = false then s
  else match s.bestSlot q with
    | none => s
    | some n =>
      match s.pick (s.waiters q (s.slot q n).slice.toNat) with
      | (some t, s) => s.dispatchTo q n t
      | (none, s) => s

/-- DISPATCH (R175 to R177). -/
def execDispatch (q : Fin 4) (s : State) : Out := .next (s.dispatch q)

/-- DEADLINE_CLAMP: a waiting deadline that lies 2^26 ticks or more behind is rewritten as now less 2^26 (R168). -/
def State.clampDl (s : State) (q n : Nat) : State :=
  let x := s.slot q n
  let now := s.copy
  let behind := (lo28 now - x.dl).toNat
  if x.st ≠ .free ∧ x.st ≠ .running ∧ 2 ^ 26 ≤ behind ∧ behind < 2 ^ 27 then
    s.modSlot q n fun x => { x with dl := lo28 now - BitVec.ofNat 28 (2 ^ 26) }
  else s

/-- DEADLINE_CLAMP. -/
def execDeadlineClamp (q : Fin 4) (slot : Fin 4096) (s : State) : Out := .next (s.clampDl q slot)

/-! ## Writing RUN to 0: R182 -/

/-- Packet k is a wave. -/
def State.isWavePkt (s : State) (k : Option Nat) : Bool :=
  match k.bind s.pkt? with
  | some p => decide (p.cls = 0)
  | none => false

/-- Slots of tasks created from waves that are not RUNNING become FREE with LAST DISCARDED; waiting requests of
waves and the flits of both go (R182). -/
def State.dspRunStop (s : State) : State :=
  s.each (List.range 4) fun s q =>
    let waves := (s.dspQ q).slots.filter fun x =>
      decide (x.2.st ≠ .free) && decide (x.2.st ≠ .running) && s.isWavePkt x.2.pkt
    let ks := waves.filterMap (·.2.pkt) ++
      ((s.dspQ q).reqs.flatMap fun x => (x.2.filter fun r => s.isWavePkt r.pkt).filterMap (·.pkt))
    let s := s.each waves fun s x => (s.freeSlot q x.1 3).count (dspCnt q 4)
    s.each ks fun s k => s.forgetPkt k

end Sys2Proof.Machine
end

