-- ==== Sys2Proof/Machine/Atm.lean ====
section
/-! DEFINITION. Atm.lean: semaphores, groups, leases and breaks (spec/12). -/

namespace Sys2Proof.Machine

/-- ATM register. -/
def atmOff (o : Nat) : Nat := 0x1C00000 + o
def State.grpLease (s : State) (g : Nat) : Nat := s.fld ⟨atmOff (0x100 + 0x10 * g), 15, 0⟩
/-- The right of slice i in group g (R316). -/
def State.grpRight (s : State) (g i : Nat) : Bool :=
  bit (s.reg (atmOff (0x104 + 0x10 * g + 4 * (i / 28)))) (i % 28)

/-- Owner encoding of a master (Table 12.1). -/
def ownerOf : SemMaster → Word
  | .thread t => word t.val
  | .queue sl qp => word (4096 + 8 * sl.val + qp.val)
  | .umbra => 0x2000#14

/-- The slice of a request (R316, Table 1.2). -/
def State.semSlice (s : State) : SemMaster → Nat
  | .thread t => s.sliceOf t.val
  | .queue sl _ => sl.val
  | .umbra => 0

/-- Operation windows and the OP field of a SEM entry, by number (Table 12.2). -/
def semOpOf : Nat → SemOp
  | 0 => .acquire
  | 1 => .release
  | 2 => .renew
  | _ => .query

/-- STATUS of Table 12.3: 0 OK, 1 BUSY, 2 OWNED, 3 NOTOWNER, 4 LOST, 5 DENIED (R319). -/
def State.semStatus (s : State) (op : SemOp) (m : SemMaster) (i : Nat) : Nat :=
  let x := s.sem i
  let mine := decide (x.owner = ownerOf m)
  match op with
  | .acquire => if s.grpRight (i / 256) (s.semSlice m) = false then 5 else if x.held then (if mine then 2 else 1) else 0
  | .query => 0
  | _ => if x.held && mine then 0 else if !x.held && x.broken && mine then 4 else 3

/-- The semaphore after the operation (R319). -/
def State.semAfter (s : State) (op : SemOp) (m : SemMaster) (i : Nat) : Sem :=
  let x := s.sem i
  if s.semStatus op m i = 0 then
    match op with
    | .acquire => { held := true, broken := false, owner := ownerOf m, left := BitVec.ofNat 16 (s.grpLease (i / 256)) }
    | .release => { x with held := false, left := 0 }
    | .renew => { x with left := BitVec.ofNat 16 (s.grpLease (i / 256)) }
    | .query => x
  else x

/-- Result word (Table 12.3). -/
def semResult (status : Nat) (before after : Sem) : Pair :=
  BitVec.ofNat 28 (status + 8 * b2n before.broken + 16 * b2n after.held + 32 * after.owner.toNat)

/-- Operation `op` of master `m` on semaphore i: result word and state (R318, R319). -/
def State.semOp (s : State) (op : SemOp) (m : SemMaster) (i : Nat) : Pair × State :=
  let st := s.semStatus op m i
  let a := s.semAfter op m i
  let r := semResult st (s.sem i) a
  let t := s.modSem i fun _ => a
  (r, if op = .acquire then
        (if st = 0 then t.count (atmOff 0x200) else if st = 1 then t.count (atmOff 0x204)
         else if st = 5 then t.count (atmOff 0x208) else t)
      else t)

/-- The slice of an owner word. -/
def State.ownerSlice (s : State) (o : Word) : Nat :=
  match ext o 13 12 with
  | 0 => s.sliceOf (ext o 9 0)
  | 1 => ext o 8 3
  | _ => 0

/-- A held semaphore breaks (R321), with cause 0 EXPIRY, 1 RESET, 2 FORCE; no lease remains
(notes/assumptions/7.md). -/
def State.breakSem (s : State) (i cause : Nat) : State :=
  let x := s.sem i
  if x.held then
    ((s.modSem i fun x => { x with held := false, broken := true, left := 0 }).count (atmOff 0x20C)).err
      { src := 8, code := 1, cls := 1, unit := i / 256, slice := some (s.ownerSlice x.owner),
        info := [i, x.owner.toNat, cause] }
  else s

/-- Break every semaphore that an owner of the set holds, with cause RESET (R322). -/
def State.breakOwned (s : State) (p : Word → Bool) : State :=
  s.each ((s.sems.filter fun x => x.2.held && p x.2.owner).map (·.1)) fun s i => s.breakSem i 1

/-- Held semaphores with a lease running, ascending. -/
def State.leased (s : State) : List Nat :=
  (s.sems.filter fun x => x.2.held && decide (x.2.left ≠ 0)).map (·.1)

/-- One 1 µs strobe of one semaphore (R320). -/
def State.leaseTick (s : State) (i : Nat) : State :=
  let t := s.modSem i fun x => { x with left := x.left - 1 }
  if (t.sem i).left = 0 then t.breakSem i 0 else t

/-- A write of ATM.FORCE (R321): GO 1 breaks FORCE.SEM. -/
def State.force (s : State) (v : Pair) : State := if bit v 12 then s.breakSem (ext v 11 0) 2 else s
end Sys2Proof.Machine
end

