-- ==== Sys2Proof/Machine/Dram.lean ====
section
/-! DEFINITION. Dram.lean: DRAM lines (spec/13): the extent map, tags, ECC, the Shadow table and census, and the
access of one line by a requester. -/

namespace Sys2Proof.Machine

/-! ## Placement: R328 to R332 -/

/-- MEM register `o` of channel k. -/
def memReg (k o : Nat) : Nat := 0x2000000 + 0x40000 * k + o
/-- Global MEM registers (R359). -/
def memGlob (o : Nat) : Nat := 0x203F000 + o
/-- GEN.DRAM_TOP.EXTENTS (Table 1.10). -/
def State.extents (s : State) : Nat := s.fld ⟨0x8, 12, 0⟩
/-- DRAM_TOP, the first word address above DRAM (R31). -/
def State.dramTop (s : State) : Nat := s.extents * 2 ^ 24 * 36

/-- Channel and channel line of offset o of an extent in a group with chunk PBASE (R329). -/
def placeIn (group pbase o : Nat) : Nat × Nat :=
  if 4 ≤ group then
    ((o % 16) ^^^ (o / 2 ^ 8 % 16) ^^^ (o / 2 ^ 16 % 16), pbase * 2 ^ 20 + o / 16)
  else
    (4 * group + ((o % 4) ^^^ (o / 2 ^ 8 % 4) ^^^ (o / 2 ^ 16 % 4)), pbase * 2 ^ 20 + o / 4)

/-- Channel and channel line of offset o of an extent: below the copy pointer of a move in its new place (R331). -/
def Extent.at (e : Extent) (o : Nat) : Nat × Nat := match e.moving with
  | some p => if o < p then placeIn e.toGroup.toNat e.toPbase.toNat o else placeIn e.group.toNat e.pbase.toNat o
  | none => placeIn e.group.toNat e.pbase.toNat o
/-- Channel and channel line of a logical line, when it has storage (R328, R331). -/
def State.place (s : State) (l : Nat) : Option (Nat × Nat) :=
  if l / 2 ^ 24 < s.extents ∧ (s.extent (l / 2 ^ 24)).valid then some ((s.extent (l / 2 ^ 24)).at (l % 2 ^ 24)) else none
/-- The line whose copy is being made (R331). -/
def State.copyLine (s : State) (l : Nat) : Bool :=
  (s.extent (l / 2 ^ 24)).copying && decide ((s.extent (l / 2 ^ 24)).moving = some (l % 2 ^ 24))

/-- log2 of the ranks of a subchannel of channel k, and row bits beyond 16 (R332, Table 13.1). -/
def State.rankLog (s : State) (k : Nat) : Nat :=
  match s.fld ⟨memReg k 8, 1, 0⟩ * s.fld ⟨memReg k 8, 3, 2⟩ with
  | 4 => 2
  | 2 => 1
  | _ => 0
def State.rowBits (s : State) (k : Nat) : Nat := 16 + s.fld ⟨memReg k 8, 4, 4⟩
def lineSc (m : Nat) : Nat := m % 2
def State.lineRk (s : State) (k m : Nat) : Nat := m / 2 ^ 13 % 2 ^ s.rankLog k
def State.lineRow (s : State) (k m : Nat) : Nat := m / 2 ^ (13 + s.rankLog k) % 2 ^ s.rowBits k
/-- Bank 4 × BG + BA. -/
def State.lineBank (s : State) (k m : Nat) : Nat :=
  let row := s.lineRow k m
  4 * ((m / 2 % 8) ^^^ (row % 8)) + ((m / 2 ^ 11 % 4) ^^^ (row / 8 % 4))
/-- Key of a bank in the tables of channel k. -/
def bankKey (sc rk bank : Nat) : Nat := (sc * 4 + rk) * 32 + bank
def State.lineBankKey (s : State) (k m : Nat) : Nat := bankKey (lineSc m) (s.lineRk k m) (s.lineBank k m)

def State.shadow (s : State) (k b : Nat) : Shadow := SMap.get {} (s.dchan k).shadow b
def State.modShadow (s : State) (k b : Nat) (f : Shadow → Shadow) : State :=
  s.modDchan k fun d => { d with shadow := SMap.modify {} d.shadow b f }

/-- 2 DPC: DDR5-5200, MCLK at 1.3 GHz (R326). -/
def State.slowDimm (s : State) (k : Nat) : Bool := decide (s.fld ⟨memReg k 8, 5, 5⟩ = 1)
/-- MCLK count of channel k at a tick. -/
def State.mclk (s : State) (k : Nat) (t : Nat) : Nat := if s.slowDimm k then t * 13 / 4 else t * 4

/-- Counter m of channel k (Table 13.9). -/
def State.memCount (s : State) (k m : Nat) : State := s.count (memReg k (0x80 + 4 * m))

/-! ## The Shadow table: R345 to R349 -/

/-- A census runs on channel k. -/
def State.censusOn (s : State) (k : Nat) : Bool := decide (s.fld ⟨memReg k 0x48, 4, 3⟩ = 1)
/-- Protective entries of a table. -/
def State.shadowN (s : State) (k : Nat) : Nat := if s.censusOn k then 16 else 32
def State.shadowThresh (s : State) (k : Nat) : Nat := max 64 (s.fld ⟨memReg k 0x40, 13, 0⟩)
def State.shadowRadius (s : State) (k : Nat) : Nat :=
  match s.fld ⟨memReg k 0x40, 15, 14⟩ with
  | 1 => 1
  | 0 => 1
  | _ => 2

/-- COUNT of entry i; an empty entry counts 0. -/
def Shadow.countAt (t : Shadow) (i : Nat) : Nat := ((SMap.find? t.rows i).map (·.2)).getD 0
/-- The entry of row r. -/
def Shadow.entryOf (t : Shadow) (n r : Nat) : Option Nat :=
  (List.range n).find? fun i => decide ((SMap.find? t.rows i).map (·.1) = some r)

/-- The table of n entries after an ACT of row r (R345). -/
def Shadow.act (t : Shadow) (n r : Nat) : Shadow :=
  match t.entryOf n r with
  | some i => { t with rows := SMap.put i (r, t.countAt i + 1) t.rows }
  | none =>
    match (List.range n).find? fun i => decide (t.countAt i ≤ t.spill) with
    | some i => { t with rows := SMap.put i (r, t.spill + 1) t.rows }
    | none => { t with spill := t.spill + 1 }

/-- The rows that a neighbour refresh of row r activates (R346): those around it, none where it is a directed RFM. -/
def State.nrefRows (s : State) (k r : Nat) : List Nat :=
  let rad := s.shadowRadius k
  if s.fld ⟨memReg k 0x40, 16, 16⟩ = 1 then []
  else (List.range (2 * rad + 1)).filterMap fun j =>
    if j = rad ∨ r + j < rad ∨ 2 ^ s.rowBits k ≤ r + j - rad then none else some (r + j - rad)
/-- Neighbour refresh of row r in bank b: it is counted, the bank is precharged, and COUNT becomes SPILL (R345, R346). -/
def State.nref (s : State) (k b r : Nat) : State :=
  (s.modShadow k b fun t =>
    { t with row := none, rows := match t.entryOf (s.shadowN k) r with
               | some i => SMap.put i (r, t.spill) t.rows
               | none => t.rows }).memCount k 7

/-- Activates after which a bank of channel k has an RFM (R348). -/
def raaMax (k : Nat) : Nat := max 1 (Config.raaLimit k)
/-- The bank's own count of activates on a module that requires RFM (R348): at the module's figure an RFM is issued, which
precharges the bank. -/
def State.countRaa (s : State) (k b : Nat) : State :=
  if s.fld ⟨memReg k 8, 6, 6⟩ = 0 then s
  else s.modShadow k b fun t => if t.raa + 1 < raaMax k then { t with raa := t.raa + 1 } else { t with raa := 0, row := none }

/-- The estimate of row r's entry has reached THRESH. -/
def State.rowHot (s : State) (k b r : Nat) : Bool := match (s.shadow k b).entryOf (s.shadowN k) r with
  | some i => decide (s.shadowThresh k ≤ (s.shadow k b).countAt i)
  | none => false
/-- A sweep begins once SPILL has reached THRESH (R345, R347). -/
def State.sweepTest (s : State) (k b : Nat) : State :=
  if s.shadowThresh k ≤ (s.shadow k b).spill ∧ (s.shadow k b).sweeping = false then
    ((s.modShadow k b fun t => { t with sweeping := true }).memCount k 8).err
      { src := 9, code := 5, cls := 0, unit := k, info := [b % 32] }
  else s
/-- One ACT of row r in bank b of channel k (R345), and the rows that its neighbour refresh activates. -/
def State.actOne (s : State) (k b r : Nat) : List Nat × State :=
  let s := (s.modShadow k b fun t => { t.act (s.shadowN k) r with row := some r }).countRaa k b
  if s.rowHot k b r then (s.nrefRows k r, (s.nref k b r).sweepTest k b) else ([], s.sweepTest k b)
/-- ACTs of rows one after another: a neighbour refresh comes before everything else of its bank (R346). While SPILL is at THRESH every
ACT brings the next, and R347 serves requests meanwhile: what is left after 4,096 stands in `todo`, behind one request (DESIGN CHOICE,
notes/assumptions/18.md). -/
def State.actRows (s : State) (k b : Nat) : Nat → List Nat → State
  | _, [] => s
  | 0, rs => s.modShadow k b fun t => { t with todo := rs }
  | n + 1, r :: rs => (s.actOne k b r).2.actRows k b n ((s.actOne k b r).1 ++ rs)
/-- The rows of a neighbour refresh, each with its PRE. -/
def State.actAll (s : State) (k b : Nat) (rs : List Nat) : State :=
  if rs = [] then s else (s.actRows k b 4096 rs).modShadow k b fun t => { t with row := none }
/-- An ACT of row r with the neighbour refreshes that follow from it. -/
def State.act (s : State) (k b r : Nat) : State := (s.actOne k b r).2.actAll k b (s.actOne k b r).1

/-- The rows that a neighbour refresh still activates, before the bank's next request (R346). -/
def State.doTodo (s : State) (k b : Nat) : State :=
  (s.modShadow k b fun t => { t with todo := [] }).actAll k b (s.shadow k b).todo

/-- A row that a neighbour refresh or an RFM has precharged is opened by one more ACT; what that ACT brings comes behind the request
(DESIGN CHOICE, notes/assumptions/18.md). -/
def State.reopen (s : State) (k b r : Nat) : State :=
  if (s.shadow k b).row = some r then s
  else
    let x := s.actOne k b r
    x.2.modShadow k b fun t => { t with row := some r, todo := t.todo ++ x.1 }
/-- Open the row of channel line m; whether an ACT was needed. -/
def State.openRow (s : State) (k m : Nat) : Bool × State :=
  let b := s.lineBankKey k m
  let r := s.lineRow k m
  let s := s.doTodo k b
  if (s.shadow k b).row = some r then (false, s) else (true, (s.act k b r).reopen k b r)

/-! ## Census: R350 -/

/-- Census entries after an event on row r at logical line l. -/
def censusEvent (c : SMap (Nat × Nat × Nat)) (r l : Nat) : SMap (Nat × Nat × Nat) :=
  match List.find? (fun x : Nat × Nat × Nat × Nat => decide (x.2.1 = r)) c with
  | some x => SMap.put x.1 (r, min (x.2.2.1 + 1) (2 ^ 24 - 1), l) c
  | none =>
    match (List.range 16).find? fun i => (SMap.find? c i).isNone with
    | some i => SMap.put i (r, 1, l) c
    | none =>
      match c.foldl (fun (best : Option (Nat × Nat × Nat × Nat)) x =>
        match best with
        | none => some x
        | some b => if x.2.2.1 < b.2.2.1 then some x else best) none with
      | some x => SMap.put x.1 (r, min (x.2.2.1 + 1) (2 ^ 24 - 1), l) c
      | none => c

/-- A checked access that made a column access, with an ACT or not, is a census event of the profiled slice; those of ports MOVE and
MAINT never are (R350). -/
def State.census (s : State) (port k m l : Nat) (acted : Option Bool) : State :=
  if s.censusOn k ∧ port ≠ 5 ∧ port ≠ 6 ∧ (s.line l).slice.toNat = s.fld ⟨memReg k 0x44, 5, 0⟩
      ∧ (if s.fld ⟨memReg k 0x44, 6, 6⟩ = 0 then acted ≠ none else acted = some true) then
    s.modShadow k (s.lineBankKey k m) fun t => { t with census := censusEvent t.census (s.lineRow k m) l }
  else s

/-! ## Tags: R333 to R335 -/

/-- A requester: slice, access kind, port of Table 13.4 with the deadline that it carries (R336), master of its error records
(Table 18.2) with the queue tag of a coprocessor (Table 1.2), and the operation whose lines have been visited. -/
structure Requester where
  slice : Nat
  octet : Bool := false
  port : Nat
  dl : Option Pair := none
  mkind : Nat := 0
  mid : Nat := 0
  tag : Option Nat := none
  held : Option Holder := none
  deriving DecidableEq, Repr

/-- MEM.SHARE_RD or SHARE_WR grants slice i (R334). -/
def State.shared (s : State) (wr : Bool) (i : Nat) : Bool :=
  bit (s.reg (memGlob ((if wr then 0x10 else 0x4) + 4 * (i / 28)))) (i % 28)

def State.ownerTest (s : State) (wr : Bool) (r : Requester) (x : Line) : Bool :=
  decide (r.slice = 0) || decide (x.slice.toNat = r.slice) || (decide (x.slice.toNat = 63) && s.shared wr r.slice)

/-- How a line is accessed (the columns of Table 13.3). -/
inductive Touch where
  | read | part | whole
  deriving DecidableEq, Repr

/-- The tag check (R334, Table 13.3): the cause that the access ends in, 7 TAG-FAULT or 8 POISON. -/
def State.tagCheck (s : State) (r : Requester) (l : Nat) (t : Touch) : Option Nat :=
  let x := s.line l
  let k := if r.octet then 2 else 1
  if s.ownerTest (decide (t ≠ .read)) r x then
    if x.kind = 0 ∨ x.kind.toNat = k then none
    else match t with
      | .whole => none
      | .part => some 7
      | .read => if x.kind = 3 then some 8 else some 7
  else some 7

/-- Tag bits of a line (R6). -/
def Line.tag (x : Line) : Nat := 4 * x.slice.toNat + x.kind.toNat

/-- A failed access is counted and recorded; a POISON of an uncorrectable error that is recorded as such (`ue`) is not recorded
again (R335). -/
def State.lineFault (s : State) (r : Requester) (k l cause : Nat) (ue : Bool) : State :=
  if ue ∧ cause = 8 then s.memCount k 4
  else (s.memCount k 4).err
    { src := 9, code := if cause = 8 then 7 else 3, cls := 1, unit := k, slice := some r.slice,
      mkind := r.mkind, mid := r.mid, info := [l % 2 ^ 28, l / 2 ^ 28, (s.line l).tag] }

/-- A data burst of a port, among the last 256 (R337). -/
def State.burst (s : State) (k port : Nat) : State :=
  s.modDchan k fun d => { d with bursts := (BitVec.ofNat 3 port :: d.bursts).take 256 }
/-- A write of channel line m stands in the write queue (R339). -/
def State.wrPending (s : State) (k m : Nat) : Bool := (s.dchan k).wq.any fun w => decide (w.m = some m)
/-- The write queue takes line m. -/
def State.wrRoom (s : State) (k m : Nat) : Bool := s.wrPending k m || decide ((s.dchan k).wq.length < 64)
/-- A written line enters the write queue; one that finds it full waits at its port. -/
def State.putWrite (s : State) (k : Nat) (w : DReq) : State :=
  s.modDchan k fun d => if d.wq.length < 64 then { d with wq := d.wq ++ [w] } else { d with reqs := d.reqs ++ [w] }
/-- Line l goes to the write queue as channel line m, once (R339). -/
def State.pushWrite (s : State) (r : Requester) (k m l : Nat) : State :=
  if s.wrPending k m then s
  else s.putWrite k
    { line := l, m := some m, op := .drain, slice := BitVec.ofNat 6 r.slice, port := BitVec.ofNat 3 r.port, mkind := r.mkind,
      mid := r.mid, tag := r.tag, dl := r.dl, arr := s.mclk k s.tick.toNat, reply := .none }

/-- An access of channel line m: it is counted, and opens its row for a data burst unless the line stands in the write queue
(R339). -/
def State.lineOpen (s : State) (r : Requester) (k m : Nat) (wr : Bool) : Option Bool × State :=
  let s := s.memCount k (b2n wr)
  if s.wrPending k m then (none, s) else (some (s.openRow k m).1, (s.openRow k m).2.burst k r.port)

/-- The visit of line l that the requester's operation has made. -/
def State.visitOf (s : State) (r : Requester) (k l : Nat) : Option Visit :=
  r.held.bind fun h => (s.dchan k).visits.find? fun v => decide (v.h = h) && decide (v.line = l)
/-- The access reaches line l: it has visited it, or opens it now; whether that took an ACT, and met an uncorrectable error. -/
def State.lineEnter (s : State) (r : Requester) (k m l : Nat) (wr : Bool) : (Option Bool × Bool) × State :=
  match s.visitOf r k l with
  | some v => ((v.acted, v.ue), s)
  | none => (((s.lineOpen r k m wr).1, false), (s.lineOpen r k m wr).2)

/-! ## Line accesses -/

inductive LineRes where
  | ok (data : BitVec 504)
  | fault (cause : Nat)
  deriving DecidableEq, Repr

/-- Word i of a line, and its pair. -/
def lineWord (d : BitVec 504) (i : Nat) : Word := d.extractLsb' (14 * i) 14
def linePair (d : BitVec 504) (i : Nat) : Pair := d.extractLsb' (14 * i) 28
def linePut (d : BitVec 504) (i : Nat) (pair : Bool) (v : Pair) : BitVec 504 :=
  ins d (14 * i + (if pair then 27 else 13)) (14 * i) v.toNat

/-- A read of line l at channel line m of channel k, which the access has reached with or without an ACT and an uncorrectable
error. -/
def State.readAt (s : State) (r : Requester) (k m l : Nat) (acted : Option Bool) (ue : Bool) : LineRes × State :=
  match (if ue then some 8 else s.tagCheck r l .read) with
  | some c => (.fault c, s.lineFault r k l c ue)
  | none => (.ok (s.line l).data, s.census r.port k m l acted)
/-- Read a line. A line without storage answers UNMAPPED (R328). -/
def State.lineRead (s : State) (r : Requester) (l : Nat) : LineRes × State :=
  match s.place l with
  | none => (.fault 6, s)
  | some (k, m) => (s.lineEnter r k m l false).2.readAt r k m l (s.lineEnter r k m l false).1.1 (s.lineEnter r k m l false).1.2

/-- A write of part of a line that the access has reached (`f` of its data), or of all of it. -/
def State.writeAt (s : State) (r : Requester) (k m l : Nat) (acted : Option Bool) (ue : Bool) (t : Touch) (f : BitVec 504 → BitVec 504) :
    LineRes × State :=
  match (if ue ∧ t ≠ .whole then some 7 else s.tagCheck r l t) with
  | some c => (.fault c, s.lineFault r k l c ue)
  | none =>
    (.ok 0, ((s.census r.port k m l acted).pushWrite r k m l).modLine l fun x =>
      { x with kind := if r.octet then 2 else 1, data := f x.data })
/-- Write part of a line or all of it. -/
def State.lineWrite (s : State) (r : Requester) (l : Nat) (t : Touch) (f : BitVec 504 → BitVec 504) : LineRes × State :=
  match s.place l with
  | none => (.fault 6, s)
  | some (k, m) => (s.lineEnter r k m l true).2.writeAt r k m l (s.lineEnter r k m l true).1.1 (s.lineEnter r k m l true).1.2 t f

/-- CAS of the pair at word i of a line that the access has reached (R309): both checks come before the read and the write. -/
def State.casAt (s : State) (r : Requester) (k m l : Nat) (acted : Option Bool) (ue : Bool) (i : Nat) (cmp new : Pair) :
    Except Nat (Pair × Bool) × State :=
  match (if ue then some 8 else (s.tagCheck r l .read).orElse fun _ => s.tagCheck r l .part) with
  | some c => (.error c, s.lineFault r k l c ue)
  | none =>
    let s := s.census r.port k m l acted
    let old := linePair (s.line l).data i
    if old = cmp then
      (.ok (old, true), ((s.memCount k 1).pushWrite r k m l).modLine l fun x =>
        { x with kind := 1, data := linePut x.data i true new })
    else (.ok (old, false), s)

/-! ## ECC: R356 -/

/-- Log the first error since ECC_INFO.VALID was cleared. -/
def State.eccLog (s : State) (k m l port : Nat) (ue : Bool) (dev : Nat) : State :=
  if s.fld ⟨memReg k 0x6C, 0, 0⟩ = 1 then s
  else
    ((s.setReg (memReg k 0x64) (BitVec.ofNat 28 (l % 2 ^ 28))).setReg (memReg k 0x68) (BitVec.ofNat 28 (l / 2 ^ 28))).setReg
      (memReg k 0x6C) (BitVec.ofNat 28 (1 + 2 * b2n ue + 4 * dev + 64 * lineSc m + 128 * s.lineRk k m + 512 * port))

/-- MAINT: scrub, wipe and write-backs. -/
def asMaint : Requester := { slice := 0, port := 6 }
/-- A correctable error of line l: the corrected line is written back through MAINT (R356). -/
def State.eccCe (s : State) (k m l port dev : Nat) : State :=
  (((s.memCount k 2).eccLog k m l port false dev).pushWrite asMaint k m l).err
    { src := 9, code := 1, cls := 0, unit := k, info := [l % 2 ^ 28, l / 2 ^ 28] }

/-- An uncorrectable error (R356): the line is written poisoned, with the extent's owner as its slice. DEV is a free value:
it names the device of a correctable error only. -/
def State.eccUe (s : State) (k m l port : Nat) : State :=
  let (d, s) := s.freshVal
  let o := if (s.extent (l / 2 ^ 24)).valid then (s.extent (l / 2 ^ 24)).owner else 0
  ((((s.memCount k 3).eccLog k m l port true (ext d 3 0)).pushWrite asMaint k m l).modLine l fun x =>
    { x with slice := o, kind := 3 }).err
    { src := 9, code := 2, cls := 1, unit := k, slice := some o.toNat, info := [l % 2 ^ 28, l / 2 ^ 28] }

/-- ACTs of maintenance over channel lines a to b of channel k in ascending order, each row of a bank once (R345); the last bursts
are those of its port. A block of 2^13 lines has one row of each bank (R332). -/
def State.sweepRows (s : State) (port k a b : Nat) : State :=
  if b ≤ a then s
  else
    (s.each ((List.range (b / 2 ^ 13 + 1 - a / 2 ^ 13)).map (· + a / 2 ^ 13)) fun s n =>
      s.each ((List.range 4).flatMap fun i => (List.range 16).map fun j => n * 2 ^ 13 + i * 2 ^ 11 + j) fun s m =>
        if m < b ∧ a < m + 2 ^ 11 then (s.openRow k m).2 else s).modDchan k fun d =>
      { d with bursts := (List.replicate (min (b - a) 256) (BitVec.ofNat 3 port) ++ d.bursts).take 256 }

/-- Words of a DRAM word address (R328). -/
def lineOf (a : Nat) : Nat := a / 36
def wordIn (a : Nat) : Nat := a % 36

end Sys2Proof.Machine
end

