-- ==== Sys2Proof/Machine/Power.lean ====
section
/-! DEFINITION. Power.lean: what an access and a Glint do to a power domain (spec/16 R418, R419, R421). The commands
of the power controller are in Machine/Pwr.lean. -/

namespace Sys2Proof.Machine

def pwrOff (o : Nat) : Nat := 0x2C00000 + o
/-- An entry of domain d is in progress. -/
def State.entering (s : State) (d : Nat) : Bool := decide (s.power.entering.map (·.1) = some d)
def State.waking (s : State) (d : Nat) : Bool := s.power.waking.any fun x => decide (x.1 = d)
/-- Domain d serves accesses. -/
def State.domOn (s : State) (d : Nat) : Bool := decide (s.dom d = 0) && !s.entering d

/-- A wake record (R421): the last one moves to PREV_WAKE. -/
def State.wakeRecord (s : State) (src d : Nat) (master : Word) (test fatal : Bool) : State :=
  let s := s.setReg (pwrOff 0x208) (s.reg (pwrOff 0x200))
  (s.setReg (pwrOff 0x200)
    (BitVec.ofNat 28 (src + 16 * d + 256 * master.toNat + 2 ^ 22 * b2n test + 2 ^ 23 * b2n fatal))).setReg
    (pwrOff 0x204) (BitVec.ofNat 28 s.uclk)

/-- Domain d begins to wake; a domain that is waking already does not begin again (R423). -/
def State.beginWake (s : State) (src d : Nat) (master : Word) (test : Bool) : State :=
  if s.waking d then s
  else
    let s := (s.wakeRecord src d master test false).setFld ⟨pwrOff (0x100 + 4 * d), 4, 4⟩ 1
    { s with power := { s.power with waking := s.power.waking ++ [(d, BitVec.ofNat 4 src)] } }

/-- Wake limit of a state, and entry time of a state of domain d, in ticks (Table 16.2). -/
def wakeTicks : Nat → Nat
  | 1 => 800
  | 2 => 20000
  | 3 => 80000
  | 4 => 40000
  | _ => 0
def entryTicks (d : Nat) : Nat → Nat
  | 1 => 32
  | 2 => if d ≤ 6 then 12000 else 800
  | 3 => 2000
  | 4 => 2000
  | _ => 0
/-- Part of the wake limit that domain d has in it: an entry in progress, and its wake (R418). -/
def State.wakePart (s : State) (d : Nat) : Nat := match s.power.entering with
  | some (e, t) => if e = d then entryTicks d t.toNat + wakeTicks t.toNat else wakeTicks (s.dom d)
  | none => wakeTicks (s.dom d)
/-- Wake limit of an access to domain d: the sum over every domain that must wake for it (R418). -/
def State.wakeLimit (s : State) (d : Nat) : Nat :=
  s.wakePart d + (if d = 1 ∨ d = 0 ∨ d = 2 then 0 else s.wakePart 1)

/-- Glint source `src` fires for domain d (R419); `test` when GLINT_TEST fires it (R421). -/
def State.fireGlint (s : State) (src d : Nat) (master : Word) (test : Bool) : State :=
  if bit (s.reg (pwrOff (0x140 + 4 * d))) src = false then s
  else if s.domOn d ∨ s.entering d then
    let s := s.setFld ⟨pwrOff (0x180 + 4 * d), src, src⟩ 1
    let l := s.power.tests.filter fun x => decide (x ≠ (src, d))
    { s with power := { s.power with tests := if test then (src, d) :: l else l } }
  else s.beginWake src d master test

/-- Glint source `src` fires for every domain that has it enabled. -/
def State.fireAll (s : State) (src : Nat) : State := s.each (List.range 15) fun s d => s.fireGlint src d 0 false

/-- An access to domain d that is not ON: BASE wakes first when the path runs through it (R418). `src` is 3 ACCESS
or 4 DRAM. -/
def State.domAccess (s : State) (src d : Nat) (master : Word) : State :=
  if s.domOn d ∧ (d = 0 ∨ d = 2 ∨ s.domOn 1) then s
  else
    let s := if d = 0 ∨ d = 2 ∨ s.domOn 1 then s else s.fireGlint 3 1 master false
    if s.domOn d then s else s.fireGlint src d master false

/-- The domain of the register at a byte offset of BAR0 (Tables 1.7, 16.1). LUM registers other than CHAN_CFG are
taken with BASE, the global MEM registers with the channel in whose window they lie (notes/assumptions/10.md). -/
def domOfReg (o : Nat) : Nat :=
  if o < 0x400000 then 1
  else if o < 0x800000 then 7 + (o - 0x400000) / 0x100000
  else if o < 0xC00000 then 3 + (o - 0x800000) / 0x100000
  else if o < 0x1000000 then 3 + (o - 0xC00000) / 0x100000
  else if o < 0x1400000 then 3 + (o - 0x1000000) / 0x100000
  else if o < 0x1800000 then
    if 0x1401000 ≤ o ∧ o < 0x1401800 then 3 + (o - 0x1401000) / 0x200 else 1
  else if o < 0x1A00000 then if o < 0x1820000 then 3 + (o - 0x1800000) / 0x8000 else 1
  else if o < 0x2000000 then 1
  else if o < 0x2400000 then 11 + (o - 0x2000000) / 0x100000
  else if o < 0x2800000 then 1
  else if o < 0x2C00000 then 2
  else if o < 0x3400000 then 0
  else 1

/-- Every domain on the way to the register at an offset serves accesses (R418). After the loss of REFCLK_SYS, AON and
HOST alone answer (R468). -/
def State.regAwake (s : State) (o : Nat) : Bool :=
  let d := domOfReg o
  s.domOn d && (decide (d = 0) || decide (d = 2) || (s.domOn 1 && !s.pins.cclkLost))

/-- A reset input is low (R464). -/
def State.inReset (s : State) : Bool := s.pins.porLow || s.pins.sysLow
/-- A register that HST answers now: all, but GEN and ERR alone after step 4 of the fatal path (R454), GEN and BOOT_STATUS
alone when boot has stopped (R457), GEN alone in SCRAPPED (R443), and none while PERST_N holds the link down (R466). -/
def State.answered (s : State) (o : Nat) : Bool :=
  if s.inReset ∨ s.pins.perstLow then false
  else if 4 ≤ s.fatal then decide (o < 0x100000) || (decide (0x3400000 ≤ o) && decide (o < 0x3800000))
  else if s.boot.stopped then decide (o < 0x100000) || (decide (o = 0x2E00004) && decide (s.boot.otp.started.getLsbD 3 = false))
  else true
/-- A register that software writes now (R443, R454, R457). -/
def State.writable (s : State) (o : Nat) : Bool := s.answered o && decide (s.fatal < 4)

/-- Identity of a master in a wake record (Table 12.1); the host on a register is the PF. -/
def masterWord (m : Master) : Word := match m with
  | .host => 0x1000#14
  | .thread t => BitVec.ofNat 14 t.val
  | .umbra => 0x2000#14

/-- An access that meets a domain that is not ON stalls, and the domain wakes (R418). -/
def State.stallAcc (s : State) (m : Master) (wr : Bool) (o : Nat) (v : BitVec 32) : State :=
  let s := s.domAccess 3 (domOfReg o) (masterWord m)
  { s with power := { s.power with
      stalled := s.power.stalled ++ [{ domain := domOfReg o, m := m, wr := wr, off := BitVec.ofNat 26 o, v := v }] } }

/-- A row of the table that is a write of `v` to the register at `o`: it waits for its domain (R418), and is ignored
where no register is written now. -/
def State.regRow (s : State) (o : Nat) (v : Pair) (f : State → State) : State :=
  if s.writable o = false then s else if s.regAwake o then f s else s.stallAcc .host true o (v.setWidth 32)

/-- Umbra acts: no reset holds the device, and boot has not stopped (R432, R443). -/
def State.umbraActs (s : State) : Bool := !s.inReset && !s.boot.stopped
/-- A row of the table that is a write of `v` by Umbra to the register at `o`: it waits for its domain (R418, R468). -/
def State.umbraRow (s : State) (o : Nat) (v : Pair) (f : State → State) : State :=
  if s.umbraActs = false then s else if s.regAwake o then f s else s.stallAcc .umbra true o (v.setWidth 32)

/-- A row of the table that is a host read of the register at `o`: what it returns stands in `readData`. -/
def State.readRow (s : State) (o : Nat) (f : State → Pair × State) : State :=
  if s.answered o = false then { s with readData := 0 }
  else if s.regAwake o then { (f s).2 with readData := (f s).1.setWidth 64 }
  else s.stallAcc .host false o 0

end Sys2Proof.Machine
end

