-- ==== Sys2Proof/Machine/Operands.lean ====
section
/-! DEFINITION. Operands.lean: what a Lumen instruction names (spec/07, spec/08): registers, pairs, the window,
banks and effective addresses, special registers, and the decoding of instruction words (R212, R213). -/

namespace Sys2Proof.Machine

/-! ## Registers: R185 to R187 -/

/-- Key of word i of group g. -/
def groupKey (g i : Nat) : Nat := 8 + 8 * g + i
/-- Key of register n at depth d (Table 7.1, R187). -/
def regKey (d n : Nat) : Nat :=
  if n < 8 then n else if n < 16 then groupKey (d % 11) (n - 8) else groupKey ((d + 1) % 11) (n - 16)

/-- Register n, and its write. -/
def Thread.r (x : Thread) (n : Nat) : Word := SMap.get 0 x.regs (regKey x.d n)
def Thread.setR (x : Thread) (n : Nat) (v : Word) : Thread := { x with regs := SMap.set 0 x.regs (regKey x.d n) v }
/-- The pair at even register n (R186). -/
def Thread.rp (x : Thread) (n : Nat) : Pair := pairOf (x.r n) (x.r (n + 1))
def Thread.setRp (x : Thread) (n : Nat) (v : Pair) : Thread := (x.setR n (loW v)).setR (n + 1) (hiW v)
/-- Bank register b (R193). -/
def Thread.bank (x : Thread) (b : Nat) : Pair := SMap.get 0 x.banks b
def Thread.setBank (x : Thread) (b : Nat) (v : Pair) : Thread := { x with banks := SMap.set 0 x.banks b v }

/-! ## Effective addresses: R193 -/

/-- (bB << 14) | offset. -/
def addrOf (bank : Pair) (off : Word) : WAddr := bank ++ off
/-- Displacement of 9 bits, signed, added modulo 2^14. -/
def dispOff (r : Word) (disp : BitVec 9) : Word := r + disp.signExtend 14

/-! ## Save area: R191 -/

/-- Word address of the scratch of core n (Table 1.6). -/
def scratchBase (n : Nat) : Nat := 0x3FC00000000 + n * 0x10000
/-- Word i of save slot j of thread t. -/
def saveAddr (t j i : Nat) : Nat := scratchBase (t / 8) + 0x3800 + 0x100 * (t % 8) + 8 * j + i

/-- Words of group g. -/
def Thread.group (x : Thread) (g : Nat) : List Word := (List.range 8).map fun i => SMap.get 0 x.regs (groupKey g i)
def Thread.setGroup (x : Thread) (g : Nat) (ws : List Word) : Thread :=
  { x with regs := ws.zipIdx.foldl (fun m wi => SMap.set 0 m (groupKey g wi.2) wi.1) x.regs }

/-- One call step of the window (R189): spill group (d + 2) mod 11 when it holds a frame, then go down. -/
def State.callStep (s : State) (t : Nat) : State :=
  let x := s.thread t
  if x.spilled + 9 = x.d then
    (s.putWords (saveAddr t (x.d - 9) 0) (x.group ((x.d - 9) % 11))).modThread t fun x =>
      { x with spilled := x.spilled + 1, d := x.d + 1 }
  else s.modThread t fun x => { x with d := x.d + 1 }

/-- One ret step of the window (R189): fill frame d - 1 when it is in the save area, then go up. -/
def State.retStep (s : State) (t : Nat) : State :=
  let x := s.thread t
  if x.spilled = x.d then
    s.modThread t fun x =>
      { x.setGroup ((x.d - 1) % 11) (s.getWords (saveAddr t (x.d - 1) 0) 8) with spilled := x.spilled - 1, d := x.d - 1 }
  else s.modThread t fun x => { x with d := x.d - 1 }

/-! ## Special registers: R200, R204, Tables 7.5 and 7.6 -/

/-- FLAGS as five bits. -/
def Thread.flags (x : Thread) : BitVec 5 := BitVec.ofNat 5 (b2n x.z + 2 * b2n x.n + 4 * b2n x.c + 8 * b2n x.v + 16 * b2n x.u)
/-- Set all five flags; U with the value 1 also sets TSTAT.US (R197). -/
def Thread.setFlags (x : Thread) (f : BitVec 5) : Thread :=
  { x with z := bit f 0, n := bit f 1, c := bit f 2, v := bit f 3, u := bit f 4, us := x.us || bit f 4 }

def Thread.loop (x : Thread) (l : Nat) : Loop := match l with
  | 0 => x.l0
  | 1 => x.l1
  | _ => x.l2
def Thread.setLoop (x : Thread) (l : Nat) (v : Loop) : Thread := match l with
  | 0 => { x with l0 := v }
  | 1 => { x with l1 := v }
  | _ => { x with l2 := v }

/-- A special-register number of Table 7.5. -/
def srValid (n : Nat) : Bool := decide (n ≤ 16) || (decide (32 ≤ n) && decide (n ≤ 47))

/-- Special register n (0 to 16) of a thread in job mode or not. -/
def Thread.sr (x : Thread) (job : Bool) (n : Nat) : Pair :=
  match n with
  | 0 => x.flags.setWidth 28
  | 1 => BitVec.ofNat 28 (b2n x.us + 2 * b2n x.lsusp + 4 * b2n x.exc + 8 * b2n job)
  | 2 => x.ecause.setWidth 28
  | 3 => x.epcx.setWidth 28
  | 4 => x.einfo.extractLsb' 0 28
  | 5 => (x.einfo.extractLsb' 28 14).setWidth 28
  | 6 => BitVec.ofNat 28 (x.esFlags.toNat + 32 * b2n x.esUs + 64 * b2n x.esLsusp + 128 * b2n x.esRepv
      + 256 * b2n x.esImp + 512 * x.edepth.toNat)
  | 7 => x.erep.setWidth 28
  | _ =>
    if n < 11 then (x.loop (n - 8)).start.setWidth 28
    else if n < 14 then (x.loop (n - 11)).last.setWidth 28
    else (x.loop (n - 14)).count.setWidth 28

/-- Write special register n (0 to 16): RO fields and reserved bits ignore the write. -/
def Thread.setSr (x : Thread) (n : Nat) (v : Pair) : Thread :=
  match n with
  | 0 => x.setFlags (v.extractLsb' 0 5)
  | 1 => { x with us := bit v 0, lsusp := bit v 1 }
  | 2 => x
  | 3 => { x with epcx := v.extractLsb' 0 16 }
  | 4 => x
  | 5 => x
  | 6 => { x with esFlags := v.extractLsb' 0 5, esUs := bit v 5, esLsusp := bit v 6, esRepv := bit v 7 }
  | 7 => { x with erep := loW v }
  | _ =>
    if n < 11 then x.setLoop (n - 8) { x.loop (n - 8) with start := v.extractLsb' 0 16 }
    else if n < 14 then x.setLoop (n - 11) { x.loop (n - 11) with last := v.extractLsb' 0 16 }
    else x.setLoop (n - 14) { x.loop (n - 14) with count := v.extractLsb' 0 16 }

/-- XREG n lies in the save area: its frame has been spilled (R204). -/
def Thread.xSpilled (x : Thread) (n : Nat) : Bool := decide (x.edepth.toNat + n / 8 < x.spilled)
def State.xreg (s : State) (t n : Nat) : Word :=
  let x := s.thread t
  if x.xSpilled n then s.getWord (saveAddr t (x.edepth.toNat + n / 8) (n % 8))
  else SMap.get 0 x.regs (groupKey ((x.edepth.toNat + n / 8) % 11) (n % 8))
def State.setXreg (s : State) (t n : Nat) (v : Word) : State :=
  let x := s.thread t
  if x.xSpilled n then s.putWord (saveAddr t (x.edepth.toNat + n / 8) (n % 8)) v
  else s.modThread t fun x => { x with regs := SMap.set 0 x.regs (groupKey ((x.edepth.toNat + n / 8) % 11) (n % 8)) v }

/-- Special register or XREG of thread t as MFS, MTS and debug use it (R200, R269). -/
def State.mfs (s : State) (t n : Nat) : Pair :=
  if n < 32 then (s.thread t).sr (!s.system t) n else (s.xreg t (n - 32)).setWidth 28
def State.mts (s : State) (t n : Nat) (v : Pair) : State :=
  if n < 32 then s.modThread t fun x => x.setSr n v else s.setXreg t (n - 32) (loW v)

/-! ## Instruction words: R212, R213, Tables 8.1 and 8.2 -/

/-- Major opcode. -/
def opc (w : Pair) : Nat := ext w 27 22
/-- The minor code: FN, L, F or the channel FN. -/
def minorOf (w : Pair) : Nat :=
  match opc w with
  | 0x01 => ext w 6 3
  | 0x02 => ext w 6 3
  | 0x10 => ext w 6 3
  | 0x1F => ext w 21 21
  | 0x29 => ext w 16 15
  | 0x2A => ext w 21 21
  | 0x2C => ext w 19 19
  | _ => 0

/-- Table 8.1 and the minor codes of Tables 8.6, 8.7 and R239 define the instruction. -/
def defined (w : Pair) : Bool :=
  let o := opc w
  let f := minorOf w
  if o = 0x01 then decide (f ≤ 14)
  else if o = 0x02 then [0, 2, 4, 5, 6, 8, 9, 10, 11, 12, 14].contains f
  else if o = 0x10 then decide (f ≤ 8)
  else if o = 0x29 then decide (f ≤ 2)
  else (decide (3 ≤ o) && decide (o ≤ 0x0F)) || (decide (0x14 ≤ o) && decide (o ≤ 0x1A)) ||
    (decide (0x1C ≤ o) && decide (o ≤ 0x2A)) || (decide (0x2C ≤ o) && decide (o ≤ 0x33))

/-- A register field, a pair field, and a field that is zero. -/
def regOk (n : Nat) : Bool := decide (n < 24)
def pairOk (n : Nat) : Bool := decide (n < 24) && decide (n % 2 = 0)

/-- Channel numbers of Table 9.2. -/
def chanNumOk (n : Nat) : Bool := decide (n < 0x40) || (decide (0x100 ≤ n) && decide (n ≤ 0x104)) || decide (0x200 ≤ n)

/-- No field of a defined instruction raises ILL-FIELD (R213, Table 8.2, R218 to R225, R240, R247). -/
def fieldsOk (w : Pair) : Bool :=
  let f := ext w
  let z (hi lo : Nat) : Bool := decide (ext w hi lo = 0)
  let r3 := regOk (f 21 17) && regOk (f 16 12) && regOk (f 11 7)
  match opc w with
  | 0x01 => r3 && z 2 0 && (if minorOf w = 12 ∨ minorOf w = 13 then z 21 17 else true)
      && (if minorOf w = 14 then z 11 7 else true)
  | 0x02 => pairOk (f 21 17) && pairOk (f 16 12) && pairOk (f 11 7) && z 2 0
      && (if minorOf w = 12 then z 21 17 else true) && (if minorOf w = 14 then z 11 7 else true)
  | 0x03 => z 21 0
  | 0x04 => regOk (f 21 17) && regOk (f 16 12)
  | 0x05 => regOk (f 21 17) && regOk (f 16 12)
  | 0x06 => regOk (f 21 17) && regOk (f 16 12)
  | 0x07 => regOk (f 21 17) && regOk (f 16 12)
  | 0x08 => z 21 17 && regOk (f 16 12)
  | 0x09 => z 3 0 && (if f 11 9 < 4 then decide (f 8 4 ≤ 13) && regOk (f 21 17) && regOk (f 16 12)
      else decide (f 8 4 ≤ 27) && pairOk (f 21 17) && pairOk (f 16 12))
  | 0x0A => regOk (f 21 17) && z 2 0
  | 0x0B => pairOk (f 21 17) && regOk (f 16 12) && regOk (f 11 7) && z 5 0
  | 0x0C => regOk (f 21 17) && regOk (f 16 12) && decide (f 11 8 + f 7 4 + 1 ≤ 14) && z 2 0
  | 0x0D => regOk (f 21 17) && regOk (f 16 12) && decide (f 11 8 + f 7 4 + 1 ≤ 14) && z 3 0
  | 0x0E => regOk (f 21 17) && (if f 11 11 = 1 then pairOk (f 16 12) else regOk (f 16 12)) && z 10 0
  | 0x0F => regOk (f 21 17) && regOk (f 16 12) && pairOk (f 11 7) && z 6 0
  | 0x10 => r3 && z 2 0 && (if 6 ≤ minorOf w then z 11 7 else true)
  | 0x14 => regOk (f 21 17) && regOk (f 13 9)
  | 0x15 => regOk (f 21 17) && regOk (f 13 9)
  | 0x16 => pairOk (f 21 17) && regOk (f 13 9)
  | 0x17 => pairOk (f 21 17) && regOk (f 13 9)
  | 0x18 => (if 2 ≤ f 8 7 then pairOk (f 21 17) else regOk (f 21 17)) && regOk (f 13 9) && z 6 0
  | 0x19 => z 18 17 && pairOk (f 16 12) && z 11 0
  | 0x1A => pairOk (f 21 17) && z 13 0
  | 0x1C => z 17 16
  | 0x1D => z 21 16
  | 0x1E => z 21 16
  | 0x1F => z 20 17 && pairOk (f 16 12) && z 11 0
  | 0x20 => z 21 0
  | 0x21 => z 21 0
  | 0x22 => decide (f 21 20 ≤ 2) && (if f 19 19 = 1 then true else regOk (f 18 14) && z 13 9)
  | 0x23 => if f 21 21 = 1 then z 6 0 else regOk (f 20 16) && z 15 0
  | 0x24 => z 21 0
  | 0x25 => z 20 0
  | 0x26 => regOk (f 21 17) && (if f 2 1 = 3 then z 16 14 && z 13 9 else regOk (f 13 9))
      && (if f 8 8 = 1 then pairOk (f 7 3) else z 7 3) && z 0 0
  | 0x27 => regOk (f 21 17) && z 16 16
  | 0x28 => z 21 17 && regOk (f 16 12) && z 11 0
  | 0x29 => (if minorOf w = 2 then z 21 17 else regOk (f 21 17)) && chanNumOk (f 14 5) && z 4 0
  | 0x2A => if f 21 21 = 1 then z 17 0 else !z 20 13 && regOk (f 12 8) && z 7 0
  | 0x2C => decide (f 21 20 ≤ 2) && z 18 0
  | 0x2D => decide (f 21 20 ≤ 2) && pairOk (f 12 8) && (if f 13 13 = 1 then true else z 7 5) && regOk (f 4 0)
  | 0x2E => decide (f 21 20 ≤ 2) && pairOk (f 18 14) && z 7 0
  | 0x2F => decide (f 21 20 ≤ 2) && decide (f 19 18 ≤ 1) && z 17 16
  | 0x30 => pairOk (f 21 17) && regOk (f 13 9) && pairOk (f 8 4) && z 3 0
  | 0x31 => pairOk (f 21 17) && decide (f 16 13 ≤ 6) && z 12 0
  | 0x32 => pairOk (f 21 17) && srValid (f 16 11) && z 10 0
  | 0x33 => pairOk (f 21 17) && srValid (f 16 11) && z 10 0
  | _ => false

/-- What decoding raises, from the 28 bits alone: 1 ILL-OP, 2 ILL-FIELD (R213). -/
def decodeFault (w : Pair) : Option Nat :=
  if defined w then (if fieldsOk w then none else some 2) else some 1

/-- The instruction may not follow REP (R209): a transfer of control, a loop register write, or REP. -/
def repConflict (w : Pair) : Bool :=
  match opc w with
  | 0x1C => true
  | 0x1D => true
  | 0x1E => true
  | 0x1F => true
  | 0x20 => true
  | 0x21 => true
  | 0x22 => true
  | 0x23 => true
  | 0x24 => true
  | 0x25 => true
  | 0x2F => true
  | 0x33 => decide (8 ≤ ext w 16 11) && decide (ext w 16 11 ≤ 16)
  | _ => false

end Sys2Proof.Machine
end

