-- ==== Sys2Proof/Machine/Flags.lean ====
section
/-! DEFINITION. Flags.lean: results and flags of the Lumen computations (R197, R198, R218 to R225). A computation
answers its result at its width and the thread with the flags it names changed. -/

namespace Sys2Proof.Machine

/-- The condition codes (Table 7.4). -/
def Thread.cond (x : Thread) (c : Nat) : Bool :=
  match c with
  | 0 => x.z
  | 1 => !x.z
  | 2 => x.c
  | 3 => !x.c
  | 4 => x.c || x.z
  | 5 => !x.c && !x.z
  | 6 => x.n != x.v
  | 7 => x.n == x.v
  | 8 => x.z || x.n != x.v
  | 9 => !x.z && x.n == x.v
  | 10 => x.n
  | 11 => !x.n
  | 12 => x.v
  | 13 => !x.v
  | 14 => x.u
  | _ => !x.u

/-- Z and N of a result (Table 7.3). -/
def Thread.zn {w : Nat} (x : Thread) (r : BitVec w) : Thread := { x with z := decide (r = 0), n := r.msb }

/-- a + b + cin: result, carry out of the top bit, signed overflow. -/
def addFull {w : Nat} (a b : BitVec w) (cin : Nat) : BitVec w × Bool × Bool :=
  let u := a.toNat + b.toNat + cin
  let i : Int := a.toInt + b.toInt + cin
  let r := BitVec.ofNat w u
  (r, decide (2 ^ w ≤ u), decide (r.toInt ≠ i))

/-- a − b − bin: result, borrow, signed overflow. -/
def subFull {w : Nat} (a b : BitVec w) (bin : Nat) : BitVec w × Bool × Bool :=
  let i : Int := a.toInt - b.toInt - bin
  let r := a - b - BitVec.ofNat w bin
  (r, decide (a.toNat < b.toNat + bin), decide (r.toInt ≠ i))

/-- Flags Z N C V of an addition or subtraction. -/
def Thread.zncv {w : Nat} (x : Thread) (r : BitVec w × Bool × Bool) : Thread :=
  { x.zn r.1 with c := r.2.1, v := r.2.2 }

/-- Shifts (R219): the result and the last bit shifted out; kind 0 SHL, 1 SHR, 2 SAR, 3 ROL. -/
def shiftOf {w : Nat} (kind : Nat) (a : BitVec w) (n : Nat) : BitVec w × Bool :=
  match kind with
  | 0 => (a <<< n, decide (1 ≤ n) && decide (n ≤ w) && a.getLsbD (w - n))
  | 1 => (a >>> n, decide (1 ≤ n) && decide (n ≤ w) && a.getLsbD (n - 1))
  | 2 => (a.sshiftRight n, a.getLsbD (min n w - 1))
  | _ => (a.rotateLeft (n % w), (a.rotateLeft (n % w)).getLsbD 0)

/-- Flags Z N C of a shift; with n = 0, C keeps its value. -/
def Thread.znc {w : Nat} (x : Thread) (r : BitVec w × Bool) (n : Nat) : Thread :=
  { x.zn r.1 with c := if n = 0 then x.c else r.2 }

/-- The ALU functions with a result (Table 8.6) at width w: FN, operands, flags in. -/
def aluFn {w : Nat} (x : Thread) (fn : Nat) (a b : BitVec w) : BitVec w × Thread :=
  match fn with
  | 0 => let r := addFull a b 0; (r.1, x.zncv r)
  | 1 => let r := addFull a b (b2n x.c); (r.1, x.zncv r)
  | 2 => let r := subFull a b 0; (r.1, x.zncv r)
  | 3 => let r := subFull a b (b2n x.c); (r.1, x.zncv r)
  | 4 => (a &&& b, x.zn (a &&& b))
  | 5 => (a ||| b, x.zn (a ||| b))
  | 6 => (a ^^^ b, x.zn (a ^^^ b))
  | 7 => (a &&& ~~~b, x.zn (a &&& ~~~b))
  | 14 => (a, x)
  | _ =>
    let n := ext b 4 0
    let r := shiftOf (fn - 8) a n
    (r.1, x.znc r n)

/-! ## Four-state values: R224, R225, Tables 8.7 and 8.8 -/

/-- Dibit i of a word. Codes: 0 and 1 are the values 0 and 1, 2 is Z, 3 is X (R4). -/
def dibit (a : Word) (i : Nat) : Nat := a.toNat / 4 ^ i % 4
/-- The word of seven dibits. -/
def ofDibits (f : Nat → Nat) : Word := BitVec.ofNat 14 ((List.range 7).foldl (fun acc i => acc + f i % 4 * 4 ^ i) 0)

/-- Table 8.8. -/
def wireD (a b : Nat) : Nat :=
  if a = 2 then b else if b = 2 then a else if a = b then a else 3
def and4D (a b : Nat) : Nat := if a = 0 ∨ b = 0 then 0 else if a = 1 ∧ b = 1 then 1 else 3
def or4D (a b : Nat) : Nat := if a = 1 ∨ b = 1 then 1 else if a = 0 ∧ b = 0 then 0 else 3
def xor4D (a b : Nat) : Nat := if 2 ≤ a ∨ 2 ≤ b then 3 else (a + b) % 2
def not4D (a : Nat) : Nat := if a = 0 then 1 else if a = 1 then 0 else 3

/-- The RES functions that give a dibit for each place (FN 0 to 6). -/
def resD (fn a b : Nat) : Nat :=
  match fn with
  | 0 => wireD a b
  | 1 => if a = 2 then b else if b = 2 then a else and4D a b
  | 2 => if a = 2 then b else if b = 2 then a else or4D a b
  | 3 => and4D a b
  | 4 => or4D a b
  | 5 => xor4D a b
  | _ => not4D a

/-- The result word of RES (Table 8.7). -/
def resWord (fn : Nat) (a b : Word) : Word :=
  match fn with
  | 7 => BitVec.ofNat 14 ((List.range 7).foldl (fun acc i => acc + (if dibit a i = 1 then 2 ^ i else 0)) 0)
  | 8 => ofDibits fun i => a.toNat / 2 ^ i % 2
  | _ => ofDibits fun i => resD fn (dibit a i) (dibit b i)

/-- A word holds a dibit of value Z or X. -/
def hasZX (a : Word) : Bool := (List.range 7).any fun i => decide (2 ≤ dibit a i)
/-- U of a RES function: the operands it evaluates (R225). -/
def resU (fn : Nat) (a b : Word) : Bool :=
  if fn = 8 then false else if fn = 6 ∨ fn = 7 then hasZX a else hasZX a || hasZX b

/-- Flags of RES: Z and U; every write of U 1 sets TSTAT.US (R197). -/
def Thread.resFlags (x : Thread) (r : Word) (u : Bool) : Thread := { x with z := decide (r = 0), u := u, us := x.us || u }

/-- PERM (R224). -/
def permWord (a : Word) (sel : Pair) : Word :=
  ofDibits fun i => if sel.toNat / 8 ^ i % 8 = 7 then 3 else dibit a (sel.toNat / 8 ^ i % 8)

/-- Leading zeros of a vector (R223). -/
def leadZeros {w : Nat} (a : BitVec w) : Nat := ((List.range w).find? fun i => a.getLsbD (w - 1 - i)).getD w

/-- BFX (R223). -/
def bfxWord (a : Word) (pos wid : Nat) (sgn : Bool) : Word :=
  let r := a.toNat / 2 ^ pos % 2 ^ wid
  if sgn ∧ 2 ^ (wid - 1) ≤ r then BitVec.ofNat 14 (2 ^ 14 - 2 ^ wid + r) else BitVec.ofNat 14 r
/-- BFI (R223). -/
def bfiWord (d a : Word) (pos wid : Nat) : Word := ins d (pos + wid - 1) pos a.toNat

end Sys2Proof.Machine
end

