-- ==== Sys2Proof/Machine/Exc.lean ====
section
/-! DEFINITION. Exc.lean: how a Lumen thread issues an instruction, completes it, transfers control and takes an
exception (spec/07 R196, R201 to R209; spec/08 R213 to R217; spec/09 R244, R267). -/

namespace Sys2Proof.Machine

/-! ## Completion and loops: R207, R208 -/

/-- The loop test after the instruction at `a` from level `l` down: next pc and the loop registers. -/
def Thread.loopTest (x : Thread) (a : BitVec 16) : Nat → BitVec 16 × Thread
  | 0 => (a + 1, x)
  | l + 1 =>
    let lp := x.loop l
    if lp.count ≠ 0 ∧ lp.last = a then
      if lp.count = 1 then (x.setLoop l { lp with count := 0 }).loopTest a l
      else (lp.start, x.setLoop l { lp with count := lp.count - 1 })
    else x.loopTest a l

/-- Next pc after the instruction at `a` completes without a transfer of control (R207). -/
def Thread.after (x : Thread) (a : BitVec 16) : Thread :=
  let r := if x.lsusp then (a + 1, x) else x.loopTest a 3
  { r.2 with pc := r.1 }

/-- A STEP ends when its instruction has completed (R267), and a thread that a freeze halts halts there (R377). -/
def Thread.stepDone (x : Thread) : Thread :=
  if (x.stepping ∨ x.frz) ∧ x.st ≠ .blocked then
    { x with st := .halted, prior := x.st, priorBlk := .none, dbg := x.dbg || x.stepping, stepping := false }
  else x

/-- The instruction at the pc completes without a transfer of control: a repetition is counted (R208), or the
loop test decides (R207). -/
def Thread.complete (x : Thread) : Thread :=
  match x.rep with
  | some n => if 1 < n.toNat then { x with rep := some (n - 1), st := .run, blk := .none }
              else ({ x with rep := none, st := .run, blk := .none }.after x.pc).stepDone
  | none => ({ x with st := .run, blk := .none }.after x.pc).stepDone
/-- A transfer of control to `pc`. -/
def Thread.jump (x : Thread) (pc : BitVec 16) : Thread :=
  ({ x with rep := none, st := .run, blk := .none, pc := pc }).stepDone
/-- The thread is blocked on the instruction at its pc. -/
def Thread.block (x : Thread) (b : Block) (w : Pair) : Thread := { x with st := .blocked, blk := b, bw := w }

def State.complete (s : State) (t : Nat) : State := s.modThread t Thread.complete
def State.jump (s : State) (t : Nat) (pc : BitVec 16) : State := s.modThread t fun x => x.jump pc

/-! ## Exceptions: R201, R202, R206 -/

/-- A double fault (R206): the thread is FAULTED, ERR records both causes, the function has its interrupt. -/
def State.doubleFault (s : State) (t cause : Nat) (info : BitVec 42) : State :=
  let x := s.thread t
  let i := s.sliceOf t
  let s := s.modThread t fun x => { x with st := .faulted, blk := .none, await := none, rep := none, stepping := false }
  let s := s.err { src := 6, code := 1, cls := 1, unit := clusterOf t, slice := some i, mkind := 1, mid := t,
                   info := [x.ecause.toNat, x.epcx.toNat, cause, info.toNat % 2 ^ 28] }
  s.fnEvent i 2

/-- Take an exception (R202): `at` is the address that EPCX receives; a repetition in progress at the pc is
recorded (R208). With EXC 1 it is a double fault (R206). -/
def State.excEnter (s : State) (t cause : Nat) (info : BitVec 42) (pc : BitVec 16) (imp : Bool) : State :=
  let x := s.thread t
  if x.exc then s.doubleFault t cause info
  else
    let s := s.modThread t fun x =>
      { x with ecause := BitVec.ofNat 6 cause, einfo := info, epcx := pc, esFlags := x.flags, esUs := x.us,
               esLsusp := x.lsusp, esRepv := x.rep.isSome, esImp := imp, erep := x.rep.getD x.erep,
               edepth := BitVec.ofNat 6 x.d, exc := true, lsusp := true, rep := none, await := none,
               st := .run, blk := .none }
    let s := (s.callStep t).callStep t
    let base := s.ibase (s.sliceOf t) (clusterOf t)
    s.modThread t fun x => { x with pc := base - 32 + BitVec.ofNat 16 cause }.stepDone

/-- A precise exception of the instruction at the pc. -/
def State.exc (s : State) (t cause : Nat) (info : BitVec 42) : State := s.excEnter t cause info (s.thread t).pc false
/-- An exception whose EINFO is the instruction's 28 bits. -/
def State.excBits (s : State) (t cause : Nat) (w : Pair) : State := s.exc t cause (w.setWidth 42)

/-- The exceptions of the stores whose faults have arrived are taken before the thread's next instruction (R203); a halted
thread stays halted, at the vector. -/
def State.takeStores (s : State) (t : Nat) : State :=
  let h := decide ((s.thread t).st = .halted)
  let s := s.each ((s.thread t).stores.filter PStore.arrived) fun s p =>
    let s := s.modThread t fun x => { x with stores := x.stores.filter fun y => decide (y.id ≠ p.id) }
    match p.ans with
    | some (.fault c) => if (s.thread t).st = .faulted then s else s.excEnter t c.toNat p.addr (s.thread t).pc true
    | _ => s
  if h ∧ (s.thread t).st = .run then s.modThread t fun x => { x with st := .halted, prior := .run, priorBlk := .none } else s

def dbgSel : Nat := 0x1400100
def dbgCtl : Nat := 0x1400104
def dbgStatus : Nat := 0x1400108
def State.dbgThread (s : State) : Nat := s.fld ⟨dbgSel, 9, 0⟩
def State.dbgBusy (s : State) : Bool := decide (s.fld ⟨dbgStatus, 13, 13⟩ = 1)
/-- Thread t is u, or a forked thread below u within `n` generations. -/
def State.below (s : State) (u : Nat) : Nat → Nat → Bool
  | 0, t => decide (t = u)
  | n + 1, t => decide (t = u) || ((s.thread t).child && s.below u n (s.thread t).parent)
/-- A KILL in progress has stopped thread t (R268). -/
def State.killing (s : State) (t : Nat) : Bool := s.dbgBusy && decide (s.fld ⟨dbgCtl, 2, 0⟩ = 3) && s.below s.dbgThread 8 t

/-- A store's exception is due before the thread issues its next instruction (R203). -/
def State.storeFaultDue (s : State) (t : Nat) : Bool :=
  decide ((s.thread t).st = .run) && (s.thread t).await.isNone && (s.thread t).stores.any PStore.arrived && !s.killing t

/-! ## Fetch and issue: R196, R203, R213, R244 -/

/-- Thread t may fetch instruction address `pc` (R196). -/
def State.fetchOpenAt (s : State) (t pc : Nat) : Bool :=
  let i := s.sliceOf t
  let c := clusterOf t
  s.system t || (decide (s.fld ⟨slcImem i c, 7, 0⟩ * 256 ≤ pc) &&
    decide (pc < (s.fld ⟨slcImem i c, 7, 0⟩ + s.fld ⟨slcImem i c, 16, 8⟩) * 256))

def State.fetchOpen (s : State) (t : Nat) : Bool := s.fetchOpenAt t (s.thread t).pc.toNat

/-- Key of an instruction in `imem`, and of its entry in `poison` (R450). -/
def imemKey (c a : Nat) : Nat := c * 65536 + a
def imemPoison (c a : Nat) : Nat := 2 ^ 42 + imemKey c a
def State.instrAt (s : State) (c a : Nat) : Pair := SMap.get 0 s.imem (imemKey c a)
def State.poisoned (s : State) (a : Nat) : Bool := SMap.get false s.poison a

/-- The instruction at the pc, when its fetch raises nothing. -/
def State.fetch (s : State) (t : Nat) : Option Pair :=
  let c := clusterOf t
  let pc := (s.thread t).pc.toNat
  if s.fetchOpen t ∧ s.poisoned (imemPoison c pc) = false then some (s.instrAt c pc) else none

/-- The thread can issue: it is in RUN with no response to come (R217, R244) and no store's exception to take first
(R203), its domain is ON (R414), the fatal sequencer has not acted (R453), CCLK runs (R468) and is one in which THROTTLE.LEVEL lets
cores issue (R422), and no KILL has stopped it (R268). -/
def State.canIssue (s : State) (t : Nat) : Bool :=
  decide ((s.thread t).st = .run) && (s.thread t).await.isNone && !(s.thread t).gathered && !((s.thread t).stores.any PStore.arrived) &&
    decide (s.dom (3 + quadOf t) = 0) && decide (s.fatal = 0) && !s.pins.cclkLost &&
    decide (s.cclk % 8 < 8 - s.fld ⟨0x2C00220, 2, 0⟩) && !s.killing t

/-- The word that thread t issues now, if it is the instruction with this major opcode and minor code. -/
def State.issue (s : State) (t op minor : Nat) : Option Pair :=
  if s.canIssue t then
    match s.fetch t with
    | some w => if opc w = op ∧ minorOf w = minor ∧ defined w then some w else none
    | none => none
  else none

/-- Thread t issues the instruction (op, minor): ILL-FIELD, or its effect `f`; a store's exception comes before it (R203). Where t
does not issue that instruction now, nothing happens (notes/assumptions/1.md). -/
def State.lum (s : State) (t op minor : Nat) (f : State → Pair → State) : State :=
  if s.storeFaultDue t then s.takeStores t
  else match s.issue t op minor with
  | none => s
  | some w => if fieldsOk w then f s w else s.excBits t 2 w

/-- An instruction that changes its own thread's registers and flags only. -/
def State.lumReg (s : State) (t op minor : Nat) (f : Pair → Thread → Thread) : State :=
  s.lum t op minor fun s w => s.modThread t fun x => (f w x).complete

/-- Every earlier store of the thread has been answered (R203). -/
def State.storesDone (s : State) (t : Nat) : Bool := decide ((s.thread t).stores = [])

/-- ILL_OP: the instruction at the pc is not one: its fetch raises PRIV (R196) or POISON (R450), or its opcode or
minor code is undefined and raises ILL-OP (R12, R213). -/
def State.illOp (s : State) (t : Nat) : State :=
  if s.storeFaultDue t then s.takeStores t
  else if s.canIssue t then
    let c := clusterOf t
    let pc := (s.thread t).pc
    if s.fetchOpen t = false then s.exc t 4 (pc.setWidth 42)
    else if s.poisoned (imemPoison c pc.toNat) then s.exc t 8 (pc.setWidth 42)
    else if defined (s.instrAt c pc.toNat) = false then s.excBits t 1 (s.instrAt c pc.toNat)
    else s
  else s

/-- ILL_OP (R12, R213). -/
def execIllOp (t : Fin 1024) (s : State) : Out := .next (s.illOp t.val)

end Sys2Proof.Machine
end

