-- ==== Sys2Proof/Machine/Alu.lean ====
section
/-! DEFINITION. Alu.lean: the Lumen instructions that change registers and flags only (spec/08 R218 to R227,
R210, R243). -/

namespace Sys2Proof.Machine

/-! ## ALU and ALUP: R218, R219 -/

/-- ALU with function fn, result to RD. -/
def aluOp (fn : Nat) (w : Pair) (x : Thread) : Thread :=
  let r := aluFn x fn (x.r (ext w 16 12)) (x.r (ext w 11 7))
  r.2.setR (ext w 21 17) r.1
/-- ALUP with function fn, result to the pair RD. -/
def alupOp (fn : Nat) (w : Pair) (x : Thread) : Thread :=
  let r := aluFn x fn (x.rp (ext w 16 12)) (x.rp (ext w 11 7))
  r.2.setRp (ext w 21 17) r.1

/-- ADD: rd = ra + rb; Z N C V (R218). -/
def execAdd (t : Fin 1024) (s : State) : Out := .next (s.lumReg t.val 1 0 (aluOp 0))
/-- ADDC: rd = ra + rb + C; Z N C V. -/
def execAddc (t : Fin 1024) (s : State) : Out := .next (s.lumReg t.val 1 1 (aluOp 1))
/-- SUB: rd = ra − rb; Z N C V. -/
def execSub (t : Fin 1024) (s : State) : Out := .next (s.lumReg t.val 1 2 (aluOp 2))
/-- SUBC: rd = ra − rb − C; Z N C V. -/
def execSubc (t : Fin 1024) (s : State) : Out := .next (s.lumReg t.val 1 3 (aluOp 3))
/-- AND: Z N. -/
def execAnd (t : Fin 1024) (s : State) : Out := .next (s.lumReg t.val 1 4 (aluOp 4))
/-- OR: Z N. -/
def execOr (t : Fin 1024) (s : State) : Out := .next (s.lumReg t.val 1 5 (aluOp 5))
/-- XOR: Z N. -/
def execXor (t : Fin 1024) (s : State) : Out := .next (s.lumReg t.val 1 6 (aluOp 6))
/-- ANDN: rd = ra and not rb; Z N. -/
def execAndn (t : Fin 1024) (s : State) : Out := .next (s.lumReg t.val 1 7 (aluOp 7))
/-- SHL by rb[4:0]; Z N C (R219). -/
def execShl (t : Fin 1024) (s : State) : Out := .next (s.lumReg t.val 1 8 (aluOp 8))
/-- SHR; Z N C. -/
def execShr (t : Fin 1024) (s : State) : Out := .next (s.lumReg t.val 1 9 (aluOp 9))
/-- SAR; Z N C. -/
def execSar (t : Fin 1024) (s : State) : Out := .next (s.lumReg t.val 1 10 (aluOp 10))
/-- ROL; Z N C. -/
def execRol (t : Fin 1024) (s : State) : Out := .next (s.lumReg t.val 1 11 (aluOp 11))
/-- CMP: ra − rb, no result; Z N C V. -/
def execCmp (t : Fin 1024) (s : State) : Out :=
  .next (s.lumReg t.val 1 12 fun w x => x.zncv (subFull (x.r (ext w 16 12)) (x.r (ext w 11 7)) 0))
/-- TST: ra and rb, no result; Z N. -/
def execTst (t : Fin 1024) (s : State) : Out :=
  .next (s.lumReg t.val 1 13 fun w x => x.zn (x.r (ext w 16 12) &&& x.r (ext w 11 7)))
/-- MOV: rd = ra; no flag. -/
def execMov (t : Fin 1024) (s : State) : Out := .next (s.lumReg t.val 1 14 (aluOp 14))

/-- ADDP; Z N C V of 28 bits. -/
def execAddp (t : Fin 1024) (s : State) : Out := .next (s.lumReg t.val 2 0 (alupOp 0))
/-- SUBP; Z N C V. -/
def execSubp (t : Fin 1024) (s : State) : Out := .next (s.lumReg t.val 2 2 (alupOp 2))
/-- ANDP; Z N. -/
def execAndp (t : Fin 1024) (s : State) : Out := .next (s.lumReg t.val 2 4 (alupOp 4))
/-- ORP; Z N. -/
def execOrp (t : Fin 1024) (s : State) : Out := .next (s.lumReg t.val 2 5 (alupOp 5))
/-- XORP; Z N. -/
def execXorp (t : Fin 1024) (s : State) : Out := .next (s.lumReg t.val 2 6 (alupOp 6))
/-- SHLP; Z N C. -/
def execShlp (t : Fin 1024) (s : State) : Out := .next (s.lumReg t.val 2 8 (alupOp 8))
/-- SHRP; Z N C. -/
def execShrp (t : Fin 1024) (s : State) : Out := .next (s.lumReg t.val 2 9 (alupOp 9))
/-- SARP; Z N C. -/
def execSarp (t : Fin 1024) (s : State) : Out := .next (s.lumReg t.val 2 10 (alupOp 10))
/-- ROLP; Z N C. -/
def execRolp (t : Fin 1024) (s : State) : Out := .next (s.lumReg t.val 2 11 (alupOp 11))
/-- CMPP: no result; Z N C V. -/
def execCmpp (t : Fin 1024) (s : State) : Out :=
  .next (s.lumReg t.val 2 12 fun w x => x.zncv (subFull (x.rp (ext w 16 12)) (x.rp (ext w 11 7)) 0))
/-- MOVP; no flag. -/
def execMovp (t : Fin 1024) (s : State) : Out := .next (s.lumReg t.val 2 14 (alupOp 14))

/-! ## Immediate forms: R220 to R222 -/

/-- NOP (R12). -/
def execNop (t : Fin 1024) (s : State) : Out := .next (s.lumReg t.val 3 0 fun _ x => x)

/-- An immediate form: function fn of RA and IMM. -/
def immOp (fn : Nat) (sgn : Bool) (w : Pair) (x : Thread) : Thread :=
  let imm : BitVec 12 := w.extractLsb' 0 12
  let r := aluFn x fn (x.r (ext w 16 12)) (if sgn then imm.signExtend 14 else imm.setWidth 14)
  r.2.setR (ext w 21 17) r.1

/-- ADDI: IMM sign-extended; Z N C V (R220). -/
def execAddi (t : Fin 1024) (s : State) : Out := .next (s.lumReg t.val 4 0 (immOp 0 true))
/-- ANDI; Z N. -/
def execAndi (t : Fin 1024) (s : State) : Out := .next (s.lumReg t.val 5 0 (immOp 4 false))
/-- ORI; Z N. -/
def execOri (t : Fin 1024) (s : State) : Out := .next (s.lumReg t.val 6 0 (immOp 5 false))
/-- XORI; Z N. -/
def execXori (t : Fin 1024) (s : State) : Out := .next (s.lumReg t.val 7 0 (immOp 6 false))
/-- CMPI: IMM sign-extended; Z N C V. -/
def execCmpi (t : Fin 1024) (s : State) : Out :=
  .next (s.lumReg t.val 8 0 fun w x =>
    x.zncv (subFull (x.r (ext w 16 12)) ((w.extractLsb' 0 12 : BitVec 12).signExtend 14) 0))

/-- SHI: SOP 0 to 3 on words, 4 to 7 on pairs, by N (R220). -/
def shiOp (w : Pair) (x : Thread) : Thread :=
  let n := ext w 8 4
  if ext w 11 9 < 4 then
    let r := shiftOf (ext w 11 9) (x.r (ext w 16 12)) n
    (x.znc r n).setR (ext w 21 17) r.1
  else
    let r := shiftOf (ext w 11 9 - 4) (x.rp (ext w 16 12)) n
    (x.znc r n).setRp (ext w 21 17) r.1
/-- SHI; Z N C (R219, R220). -/
def execShi (t : Fin 1024) (s : State) : Out := .next (s.lumReg t.val 9 0 shiOp)

/-- MOVI: the 14 bits of IMM; no flag (R221). -/
def execMovi (t : Fin 1024) (s : State) : Out :=
  .next (s.lumReg t.val 0x0A 0 fun w x => x.setR (ext w 21 17) (w.extractLsb' 3 14))

/-- The product of MUL (R222). -/
def mulPair (sgn : Bool) (a b : Word) : Pair :=
  if sgn then BitVec.ofInt 28 (a.toInt * b.toInt) else BitVec.ofNat 28 (a.toNat * b.toNat)
/-- MUL: pair product, S signed; Z N (R222). -/
def execMul (t : Fin 1024) (s : State) : Out :=
  .next (s.lumReg t.val 0x0B 0 fun w x =>
    let r := mulPair (bit w 6) (x.r (ext w 16 12)) (x.r (ext w 11 7))
    (x.zn r).setRp (ext w 21 17) r)

/-! ## Bit fields and four-state values: R223 to R225 -/

/-- BFX: W bits from POS, signed when S; Z N (R223). -/
def execBfx (t : Fin 1024) (s : State) : Out :=
  .next (s.lumReg t.val 0x0C 0 fun w x =>
    let r := bfxWord (x.r (ext w 16 12)) (ext w 11 8) (ext w 7 4 + 1) (bit w 3)
    (x.zn r).setR (ext w 21 17) r)
/-- BFI: W bits of RA into RD at POS; no flag (R223). -/
def execBfi (t : Fin 1024) (s : State) : Out :=
  .next (s.lumReg t.val 0x0D 0 fun w x =>
    x.setR (ext w 21 17) (bfiWord (x.r (ext w 21 17)) (x.r (ext w 16 12)) (ext w 11 8) (ext w 7 4 + 1)))
/-- CLZ: leading zeros of a word or a pair; Z (R223). -/
def execClz (t : Fin 1024) (s : State) : Out :=
  .next (s.lumReg t.val 0x0E 0 fun w x =>
    let r := word (if bit w 11 then leadZeros (x.rp (ext w 16 12)) else leadZeros (x.r (ext w 16 12)))
    { x with z := decide (r = 0) }.setR (ext w 21 17) r)
/-- PERM: dibits of RA under the selector RB; no flag (R224). -/
def execPerm (t : Fin 1024) (s : State) : Out :=
  .next (s.lumReg t.val 0x0F 0 fun w x => x.setR (ext w 21 17) (permWord (x.r (ext w 16 12)) (x.rp (ext w 11 7))))

/-- RES with function fn (R225). -/
def resOp (fn : Nat) (w : Pair) (x : Thread) : Thread :=
  let a := x.r (ext w 16 12)
  let b := x.r (ext w 11 7)
  (x.resFlags (resWord fn a b) (resU fn a b)).setR (ext w 21 17) (resWord fn a b)

/-- WIRE (Table 8.8); Z U. -/
def execWire (t : Fin 1024) (s : State) : Out := .next (s.lumReg t.val 0x10 0 (resOp 0))
/-- WAND; Z U. -/
def execWand (t : Fin 1024) (s : State) : Out := .next (s.lumReg t.val 0x10 1 (resOp 1))
/-- WOR; Z U. -/
def execWor (t : Fin 1024) (s : State) : Out := .next (s.lumReg t.val 0x10 2 (resOp 2))
/-- AND4; Z U. -/
def execAnd4 (t : Fin 1024) (s : State) : Out := .next (s.lumReg t.val 0x10 3 (resOp 3))
/-- OR4; Z U. -/
def execOr4 (t : Fin 1024) (s : State) : Out := .next (s.lumReg t.val 0x10 4 (resOp 4))
/-- XOR4; Z U. -/
def execXor4 (t : Fin 1024) (s : State) : Out := .next (s.lumReg t.val 0x10 5 (resOp 5))
/-- NOT4; Z U. -/
def execNot4 (t : Fin 1024) (s : State) : Out := .next (s.lumReg t.val 0x10 6 (resOp 6))
/-- TO2; Z U. -/
def execTo2 (t : Fin 1024) (s : State) : Out := .next (s.lumReg t.val 0x10 7 (resOp 7))
/-- FROM2; Z, and U clear. -/
def execFrom2 (t : Fin 1024) (s : State) : Out := .next (s.lumReg t.val 0x10 8 (resOp 8))

/-! ## Banks: R227 -/

/-- MTB: bank bB from the pair RA. -/
def execMtb (t : Fin 1024) (s : State) : Out :=
  .next (s.lumReg t.val 0x19 0 fun w x => x.setBank (ext w 21 19) (x.rp (ext w 16 12)))
/-- MFB: the pair RD from bank bB. -/
def execMfb (t : Fin 1024) (s : State) : Out :=
  .next (s.lumReg t.val 0x1A 0 fun w x => x.setRp (ext w 21 17) (x.bank (ext w 16 14)))

/-! ## RDF, MFS, MTS: R200, R204, R210, R243 -/

/-- The supervisor of slice i: its live thread with the lowest number (R263). -/
def State.supervisor (s : State) (i : Nat) : Option Nat :=
  (s.threads.filter fun x => x.2.live && s.assigned x.1 i).head?.map (·.1)

/-- The views of Table 7.8 (Tables 7.9, 7.10). -/
def State.rdf (s : State) (t i : Nat) : Pair :=
  match i with
  | 4 => BitVec.ofNat 28 (t % 8 + 8 * t + 2 ^ 13 * (t / 8) + 2 ^ 20 * (t / 128) + 2 ^ 23 * (t / 256))
  | 5 => BitVec.ofNat 28 (s.sliceOf t + 64 * b2n (!s.system t) + 128 * b2n (decide (s.supervisor (s.sliceOf t) = some t)))
  | 6 => BitVec.ofNat 28 ((s.thread t).d + 64 * (s.thread t).spilled)
  | _ => s.reg (0x1400000 + 4 * i)

/-- RDF (R210). -/
def execRdf (t : Fin 1024) (s : State) : Out :=
  .next (s.lum t.val 0x31 0 fun s w =>
    (s.modThread t.val fun x => x.setRp (ext w 21 17) (s.rdf t.val (ext w 16 13))).complete t.val)

/-- An XREG with EXC 0 raises ILL-COMBO (R200). -/
def State.xregBad (s : State) (t : Nat) (w : Pair) : Bool := decide (32 ≤ ext w 16 11) && !(s.thread t).exc

/-- MFS (R200, R204, R243). -/
def execMfs (t : Fin 1024) (s : State) : Out :=
  .next (s.lum t.val 0x32 0 fun s w =>
    if s.xregBad t.val w then s.excBits t.val 3 w
    else (s.modThread t.val fun x => x.setRp (ext w 21 17) (s.mfs t.val (ext w 16 11))).complete t.val)
/-- MTS (R200, R204, R207, R243): the loop test after it uses the loop registers as it left them. -/
def execMts (t : Fin 1024) (s : State) : Out :=
  .next (s.lum t.val 0x33 0 fun s w =>
    if s.xregBad t.val w then s.excBits t.val 3 w
    else (s.mts t.val (ext w 16 11) ((s.thread t.val).rp (ext w 21 17))).complete t.val)

end Sys2Proof.Machine
end

