-- ==== Sys2Proof/Machine/Ctl.lean ====
section
/-! DEFINITION. Ctl.lean: transfers of control, loops and REP (spec/08 R228 to R230; spec/07 R188 to R190, R205,
R207 to R209). -/

namespace Sys2Proof.Machine

/-- TARGET, and the instruction address in a register pair. -/
def targetOf (w : Pair) : BitVec 16 := w.extractLsb' 0 16
def Thread.pairTarget (x : Thread) (w : Pair) : BitVec 16 := (x.rp (ext w 16 12)).extractLsb' 0 16

/-- BCC: jump to TARGET when COND holds (R228, Table 7.4). -/
def execBcc (t : Fin 1024) (s : State) : Out :=
  .next (s.lum t.val 0x1C 0 fun s w =>
    if (s.thread t.val).cond (ext w 21 18) then s.jump t.val (targetOf w) else s.complete t.val)
/-- BRA (R228). -/
def execBra (t : Fin 1024) (s : State) : Out := .next (s.lum t.val 0x1D 0 fun s w => s.jump t.val (targetOf w))
/-- JR (R228). -/
def execJr (t : Fin 1024) (s : State) : Out :=
  .next (s.lum t.val 0x1F 0 fun s w => s.jump t.val ((s.thread t.val).pairTarget w))

/-- CALL and CALLR (R188, R189): FRAME-LIMIT at depth 39 or above; the return address goes into the caller's
w14:w15. -/
def State.call (s : State) (t : Nat) (target : BitVec 16) : State :=
  let x := s.thread t
  if 39 ≤ x.d then s.exc t 0xB (BitVec.ofNat 42 x.d)
  else
    let s := s.modThread t fun x => x.setRp 22 ((x.pc + 1).setWidth 28)
    (s.callStep t).jump t target
/-- CALL (R188 to R190). -/
def execCall (t : Fin 1024) (s : State) : Out := .next (s.lum t.val 0x1E 0 fun s w => s.call t.val (targetOf w))
/-- CALLR (R188 to R190). -/
def execCallr (t : Fin 1024) (s : State) : Out :=
  .next (s.lum t.val 0x1F 1 fun s w => s.call t.val ((s.thread t.val).pairTarget w))

/-- RET raises FRAME-BASE (R189). -/
def Thread.frameBase (x : Thread) : Bool := decide (x.d = 0) || (x.exc && decide (x.d ≤ x.edepth.toNat + 2))
/-- RET (R188, R189): to the address in w6:w7. -/
def State.ret (s : State) (t : Nat) : State :=
  let x := s.thread t
  if x.frameBase then s.exc t 0xC (BitVec.ofNat 42 x.d)
  else
    let target : BitVec 16 := (x.rp 14).extractLsb' 0 16
    (s.retStep t).jump t target
/-- RET. -/
def execRet (t : Fin 1024) (s : State) : Out := .next (s.lum t.val 0x20 0 fun s _ => s.ret t.val)

/-- ERET (R205): back two frames, flags restored, EXC cleared, a repetition re-armed; to EPCX. -/
def State.eret (s : State) (t : Nat) (w : Pair) : State :=
  let x := s.thread t
  if x.exc = false ∨ x.d ≠ x.edepth.toNat + 2 then s.excBits t 3 w
  else
    ((s.retStep t).retStep t).modThread t fun x =>
      let y := { x.setFlags x.esFlags with us := x.esUs, lsusp := x.esLsusp, exc := false }
      if x.esRepv then
        if x.erep = 0 then y.jump (x.epcx + 1)
        else { y with rep := some x.erep, st := .run, blk := .none, pc := x.epcx }.stepDone
      else y.jump x.epcx
/-- ERET; it issues once every earlier store has been answered (R203). -/
def execEret (t : Fin 1024) (s : State) : Out :=
  .next (s.lum t.val 0x21 0 fun s w => if s.storesDone t.val then s.eret t.val w else s)

/-- LOOP (R229): sets level LVL; a count of 0 jumps past the body. -/
def State.loopOp (s : State) (t : Nat) (w : Pair) : State :=
  let x := s.thread t
  let l := ext w 21 20
  let count : BitVec 16 := if bit w 19 then BitVec.ofNat 16 (ext w 18 9) else (x.r (ext w 18 14)).setWidth 16
  let last := x.pc + BitVec.ofNat 16 (ext w 8 0 + 1)
  let s := s.modThread t fun x => x.setLoop l { start := x.pc + 1, last := last, count := count }
  if count = 0 then s.jump t (last + 1) else s.complete t
/-- LOOP. -/
def execLoop (t : Fin 1024) (s : State) : Out := .next (s.lum t.val 0x22 0 fun s w => s.loopOp t.val w)

/-- An active loop level ends at `a` (R209). -/
def Thread.loopEnds (x : Thread) (a : BitVec 16) : Bool :=
  (List.range 3).any fun l => decide ((x.loop l).count ≠ 0) && decide ((x.loop l).last = a)

/-- REP (R208, R209, R230): the following instruction's decoding faults and the REP conflicts are raised here; a
count of 0 skips it, with one loop test at its address. -/
def State.repOp (s : State) (t : Nat) (w : Pair) : State :=
  let x := s.thread t
  let nw := s.instrAt (clusterOf t) (x.pc + 1).toNat
  let count : Word := if bit w 21 then w.extractLsb' 7 14 else x.r (ext w 20 16)
  let ok := s.fetchOpenAt t (x.pc + 1).toNat && !s.poisoned (imemPoison (clusterOf t) (x.pc + 1).toNat)
  match (if ok then decodeFault nw else none) with
  | some c => s.excBits t c nw
  | none =>
    if (ok ∧ repConflict nw) ∨ x.loopEnds x.pc then s.excBits t 3 w
    else s.modThread t fun x =>
      if count = 0 then (x.after (x.pc + 1)).stepDone else { x with rep := some count, pc := x.pc + 1 }
/-- REP. -/
def execRep (t : Fin 1024) (s : State) : Out := .next (s.lum t.val 0x23 0 fun s w => s.repOp t.val w)

end Sys2Proof.Machine
end

