-- ==== Sys2Proof/Machine/Chans.lean ====
section
/-! DEFINITION. Chans.lean: channels, the end of a thread's work, and events between threads (spec/09). -/

namespace Sys2Proof.Machine

/-! ## Registers of LUM -/

def lumCfg (c : Nat) : Nat := 0x1401000 + 4 * c
def lumDiscard : Nat := 0x1402000
def lumKill : Nat := 0x1402004
/-- CHAN_CFG fields of channel c (64 × cluster + n). -/
def State.chanSlice (s : State) (c : Nat) : Nat := s.fld ⟨lumCfg c, 5, 0⟩
def State.chanValid (s : State) (c : Nat) : Bool := decide (s.fld ⟨lumCfg c, 6, 6⟩ = 1)

/-! ## Queues: R249 to R253 -/

/-- The cluster channel that CH names for a thread of cluster cl (Table 9.2). -/
def chanIdx (cl ch : Nat) : Option Nat :=
  if ch < 0x40 then some (64 * cl + ch) else if 0x200 ≤ ch then some (ch - 0x200) else none
/-- CH of a channel instruction. -/
def chOf (w : Pair) : Nat := ext w 14 5
/-- Two CH values name one channel (R247). -/
def sameChan (cl a b : Nat) : Bool :=
  match chanIdx cl a, chanIdx cl b with
  | some x, some y => decide (x = y)
  | none, none => decide (a = b)
  | _, _ => false

/-- Words queued in a channel. -/
def Chan.level (c : Chan) : Nat := (c.msgs.map List.length).sum + c.rest.length
/-- A message of n words fits. -/
def Chan.fits (c : Chan) (n : Nat) : Bool := decide (c.level + n ≤ 64)

/-- A blocked CHR takes a word: it goes to REG and the instruction completes (R252). -/
def Thread.deliver (x : Thread) (w : Word) : Thread := (x.setR (ext x.bw 21 17) w).complete
/-- The thread is BLOCKED on CHR of CH value `ch`. -/
def Thread.waitsOn (x : Thread) (ch : Nat) : Bool :=
  decide (x.st = .blocked) && decide (x.blk = .chr) && decide (chOf x.bw = ch)

/-- Threads BLOCKED on CHR of cluster channel c, ascending. -/
def State.readers (s : State) (c : Nat) : List Nat :=
  (s.threads.filter fun x => decide (x.2.st = .blocked) && decide (x.2.blk = .chr) &&
    decide (chanIdx (clusterOf x.1) (chOf x.2.bw) = some c)).map (·.1)

/-- Thread t takes the next word of channel c: the word, and the channel after it. -/
def Chan.take (c : Chan) (t : Fin 1024) : Option (Word × Chan) :=
  match c.rest, c.msgs with
  | w :: rest, _ =>
    if c.holder = some t then some (w, { c with rest := rest, holder := if rest = [] then none else some t }) else none
  | [], (w :: rest) :: ms => some (w, { c with msgs := ms, rest := rest, holder := if rest = [] then none else some t })
  | [], _ => none

/-- MESSAGE_TAKE: the first waiting reader at or after the pointer takes the oldest visible message (R253). -/
def State.messageTake (s : State) (c : Nat) : State :=
  let ch := s.chan c
  let rs := s.readers c
  if ch.rest ≠ [] then s
  else match rotPick (s.pointer (1000 + 2 * c) 1024) 1024 (fun t => rs.contains t) with
    | none => s
    | some t =>
      if h : t < 1024 then
        match ch.take ⟨t, h⟩ with
        | none => s
        | some (w, ch') => (s.modChan c fun _ => ch').modThread t fun x => x.deliver w
      else s
/-- MESSAGE_TAKE (R252, R253). -/
def execMessageTake (ch : Fin 512) (s : State) : Out := .next (s.messageTake ch.val)

/-- The writer that rotation serves next (R253). -/
def nextWriter (ptr : Nat) (ws : List ChanWriter) : Option ChanWriter :=
  match rotPick ptr 1025 (fun p => ws.any fun w => decide (w.pos = p)) with
  | none => none
  | some p => ws.find? fun w => decide (w.pos = p)

/-- Remove the first writer at a position. -/
def dropWriter (p : Nat) : List ChanWriter → List ChanWriter
  | [] => []
  | w :: ws => if w.pos = p then ws else w :: dropWriter p ws

/-- Accept commits in rotation order while the next one fits (R253). `hw` ends the host entry of a queue pair. -/
def State.acceptLoop (s : State) (c : Nat) (hw : State → Qp → State) : Nat → State
  | 0 => s
  | n + 1 =>
    match nextWriter (s.pointer (1001 + 2 * c) 1025) (s.chan c).writers with
    | none => s
    | some w =>
      if (s.chan c).fits w.words.length then
        let s := s.modChan c fun x => { x with msgs := x.msgs ++ [w.words], writers := dropWriter w.pos x.writers }
        let s := if w.pos < 1024 then s.modThread w.pos fun x => { x with staged := [] }.complete
                 else match w.qp with
                   | some q => hw s q
                   | none => s
        s.acceptLoop c hw n
      else s

/-- The rest of a message that thread t was reading is discarded (R252). -/
def State.dropHeld (s : State) (t : Nat) : State :=
  s.each (s.chans.filter fun x => decide (x.2.holder.map (·.val) = some t)) fun s x =>
    (s.modChan x.1 fun c => { c with holder := none, rest := [] }).count lumDiscard

/-- Thread t waits nowhere any more: its commits and its CPL request are withdrawn (R266). -/
def State.unwait (s : State) (t : Nat) : State :=
  let s := s.each (s.chans.filter fun x => x.2.writers.any fun w => decide (w.pos = t)) fun s x =>
    s.modChan x.1 fun c => { c with writers := dropWriter t c.writers }
  s.each (s.units.filter fun x => x.2.waiters.any fun w => decide (w.val = t)) fun s x =>
    s.modUnit x.1 fun u => { u with waiters := u.waiters.filter fun w => decide (w.val ≠ t) }

/-! ## Coprocessor contexts at the end of a thread's work: R273, R282 -/

/-- Commands that have not completed: those of context k, and those that its release waits for. -/
def CopUnit.outstanding (u : CopUnit) (k : Nat) : Nat := (u.cmds.filter fun c => decide (c.ctx.val = k) || c.holds.contains k).length
/-- Thread t releases context k: at once, or deferred while it has commands outstanding on the unit (R273). -/
def CopUnit.release (u : CopUnit) (t k : Nat) : CopUnit :=
  if u.cmds.all fun c => decide (c.thread.val ≠ t) then { u with ctxs := SMap.del k u.ctxs }
  else
    { u with ctxs := SMap.modify {} u.ctxs k fun c => { c with holder := none, releasing := true }
             cmds := u.cmds.map fun c => if c.thread.val = t then { c with holds := k :: c.holds } else c }
/-- The context of the unit that thread t holds. -/
def CopUnit.held (u : CopUnit) (t : Nat) : Option Nat :=
  (List.range 4).find? fun k => decide ((SMap.get {} u.ctxs k).holder.map (·.val) = some t)
/-- Release what thread t holds of the unit. -/
def CopUnit.releaseOf (u : CopUnit) (t : Nat) : CopUnit :=
  match u.held t with
  | some k => u.release t k
  | none => u
/-- The thread's commands complete with their completions discarded (R282). -/
def CopUnit.kill (u : CopUnit) (t : Nat) : CopUnit :=
  { u with cmds := u.cmds.map fun c => if c.thread.val = t then { c with dead := true } else c }

/-- COP register of unit number n = 4 × cluster + unit (R290). -/
def copReg (n o : Nat) : Nat := 0x1800000 + 0x1000 * n + o
/-- EINFO of a fault raised from a completion word (R282, R284). -/
def queuedInfo (w : Word) : Nat := w.toNat % 2 ^ 12 + 2 ^ 12
/-- A completion of thread t that nobody takes (R282): a failed one is recorded and counted. -/
def State.lostCompletion (s : State) (t : Nat) (w : Word) : State :=
  if ext w 11 6 = 0 then s
  else (s.count (copReg (4 * clusterOf t + ext w 1 0) 0x2C)).err
    { src := 7, code := 2, cls := 1, unit := clusterOf t, slice := some (s.sliceOf t), mkind := 1, mid := t, info := [queuedInfo w] }
/-- Release every context of thread t and discard its completions, those that stand in its channel and those to come. -/
def State.copEnd (s : State) (t : Nat) : State :=
  (s.each [0, 1, 2] fun s u => s.modUnit (4 * clusterOf t + u) fun x => (x.kill t).releaseOf t).each (s.thread t).copq fun s w =>
    s.lostCompletion t w

/-! ## The end of a thread's work: R177, R268 -/

/-- Running children of thread t (R237). -/
def State.children (s : State) (t : Nat) : List Nat :=
  (threadsOfCore (t / 8)).filter fun c => (s.thread c).child && decide ((s.thread c).parent = t) && (s.thread c).live

/-- The thread enters WAIT-TASK with nothing staged, armed or outstanding. -/
def Thread.idle (x : Thread) : Thread :=
  { x with st := .waitTask, blk := .none, prior := .waitTask, priorBlk := .none, dbg := false, frz := false,
           stepping := false, child := false, parent := 0, hasTask := false, rep := none, await := none, stores := [],
           staged := [], stagedCh := 0, outs := [], timer := none, timerLeft := none, timerWord := none, reply := [],
           replyDue := false, copq := [], gathered := false, gath := [] }

/-- TASK (R177): the thread waits for a task. Staged words are lost only by kill or slice reset (R250), and only a child's TASK
disarms the timer (R258). -/
def Thread.waits (x : Thread) : Thread :=
  { x.idle with staged := x.staged, stagedCh := x.stagedCh, timer := if x.child then none else x.timer,
                timerLeft := if x.child then none else x.timerLeft, timerWord := if x.child then none else x.timerWord }

/-- The slot of the task that thread t holds: quadrant and number. -/
def State.heldSlot (s : State) (t : Nat) : Option (Nat × Nat) :=
  if (s.thread t).hasTask then some (quadOf t, (s.thread t).handle.toNat % 4096) else none

/-- The request is one of operation h. -/
def Holder.asks (h : Holder) (r : Reply) : Bool := decide (r = .op h) || (match h with
  | .entry q => decide (r = .entry q)
  | _ => false)
/-- What operation h has at the channels goes. -/
def State.dropHolder (s : State) (h : Holder) : State :=
  s.each ((s.dchans.filter fun x => (x.2.visits.any fun v => decide (v.h = h)) || x.2.reqs.any fun q => h.asks q.reply).map (·.1))
    fun s k => s.modDchan k fun d =>
      { d with visits := d.visits.filter fun v => decide (v.h ≠ h), reqs := d.reqs.filter fun q => !h.asks q.reply }
/-- Steps 1 to 7 of R268 for one thread; its children come before it. -/
def State.killOne (s : State) (t : Nat) : State :=
  let s := ((((s.unwait t).dropHeld t).copEnd t).dropHolder (.gather (Fin.ofNat 1024 t))).breakOwned fun o => decide (o = word t)
  let s := match s.heldSlot t with
    | some (q, n) =>
      let k := (s.slot q n).pkt
      let s := s.freeSlot q n 2
      match k with
      | some k => s.endPkt k
      | none => s
    | none => s
  (s.modThread t Thread.idle).count lumKill

/-- Kill thread t and its forked children (R268). -/
def State.kill (s : State) : Nat → Nat → State
  | 0, t => s.killOne t
  | n + 1, t => (s.each (s.children t) fun s c => s.kill n c).killOne t

/-! ## CHAN-FAULT: R247, R248 -/

/-- The first fault of a channel instruction (R248): none, 0 for PRIV, else a reason of Table 9.3. `fn` is 0 CHR,
1 CHW, 2 CHC. -/
def State.chanFault (s : State) (t fn ch : Nat) : Option Nat :=
  let x := s.thread t
  let cl := clusterOf t
  let ix := chanIdx cl ch
  let mixed := decide (fn ≠ 0) && decide (x.staged ≠ []) && !sameChan cl x.stagedCh.toNat ch
  let direction :=
    if fn = 0 then decide (ch = 0x101) || (match ix with
      | some c => decide (c / 64 ≠ cl)
      | none => false)
    else decide (ch = 0x103) || decide (ch = 0x104)
  let priv := match ix with
    | some c => decide (fn ≠ 1) && s.chanValid c && !s.system t && decide (s.chanSlice c ≠ s.sliceOf t)
    | none => false
  let unowned := match ix with
    | some c => decide (fn ≠ 1) && !s.chanValid c
    | none => false
  if priv then some 0
  else if mixed then some 1
  else if fn = 1 ∧ 32 ≤ x.staged.length then some 2
  else if fn = 2 ∧ x.staged = [] then some 3
  else if direction then some 4
  else if unowned then some 5
  else if fn = 0 ∧ ch = 0x100 ∧ x.reply = [] ∧ x.replyDue = false then some 6
  else if fn = 0 ∧ ch = 0x102 ∧ x.timer = none ∧ x.timerLeft = none ∧ x.timerWord = none then some 6
  else if fn = 2 ∧ ((ch = 0x102 ∧ x.staged.length ≠ 2) ∨ (ch = 0x101 ∧ x.staged.length < 2)) then some 7
  else if fn = 2 ∧ ((ch = 0x102 ∧ ((pairOf (x.staged.getD 0 0) (x.staged.getD 1 0)).toNat = 0
        ∨ 2 ^ 27 ≤ (pairOf (x.staged.getD 0 0) (x.staged.getD 1 0)).toNat))
      ∨ (ch = 0x101 ∧ ext (x.staged.headD 0) 13 3 ≠ 0)) then some 8
  else none

/-- Raise it: PRIV with the channel number (R249), or CHAN-FAULT with CH and reason (R248). LENGTH and FORMAT
discard the staged message. -/
def State.raiseChan (s : State) (t ch reason : Nat) : State :=
  if reason = 0 then s.exc t 4 (BitVec.ofNat 42 ch)
  else
    let s := if reason = 7 ∨ reason = 8 then s.modThread t fun x => { x with staged := [], stagedCh := 0 } else s
    s.exc t 0xD (BitVec.ofNat 42 (ch + 2 ^ 10 * reason))

/-! ## CHR, CHW, CHC: R239, R249 to R258 -/

/-- CHR of a cluster channel: a word of the message it holds, or of the oldest message when no reader is before it;
else it blocks (R252). -/
def State.chrCluster (s : State) (t : Fin 1024) (c : Nat) (w : Pair) : State :=
  let ch := s.chan c
  if ch.rest = [] ∧ s.readers c ≠ [] then s.modThread t fun x => x.block .chr w
  else match ch.take t with
    | some (v, ch') => (s.modChan c fun _ => ch').modThread t fun x => (x.setR (ext w 21 17) v).complete
    | none => s.modThread t fun x => x.block .chr w

/-- COP-FAULT of thread t (R283, R284): counted and recorded. -/
def State.copFault (s : State) (t u : Nat) (info : Nat) : State :=
  let s := (s.count (0x1800000 + 0x1000 * (4 * clusterOf t + u) + 0x28)).err
    { src := 7, code := 1, cls := 1, unit := clusterOf t, slice := some (s.sliceOf t), mkind := 1, mid := t, info := [info] }
  s.exc t 0xE (BitVec.ofNat 42 info)

/-- CHR of COPROC: the oldest completion, raised as COP-FAULT when it failed (R283). -/
def State.chrCop (s : State) (t : Nat) (w : Pair) : State :=
  match (s.thread t).copq with
  | [] => s.modThread t fun x => x.block .chr w
  | c :: cs =>
    let s := s.modThread t fun x => { x with copq := cs }
    if ext c 11 6 ≠ 0 then s.copFault t (ext c 1 0) (queuedInfo c)
    else s.modThread t fun x => (x.setR (ext w 21 17) c).complete

/-- CHR (R252, R256, R258, R259). -/
def State.chr (s : State) (t : Fin 1024) (w : Pair) : State :=
  match s.chanFault t 0 (chOf w) with
  | some r => s.raiseChan t (chOf w) r
  | none =>
    match chanIdx (clusterOf t) (chOf w) with
    | some c => s.chrCluster t c w
    | none =>
      let x := s.thread t
      if chOf w = 0x100 then
        match x.reply with
        | v :: vs => s.modThread t fun x => ({ x with reply := vs }.setR (ext w 21 17) v).complete
        | [] => s.modThread t fun x => x.block .chr w
      else if chOf w = 0x102 then
        match x.timerWord with
        | some v => s.modThread t fun x => ({ x with timerWord := none }.setR (ext w 21 17) v).complete
        | none => s.modThread t fun x => x.block .chr w
      else if chOf w = 0x104 then s.chrCop t w
      else s.modThread t fun x => x.block .chr w
/-- CHR (R239). -/
def execChr (t : Fin 1024) (s : State) : Out := .next (s.lum t.val 0x29 0 fun s w => s.chr t w)

/-- CHW: the word in REG is staged for CH (R250). -/
def State.chw (s : State) (t : Nat) (w : Pair) : State :=
  match s.chanFault t 1 (chOf w) with
  | some r => s.raiseChan t (chOf w) r
  | none => s.modThread t fun x =>
    { x with stagedCh := if x.staged = [] then BitVec.ofNat 10 (chOf w) else x.stagedCh,
             staged := x.staged ++ [x.r (ext w 21 17)] }.complete
/-- CHW (R239). -/
def execChw (t : Fin 1024) (s : State) : Out := .next (s.lum t.val 0x29 1 fun s w => s.chw t.val w)

/-- CHC on TIMER arms the timer (R258); while the slice is not ACTIVE or ARMED it stands (R379). -/
def State.armTimer (s : State) (t : Nat) : State :=
  let now := s.copy
  let stopped := decide (3 ≤ s.sliceState (s.sliceOf t))
  s.modThread t fun x =>
    let n := pairOf (x.staged.getD 0 0) (x.staged.getD 1 0)
    { x with timer := if stopped then none else some (lo28 now + n), timerLeft := if stopped then some n else none,
             timerWord := none, staged := [], stagedCh := 0 }.complete
/-- CHC on DISPATCH sends a command and discards an unread reply (R256). -/
def State.sendDispatch (s : State) (t : Fin 1024) : State :=
  let m := (s.thread t).staged
  { s with dcmds := s.dcmds ++ [(t, m)] }.modThread t fun x =>
    { x with reply := [], replyDue := true, staged := [], stagedCh := 0 }.complete

/-- CHC: the staged message is committed (R251); it waits for room, on HOST for a free entry. -/
def State.chc (s : State) (t : Fin 1024) (w : Pair) : State :=
  match s.chanFault t 2 (chOf w) with
  | some r => s.raiseChan t (chOf w) r
  | none =>
    match chanIdx (clusterOf t) (chOf w) with
    | some c =>
      (s.modChan c fun x => { x with writers := x.writers ++ [{ pos := t.val, qp := none, words := (s.thread t).staged }] }
        ).modThread t fun x => x.block .chc w
    | none =>
      if chOf w = 0x102 then s.armTimer t
      else if chOf w = 0x100 then s.sendDispatch t
      else s.modThread t fun x => x.block .chc w
/-- CHC (R239); it issues once every earlier store has been answered (R203). -/
def execChc (t : Fin 1024) (s : State) : Out :=
  .next (s.lum t.val 0x29 2 fun s w => if s.storesDone t.val then s.chc t w else s)

/-- A reply that has arrived goes to a CHR that waits for it (R256). -/
def Thread.takeReply (x : Thread) : Thread :=
  if x.waitsOn 0x100 then
    match x.reply with
    | v :: vs => { x with reply := vs }.deliver v
    | [] => x
  else x

/-- TIMER_EXPIRY: the CCLK copy of the tick counter has reached the expiry tick (R258). -/
def State.timerExpiry (s : State) (t : Nat) : State :=
  match (s.thread t).timer with
  | some e =>
    if (lo28 s.copy - e).toNat < 2 ^ 27 then
      s.modThread t fun x =>
        if x.waitsOn 0x102 then { x with timer := none }.deliver (loW e)
        else { x with timer := none, timerWord := some (loW e) }
    else s
  | none => s
/-- TIMER_EXPIRY (R258). -/
def execTimerExpiry (t : Fin 1024) (s : State) : Out := .next (s.timerExpiry t.val)

/-! ## WFE and SEV: R260, R261 -/

/-- WFE takes the event bits of its mask that are set. -/
def Thread.takeEvents (x : Thread) (w : Pair) : Thread :=
  let m : BitVec 8 := w.extractLsb' 13 8
  ({ x with evr := x.evr &&& ~~~m }.setR (ext w 12 8) ((x.evr &&& m).setWidth 14)).complete
/-- WFE (R261). -/
def execWfe (t : Fin 1024) (s : State) : Out :=
  .next (s.lum t.val 0x2A 0 fun s w => s.modThread t.val fun x =>
    if x.evr &&& (w.extractLsb' 13 8 : BitVec 8) = 0 then x.block .wfe w else x.takeEvents w)
/-- WFE_WAKE: a bit of the mask has been set (R261). -/
def State.wfeWake (s : State) (t : Nat) : State :=
  let x := s.thread t
  if x.st = .blocked ∧ x.blk = .wfe ∧ x.evr &&& (x.bw.extractLsb' 13 8 : BitVec 8) ≠ 0 then
    s.modThread t fun x => x.takeEvents x.bw
  else s
def execWfeWake (t : Fin 1024) (s : State) : Out := .next (s.wfeWake t.val)

/-- Set event bit n of the listed threads that are live. -/
def State.setEvent (s : State) (ts : List Nat) (n : Nat) : State :=
  s.each (ts.filter fun t => (s.thread t).live) fun s t =>
    s.modThread t fun x => { x with evr := x.evr ||| BitVec.ofNat 8 (2 ^ n) }
/-- SEV: event bit N of every live thread of the slice in the cluster (R260). -/
def State.sev (s : State) (t : Nat) (w : Pair) : State :=
  (s.setEvent ((s.threadsOfSlice (s.sliceOf t)).filter fun u => decide (clusterOf u = clusterOf t)) (ext w 20 18)).complete t
/-- SEV (R240). -/
def execSev (t : Fin 1024) (s : State) : Out := .next (s.lum t.val 0x2A 1 fun s w => s.sev t.val w)

end Sys2Proof.Machine
end

