-- ==== Sys2Proof/Machine/DspCmd.lean ====
section
/-! DEFINITION. DspCmd.lean: allocation (spec/06 R172) and the dispatch commands of DSP.CMD, of the dispatcher channel and of
host queues (R169, Table 6.5; spec/09 R256). -/

namespace Sys2Proof.Machine

/-! ## Answers: R169 -/

/-- The oldest message that thread t has committed on DISPATCH. -/
def State.dcmdOf (s : State) (t : Fin 1024) : Option (List Word) :=
  (s.dcmds.find? fun x => decide (x.1 = t)).map (·.2)
/-- Take it off. -/
def dropFirst (t : Fin 1024) : List (Fin 1024 × List Word) → List (Fin 1024 × List Word)
  | [] => []
  | x :: l => if x.1 = t then l else x :: dropFirst t l

/-- The reply of a thread's oldest command: the one of its last command becomes readable (Table 6.5, R256). A command that is
not OK counts in CNT_REJECTED. -/
def State.threadReply (s : State) (t : Fin 1024) (r : DspReply) : State :=
  let s := { s with dcmds := dropFirst t s.dcmds }
  let s := if r.code = 0 then s else s.count (dspCnt (quadOf t) 5)
  let ws := [if r.code = 0 then r.handle else 0, word (r.code + 16 * r.quad)]
  if s.dcmds.any fun x => decide (x.1 = t) then s
  else s.modThread t fun x => if x.replyDue then { x with reply := ws, replyDue := false }.takeReply else x

/-- The result of a DSP.CMD command, shown when BUSY clears. -/
def State.csrReply (s : State) (q : Nat) (r : DspReply) : State :=
  let s := if r.code = 0 then s else s.count (dspCnt q 5)
  s.modDsp q fun d => { d with res := some (BitVec.ofNat 4 r.code, r.handle) }

/-- The result of a TASK entry (R402): status 0 with handle and quadrant, or 8 with the code. -/
def State.hostReply (s : State) (qp : Qp) (r : DspReply) : State :=
  let s := if r.code = 0 then s else s.count (dspCnt r.quad 5)
  s.modQp (8 * qp.fn.val + qp.qp.val) fun x => { x with entry := x.entry.map fun e =>
    if r.code = 0 then { e with started := true, status := some 0, res0 := BitVec.ofNat 28 (r.handle.toNat + 2 ^ 14 * r.quad) }
    else { e with started := true, status := some 8, res0 := BitVec.ofNat 28 (2 ^ 16 * r.code) } }

/-- The answer of a submission. -/
def State.submitReply (s : State) (r : DspReply) : SubmitTo → State
  | .thread t => s.threadReply t r
  | .csr q => s.csrReply q r
  | .host qp => s.hostReply qp r

/-! ## Allocation: R172 -/

/-- Serve one request: whether it took a slot; none when it must wait for one (R165, R166, R168). -/
def State.serveReq (s : State) (q : Nat) (r : AReq) : Option (Bool × State) :=
  match r.sub with
  | some (u, d, dst) =>
    let x := s.dspSubmit u d (some q)
    some (decide (x.1.code = 0), x.2.submitReply x.1 dst)
  | none =>
    match r.pkt.bind fun k => (s.pkt? k).map fun p => (k, p) with
    | none => some (false, s)
    | some (k, p) =>
      match s.fate q r p with
      | .reject => some (false, s.rejectPkt q k r)
      | .discard => some (false, s.discardFor r.slice.toNat k)
      | .capture => some (false, s.captureAt r.slice.toNat k)
      | .create => (s.freeSlotIdx q).map fun n => (true, s.createTask q n r p)

/-- Serve the requests of port j, oldest first, up to the first that takes a slot or waits: whether one took a slot. -/
def State.servePort (s : State) (q j : Nat) : List AReq → Bool × State
  | [] => (false, s)
  | r :: rest =>
    match (s.modDsp q fun d => { d with reqs := SMap.set [] d.reqs j rest }).serveReq q r with
    | none => (false, s)
    | some (true, t) => (true, t)
    | some (false, t) => t.servePort q j rest

/-- One pass over the request ports in order, with `n` allocations left (R172). -/
def State.servePass (s : State) (q : Nat) : Nat → List Nat → Nat × State
  | n, [] => (n, s)
  | 0, _ => (0, s)
  | n + 1, j :: js =>
    let r := s.servePort q j (SMap.get [] (s.dspQ q).reqs j)
    r.2.servePass q (if r.1 then n else n + 1) js

/-- Passes over the ports until `n` allocations have been made or none is possible. -/
def State.servePasses (s : State) (q : Nat) (ports : List Nat) : Nat → Nat → State
  | 0, _ => s
  | _ + 1, 0 => s
  | fuel + 1, n + 1 =>
    let r := s.servePass q (n + 1) ports
    if r.1 = n + 1 then r.2 else r.2.servePasses q ports fuel r.1

/-- A packet request waits in quadrant q. -/
def State.reqWaits (s : State) (q : Nat) : Bool :=
  (List.range 10).any fun j => decide (SMap.get [] (s.dspQ q).reqs j ≠ [])

/-- The allocations of one CCLK (R172). -/
def State.allocate (s : State) (q : Nat) : State :=
  let ptr := s.pointer (10 + q) 12
  s.servePasses q ((List.range 12).map fun i => (ptr + i) % 12) 4 4
/-- SLOT_ALLOCATION: DSP serves waiting requests, up to four in a CCLK (R172). -/
def execSlotAllocation (q : Fin 4) (s : State) : Out := .next (s.when (s.clocked (3 + q)) fun s => s.allocate q)

/-- A submission: a check that fails is answered at once; else it waits on its port for its turn, which may come in this CCLK
(R168, R170, R172). The checks are made again then. -/
def State.submit (s : State) (u : Submitter) (d : Desc) (dst : SubmitTo) : State :=
  let q := s.submitQuad u d
  if s.submitCode u d q ≠ 0 then s.submitReply { code := s.submitCode u d q, quad := q.getD (u.quad.getD 0) } dst
  else
    let q := q.getD 0
    (s.addReq q (if u.src = 4 then 10 else 11) { slice := BitVec.ofNat 6 (ext d.p0 17 12), sub := some (u, d, dst) }).allocate q
/-- The submission of a requester waits on its port. -/
def State.submitting (s : State) (dst : SubmitTo) : Bool :=
  (List.range 4).any fun q => (s.dspQ q).reqs.any fun x => x.2.any fun r => decide (r.sub.map (·.2.2) = some dst)

/-! ## DSP.CMD: R169, R184 -/

/-- The descriptor staged in DSP.STAGE. -/
def State.stagedDesc (s : State) (q : Nat) : Desc :=
  { p0 := s.reg (dspOff q 0x20), p1 := s.reg (dspOff q 0x24), p2 := s.reg (dspOff q 0x28), p3 := s.reg (dspOff q 0x2C),
    p4 := s.reg (dspOff q 0x30), p5 := s.reg (dspOff q 0x34) }

def State.dspBusy (s : State) (q : Nat) : Bool := decide (s.fld ⟨dspOff q 0xC, 4, 4⟩ = 1)
/-- A write to CMD or STAGE while a command runs is ignored (R153, R184). -/
def State.dspIdle (s : State) (q : Nat) (f : State → State) : State :=
  if s.dspBusy q then s.setFld ⟨dspOff q 0xC, 5, 5⟩ 1 else f s

/-- The effect of a DSP.CMD command (Table 6.9): bits [27:18] are reserved; SUBMIT uses OP alone, RELEASE also HANDLE,
CANCEL also PROPAGATE. -/
def State.dspEffect (s : State) (q : Nat) (v : Pair) (same : Bool) : State :=
  let u : Submitter := { src := 5, slice := 0, system := true, quad := some q }
  let h := word (ext v 17 4)
  let rsvd := s.csrReply q { code := 1 }
  if ext v 27 18 ≠ 0 then rsvd
  else match ext v 2 0 with
    | 1 => if ext v 17 3 ≠ 0 then rsvd else s.submit u (s.stagedDesc q) (.csr q)
    | 2 => if bit v 3 then rsvd else (s.dspRelease u q h).2.csrReply q (s.dspRelease u q h).1
    | 3 => (s.dspCancel u q h (bit v 3) same).2.csrReply q (s.dspCancel u q h (bit v 3) same).1
    | _ => rsvd
/-- A write of DSP.CMD: the command takes effect and BUSY is 1 until its end (R169, R184). -/
def State.dspCmd (s : State) (q : Nat) (v : Pair) (same : Bool) : State :=
  s.dspIdle q fun s =>
    let s := (s.setReg (dspOff q 0x8) (v &&& bits 17 0)).setFld ⟨dspOff q 0xC, 4, 4⟩ 1
    (s.modDsp q fun d => { d with cmdAt := some (s.cclk, decide (ext v 2 0 = 1)), res := none }).dspEffect q v same

/-- The end of a DSP.CMD command, 24 CCLK after its write: CODE and, for a SUBMIT, CMD_HANDLE are written and BUSY clears
(R169). -/
def State.dspCmdEnd (s : State) (q : Nat) : State :=
  match (s.dspQ q).cmdAt, (s.dspQ q).res with
  | some (at', sub), some (c, h) =>
    if at' + 24 ≤ s.cclk then
      let s := (s.setFld ⟨dspOff q 0xC, 3, 0⟩ c.toNat).setFld ⟨dspOff q 0xC, 4, 4⟩ 0
      let s := if sub then s.setFld ⟨dspOff q 0x10, 13, 0⟩ h.toNat else s
      s.modDsp q fun d => { d with cmdAt := none, res := none }
    else s
  | _, _ => s

/-! ## The dispatcher channel: Table 6.5 -/

/-- The descriptor of a dispatcher channel message. -/
def msgDesc (m : List Word) : Desc :=
  let p (i : Nat) : Pair := pairOf (m.getD (2 * i + 1) 0) (m.getD (2 * i + 2) 0)
  { p0 := p 0, p1 := p 1, p2 := p 2, p3 := p 3, p4 := p 4, p5 := p 5 }

/-- DSP takes the oldest message m of thread t (R168, Table 6.5); a SUBMIT that waits for its turn stays the oldest. -/
def State.dspTake (s : State) (t : Fin 1024) (m : List Word) (same : Bool) : State :=
  let q := quadOf t
  let u : Submitter := { src := 4, slice := s.sliceOf t, system := s.system t, quad := some q }
  let w0 := m.headD 0
  let w2 := m.getD 2 0
  let fail (c : Nat) : State := s.threadReply t { code := c, quad := q }
  match ext w0 2 0 with
  | 1 =>
    if ext w0 13 3 ≠ 0 then fail 1
    else if m.length ≠ 13 then fail 2
    else if s.submitting (.thread t) then s
    else s.submit u (msgDesc m) (.thread t)
  | 2 =>
    if ext w0 13 3 ≠ 0 then fail 1
    else if m.length ≠ 3 then fail 2
    else if ext w2 13 2 ≠ 0 then fail 1
    else (s.dspRelease u (ext w2 1 0) (m.getD 1 0)).2.threadReply t (s.dspRelease u (ext w2 1 0) (m.getD 1 0)).1
  | 3 =>
    if ext w0 13 4 ≠ 0 then fail 1
    else if m.length ≠ 3 then fail 2
    else if ext w2 13 2 ≠ 0 then fail 1
    else (s.dspCancel u (ext w2 1 0) (m.getD 1 0) (bit w0 3) same).2.threadReply t
      (s.dspCancel u (ext w2 1 0) (m.getD 1 0) (bit w0 3) same).1
  | _ => fail 1

/-- The quadrant that a dispatcher channel message of thread t names: an access to it (R417). -/
def State.msgQuad (s : State) (t : Fin 1024) (m : List Word) : Option Nat :=
  let u : Submitter := { src := 4, slice := s.sliceOf t, system := s.system t, quad := some (quadOf t) }
  match ext (m.headD 0) 2 0 with
  | 1 => if m.length = 13 then s.submitQuad u (msgDesc m) else none
  | 2 => if m.length = 3 ∧ ext (m.getD 2 0) 13 2 = 0 then some (ext (m.getD 2 0) 1 0) else none
  | 3 => if m.length = 3 ∧ ext (m.getD 2 0) 13 2 = 0 then some (ext (m.getD 2 0) 1 0) else none
  | _ => none
/-- The domain that thread t's oldest message waits for, when the quadrant that it names is not ON (R417, R418). -/
def State.msgAsleep (s : State) (t : Fin 1024) : Option Nat :=
  ((s.dcmdOf t).bind (s.msgQuad t)).bind fun q => if s.domOn (3 + q) then none else some (3 + q)

/-- A dispatch command with operation `op` (Table 6.5), from DSP.CMD or from the dispatcher channel, where it waits for a quadrant that
sleeps. SUBMIT also
answers for channel messages of an undefined OP. -/
def State.dspRow (s : State) (op : Nat) (same : Bool) : DspSrc → State
  | .csr q v => s.when (decide (ext v 2 0 = op)) fun s => s.regRow (dspOff q 8) v fun s => s.dspCmd q v same
  | .chan t => match s.dcmdOf t with
    | some m =>
      let o := ext (m.headD 0) 2 0
      s.when (decide (o = op) || (decide (op = 1) && decide (o ≠ 2) && decide (o ≠ 3))) fun s => match s.msgAsleep t with
        | some d => s.domAccess 3 d (BitVec.ofNat 14 t.val)
        | none => s.dspTake t m same
    | none => s

/-- SUBMIT: a task descriptor is checked and, if accepted, a slot is allocated WAITING or READY (R168). -/
def execSubmit (src : DspSrc) (s : State) : Out := .next (s.dspRow 1 false src)
/-- RELEASE: a task's dependence counter is decremented (R173, R174). -/
def execRelease (src : DspSrc) (s : State) : Out := .next (s.dspRow 2 false src)
/-- CANCEL: a task that is not RUNNING is freed with LAST CANCELLED (R179, R180). -/
def execCancel (c : Cancel) (s : State) : Out := .next (s.dspRow 3 c.same c.src)

end Sys2Proof.Machine
end

