-- ==== Sys2Proof/Machine/Mem.lean ====
section
/-! DEFINITION. Mem.lean: the Lumen word-address map (spec/01 R31 to R33, Table 1.6), the rights of a thread in it,
and word accesses made within one command: gathers (R233) and pointer-mode accesses (R279). -/

namespace Sys2Proof.Machine

/-- A region of Table 1.6. -/
inductive Region where
  | dram (line : Nat) (i : Nat)
  | scratch (core : Nat)
  | wave (q : Nat)
  | shared (c : Nat) (off : Nat)
  | csr (off : Nat)
  | ownCore
  /-- Inside the stride of a region, beyond its populated words. -/
  | hole
  /-- An address that Table 1.6 does not list, or above DRAM_TOP. -/
  | none
  deriving DecidableEq, Repr

/-- The region of a word address. -/
def State.region (s : State) (a : Nat) : Region :=
  if a < s.dramTop then .dram (lineOf a) (wordIn a)
  else if 0x3FC00000000 ≤ a ∧ a < 0x3FC00800000 then
    if a % 0x10000 < 0x4000 then .scratch ((a - 0x3FC00000000) / 0x10000) else .hole
  else if 0x3FD00000000 ≤ a ∧ a < 0x3FD40000000 then
    if a % 0x10000000 < 0x400000 then .wave ((a - 0x3FD00000000) / 0x10000000) else .hole
  else if 0x3FE00000000 ≤ a ∧ a < 0x3FE08000000 then
    if a % 0x1000000 < 0x40000 then .shared ((a - 0x3FE00000000) / 0x1000000) (a % 0x1000000) else .hole
  else if 0x3FF00000000 ≤ a ∧ a < 0x3FF02000000 then .csr (2 * (a - 0x3FF00000000))
  else if 0x3FFFFFFC000 ≤ a then .ownCore
  else .none

/-- The address that a word of thread t's is kept at: the own-core window is the scratch of its core (R32). -/
def cellOf (t a : Nat) : Nat := if 0x3FFFFFFC000 ≤ a then scratchBase (t / 8) + (a - 0x3FFFFFFC000) else a

/-- Shared-memory allotment of slice i in cluster c (R364). -/
def State.inAllot (s : State) (i c off : Nat) : Bool :=
  decide (s.fld ⟨slcShare i c, 12, 5⟩ * 1024 ≤ off) &&
    decide (off < (s.fld ⟨slcShare i c, 12, 5⟩ + s.fld ⟨slcShare i c, 21, 13⟩) * 1024)

/-- A job-mode access is open to thread t (R32); `late` skips the wave-buffer check of a store, which is made when
the store arrives. -/
def State.jobOpen (s : State) (t a : Nat) (late : Bool) : Bool :=
  match s.region a with
  | .dram _ _ => true
  | .ownCore => true
  | .none => true
  | .wave _ => late || s.waveOpen (s.sliceOf t) a
  | .shared c off => s.inAllot (s.sliceOf t) c off
  | _ => false

/-- The exception that an access raises before it reaches its target: PRIV 4, ALIGN 5, UNMAPPED 6 (R202, R226). -/
def State.accFault (s : State) (t a : Nat) (pair wr : Bool) : Option Nat :=
  if s.system t = false ∧ (s.jobOpen t a wr = false ∨ (pair ∧ s.jobOpen t (a + 1) wr = false ∧ a % 2 = 0)) then some 4
  else if pair ∧ a % 2 = 1 then some 5
  else match s.region a with
    | .hole => some 6
    | .none => some 6
    | .csr _ => if pair then none else some 6
    | _ => none

/-- The Glint source and the domain of an access to a word address whose path is not ON (R418): the domain that serves it,
and BASE, which holds the on-chip fabric, on the way to DRAM, CSRs and other quadrants. -/
def State.asleepAt (s : State) (t a : Nat) : Option (Nat × Nat) :=
  let quad (q : Nat) : Option (Nat × Nat) :=
    if s.domOn (3 + q) ∧ (q = quadOf t ∨ s.domOn 1) then none else some (3, 3 + q)
  match s.region a with
  | .dram l _ => (s.place l).bind fun km => if s.domOn (11 + km.1 / 4) ∧ s.domOn 1 then none else some (4, 11 + km.1 / 4)
  | .scratch n => quad (n / 32)
  | .ownCore => quad (quadOf t)
  | .wave q => quad q
  | .shared c _ => quad (c / 2)
  | .csr o => if s.regAwake o then none else some (3, domOfReg o)
  | _ => none
/-- The path of an access of thread t to a word address runs through domain d (R416, R418). -/
def State.pathUses (s : State) (d t a : Nat) : Bool :=
  let quad (q : Nat) : Bool := decide (d = 3 + q) || (decide (d = 1) && decide (q ≠ quadOf t))
  match s.region a with
  | .dram l _ => (s.place l).any fun km => decide (d = 11 + km.1 / 4) || decide (d = 1)
  | .scratch n => quad (n / 32)
  | .ownCore => quad (quadOf t)
  | .wave q => quad q
  | .shared c _ => quad (c / 2)
  | .csr o => decide (d = domOfReg o) || (decide (d = 1) && decide (domOfReg o ≠ 0) && decide (domOfReg o ≠ 2))
  | _ => false
/-- The first of some addresses whose domain is not ON. -/
def State.asleepIn (s : State) (t : Nat) (as : List Nat) : Option (Nat × Nat) := as.findSome? (s.asleepAt t)
def State.asleepAddr (s : State) (t : Nat) (as : List Nat) : Nat := (as.find? fun a => (s.asleepAt t a).isSome).getD 0

/-! ## The task behind a thread: R336 -/

/-- The thread that holds the task a forked child works for. -/
def State.taskThread (s : State) : Nat → Nat → Nat
  | 0, t => t
  | n + 1, t => if (s.thread t).child then s.taskThread n (s.thread t).parent else t
/-- The slot of the task that thread t works for. -/
def State.slotFor (s : State) (t : Nat) : Option Slot :=
  (s.heldSlot (s.taskThread 8 t)).map fun qn => s.slot qn.1 qn.2
/-- The task is a WAVE task, or a SLOW task created from a wave. -/
def State.waveTask (s : State) (t : Nat) : Bool :=
  match s.slotFor t with
  | some x => s.isWavePkt x.pkt
  | none => false
/-- Deadline that a request of the thread carries (R336). -/
def State.reqDl (s : State) (t : Nat) : Option Pair := if s.waveTask t then (s.slotFor t).map (·.dl) else none

/-- Requester of a thread, and of a pointer-mode command of unit u. -/
def State.asThread (s : State) (t : Nat) : Requester :=
  { slice := s.sliceOf t, port := if s.waveTask t then 0 else 2, dl := s.reqDl t, mkind := 1, mid := t }
def State.asUnit (s : State) (t u : Nat) : Requester :=
  { slice := s.sliceOf t, port := if s.waveTask t then 0 else 3, dl := s.reqDl t, mkind := 2, mid := 4 * clusterOf t + u }

/-! ## Operations on several lines: R336 -/

/-- A visit or a request of operation h for line l. -/
def DChan.seen (d : DChan) (h : Holder) (l : Nat) : Bool := d.visits.any fun v => decide (v.h = h) && decide (v.line = l)
def DChan.asked (d : DChan) (h : Holder) (l : Nat) : Bool := d.reqs.any fun q => decide (q.reply = .op h) && decide (q.line = l)
/-- Operation h has visited every line of the list that has storage. -/
def State.visited (s : State) (h : Holder) (ls : List Nat) : Bool := ls.all fun l => match s.place l with
  | some (k, _) => (s.dchan k).seen h l
  | none => true
/-- Identity of a requester in a wake record (Table 12.1): SLC and the coprocessors have none. -/
def Requester.master (r : Requester) : Word := match r.mkind with
  | 1 => BitVec.ofNat 14 r.mid
  | 3 => 0x1000#14 + BitVec.ofNat 14 r.mid
  | 5 => 0x2000#14
  | _ => 0
/-- The request of operation h for line l enters its channel, once; a channel that sleeps wakes (R418). -/
def State.askVisit (s : State) (r : Requester) (h : Holder) (wr : Bool) (l : Nat) : State :=
  match s.place l with
  | some (k, _) =>
    if (s.dchan k).seen h l ∨ (s.dchan k).asked h l then s
    else
      let q : DReq := { line := l, op := .visit wr, slice := BitVec.ofNat 6 r.slice, port := BitVec.ofNat 3 r.port, mkind := r.mkind,
                        mid := r.mid, tag := r.tag, dl := r.dl, arr := s.mclk k s.tick.toNat, reply := .op h }
      let s := s.modDchan k fun d => { d with reqs := d.reqs ++ [q] }
      if s.domOn (11 + k / 4) ∧ s.domOn 1 then s else s.domAccess 4 (11 + k / 4) r.master
  | none => s
/-- Lines that an operation touches through one port, and whether it writes them. -/
structure Want where
  r : Requester
  wr : Bool
  lines : List Nat
/-- The requests of an operation for the lines that it has not visited wait at their channels. -/
def State.askVisits (s : State) (h : Holder) (ws : List Want) : State :=
  s.each ws fun s w => s.each w.lines fun s l => s.askVisit w.r h w.wr l
/-- Run `f` once operation h has visited its lines; until then its requests wait at their channels (R336). -/
def State.served (s : State) (h : Holder) (ws : List Want) (f : State → State) : State :=
  if ws.all fun w => s.visited h w.lines then (f s).dropHolder h else s.askVisits h ws
/-- DRAM lines that thread t may access at a list of addresses, each once. -/
def State.linesAt (s : State) (t : Nat) (as : List Nat) : List Nat :=
  (as.filterMap fun a => match s.region a with
    | .dram l _ => if s.accFault t a false false = none then some l else none
    | _ => none).eraseDups

/-- Number of a queue pair (R401). -/
def qpNo (q : Qp) : Nat := 8 * q.fn.val + q.qp.val
/-- The entry that a queue pair has fetched. -/
def State.modEntry (s : State) (q : Qp) (f : Fetched → Fetched) : State :=
  s.modQp (qpNo q) fun y => { y with entry := y.entry.map f }

/-! ## Words read and written within one command -/

/-- A word access ends in its words, or in a cause with the failing address. -/
inductive MemRes (α : Type) where
  | ok (v : α)
  | fault (cause : Nat) (addr : Nat)

/-- Read the words at a list of addresses for thread t; `last` is the DRAM line read last. -/
def State.readAddrs (s : State) (t : Nat) (r : Requester) (last : Option (Nat × BitVec 504)) :
    List Nat → List Word → MemRes (List Word) × State
  | [], acc => (.ok acc.reverse, s)
  | a :: as, acc =>
    match s.accFault t a false false with
    | some c => (.fault c a, s)
    | none =>
      match s.region a with
      | .dram l i =>
        if last.map (·.1) = some l then
          s.readAddrs t r last as (lineWord ((last.map (·.2)).getD 0) i :: acc)
        else match s.lineRead r l with
          | (.fault c, s) => (.fault c a, s)
          | (.ok d, s) => s.readAddrs t r (some (l, d)) as (lineWord d i :: acc)
      | _ =>
        let k := cellOf t a
        if s.poisoned k then (.fault 8 a, s) else s.readAddrs t r last as (s.getWord k :: acc)

def State.readFor (s : State) (t : Nat) (r : Requester) (as : List Nat) : MemRes (List Word) × State :=
  s.readAddrs t r none as []

/-- Write words at their addresses for thread t, in order. -/
def State.writeFor (s : State) (t : Nat) (r : Requester) : List (Nat × Word) → Option (Nat × Nat) × State
  | [] => (none, s)
  | (a, w) :: as =>
    match s.accFault t a false false with
    | some c => (some (c, a), s)
    | none =>
      match s.region a with
      | .dram l i =>
        match s.lineWrite r l .part (fun d => linePut d i false (w.setWidth 28)) with
        | (.fault c, s) => (some (c, a), s)
        | (.ok _, s) => s.writeFor t r as
      | _ => (s.putWord (cellOf t a) w).writeFor t r as

/-- n word addresses from an offset in a bank; offsets advance modulo 2^14 (R279). -/
def bankAddrs (bank : Pair) (off : Word) (n : Nat) : List Nat :=
  (List.range n).map fun i => (addrOf bank (off + BitVec.ofNat 14 i)).toNat

end Sys2Proof.Machine
end

