-- ==== Sys2Proof/Machine/Trace.lean ====
section
/-! DEFINITION. Trace.lean: trace rings (spec/11): records, lines, disposal, triggers and modes. -/

namespace Sys2Proof.Machine

/-- Register of ring r (R307). -/
def ringReg (r o : Nat) : Nat := 0x1A00000 + 0x100 * r + o
def ringCfg (s : State) (r hi lo : Nat) : Nat := s.fld ⟨ringReg r 0, hi, lo⟩
/-- STATE: 0 IDLE, 1 RUNNING, 2 FILLING, 3 ARMED, 4 TRIGGERED, 5 DONE, 6 ERROR. -/
def State.ringState (s : State) (r : Nat) : Nat := s.fld ⟨ringReg r 0x3C, 2, 0⟩
def State.setRingState (s : State) (r n : Nat) : State := s.setFld ⟨ringReg r 0x3C, 2, 0⟩ n
def State.ringMode (s : State) (r : Nat) : Nat := ringCfg s r 2 1
def State.ringSlice (s : State) (r : Nat) : Nat := ringCfg s r 8 3
def State.ringSize (s : State) (r : Nat) : Nat := ringCfg s r 14 10
def State.ringBase (s : State) (r : Nat) : Nat := s.fld ⟨ringReg r 4, 27, 0⟩ + 2 ^ 28 * s.fld ⟨ringReg r 8, 7, 0⟩
def State.ringWr (s : State) (r : Nat) : Nat := s.fld ⟨ringReg r 0xC, 26, 0⟩
def State.ringRd (s : State) (r : Nat) : Nat := s.fld ⟨ringReg r 0x10, 26, 0⟩
def State.ringPre (s : State) (r : Nat) : Nat := s.fld ⟨ringReg r 0x28, 13, 0⟩
def State.ringPost (s : State) (r : Nat) : Nat := s.fld ⟨ringReg r 0x28, 27, 14⟩
def State.ringTe (s : State) (r : Nat) : Pair := s.reg (ringReg r 0x40)
/-- 42-bit value in two registers. -/
def State.ring42 (s : State) (r o : Nat) : WAddr :=
  BitVec.ofNat 42 (s.fld ⟨ringReg r o, 27, 0⟩ + 2 ^ 28 * s.fld ⟨ringReg r (o + 4), 13, 0⟩)

/-! ## Lines: R291 to R294 -/

/-- The 504 data bits of a ring line: header word, record words, zeros (R293, R294). -/
def ringLine (first : Nat) (gen : Nat) (ws : List Word) : BitVec 504 :=
  (ws.zipIdx.foldl (fun d wi => linePut d (wi.2 + 1) false (wi.1.setWidth 28)) (0 : BitVec 504)) |||
    BitVec.ofNat 504 (first % 64 + 64 * (gen % 256))

/-- The count of the next line to be completed: the lines sent come before it. -/
def State.ringNext (s : State) (r : Nat) : Nat := (s.ringWr r + (s.ring r).sent.length) % 2 ^ 27
/-- DRAM line of count n (R292). -/
def State.ringLineAt (s : State) (r n : Nat) : Nat := s.ringBase r + n % 2 ^ s.ringSize r
/-- A write that fails its check stops the ring in ERROR; what it holds is lost (R291). -/
def State.ringFail (s : State) (r l : Nat) : State :=
  (((s.modRing r fun x => { x with line := [], first := 0, sent := [] }).setRingState r 6).setFld ⟨ringReg r 0x3C, 5, 5⟩ 1).err
    { src := 7, code := 3, cls := 1, unit := r, slice := some (s.ringSlice r), info := [l % 2 ^ 28] }
/-- Master of the lines that a source completes (Tables 1.2, 18.2): the Echo unit of a cluster, Prism of a quadrant; none for EPC's
markers, for the ring itself and for a register write. -/
def srcMaster (src : Nat) : Nat × Nat := if src < 8 then (2, 4 * src) else if src < 12 then (4, src - 8) else (0, 0)

/-- Complete the line being filled (R294): it waits at its channel on port TRACE, with the deadline of an ECHO record (R299, R336). A
domain that sleeps begins to wake; the identity of the source in the wake record has no code, and is a free value (R418, R421). -/
def State.ringComplete (s : State) (r src : Nat) (dl : Option Pair) : State :=
  let x := s.ring r
  let n := s.ringNext r
  let l := s.ringLineAt r n
  match s.place l with
  | none => s.ringFail r l
  | some (k, _) =>
    let q : DReq := { line := l, op := .words (ringLine x.first.toNat (n / 2 ^ s.ringSize r) x.line), slice := BitVec.ofNat 6 (s.ringSlice r),
                      port := 1, mkind := (srcMaster src).1, mid := (srcMaster src).2, dl := dl, arr := s.mclk k s.tick.toNat,
                      reply := .ring r x.run n }
    let s := (s.modRing r fun x => { x with line := [], first := 0, sent := x.sent ++ [false] }).modDchan k fun d =>
      { d with reqs := d.reqs ++ [q] }
    if s.domOn (11 + k / 4) then s else s.freshVal.2.domAccess 4 (11 + k / 4) (s.freshVal.1.setWidth 14)

/-- Lines written from the oldest on. -/
def Ring.written (x : Ring) : Nat := (x.sent.takeWhile id).length
/-- Line n of run `run` of ring r has been written, or has failed its check (R291, R292): WR counts the lines that have none before them
still on its way. The answer to a ring that has started again or stopped in ERROR is dropped. -/
def State.ringAnswer (s : State) (r run n : Nat) (ok : Bool) : State :=
  let i := (n + 2 ^ 27 - s.ringWr r) % 2 ^ 27
  if (s.ring r).run ≠ run ∨ (s.ring r).sent.length ≤ i then s
  else if ok = false then s.ringFail r (s.ringLineAt r n)
  else
    let s := s.modRing r fun x => { x with sent := x.sent.set i true }
    let k := (s.ring r).written
    (s.modRing r fun x => { x with sent := x.sent.drop k }).setFld ⟨ringReg r 0xC, 26, 0⟩ ((s.ringWr r + k) % 2 ^ 27)

/-- Lines between RD and WR (R292). -/
def State.ringUsed (s : State) (r : Nat) : Nat := (s.ringWr r + 2 ^ 27 - s.ringRd r) % 2 ^ 27
/-- FULL and SELECT never overwrite (R299): n more lines may be completed. -/
def State.ringRoom (s : State) (r n : Nat) : Bool :=
  decide (s.ringMode r = 2) || decide (s.ringUsed r + (s.ring r).sent.length + n ≤ 2 ^ s.ringSize r)
/-- Complete the line if the ring has room for it. -/
def State.ringFlush (s : State) (r : Nat) : State := if s.ringRoom r 1 then s.ringComplete r 14 none else s

/-- Append words, completing each line whose 35th record word is filled; a ring in ERROR takes no more. -/
def State.ringWords (s : State) (r src : Nat) (dl : Option Pair) : List Word → State
  | [] => s
  | w :: ws =>
    if s.ringState r = 6 then s
    else
      let s := s.modRing r fun x => { x with line := x.line ++ [w] }
      (if (s.ring r).line.length = 35 then s.ringComplete r src dl else s).ringWords r src dl ws

/-- Append the words of a record whole; the line is completed after a MARK (R294). -/
def State.ringAppend (s : State) (o : Offer) : State :=
  let r := o.ring.toNat
  let s := s.modRing r fun x => { x with first := if x.first = 0 then BitVec.ofNat 6 (x.line.length + 1) else x.first }
  let s := s.ringWords r o.src.val o.dl o.words
  let s := s.count (ringReg r 0x44)
  if o.rtype = 3 ∧ (s.ring r).line ≠ [] ∧ s.ringState r ≠ 6 then s.ringComplete r o.src.val o.dl else s

/-- Lines that a record of n words completes. -/
def State.ringLines (s : State) (r n : Nat) (last : Bool) : Nat :=
  let k := (s.ring r).line.length + n
  k / 35 + (if last ∧ k % 35 ≠ 0 then 1 else 0)

/-! ## Disposal: R298, Table 11.3 -/

/-- How a record is disposed of. -/
inductive Disposal where
  | refused | filtered | appended
  deriving DecidableEq, Repr

/-- The slice of ring r may take records (R379). -/
def State.ringOpen (s : State) (r : Nat) : Bool :=
  let st := s.sliceState (s.ringSlice r)
  decide (st = 1) || decide (st = 2)

/-- The first case of Table 11.3 that applies. -/
def State.ringDisposal (s : State) (o : Offer) : Disposal :=
  let r := o.ring.toNat
  let st := s.ringState r
  if ringCfg s r 0 0 = 0 ∨ st = 0 ∨ 5 ≤ st ∨ s.ringOpen r = false then .refused
  else if o.rtype = 1 ∧ o.system = false ∧ o.slice.toNat ≠ s.ringSlice r then .refused
  else if o.rtype = 2 ∧ s.ringSlice r ≠ 0 ∧ o.slice.toNat ≠ s.ringSlice r then .refused
  else if 0 < s.ringLines r o.words.length (decide (o.rtype = 3)) ∧
      s.ringRoom r (s.ringLines r o.words.length (decide (o.rtype = 3))) = false then .refused
  else if s.ringMode r = 1 ∧ o.rtype = 1 ∧ (o.ref ^^^ s.ring42 r 0x18) &&& s.ring42 r 0x20 ≠ 0 then .filtered
  else if s.ringMode r = 2 ∧ st = 4 ∧ precedes (s.ringTe r + BitVec.ofNat 28 (s.ringPost r)) (lo28 o.epoch) then .filtered
  else .appended

/-- Dispose of a record, without what a trigger brings. -/
def State.ringDispose (s : State) (o : Offer) : Disposal × State :=
  let d := s.ringDisposal o
  let r := o.ring.toNat
  (d, match d with
    | .refused => s.count (ringReg r 0x48)
    | .filtered => s.count (ringReg r 0x4C)
    | .appended => s.ringAppend o)

/-! ## Triggers: R301 -/

/-- A record: H0, H1 and body (R295). -/
def recordOf (rtype : Nat) (rzero : Bool) (body : List Word) : List Word :=
  [word (rtype + 16 * b2n rzero), word (body.length % 8192)] ++ body
def pairWords (p : Pair) : List Word := [loW p, hiW p]

/-- A trigger of ring r with cause 0 CSR, 1 CHANGE, 2 RAW or 3 EPOCH and trigger epoch te. -/
def State.ringTrigger (s : State) (r cause : Nat) (te : Epoch) : State :=
  let st := s.ringState r
  if s.fld ⟨ringReg r 0x3C, 6, 6⟩ = 1 ∨ st = 2 then s.count (ringReg r 0x50)
  else if st = 1 ∨ st = 3 then
    let s := (s.setReg (ringReg r 0x40) (lo28 te)).setFld ⟨ringReg r 0x3C, 6, 6⟩ 1
    let s := if st = 3 then s.setRingState r 4 else s
    let o : Offer := { ring := BitVec.ofNat 8 r, src := 13, rtype := 4, slice := 0, system := true,
                       epoch := te, ref := 0, change := false, cmd := none,
                       words := recordOf 4 false ([word cause] ++ pairWords (lo28 te) ++ pairWords (lo28 s.tick)) }
    let s := (s.ringDispose o).2
    let c := 64 * ringCfg s r 27 25 + ringCfg s r 24 19
    let own := s.chanValid c && (decide (s.ringSlice r = 0) || decide (s.chanSlice c = s.ringSlice r))
    let s := if ringCfg s r 18 18 = 1 ∧ own then
        s.modChan c fun x => { x with writers := x.writers ++
          [{ pos := 1024, qp := none, words := [word (r + 256 * cause), loW (lo28 te)] }] }
      else s
    s.fnEvent (s.ringSlice r) 3
  else s

/-- What an appended record triggers (R301): 1 CHANGE or 2 RAW. -/
def State.recordTrigger (s : State) (o : Offer) : State :=
  let r := o.ring.toNat
  let k := ringCfg s r 17 15
  if k = 1 ∧ o.rtype = 1 ∧ o.ref = s.ring42 r 0x2C ∧ o.change then s.ringTrigger r 1 o.epoch
  else if k = 2 ∧ o.rtype = 2 then s.ringTrigger r 2 o.epoch
  else s

/-- CSTAT of the context of a tag shows the code of its fault (Table 10.1). -/
def CopUnit.faulted (u : CopUnit) (tag code : Nat) : CopUnit := match u.cmds.find? fun c => decide (c.tag = tag) with
  | some c => { u with ctxs := SMap.modify {} u.ctxs c.ctx.val fun x => { x with uregs := SMap.set 0 x.uregs 62 (BitVec.ofNat 28 (32 * code)) } }
  | none => u
/-- An Echo command whose record has been disposed of ends (R298). -/
def State.offerDone (s : State) (o : Offer) (d : Disposal) : State :=
  match o.cmd with
  | some (n, tag) => s.modUnit n fun u =>
      { (if d = .refused then u.faulted tag 0x27 else u) with cmds := u.cmds.map fun c =>
          if c.tag = tag then { c with done := some (if d = .refused then 0x27 else 0, false) } else c }
  | none => s

/-- Take the oldest offer of a source. -/
def dropOffer (src : Fin 14) : List Offer → List Offer
  | [] => []
  | o :: os => if o.src = src then os else o :: dropOffer src os

/-- The oldest record that a source offers. -/
def State.headOffer (s : State) (src : Fin 14) : Option Offer := s.offers.find? fun o => decide (o.src = src)
/-- The oldest record that the source offers is refused, filtered or appended (R298). It waits while a line of its ring is on its way to
DRAM (R299; notes/assumptions/9.md). -/
def State.appendHead (s : State) (src : Fin 14) : State :=
  match s.headOffer src with
  | none => s
  | some o =>
    if (s.ring o.ring.toNat).sent ≠ [] then s
    else
      let s := { s with offers := dropOffer src s.offers }
      let (d, s) := s.ringDispose o
      let s := s.offerDone o d
      if d = .appended then s.recordTrigger o else s
/-- Sources whose oldest record goes to ring r, in the order of this CCLK (R297). -/
def State.ringOrder (s : State) (r : Nat) : List (Fin 14) :=
  ((List.finRange 14).map fun i => i + Fin.ofNat 14 (s.pointer 5000 14)).filter fun src =>
    match s.headOffer src with
    | some o => decide (o.ring.toNat = r)
    | none => false
/-- Sources before `src` in that order. -/
def State.ahead (s : State) (r : Nat) (src : Fin 14) : List (Fin 14) :=
  let p := s.pointer 5000 14
  let at' (x : Fin 14) : Nat := (x.val + 14 - p % 14) % 14
  (s.ringOrder r).filter fun x => decide (at' x < at' src)
/-- RECORD_APPEND: the record of the source, behind those that reach its ring with it and precede it (R297, R298). -/
def State.recordAppend (s : State) (src : Fin 14) : State :=
  match s.headOffer src with
  | none => s
  | some o => (s.each (s.ahead o.ring.toNat src) State.appendHead).appendHead src
/-- RECORD_APPEND (R298). -/
def execRecordAppend (src : Fin 14) (s : State) : Out := .next (s.recordAppend src)

/-! ## RING_CTL and RING_RD: R294, R300 to R303 -/

/-- START is accepted (R300). -/
def State.ringCanStart (s : State) (r : Nat) : Bool :=
  let st := s.ringState r
  let size := s.ringSize r
  (decide (st = 0) || decide (5 ≤ st)) && decide (ringCfg s r 0 0 = 1) && decide (s.ringMode r ≠ 3) &&
    decide (6 ≤ size) && decide (size ≤ 26) && decide (ringCfg s r 17 15 ≤ 3) &&
    decide (s.ringBase r % 2 ^ size = 0) && decide (s.ringBase r + 2 ^ size ≤ s.extents * 2 ^ 24)

/-- RING_START (R300). -/
def State.ringStart (s : State) (r : Nat) : State :=
  if s.ringCanStart r then
    let s := ((s.setReg (ringReg r 0xC) 0).setReg (ringReg r 0x10) 0).modRing r fun x => { run := x.run + 1 }
    let s := (s.setFld ⟨ringReg r 0x3C, 5, 5⟩ 0).setFld ⟨ringReg r 0x3C, 6, 6⟩ 0
    s.setRingState r (if s.ringMode r = 2 then (if s.ringPre r = 0 then 3 else 2) else 1)
  else s.setFld ⟨ringReg r 0x3C, 3, 3⟩ 1
/-- A ring completes its line and enters DONE (R302). -/
def State.ringDone (s : State) (r : Nat) : State :=
  let s := s.ringFlush r
  if s.ringState r = 6 then s else s.setRingState r 5
/-- The ring has been started and has not ended. -/
def State.ringLive (s : State) (r : Nat) : Bool := decide (1 ≤ s.ringState r) && decide (s.ringState r ≤ 4)
/-- RING_STOP: completes the line and enters DONE (R302); a ring that is not started has no line. -/
def State.ringStop (s : State) (r : Nat) : State := if s.ringLive r then s.ringDone r else s.setRingState r 5
/-- RING_FLUSH (R294). -/
def State.ringFlushCtl (s : State) (r : Nat) : State := if s.ringLive r then s.ringFlush r else s

/-- A write of RING_CTL: START, STOP, TRIG and FLUSH in the order of their bits. -/
def State.ringCtl (s : State) (r : Nat) (v : Pair) : State :=
  let s := if bit v 0 then s.ringStart r else s
  let s := if bit v 1 then s.ringStop r else s
  let s := if bit v 2 then s.ringTrigger r 0 s.epc.epoch else s
  if bit v 3 then s.ringFlushCtl r else s

/-- RING_START (R300). -/
def execRingStart (r : Fin 256) (s : State) : Out := .next (s.regRow (ringReg r 0x38) 1 fun s => s.ringCtl r.val 1)
/-- RING_STOP (R302). -/
def execRingStop (r : Fin 256) (s : State) : Out := .next (s.regRow (ringReg r 0x38) 2 fun s => s.ringCtl r.val 2)
/-- A TRIG write in the CCLK in which the records that wait reach the ring: one of them that triggers the ring gives the cause (R301);
else the TRIGGER record stands among them as source 13 (R297). -/
def State.ringTrigSame (s : State) (r : Nat) : State :=
  let order := s.ringOrder r
  let a := s.each order State.appendHead
  if a.fld ⟨ringReg r 0x3C, 6, 6⟩ = 1 then a.ringCtl r 4
  else
    let front := s.ahead r 13
    ((s.each front State.appendHead).ringCtl r 4).each (order.drop front.length) State.appendHead
/-- RING_TRIG: a trigger of cause CSR in the current epoch; `same`: in the CCLK in which the waiting records are appended. -/
def execRingTrig (x : RingTrig) (s : State) : Out :=
  .next (s.regRow (ringReg x.ring 0x38) 4 fun s => if x.same then s.ringTrigSame x.ring.val else s.ringCtl x.ring.val 4)
/-- RING_FLUSH (R294). -/
def execRingFlush (r : Fin 256) (s : State) : Out := .next (s.regRow (ringReg r 0x38) 8 fun s => s.ringCtl r.val 8)

/-- A RING_RD write (R303): a count between the old RD and WR, modulo 2^27, or RD_ERR. -/
def State.ringRdWrite (s : State) (r : Nat) (v : Pair) : State :=
  let n := ext v 26 0
  if (n + 2 ^ 27 - s.ringRd r) % 2 ^ 27 ≤ s.ringUsed r then s.setReg (ringReg r 0x10) (BitVec.ofNat 28 n)
  else s.setFld ⟨ringReg r 0x3C, 4, 4⟩ 1
/-- RING_RD_WRITE (R303). -/
def execRingRdWrite (r : Fin 256) (v : Pair) (s : State) : Out := .next (s.regRow (ringReg r 0x10) v fun s => s.ringRdWrite r.val v)

/-! ## Phases and epochs: R295, R301, R302 -/

/-- An EPOCH trigger of ring r, behind the records that precede source 13 in this CCLK (R297, R301). -/
def State.epochTrigger (s : State) (r : Nat) (e : Epoch) : State := (s.each (s.ahead r 13) State.appendHead).ringTrigger r 3 e
/-- A MARK of phase 0 reaches ring r in the CCLK of the epoch's start, and comes before the TRIGGER record (R297). -/
def State.markFirst (s : State) (r : Nat) : Bool :=
  phValid (s.phaseA 0) && decide (phStart (s.phaseA 0) = 0) && decide (ringCfg s r 9 9 = 1) && decide (s.pointer 5000 14 ≠ 13)
/-- MARK of phase i into every started ring that takes marks (R295), behind the records that precede it in this CCLK (R297); an EPOCH
trigger that waits for it follows. -/
def State.ringMarks (s : State) (i : Nat) : State :=
  let e := s.epc.epoch
  let st := s.epc.start + BitVec.ofNat 56 (phStart (s.phaseA i))
  let ws := recordOf 3 false ([word (i + 16 * (phKind (s.phaseA i) % 4))] ++ pairWords (lo28 e) ++ pairWords (hi28 e)
    ++ pairWords (lo28 st))
  s.each ((List.range 256).filter fun r => s.ringLive r && decide (ringCfg s r 9 9 = 1)) fun s r =>
    let s := s.each (s.ahead r 12) State.appendHead
    let o : Offer := { ring := BitVec.ofNat 8 r, src := 12, rtype := 3, slice := 0, system := true,
                       epoch := e, ref := 0, change := false, cmd := none, words := ws }
    let s := (s.ringDispose o).2
    match (s.ring r).due with
    | some d => (s.modRing r fun x => { x with due := none }).epochTrigger r d
    | none => s

/-- The start of epoch e for ring r (R301, R302): the window ends, or a start is counted; then an EPOCH trigger. -/
def State.ringEpoch (s : State) (r : Nat) (e : Epoch) : State :=
  let s :=
    if s.ringMode r = 2 ∧ s.ringState r = 4 ∧ lo28 e = s.ringTe r + BitVec.ofNat 28 (s.ringPost r + 2) then s.ringDone r
    else if s.ringMode r = 2 ∧ s.ringState r = 2 then
      let s := s.modRing r fun x => { x with starts := x.starts + 1 }
      if s.ringPre r ≤ (s.ring r).starts then s.setRingState r 3 else s
    else s
  if ringCfg s r 17 15 = 3 ∧ s.ringLive r ∧ lo28 e = s.reg (ringReg r 0x34) then
    (if s.markFirst r then s.modRing r fun x => { x with due := some e } else s.epochTrigger r e)
  else s
/-- The start of epoch e for every started ring of a slice that is ACTIVE or ARMED (R379). -/
def State.ringEpochs (s : State) (e : Epoch) : State :=
  s.each ((List.range 256).filter fun r => s.ringLive r && s.ringOpen r) fun s r => s.ringEpoch r e

end Sys2Proof.Machine
end

