-- ==== Sys2Proof/Machine/Cop.lean ====
section
/-! DEFINITION. Cop.lean: the coprocessor units as threads use them (spec/10): contexts, unit registers, the queue
of commands and completions. Machine/CopCmd.lean holds what each command computes. -/

namespace Sys2Proof.Machine

/-- UNIT of CPL, CPU, CPQ, CPM and CPS, and the unit number for a thread. -/
def unitOf (w : Pair) : Nat := ext w 21 20
def unitNo (t u : Nat) : Nat := 4 * clusterOf t + u
def State.ctx (s : State) (n k : Nat) : Ctx := SMap.get {} (s.unit n).ctxs k
def State.modCtx (s : State) (n k : Nat) (f : Ctx → Ctx) : State :=
  s.modUnit n fun u => { u with ctxs := SMap.modify {} u.ctxs k f }

/-! ## Unit registers: R275, Table 10.1 -/

def Ctx.ureg (c : Ctx) (i : Nat) : Pair := SMap.get 0 c.uregs i
def Ctx.setUreg (c : Ctx) (i : Nat) (v : Pair) : Ctx := { c with uregs := SMap.set 0 c.uregs i v }
/-- V word i (0 to 95). -/
def Ctx.v (c : Ctx) (i : Nat) : Word := if i % 2 = 0 then loW (c.ureg (i / 2)) else hiW (c.ureg (i / 2))
def Ctx.setV (c : Ctx) (i : Nat) (w : Word) : Ctx :=
  c.setUreg (i / 2) (if i % 2 = 0 then pairOf w (hiW (c.ureg (i / 2))) else pairOf (loW (c.ureg (i / 2))) w)
/-- V words from i on. -/
def Ctx.vs (c : Ctx) (i n : Nat) : List Word := (List.range n).map fun j => c.v (i + j)
def Ctx.setVs (c : Ctx) (i : Nat) : List Word → Ctx
  | [] => c
  | w :: ws => (c.setV i w).setVs (i + 1) ws

/-- What a CPM write stores in register i: bits that read zero ignore it; RO and reserved registers ignore it. -/
def uregMask (i : Nat) : Pair :=
  if i < 48 then bits 27 0
  else match i with
    | 48 => bits 27 0
    | 49 => bits 13 0
    | 50 => bits 27 0
    | 51 => bits 13 0
    | 52 => bits 7 0
    | 55 => bits 15 0
    | 56 => bits 15 0
    | 57 => bits 27 0
    | _ => 0
def Ctx.cpmWrite (c : Ctx) (i : Nat) (v : Pair) : Ctx := if uregMask i = 0 then c else c.setUreg i (v &&& uregMask i)
/-- What a CPM read returns: CSTAT adds the commands outstanding. -/
def State.cpmRead (s : State) (n k i : Nat) : Pair :=
  if i = 62 then BitVec.ofNat 28 ((s.unit n).outstanding k % 32) ||| ((s.ctx n k).ureg 62 &&& bits 10 5)
  else (s.ctx n k).ureg i

/-! ## Contexts: R272 to R274 -/

/-- Contexts of a unit that are free. -/
def CopUnit.free (u : CopUnit) : List (Fin 4) :=
  (List.finRange 4).filter fun k => (SMap.get {} u.ctxs k.val).holder.isNone && !(SMap.get {} u.ctxs k.val).releasing

/-- Grant context k of unit n to thread t. -/
def State.grantCtx (s : State) (n k : Nat) (t : Fin 1024) : State :=
  (s.modCtx n k fun _ => { holder := some t, last := BitVec.ofNat 10 t.val }).count (copReg n 0x30)

/-- The oldest failed completion of unit u that thread t has not taken (R283). -/
def State.pendingFault (s : State) (t u : Nat) : Option Word :=
  (s.thread t).copq.find? fun c => decide (ext c 1 0 = u) && decide (ext c 11 6 ≠ 0)
/-- Remove the first occurrence. -/
def dropWord (w : Word) : List Word → List Word
  | [] => []
  | x :: xs => if x = w then xs else x :: dropWord w xs
/-- Raise it at an instruction that names the unit. -/
def State.raisePending (s : State) (t u : Nat) (c : Word) : State :=
  (s.modThread t fun x => { x with copq := dropWord c x.copq }).copFault t u (queuedInfo c)
/-- An instruction that raises a pending fault of the unit first. -/
def State.copInstr (s : State) (t u : Nat) (f : State → State) : State :=
  match s.pendingFault t u with
  | some c => s.raisePending t u c
  | none => f s
/-- COP-FAULT raised at CPQ or CPM itself (R274, R276). -/
def State.copNow (s : State) (t u code : Nat) : State := s.copFault t u (u + 2 ^ 6 * code)

/-- CPL (R272). -/
def State.cpl (s : State) (t : Fin 1024) (w : Pair) : State :=
  let u := unitOf w
  let n := unitNo t u
  if ((s.unit n).held t).isSome then s.complete t
  else if (s.unit n).waiters = [] then
    match s.pick (s.unit n).free with
    | (some k, s) => (s.grantCtx n k t).complete t
    | (none, s) => (s.modUnit n fun x => { x with waiters := x.waiters ++ [t] }).modThread t fun x => x.block .cpl w
  else (s.modUnit n fun x => { x with waiters := x.waiters ++ [t] }).modThread t fun x => x.block .cpl w
/-- CPL (R241). -/
def execCpl (t : Fin 1024) (s : State) : Out := .next (s.lum t.val 0x2C 0 fun s w => s.cpl t w)

/-- CONTEXT_GRANT: a free context goes to the waiting thread that the rotation reaches first (R272). -/
def State.contextGrant (s : State) (n : Nat) : State :=
  match rotPick (s.pointer (3000 + n) 1024) 1024 (fun t => (s.unit n).waiters.any fun x => decide (x.val = t)) with
  | none => s
  | some t =>
    if h : t < 1024 then
      match s.pick (s.unit n).free with
      | (some k, s) => ((s.modUnit n fun x => { x with waiters := x.waiters.filter fun y => decide (y.val ≠ t) }).grantCtx n k
          ⟨t, h⟩).complete t
      | (none, _) => s
    else s
/-- CONTEXT_GRANT (R272). -/
def execContextGrant (c : Fin 8) (u : Fin 3) (s : State) : Out := .next (s.contextGrant (4 * c.val + u.val))

/-- CPU: the thread's context of the unit is released (R273, R274). -/
def execCpu (t : Fin 1024) (s : State) : Out :=
  .next (s.lum t.val 0x2C 1 fun s w => s.copInstr t.val (unitOf w) fun s =>
    (s.modUnit (unitNo t.val (unitOf w)) fun x => x.releaseOf t.val).complete t.val)

/-- CONTEXT_RELEASE: the last command of a releasing context has completed; everything it holds is cleared (R273). -/
def State.contextRelease (s : State) (n k : Nat) : State :=
  if (s.ctx n k).releasing ∧ (s.unit n).outstanding k = 0 then s.modUnit n fun u => { u with ctxs := SMap.del k u.ctxs }
  else s
/-- CONTEXT_RELEASE (R273). -/
def execContextRelease (c : Fin 8) (u : Fin 3) (k : Fin 4) (s : State) : Out :=
  .next (s.contextRelease (4 * c.val + u.val) k.val)

/-! ## CPQ: R276, R277, Tables 10.6 to 10.8 -/

/-- The unit defines CMD (BADCMD). -/
def cmdDefined (u cmd : Nat) : Bool :=
  match u with
  | 0 => decide (cmd ≤ 1)
  | 1 => decide (cmd ≤ 0x0B)
  | _ => decide (cmd ≤ 3) || decide (cmd = 0x10)
/-- The command exists in the mode (MODE): WIREK in pointer mode only. -/
def cmdMode (u cmd : Nat) (ptr : Bool) : Bool := ptr || !(decide (u = 1) && decide (cmd = 0x0B))

/-- N of the argument: 12 bits in pointer mode and for Sponge, 5 bits for Echo and XEV in register mode. -/
def cmdN (u : Nat) (ptr : Bool) (arg : Pair) : Nat := (if ptr ∨ u = 2 then ext arg 11 0 else ext arg 4 0) + 1

/-- The argument raises no ARG (R276, R287 to R289); `par` is PARAM, which WIREK reads. -/
def cmdArg (u cmd : Nat) (ptr : Bool) (arg : Pair) (par : Pair) : Bool :=
  let n := cmdN u ptr arg
  let top : Bool := if ptr then true else decide (ext arg 27 14 = 0)
  match u with
  | 0 =>
    top && (ptr || (decide (ext arg 11 5 = 0) && decide (n ≤ 24))) && !(decide (cmd = 1) && bit arg 13)
  | 1 =>
    (if ptr then decide (ext arg 13 12 = 0) else decide (ext arg 27 5 = 0)) &&
      (ptr || decide (cmd ≠ 8) || decide (n ≤ 16)) &&
      (decide (cmd ≠ 0x0B) || (decide (ext par 5 4 ≠ 3) && decide (1 ≤ ext par 3 0)))
  | _ =>
    if cmd = 0 ∨ cmd = 2 then decide (ext arg 27 0 = 0)
    else top && (ptr || decide (n ≤ 96)) && (decide (cmd = 0x10) || !bit arg 13)

/-- The argument of a CPQ: the pair RA, or its upper word in pointer mode. -/
def cpqArg (w : Pair) (ra : Pair) : Pair := if bit w 13 then (hiW ra).setWidth 28 else ra

/-- The commands of context k of unit n whose operands have not been read: they have not run, and have no record waiting for its
disposal (R278). -/
def State.unread (s : State) (n k : Nat) : List Cmd :=
  (s.unit n).cmds.filter fun c => decide (c.ctx.val = k) && c.done.isNone && !s.offers.any fun o => decide (o.cmd = some (n, c.tag))
/-- PARAM of context k as the CPM writes before it leave it. -/
def State.param (s : State) (n k : Nat) : Pair :=
  match ((s.unit n).cpms.filter fun p => decide (p.ctx.val = k) && decide (p.reg = 57)).getLast? with
  | some p => p.v
  | none => (s.ctx n k).ureg 57

/-- The first COP-FAULT of a CPQ that is neither locked out nor well formed (R274, R276). -/
def State.cpqFault (s : State) (t : Nat) (w : Pair) : Option Nat :=
  let u := unitOf w
  let cmd := ext w 19 14
  let n := unitNo t u
  match (s.unit n).held t with
  | none => some 0x21
  | some k =>
    if cmdDefined u cmd = false then some 0x22
    else if cmdMode u cmd (bit w 13) = false then some 0x23
    else if cmdArg u cmd (bit w 13) (cpqArg w ((s.thread t).rp (ext w 12 8))) (s.param n k) = false then some 0x24
    else none

/-- The lowest free tag (R277). -/
def CopUnit.tag? (u : CopUnit) : Option Nat := (List.range 16).find? fun i => u.cmds.all fun c => decide (c.tag ≠ i)

/-- Queue the command with tag `tag` in context k. -/
def State.cpqQueue (s : State) (t : Fin 1024) (w : Pair) (tag k : Nat) : State :=
  let u := unitOf w
  let n := unitNo t u
  let x := s.thread t
  let ra := x.rp (ext w 12 8)
  let c : Cmd := { tag := tag, thread := t, ctx := ⟨k % 4, Nat.mod_lt _ (by decide)⟩, cmd := w.extractLsb' 14 6, ptr := bit w 13,
                   bank := x.bank (ext w 7 5), arg := ra, epoch := s.epc.epoch }
  ((s.modUnit n fun y => { y with cmds := y.cmds ++ [c] }).count (copReg n 0x20)).modThread t fun x =>
    (x.setR (ext w 4 0) (word tag)).complete

/-- CPQ (R274, R276, R277). -/
def State.cpq (s : State) (t : Fin 1024) (w : Pair) : State :=
  let u := unitOf w
  let n := unitNo t u
  s.copInstr t u fun s =>
    match s.cpqFault t w with
    | some code => s.copNow t u code
    | none =>
      match (s.unit n).tag?, (s.unit n).held t with
      | some tag, some k => s.cpqQueue t w tag k
      | _, _ => s.modThread t fun x => x.block .cpq w
/-- The instruction behind the one whose precise exception thread t has taken, while its handler has not begun: it issued before it was
squashed (R202, R207). -/
def State.squashedWord (s : State) (t op : Nat) : Option Pair :=
  let x := s.thread t
  let c := clusterOf t
  let a := (({ x with lsusp := x.esLsusp } : Thread).after x.epcx).pc.toNat
  let w := s.instrAt c a
  if x.exc ∧ x.esImp = false ∧ x.st = .run ∧ x.pc = s.ibase (s.sliceOf t) c - 32 + x.ecause.setWidth 16 ∧ s.fetchOpenAt t a ∧
      s.poisoned (imemPoison c a) = false ∧ opc w = op ∧ defined w ∧ fieldsOk w then some w else none
/-- A CPQ that an exception of an earlier instruction squashes leaves nothing but a count of the command that its unit had received
(R281): one without a COP-FAULT, with a tag free for it. -/
def State.cpqSquashed (s : State) (t : Nat) : State := match s.squashedWord t 0x2D with
  | some w =>
    let n := unitNo t (unitOf w)
    if s.cpqFault t w = none ∧ (s.unit n).tag?.isSome ∧ (bit w 13 = false ∨ s.storesDone t) then s.count (copReg n 0x24) else s
  | none => s
/-- CPQ (R241); in pointer mode it issues once every earlier store has been answered (R279). -/
def execCpq (t : Fin 1024) (squashed : Bool) (s : State) : Out :=
  .next (if squashed then s.cpqSquashed t.val
         else s.lum t.val 0x2D 0 fun s w => if bit w 13 ∧ s.storesDone t.val = false then s else s.cpq t w)

/-! ## CPM and CPS: R275, R278, R285 -/

/-- Every command of context k has run. -/
def CopUnit.ran (u : CopUnit) (k : Nat) : Bool := u.cmds.all fun c => decide (c.ctx.val ≠ k) || c.done.isSome

/-- A CPM write of context k: behind the commands that have not read their operands yet (R278). -/
def State.cpmPut (s : State) (n : Nat) (k : Fin 4) (i : Nat) (v : Pair) : State := match (s.unread n k.val).getLast? with
  | some c => s.modUnit n fun u => { u with cpms := u.cpms ++ [{ ctx := k, tag := c.tag, reg := BitVec.ofNat 6 i, v := v }] }
  | none => s.modCtx n k.val fun c => c.cpmWrite i v
/-- CPM writes whose commands have read their operands take effect. -/
def State.cpmsDue (s : State) (n : Nat) : State :=
  let due (p : CpmWrite) : Bool := (s.unread n p.ctx.val).all fun c => decide (c.tag ≠ p.tag)
  let ps := (s.unit n).cpms.filter due
  if ps = [] then s
  else (s.modUnit n fun u => { u with cpms := u.cpms.filter fun p => !due p }).each ps fun s p =>
    s.modCtx n p.ctx.val fun c => c.cpmWrite p.reg.toNat p.v

/-- CPM (R274, R278): a write completes, and takes effect after the context's earlier commands; a read waits for its response. -/
def State.cpm (s : State) (t : Nat) (w : Pair) : State :=
  let u := unitOf w
  let n := unitNo t u
  s.copInstr t u fun s =>
    match (s.unit n).held t with
    | none => s.copNow t u 0x21
    | some k =>
      if bit w 19 then
        if h : u < 3 then
          s.modThread t fun x => { x with await := some { dst := ext w 18 14, pair := true, cpm := some (⟨u, h⟩, w.extractLsb' 8 6) } }
        else s
      else (s.cpmPut n ⟨k % 4, Nat.mod_lt _ (by decide)⟩ (ext w 13 8) ((s.thread t).rp (ext w 18 14))).complete t
/-- A CPM write that is squashed is counted, and a CPM read that is squashed leaves nothing (R281, Table 10.10). -/
def State.cpmSquashed (s : State) (t : Nat) : State := match s.squashedWord t 0x2E with
  | some w =>
    let n := unitNo t (unitOf w)
    if bit w 19 = false ∧ ((s.unit n).held t).isSome then s.count (copReg n 0x24) else s
  | none => s
/-- CPM (R241). -/
def execCpm (t : Fin 1024) (squashed : Bool) (s : State) : Out :=
  .next (if squashed then s.cpmSquashed t.val else s.lum t.val 0x2E 0 fun s w => s.cpm t.val w)

/-- The value of a CPM read whose earlier commands have run and CPM writes have taken effect (R278); a context lost meanwhile reads
zero. -/
def State.cpmAnswer (s : State) (t : Nat) (u : Nat) (i : Nat) : Option Pair :=
  let n := unitNo t u
  match (s.unit n).held t with
  | some k => if (s.unit n).ran k ∧ ((s.unit n).cpms.all fun p => decide (p.ctx.val ≠ k)) then some (s.cpmRead n k i) else none
  | none => some 0

/-- The unit has a command of thread t whose completion has not been sent (R285). -/
def State.copBusy (s : State) (t u : Nat) : Bool :=
  (s.unit (unitNo t u)).cmds.any fun c => decide (c.thread.val = t) && !c.dead
/-- CPS: TEST 0 branches when busy, TEST 1 when not (R241, R285). -/
def execCps (t : Fin 1024) (s : State) : Out :=
  .next (s.lum t.val 0x2F 0 fun s w => s.copInstr t.val (unitOf w) fun s =>
    if s.copBusy t.val (unitOf w) = decide (ext w 19 18 = 0) then s.jump t.val (targetOf w) else s.complete t.val)

/-! ## Completions: R277, R282, R283 -/

/-- The completion word of a command (R282). -/
def completionWord (u tag : Nat) (st : BitVec 6 × Bool) : Word := word (u + 4 * tag + 64 * st.1.toNat + 4096 * b2n st.2)

/-- The first command that has run, has no earlier command of its thread before it, and finds room in the thread's channel or is
discarded (R282). -/
def firstDone (full : Nat → Bool) : List Cmd → List Nat → Option Cmd
  | [], _ => none
  | c :: cs, seen =>
    if c.done.isSome ∧ seen.contains c.thread.val = false ∧ (c.dead ∨ full c.thread = false) then some c
    else firstDone full cs (c.thread.val :: seen)

/-- Threads BLOCKED on CPQ of unit u of cluster cl issue it again: a tag is free (R277). -/
def State.wakeCpq (s : State) (cl u : Nat) : State :=
  s.each (s.threads.filter fun x => decide (x.2.st = .blocked) && decide (x.2.blk = .cpq) &&
      decide (clusterOf x.1 = cl) && decide (unitOf x.2.bw = u)) fun s x =>
    s.modThread x.1 fun y => { y with st := .run, blk := .none }

/-- COP_COMPLETION: the unit sends a completion word and frees the tag (R277, R282); a command whose thread's channel holds 48 words waits. -/
def State.copCompletion (s : State) (n : Nat) : State :=
  match firstDone (fun t => decide (48 ≤ (s.thread t).copq.length)) (s.unit n).cmds [] with
  | none => s
  | some c =>
    let w := completionWord (n % 4) c.tag (c.done.getD (0, false))
    let s := (s.modUnit n fun u => { u with cmds := u.cmds.filter fun y => decide (y.tag ≠ c.tag) }).wakeCpq (n / 4) (n % 4)
    if c.dead then s.lostCompletion c.thread.val w
    else
      let s := s.modThread c.thread fun x => { x with copq := x.copq ++ [w] }
      if (s.thread c.thread).waitsOn 0x104 then s.chrCop c.thread (s.thread c.thread).bw else s
/-- COP_COMPLETION (R282). -/
def execCopCompletion (c : Fin 8) (u : Fin 3) (s : State) : Out := .next (s.copCompletion (4 * c.val + u.val))

end Sys2Proof.Machine
end

