-- ==== Sys2Proof/Machine/Keccak.lean ====
section
/-! DEFINITION. Keccak.lean: Keccak-f[1600] of FIPS 202, which R289 names and the spec does not reproduce
(PRESUMED, notes/assumptions/11.md), and CRC-32 by the loop of R86. Lane (x, y) is bits [64(5y + x) + 63 : 64(5y + x)]. -/

namespace Sys2Proof.Machine

def kLane (a : List (BitVec 64)) (x y : Nat) : BitVec 64 := a.getD (5 * (y % 5) + x % 5) 0
/-- A state from its lanes by (x, y). -/
def kMake (f : Nat → Nat → BitVec 64) : List (BitVec 64) := (List.range 25).map fun i => f (i % 5) (i / 5)

/-- The lanes that rho visits after (x, y), each as 5y + x with its offset: step t has (t + 1)(t + 2)/2, and the walk goes on
to (y, 2x + 3y). -/
def kRhoWalk : Nat → Nat → Nat → Nat → List (Nat × Nat)
  | 0, _, _, _ => []
  | n + 1, t, x, y => (5 * y + x, (t + 1) * (t + 2) / 2 % 64) :: kRhoWalk n (t + 1) y ((2 * x + 3 * y) % 5)
/-- Rotation offset of the lane at 5y + x; the walk begins at (1, 0) and never meets (0, 0). -/
def kRho (i : Nat) : Nat := (((kRhoWalk 24 0 1 0).find? fun p => decide (p.1 = i)).map (·.2)).getD 0

/-- One step of the register that makes the round constants: a bit leaves at the top and returns at places 0, 4, 5 and 6. -/
def kRcStep (r : BitVec 8) : BitVec 8 := (r <<< 1) ^^^ (if r.getLsbD 7 then BitVec.ofNat 8 (1 + 2 ^ 4 + 2 ^ 5 + 2 ^ 6) else 0)
/-- Round constants of n rounds from register r: a round takes seven bits, the j-th to place 2^j - 1. -/
def kRcFrom : Nat → BitVec 8 → List (BitVec 64)
  | 0, _ => []
  | n + 1, r =>
    let rs := (List.range 6).foldl (fun l _ => l ++ [kRcStep (l.getLastD 0)]) [r]
    BitVec.ofNat 64 ((rs.zipIdx.map fun p => if p.1.getLsbD 0 then 2 ^ (2 ^ p.2 - 1) else 0).sum) :: kRcFrom n (kRcStep (rs.getLastD 0))
/-- Round constants of iota. -/
def kRc : List (BitVec 64) := kRcFrom 24 1

def kTheta (a : List (BitVec 64)) : List (BitVec 64) :=
  let c := (List.range 5).map fun x => kLane a x 0 ^^^ kLane a x 1 ^^^ kLane a x 2 ^^^ kLane a x 3 ^^^ kLane a x 4
  kMake fun x y => kLane a x y ^^^ (c.getD ((x + 4) % 5) 0 ^^^ (c.getD ((x + 1) % 5) 0).rotateLeft 1)
/-- rho and pi: B[y, 2x + 3y] = A[x, y] rotated. -/
def kRhoPi (a : List (BitVec 64)) : List (BitVec 64) :=
  kMake fun x y =>
    let x' := (x + 3 * y) % 5
    (kLane a x' x).rotateLeft (kRho (5 * x + x'))
def kChi (a : List (BitVec 64)) : List (BitVec 64) :=
  kMake fun x y => kLane a x y ^^^ (~~~(kLane a (x + 1) y) &&& kLane a (x + 2) y)
def kRound (a : List (BitVec 64)) (rc : BitVec 64) : List (BitVec 64) :=
  match kChi (kRhoPi (kTheta a)) with
  | [] => []
  | l :: ls => (l ^^^ rc) :: ls

def kSplit (s : BitVec 1600) : List (BitVec 64) := (List.range 25).map fun i => s.extractLsb' (64 * i) 64
def kJoin : List (BitVec 64) → Nat
  | [] => 0
  | l :: ls => l.toNat + 2 ^ 64 * kJoin ls
/-- The permutation. -/
def keccakF (s : BitVec 1600) : BitVec 1600 := BitVec.ofNat 1600 (kJoin (kRc.foldl kRound (kSplit s)))

/-- Absorb bits at rate 1,088: state and place in the block. -/
def kAbsorb : BitVec 1600 × Nat → List Bool → BitVec 1600 × Nat
  | sp, [] => sp
  | (s, p), b :: bs =>
    let s := if b then s ^^^ BitVec.ofNat 1600 (2 ^ p) else s
    kAbsorb (if p + 1 = 1088 then (keccakF s, 0) else (s, p + 1)) bs

/-- The SHAKE suffix 1111, pad10*1 and the permutation that opens squeezing. -/
def kFinal (sp : BitVec 1600 × Nat) : BitVec 1600 :=
  keccakF ((kAbsorb sp [true, true, true, true, true]).1 ^^^ BitVec.ofNat 1600 (2 ^ 1087))

/-- Squeeze n bits. -/
def kSqueeze : Nat → BitVec 1600 × Nat → List Bool → List Bool × (BitVec 1600 × Nat)
  | 0, sp, acc => (acc.reverse, sp)
  | n + 1, (s, p), acc =>
    let sp := if p = 1088 then (keccakF s, 0) else (s, p)
    kSqueeze n (sp.1, sp.2 + 1) (sp.1.getLsbD sp.2 :: acc)

/-- Bits of octets, bit 0 first, and the octets of bits. -/
def octetBits (os : List Octet) : List Bool := os.flatMap fun o => (List.range 8).map fun i => o.getLsbD i
def bitsNat : List Bool → Nat
  | [] => 0
  | b :: bs => b2n b + 2 * bitsNat bs
/-- SHAKE256 of octets, n octets out. -/
def shake256 (os : List Octet) (n : Nat) : List Octet :=
  let r := kSqueeze (8 * n) (kFinal (kAbsorb (0, 0) (octetBits os)), 0) []
  (List.range n).map fun i => BitVec.ofNat 8 (bitsNat ((r.1.drop (8 * i)).take 8))

/-! ## Octets, and measurement registers: R436, R437 -/

/-- n octets of a number, least significant first, and the number of such octets. -/
def leOctets (n v : Nat) : List Octet := (List.range n).map fun i => BitVec.ofNat 8 (v / 2 ^ (8 * i))
def leNat : List Octet → Nat
  | [] => 0
  | o :: os => o.toNat + 256 * leNat os
/-- Each word as two little-endian octets. -/
def wordOctets (ws : List Word) : List Octet := ws.flatMap fun w => leOctets 2 w.toNat

/-- Measurement register k: 0 to 7 MEAS, 64 + s SLICE_MEAS[s]; octet j is bits [8j+7:8j]. -/
def State.meas (s : State) (k : Nat) : BitVec 512 := SMap.get 0 s.boot.meas k
/-- Extend register k with a 512-bit value (R436). -/
def State.extendMeas (s : State) (k : Nat) (x : List Octet) : State :=
  let v := BitVec.ofNat 512 (leNat (shake256 (leOctets 64 (s.meas k).toNat ++ x) 64))
  { s with boot := { s.boot with meas := SMap.set 0 s.boot.meas k v } }
/-- Marks of register k (R437). -/
def State.markUnsigned (s : State) (k : Nat) : State :=
  { s with boot := { s.boot with unsignedMark := SMap.set false s.boot.unsignedMark k true } }
def State.markRestored (s : State) (k : Nat) : State :=
  { s with boot := { s.boot with restoredMark := SMap.set false s.boot.restoredMark k true } }
/-- CREATE of slice i: SLICE_MEAS is zero and unmarked (R436). -/
def State.clearMeas (s : State) (i : Nat) : State :=
  { s with boot := { s.boot with meas := SMap.del (64 + i) s.boot.meas, unsignedMark := SMap.del (64 + i) s.boot.unsignedMark,
                                 restoredMark := SMap.del (64 + i) s.boot.restoredMark } }

/-- One bit of the CRC loop of R86. -/
def crcBit (poly crc : BitVec 32) (b : Bool) : BitVec 32 :=
  if crc.getLsbD 31 != b then (crc <<< 1) ^^^ poly else crc <<< 1
def crcBits (poly crc : BitVec 32) (bs : List Bool) : BitVec 32 := bs.foldl (crcBit poly) crc
def polyRinek : BitVec 32 := 0x1EDC6F41#32
def polyEth : BitVec 32 := 0x04C11DB7#32

end Sys2Proof.Machine
end

