-- ==== Sys2Proof/Machine/CopCmd.lean ====
section
/-! DEFINITION. CopCmd.lean: what the commands of Echo, XEV and Sponge compute (spec/10 R286 to R289; spec/11 R295 to
R298). A command runs when it is the oldest of its context that has not run. -/

namespace Sys2Proof.Machine

/-! ## Echo coding: R286, Table 10.5 -/

/-- The bit number of a delta with exactly one bit set. -/
def oneBit (w : Word) : Option Nat := (List.range 14).find? fun b => decide (w = word (2 ^ b))
/-- Two or more bits are set. -/
def manyBits (w : Word) : Bool := decide (w ≠ 0) && (oneBit w).isNone

def codeZrun (n : Nat) : Word := word (n - 1)
def codeLit (n : Nat) : Word := word (0x1000 + (n - 1))
def codeOne (b z : Nat) : Word := word (0x2000 + 256 * b + z)

/-- The encoding procedure; `fuel` bounds its turns. -/
def encGo : Nat → List Word → List Word
  | 0, _ => []
  | _, [] => []
  | fuel + 1, d =>
    let z := min 4096 (d.takeWhile fun w => decide (w = 0)).length
    match (if z ≤ 255 then (d.drop z).head?.bind oneBit else none) with
    | some b => codeOne b z :: encGo fuel (d.drop (z + 1))
    | none =>
      if 0 < z then codeZrun z :: encGo fuel (d.drop z)
      else
        let n := min 4096 (d.takeWhile manyBits).length
        codeLit n :: (d.take n ++ encGo fuel (d.drop n))
/-- Code words of a record's deltas. -/
def encode (d : List Word) : List Word := encGo d.length d

/-- What DEC has done: deltas (newest first), code words consumed, code words read, and whether it ended well. -/
structure DecRes where
  deltas : List Word := []
  used : Nat := 0
  read : Nat := 0
  ok : Bool := false
  deriving DecidableEq, Repr

/-- Decode code words `get 0`, `get 1`, … into n deltas; `get` answers none beyond V95 (R287). -/
def decGo (get : Nat → Option Word) (n : Nat) : Nat → List Word → Nat → DecRes
  | 0, acc, k => { deltas := acc, used := k, read := k, ok := decide (acc.length = n) }
  | fuel + 1, acc, k =>
    if n ≤ acc.length then { deltas := acc, used := k, read := k, ok := true }
    else
      let bad : DecRes := { deltas := acc, used := k, read := k + 1 }
      match get k with
      | none => { deltas := acc, used := k, read := k }
      | some c =>
        let m := ext c 11 0 + 1
        match ext c 13 12 with
        | 0 => if n < acc.length + m then bad else decGo get n fuel (List.replicate m 0 ++ acc) (k + 1)
        | 1 =>
          if n < acc.length + m then bad
          else
            let ls := (List.range m).filterMap fun i => get (k + 1 + i)
            if ls.length = m then decGo get n fuel (ls.reverse ++ acc) (k + 1 + m) else bad
        | 2 =>
          if 14 ≤ ext c 11 8 ∨ n < acc.length + ext c 7 0 + 1 then bad
          else decGo get n fuel (word (2 ^ ext c 11 8) :: (List.replicate (ext c 7 0) 0 ++ acc)) (k + 1)
        | _ => bad

/-! ## Running a command -/

/-- The argument of a queued command, and its N. -/
def Cmd.argp (c : Cmd) : Pair := if c.ptr then (hiW c.arg).setWidth 28 else c.arg
def Cmd.n (c : Cmd) (u : Nat) : Nat := cmdN u c.ptr c.argp

/-- The oldest command of context k that has not run, and no record of which waits for its disposal. -/
def State.nextCmd (s : State) (n k : Nat) : Option Cmd :=
  match (s.unit n).cmds.find? fun c => decide (c.ctx.val = k) && c.done.isNone with
  | some c => if s.offers.any fun o => decide (o.cmd = some (n, c.tag)) then none else some c
  | none => none

/-- How a command ends: STATUS, U, failing address, RESULT, words written (OLEN), and what AOFF and OOFF advance by. -/
structure CmdEnd where
  status : Nat := 0
  u : Bool := false
  faddr : Option Nat := none
  result : Option Nat := none
  olen : Nat := 0
  aux : Nat := 0
  out : Nat := 0
  deriving DecidableEq, Repr

/-- Unit registers after a command (R278, R279, R283, Table 10.1). -/
def Ctx.finish (x : Ctx) (ptr : Bool) (e : CmdEnd) : Ctx :=
  let x := match e.result with
    | some r => x.setUreg 53 (BitVec.ofNat 28 r)
    | none => x
  let x := x.setUreg 54 (BitVec.ofNat 28 e.olen)
  let x := if ptr then
      (x.setUreg 49 ((loW (x.ureg 49) + word e.aux).setWidth 28)).setUreg 51 ((loW (x.ureg 51) + word e.out).setWidth 28)
    else x
  let x := match e.faddr with
    | some a => (x.setUreg 60 (BitVec.ofNat 28 a)).setUreg 61 (BitVec.ofNat 28 (a / 2 ^ 28))
    | none => x
  if e.status ≠ 0 then x.setUreg 62 (BitVec.ofNat 28 (32 * e.status)) else x

/-- RESULT of a command: a free value where the spec gives the command no scalar result (notes/assumptions/4.md). -/
def State.cmdResult (s : State) (e : CmdEnd) : CmdEnd × State :=
  match e.result with
  | some _ => (e, s)
  | none => ({ e with result := some s.freshVal.1.toNat }, s.freshVal.2)
/-- Command c of unit n ends. -/
def State.cmdEnd (s : State) (n : Nat) (c : Cmd) (e : CmdEnd) : State :=
  ((s.cmdResult e).2.modCtx n c.ctx.val fun x => x.finish c.ptr (s.cmdResult e).1).modUnit n fun u =>
    { u with cmds := u.cmds.map fun y => if y.tag = c.tag then { y with done := some (BitVec.ofNat 6 e.status, e.u) } else y }

/-- A memory fault ends the command (R283). -/
def memEnd (cause addr : Nat) : CmdEnd := { status := cause, faddr := some addr }

/-- Addresses of the input, auxiliary operand and output of a pointer-mode command (R276). -/
def Cmd.inAddrs (c : Cmd) (off n : Nat) : List Nat := bankAddrs c.bank (loW c.arg + word off) n
def Ctx.auxAddrs (x : Ctx) (n : Nat) : List Nat := bankAddrs (x.ureg 48) (loW (x.ureg 49)) n
def Ctx.outAddrs (x : Ctx) (n : Nat) : List Nat := bankAddrs (x.ureg 50) (loW (x.ureg 51)) n

/-- Requester of a command: the reference of an ENC with RING 1 is accessed through port TRACE (Table 13.4). -/
def State.asCmd (s : State) (n : Nat) (c : Cmd) (aux : Bool) : Requester :=
  let r := s.asUnit c.thread (n % 4)
  { r with port := if aux ∧ n % 4 = 0 ∧ c.cmd = 0 ∧ bit c.argp 13 then 1 else r.port, tag := some c.tag, held := some (.cmd n c.tag) }
/-- Words at addresses, or V words in register mode; `aux`: the auxiliary operand. -/
def State.cmdRead (s : State) (n : Nat) (c : Cmd) (aux : Bool) (as : List Nat) (v m : Nat) : MemRes (List Word) × State :=
  if c.ptr then s.readFor c.thread (s.asCmd n c aux) as
  else (.ok ((s.ctx n c.ctx.val).vs v m), s)
/-- Write words to addresses, or to V words. -/
def State.cmdWrite (s : State) (n : Nat) (c : Cmd) (aux : Bool) (as : List Nat) (v : Nat) (ws : List Word) : Option (Nat × Nat) × State :=
  if c.ptr then s.writeFor c.thread (s.asCmd n c aux) (as.zip ws)
  else (none, s.modCtx n c.ctx.val fun x => x.setVs v ws)
/-- Words of a list of addresses before the one that failed. -/
def before (as : List Nat) (a : Nat) : Nat := as.findIdx fun x => decide (x = a)

/-- Addresses that WIREK reads. -/
def wirekAddrs (c : Cmd) (x : Ctx) : List Nat :=
  (List.range (ext (x.ureg 57) 3 0 + 1)).flatMap fun j => c.inAddrs (j * c.n 1) (c.n 1)
/-- Words of operand B, and of the result, of an XEV command on m words (Table 10.7). -/
def xevB (code m : Nat) : Nat := if code ≤ 5 ∨ code = 10 then m else 0
def xevOut (code m : Nat) : Nat := if code ≤ 6 then m else if code = 7 then (m + 1) / 2 else if code = 8 then 2 * m else 0
/-- A word as the memory holds it, before any check. -/
def State.peek (s : State) (t a : Nat) : Word :=
  match s.region a with
  | .dram l i => lineWord (s.line l).data i
  | _ => s.getWord (cellOf t a)
/-- DEC over the code words that stand at the input address, or in V48 to V95. -/
def State.decScan (s : State) (c : Cmd) (x : Ctx) : DecRes :=
  let ins := c.inAddrs 0 8193
  decGo (fun i => if c.ptr then some (s.peek c.thread (ins.getD i 0)) else if i < 48 then some (x.v (48 + i)) else none) (c.n 0)
    (c.n 0 + 1) [] 0
/-- Words that a pointer-mode command of unit u touches: input, auxiliary operand, output. -/
def State.cmdSpans (s : State) (u : Nat) (c : Cmd) (x : Ctx) : List Nat × List Nat × List Nat :=
  match u, c.cmd.toNat with
  | 0, 0 =>
    let m := c.n 0
    let d := (c.inAddrs 0 m).zip (x.auxAddrs m)
    let codes := encode (d.map fun p => s.peek c.thread p.1 ^^^ s.peek c.thread p.2)
    (c.inAddrs 0 m, x.auxAddrs m, if bit c.argp 13 then [] else x.outAddrs codes.length)
  | 0, _ => (c.inAddrs 0 (s.decScan c x).read, x.auxAddrs (c.n 0), x.outAddrs (s.decScan c x).deltas.length)
  | 1, 11 => (wirekAddrs c x, [], x.outAddrs (c.n 1))
  | 1, k => (c.inAddrs 0 (c.n 1), x.auxAddrs (xevB k (c.n 1)), x.outAddrs (xevOut k (c.n 1)))
  | _, 1 => (c.inAddrs 0 (c.n 2), [], [])
  | _, 3 => ([], [], x.outAddrs (c.n 2))
  | _, 16 => (c.inAddrs 0 (c.n 2), [], [])
  | _, _ => ([], [], [])
/-- All of them: their domains wake before the command begins (R418). -/
def State.cmdTouch (s : State) (u : Nat) (c : Cmd) (x : Ctx) : List Nat :=
  let r := s.cmdSpans u c x
  r.1 ++ r.2.1 ++ r.2.2
/-- The DRAM lines of a command: those it writes, among them the reference of Echo with UPD, come first. -/
def State.cmdWants (s : State) (n : Nat) (c : Cmd) (x : Ctx) : List Want :=
  let r := s.cmdSpans (n % 4) c x
  let upd := decide (n % 4 = 0) && bit c.argp 12
  let aux : Want := { r := s.asCmd n c true, wr := upd, lines := s.linesAt c.thread r.2.1 }
  [{ r := s.asCmd n c false, wr := true, lines := s.linesAt c.thread r.2.2 }, aux,
   { r := s.asCmd n c false, wr := false, lines := s.linesAt c.thread r.1 }]

/-- Run command `code` of context k of unit n: `f` computes and ends it. A pointer-mode command whose memory sleeps wakes its domain
and waits (R418); the identity of the coprocessor in the wake record has no code in Table 12.1, and is a free value. Its DRAM
requests wait at their channels (R336). -/
def State.runCmd (s : State) (n k code : Nat) (f : State → Cmd → Ctx → State) : State :=
  match s.nextCmd n k with
  | none => s
  | some c =>
    if c.cmd.toNat = code ∧ s.fatal = 0 ∧ s.pins.cclkLost = false ∧ s.domOn (3 + n / 8) then
      if c.ptr then
        match s.asleepIn c.thread (s.cmdTouch (n % 4) c (s.ctx n k)) with
        | some (src, d) => s.freshVal.2.domAccess src d (s.freshVal.1.setWidth 14)
        | none => s.served (.cmd n c.tag) (s.cmdWants n c (s.ctx n k)) fun s => (f s c (s.ctx n k)).cpmsDue n
      else (f s c (s.ctx n k)).cpmsDue n
    else s

/-! ## ENC and DEC: R287, R295 to R298 -/

/-- Body and header of the record of a ring-mode ENC (Table 11.2). -/
def State.echoOffer (s : State) (n : Nat) (c : Cmd) (x : Ctx) (ref codes : List Word) (change : Bool) (ack : Bool) : Offer :=
  let addr : WAddr := if c.ptr then addrOf (x.ureg 48) (loW (x.ureg 49)) else BitVec.ofNat 42 (2 ^ 42 - 1)
  let sl := s.sliceOf c.thread
  let rz := ref.all fun w => decide (w = 0)
  let body := [addr.extractLsb' 0 14, addr.extractLsb' 14 14, addr.extractLsb' 28 14] ++ pairWords (lo28 c.epoch) ++
    [word (c.n 0 - 1 + 4096 * b2n (bit c.argp 12)), word sl] ++ codes
  { ring := (x.ureg 52).extractLsb' 0 8, src := ⟨n / 4 % 8, by omega⟩, rtype := 1, slice := BitVec.ofNat 6 sl,
    system := s.system c.thread, epoch := c.epoch, ref := addr, change := change, words := recordOf 1 rz body,
    cmd := if ack then some (n, c.tag) else none, dl := (s.slotFor c.thread).map (·.dl) }

/-- Words of the record buffer of the Echo unit of cluster cl in use (R297). -/
def State.echoUsed (s : State) (cl : Nat) : Nat :=
  ((s.offers.filter fun o => decide (o.src.val = cl)).map fun o => o.words.length).sum

/-- The next command of context k is an ENC whose record may not find room in the record buffer (R297). -/
def State.encWaits (s : State) (n k : Nat) : Bool := match s.nextCmd n k with
  | some c => decide (c.cmd = 0) && bit c.argp 13 && decide (8192 < s.echoUsed (n / 4) + 3 * c.n 0 / 2 + 10)
  | none => false
/-- ENC (R286, R287). -/
def State.encRun (s : State) (n : Nat) (c : Cmd) (x : Ctx) : State :=
  let m := c.n 0
  let ring := bit c.argp 13
  match s.cmdRead n c false (c.inAddrs 0 m) 0 m with
  | (.fault e a, s) => s.cmdEnd n c (memEnd e a)
  | (.ok new, s) =>
    match s.cmdRead n c true (x.auxAddrs m) 24 m with
    | (.fault e a, s) => s.cmdEnd n c { memEnd e a with aux := before (x.auxAddrs m) a }
    | (.ok ref, s) =>
      let d := (new.zip ref).map fun p => p.1 ^^^ p.2
      let codes := encode d
      let nz := (d.filter fun w => decide (w ≠ 0)).length
      let outs := x.outAddrs codes.length
      match (if ring then (none, s) else s.cmdWrite n c false outs 48 codes) with
      | (some (e, a), s) => s.cmdEnd n c { memEnd e a with aux := m, out := before outs a, olen := before outs a }
      | (none, s) =>
        let len := if ring then 0 else codes.length
        match (if bit c.argp 12 then s.cmdWrite n c true (x.auxAddrs m) 24 new else (none, s)) with
        | (some (e, a), s) =>
          let s := s.cmdEnd n c { memEnd e a with aux := m, out := len, olen := len }
          if ring then { s with offers := s.offers ++ [s.echoOffer n c x ref codes (decide (nz ≠ 0)) false] } else s
        | (none, s) =>
          let en : CmdEnd := { result := some nz, olen := len, aux := m, out := len }
          if ring then
            { s.modCtx n c.ctx.val fun x => x.finish c.ptr en with
              offers := s.offers ++ [s.echoOffer n c x ref codes (decide (nz ≠ 0)) true] }
          else s.cmdEnd n c en
/-- ENC. -/
def execEnc (c : Fin 8) (k : Fin 4) (s : State) : Out :=
  .next (if s.encWaits (4 * c.val) k.val then s else s.runCmd (4 * c.val) k.val 0 fun s y x => s.encRun (4 * c.val) y x)

/-- DEC (R286, R287): it reads the code words it consumes, then the reference; a code word it cannot take ends it with
CODE once the words decoded before it are written. -/
def State.decRun (s : State) (n : Nat) (c : Cmd) (x : Ctx) : State :=
  let m := c.n 0
  let ins := c.inAddrs 0 8193
  let r := s.decScan c x
  match (if c.ptr then s.cmdRead n c false (ins.take r.read) 48 0 else (.ok [], s)) with
  | (.fault e a, s) => s.cmdEnd n c (memEnd e a)
  | (.ok _, s) =>
    match s.cmdRead n c true (x.auxAddrs m) 24 m with
    | (.fault e a, s) => s.cmdEnd n c { memEnd e a with aux := before (x.auxAddrs m) a }
    | (.ok ref, s) =>
      let new := (r.deltas.reverse.zip ref).map fun p => p.1 ^^^ p.2
      let outs := x.outAddrs new.length
      match s.cmdWrite n c false outs 0 new with
      | (some (e, a), s) => s.cmdEnd n c { memEnd e a with aux := m, out := before outs a, olen := before outs a }
      | (none, s) =>
        match (if bit c.argp 12 then s.cmdWrite n c true ((x.auxAddrs m).take new.length) 24 new else (none, s)) with
        | (some (e, a), s) => s.cmdEnd n c { memEnd e a with aux := m, out := new.length, olen := new.length }
        | (none, s) =>
          s.cmdEnd n c { status := if r.ok then 0 else 0x26, result := some r.used,
                         olen := new.length, aux := m, out := new.length }
/-- DEC. -/
def execDec (c : Fin 8) (k : Fin 4) (s : State) : Out :=
  .next (s.runCmd (4 * c.val) k.val 1 fun s y x => s.decRun (4 * c.val) y x)

/-! ## XEV: R288, Table 10.7 -/

/-- An XEV command that reads A (m words) and B (mb words) and writes the words that `f` gives. -/
def State.xevRun (s : State) (n : Nat) (c : Cmd) (x : Ctx) (mb : Nat)
    (f : List Word → List Word → List Word × Bool × Option Nat) : State :=
  let m := c.n 1
  match s.cmdRead n c false (c.inAddrs 0 m) 0 m with
  | (.fault e a, s) => s.cmdEnd n c (memEnd e a)
  | (.ok as, s) =>
    match s.cmdRead n c true (x.auxAddrs mb) 32 mb with
    | (.fault e a, s) => s.cmdEnd n c { memEnd e a with aux := before (x.auxAddrs mb) a }
    | (.ok bs, s) =>
      let (ws, u, res) := f as bs
      let outs := x.outAddrs ws.length
      match s.cmdWrite n c false outs 64 ws with
      | (some (e, a), s) => s.cmdEnd n c { memEnd e a with u := u, aux := mb, out := before outs a, olen := before outs a }
      | (none, s) => s.cmdEnd n c { u := u, result := res, olen := ws.length, aux := mb, out := ws.length }

/-- The word functions (CMD 0 to 6). -/
def xevVec (fn : Nat) (as bs : List Word) : List Word × Bool × Option Nat :=
  let ps := if fn = 6 then as.map fun a => (a, (0 : Word)) else as.zip bs
  (ps.map fun p => resWord fn p.1 p.2, ps.any fun p => resU fn p.1 p.2, none)
/-- VTO2: two results to a word. -/
def xevTo2 (as : List Word) : List Word :=
  (List.range ((as.length + 1) / 2)).map fun j =>
    resWord 7 (as.getD (2 * j) 0) 0 ||| (resWord 7 (as.getD (2 * j + 1) 0) 0) <<< 7
/-- VFROM2: two results from a word. -/
def xevFrom2 (as : List Word) : List Word := as.flatMap fun a => [resWord 8 (a &&& 0x7F) 0, resWord 8 (a >>> 7) 0]
/-- How many dibits of the words have value v. -/
def countDibits (v : Nat) (as : List Word) : Nat :=
  (as.map fun a => ((List.range 7).filter fun i => decide (dibit a i = v)).length).sum
def xevCount (as : List Word) : Nat := min (countDibits 2 as) 16383 + 2 ^ 14 * min (countDibits 3 as) 16383
/-- A word of A matches a word of B: X in B matches anything. -/
def matchWord (a b : Word) : Bool := (List.range 7).all fun i => decide (dibit b i = 3) || decide (dibit a i = dibit b i)
def xevMatch (as bs : List Word) : Nat := (as.zip bs).findIdx fun p => !matchWord p.1 p.2

def State.xevRow (s : State) (c k code : Nat) (f : List Word → List Word → List Word × Bool × Option Nat) : State :=
  s.runCmd (4 * c + 1) k code fun s y x => s.xevRun (4 * c + 1) y x (xevB code (y.n 1)) f
/-- A command of the RES function fn. -/
def State.xevFn (s : State) (c : Fin 8) (k : Fin 4) (fn : Nat) : State :=
  s.xevRow c.val k.val fn (xevVec fn)

/-- VWIRE. -/
def execVwire (c : Fin 8) (k : Fin 4) (s : State) : Out := .next (s.xevFn c k 0)
/-- VWAND. -/
def execVwand (c : Fin 8) (k : Fin 4) (s : State) : Out := .next (s.xevFn c k 1)
/-- VWOR. -/
def execVwor (c : Fin 8) (k : Fin 4) (s : State) : Out := .next (s.xevFn c k 2)
/-- VAND4. -/
def execVand4 (c : Fin 8) (k : Fin 4) (s : State) : Out := .next (s.xevFn c k 3)
/-- VOR4. -/
def execVor4 (c : Fin 8) (k : Fin 4) (s : State) : Out := .next (s.xevFn c k 4)
/-- VXOR4. -/
def execVxor4 (c : Fin 8) (k : Fin 4) (s : State) : Out := .next (s.xevFn c k 5)
/-- VNOT4. -/
def execVnot4 (c : Fin 8) (k : Fin 4) (s : State) : Out := .next (s.xevFn c k 6)
/-- VTO2; U follows A. -/
def execVto2 (c : Fin 8) (k : Fin 4) (s : State) : Out :=
  .next (s.xevRow c.val k.val 7 fun as _ => (xevTo2 as, as.any hasZX, none))
/-- VFROM2; U is 0. -/
def execVfrom2 (c : Fin 8) (k : Fin 4) (s : State) : Out :=
  .next (s.xevRow c.val k.val 8 fun as _ => (xevFrom2 as, false, none))
/-- XCOUNT. -/
def execXcount (c : Fin 8) (k : Fin 4) (s : State) : Out :=
  .next (s.xevRow c.val k.val 9 fun as _ => ([], as.any hasZX, some (xevCount as)))
/-- MATCH. -/
def execXevMatch (c : Fin 8) (k : Fin 4) (s : State) : Out :=
  .next (s.xevRow c.val k.val 0x0A fun as bs =>
    ([], as.any hasZX || bs.any hasZX, some (xevMatch as bs)))

/-- WIREK: the words of K drivers, resolved in driver order. -/
def wirekWords (fn m : Nat) (ws : List Word) (k : Nat) : List Word :=
  (List.range m).map fun i =>
    match (List.range k).map fun j => ws.getD (j * m + i) 0 with
    | [] => 0
    | w :: rest => rest.foldl (resWord fn) w
def State.wirekRun (s : State) (n : Nat) (c : Cmd) (x : Ctx) : State :=
  match s.cmdRead n c false (wirekAddrs c x) 0 0 with
  | (.fault e a, s) => s.cmdEnd n c (memEnd e a)
  | (.ok ws, s) =>
    let outs := x.outAddrs (c.n 1)
    let u := ws.any hasZX
    match s.cmdWrite n c false outs 64 (wirekWords (ext (x.ureg 57) 5 4) (c.n 1) ws (ext (x.ureg 57) 3 0 + 1)) with
    | (some (e, a), s) => s.cmdEnd n c { memEnd e a with u := u, out := before outs a, olen := before outs a }
    | (none, s) => s.cmdEnd n c { u := u, olen := c.n 1, out := c.n 1 }
/-- WIREK (R288). -/
def execWirek (c : Fin 8) (k : Fin 4) (s : State) : Out :=
  .next (s.runCmd (4 * c.val + 1) k.val 0x0B fun s y x => s.wirekRun (4 * c.val + 1) y x)

/-! ## Sponge: R289, Table 10.8 -/

/-- Bits of a word, bit 0 first, as BITS or OCTETS. -/
def packBits (octets : Bool) (ws : List Word) : List Bool :=
  ws.flatMap fun w => (List.range (if octets then 8 else 14)).map fun i => w.getLsbD i
def unpackBits (octets : Bool) (n : Nat) (bs : List Bool) : List Word :=
  let k := if octets then 8 else 14
  (List.range n).map fun i => word (bitsNat ((bs.drop (k * i)).take k))

/-- The sponge takes the command only in state `need`; otherwise it stops with ORDER, and changes nothing but CSTAT's code (Table 10.1). -/
def State.spongeIn (s : State) (n : Nat) (c : Cmd) (x : Ctx) (need : BitVec 2) (f : State → State) : State :=
  if x.sponge = need then f s
  else s.modUnit n fun u => { (u.faulted c.tag 0x25) with cmds := u.cmds.map fun y => if y.tag = c.tag then { y with done := some (0x25, false) } else y }

def State.spongeRow (s : State) (c k code : Nat) (f : State → Nat → Cmd → Ctx → State) : State :=
  s.runCmd (4 * c + 2) k code fun s y x => f s (4 * c + 2) y x

/-- SINIT: the state is zero and absorption opens. -/
def execSinit (c : Fin 8) (k : Fin 4) (s : State) : Out :=
  .next (s.spongeRow c.val k.val 0 fun s n y _ =>
    (s.modCtx n y.ctx.val fun x => { x with keccak := 0, pos := 0, sponge := 1 }).cmdEnd n y {})

/-- ABSORB. -/
def State.absorbRun (s : State) (n : Nat) (c : Cmd) (x : Ctx) : State :=
  s.spongeIn n c x 1 fun s =>
    match s.cmdRead n c false (c.inAddrs 0 (c.n 2)) 0 (c.n 2) with
    | (.fault e a, s) => s.cmdEnd n c (memEnd e a)
    | (.ok ws, s) =>
      let r := kAbsorb (x.keccak, x.pos) (packBits (bit c.argp 12) ws)
      (s.modCtx n c.ctx.val fun x => { x with keccak := r.1, pos := r.2 }).cmdEnd n c {}
/-- ABSORB. -/
def execAbsorb (c : Fin 8) (k : Fin 4) (s : State) : Out :=
  .next (s.spongeRow c.val k.val 1 State.absorbRun)

/-- FINAL: suffix, padding, and squeezing opens. -/
def execFinal (c : Fin 8) (k : Fin 4) (s : State) : Out :=
  .next (s.spongeRow c.val k.val 2 fun s n y x => s.spongeIn n y x 1 fun s =>
    (s.modCtx n y.ctx.val fun x => { x with keccak := kFinal (x.keccak, x.pos), pos := 0, sponge := 2 }).cmdEnd n y {})

/-- SQUEEZE. -/
def State.squeezeRun (s : State) (n : Nat) (c : Cmd) (x : Ctx) : State :=
  s.spongeIn n c x 2 fun s =>
    let m := c.n 2
    let oct := bit c.argp 12
    let r := kSqueeze (m * (if oct then 8 else 14)) (x.keccak, x.pos) []
    let outs := x.outAddrs m
    match s.cmdWrite n c false outs 0 (unpackBits oct m r.1) with
    | (some (e, a), s) => s.cmdEnd n c { memEnd e a with out := before outs a, olen := before outs a }
    | (none, s) =>
      (s.modCtx n c.ctx.val fun x => { x with keccak := r.2.1, pos := r.2.2 }).cmdEnd n c { olen := m, out := m }
/-- SQUEEZE. -/
def execSqueeze (c : Fin 8) (k : Fin 4) (s : State) : Out :=
  .next (s.spongeRow c.val k.val 3 State.squeezeRun)

/-- CRC: the loop of R86 from CRC_HI:CRC_LO. -/
def State.crcRun (s : State) (n : Nat) (c : Cmd) (x : Ctx) : State :=
  match s.cmdRead n c false (c.inAddrs 0 (c.n 2)) 0 (c.n 2) with
  | (.fault e a, s) => s.cmdEnd n c (memEnd e a)
  | (.ok ws, s) =>
    let v : BitVec 32 := BitVec.ofNat 32 (ext (x.ureg 55) 15 0 + 2 ^ 16 * ext (x.ureg 56) 15 0)
    let r := crcBits (if bit c.argp 13 then polyEth else polyRinek) v (packBits (bit c.argp 12) ws)
    (s.modCtx n c.ctx.val fun x =>
      (x.setUreg 55 ((r.extractLsb' 0 16).setWidth 28)).setUreg 56 ((r.extractLsb' 16 16).setWidth 28)).cmdEnd n c {}
/-- CRC. -/
def execCrc (c : Fin 8) (k : Fin 4) (s : State) : Out :=
  .next (s.spongeRow c.val k.val 0x10 State.crcRun)

end Sys2Proof.Machine
end

