-- ==== Sys2Proof/Machine/Fec.lean ====
section
/-! DEFINITION. Fec.lean: how the stream of a Rinek port lies on its four lanes (spec/03 R77), the RINEK-F code RS(272,258) with
its decoder (R98), and the frame check sequence of an Ethernet port (R101). -/

namespace Sys2Proof.Machine

/-- The number whose bit i is `f i`, for i below n. -/
def natOfBits (n : Nat) (f : Nat → Bool) : Nat := (List.range n).foldl (fun a i => a + b2n (f i) * 2 ^ i) 0

/-! ## Lanes: R77, R95 -/

/-- Bits that transmit lane k sends of the n stream bits in `v`, the first of which has stream index `base` modulo 4: how many, and
the bits, complemented when the lane is inverted. -/
def dealLane (base n : Nat) (inv : Bool) (v k : Nat) : Nat × Nat :=
  let first := (k + 4 - base % 4) % 4
  let m := (n + 3 - first) / 4
  (m, natOfBits m fun i => (v.testBit (4 * i + first)) ^^ inv)

/-- The n stream bits that begin at index `base` modulo 4, from the bits of the physical receive lanes: the lane order and the
polarity found in training are undone and the lanes merged. -/
def mergeLanes (base n : Nat) (reversed : Bool) (inv : BitVec 4) (raw : BitVec 2720) : Nat :=
  natOfBits n fun i =>
    let l := (base + i) % 4
    let k := if reversed then 3 - l else l
    raw.getLsbD (680 * k + i / 4) ^^ inv.getLsbD k

/-! ## GF(2^10) and RS(272,258): R98 -/

/-- Times α modulo x^10 + x^3 + 1. -/
def gfTimesA (a : Nat) : Nat := if 512 ≤ a then Nat.xor (2 * a) 0x409 else 2 * a
/-- Product of two symbols. -/
def gfMul (a b : Nat) : Nat :=
  (List.range 10).foldr (fun i acc => Nat.xor (gfTimesA acc) (if b.testBit i then a else 0)) 0
/-- Powers, by squaring on ten bits of the exponent. -/
def gfPow (a n : Nat) : Nat :=
  (List.range 10).foldr (fun i acc => let s := gfMul acc acc; if n.testBit i then gfMul s a else s) 1
/-- Inverse of a symbol other than 0. -/
def gfInv (a : Nat) : Nat := gfPow a 1022
/-- Value at x of a polynomial given by its coefficients from the highest degree down. -/
def gfEval (cs : List Nat) (x : Nat) : Nat := cs.foldl (fun r c => Nat.xor (gfMul r x) c) 0

/-- The generator polynomial, coefficients of degrees 13 down to 0 (degree 14 is 1). -/
def rsGen : List Nat :=
  ((List.range 14).foldl (fun g i => List.zipWith Nat.xor (g ++ [0]) (0 :: g.map (gfMul (gfPow 2 i)))) [1]).tail

/-- The parity symbols of 258 data symbols, degrees 13 down to 0. -/
def rsParity (sym : List Nat) : List Nat :=
  let g := rsGen
  sym.foldl (fun r x =>
    let t := Nat.xor x (r.headD 0)
    List.zipWith (fun a b => Nat.xor a (gfMul t b)) (r.tail ++ [0]) g) (List.replicate 14 0)

/-- Symbols of 10 bits in sending order, and back. -/
def symbols (n v : Nat) : List Nat := (List.range n).map fun i => v / 2 ^ (10 * i) % 1024
def unsymbols (l : List Nat) : Nat := l.zipIdx.foldl (fun acc si => acc + si.1 * 2 ^ (10 * si.2)) 0

/-- Ten blocks as one number, in sending order. -/
def blocksNat (bl : List (BitVec 258)) : Nat := bl.zipIdx.foldl (fun acc bi => acc + bi.1.toNat * 2 ^ (258 * bi.2)) 0
/-- The 140 parity bits of ten blocks, in sending order from bit 0. -/
def fecParity (bl : List (BitVec 258)) : BitVec 140 := BitVec.ofNat 140 (unsymbols (rsParity (symbols 258 (blocksNat bl))))

/-- The fourteen syndromes of a received word of 272 symbols: its values at α^0 to α^13. All are 0 for a codeword. -/
def rsSyndromes (r : List Nat) : List Nat := (List.range 14).map fun j => gfEval r (gfPow 2 j)

/-- Sum of two polynomials, lowest degree first. -/
def gfAdd (a b : List Nat) : List Nat :=
  (List.range (max a.length b.length)).map fun i => Nat.xor (a.getD i 0) (b.getD i 0)

/-- The search for the shortest recurrence of the syndromes: locator, the last one before it grew, its length, the steps since, and
the discrepancy then. -/
structure Locator where
  c : List Nat := [1]
  b : List Nat := [1]
  len : Nat := 0
  gap : Nat := 1
  disc : Nat := 1

/-- Take syndrome n into account. -/
def Locator.next (l : Locator) (syn : List Nat) (n : Nat) : Locator :=
  let d := (List.range (l.len + 1)).foldl (fun a i => Nat.xor a (gfMul (l.c.getD i 0) (if i ≤ n then syn.getD (n - i) 0 else 0))) 0
  if d = 0 then { l with gap := l.gap + 1 }
  else
    let k := gfMul d (gfInv l.disc)
    let c := gfAdd l.c (List.replicate l.gap 0 ++ l.b.map (gfMul k))
    if 2 * l.len ≤ n then { c := c, b := l.c, len := n + 1 - l.len, gap := 1, disc := d }
    else { l with c := c, gap := l.gap + 1 }

/-- The errors of a received word: degree and value of each, from the roots of the locator. -/
def rsErrors (syn : List Nat) : List (Nat × Nat) :=
  let l := (List.range 14).foldl (fun (l : Locator) n => l.next syn n) {}
  let omega := (List.range 14).map fun n =>
    (List.range (n + 1)).foldl (fun a i => Nat.xor a (gfMul (l.c.getD i 0) (syn.getD (n - i) 0))) 0
  let deriv := (List.range l.c.length).map fun i => if i % 2 = 0 then l.c.getD (i + 1) 0 else 0
  ((List.range 272).filter fun d => gfEval l.c.reverse (gfInv (gfPow 2 d)) = 0).map fun d =>
    let x := gfPow 2 d
    let y := gfInv x
    (d, gfMul x (gfMul (gfEval omega.reverse y) (gfInv (gfEval deriv.reverse y))))

/-- What the decoder finds in a codeword. -/
inductive FecVerdict where
  | clean
  | corrected
  | uncorrectable
  deriving DecidableEq, Repr

/-- Decode a received word of 272 symbols in sending order: up to seven symbols in error are corrected; a word that no codeword lies
within seven symbols of is passed on as received (R98). -/
def rsDecode (r : List Nat) : FecVerdict × List Nat :=
  let syn := rsSyndromes r
  if syn.all (· = 0) then (.clean, r)
  else
    let errs := rsErrors syn
    let fixed := r.zipIdx.map fun x => match errs.find? (fun e => decide (e.1 + x.2 = 271)) with
      | some e => Nat.xor x.1 e.2
      | none => x.1
    if errs.length ≤ 7 ∧ (rsSyndromes fixed).all (· = 0) then (.corrected, fixed) else (.uncorrectable, r)

/-- The ten blocks of a codeword of 2,720 stream bits, decoded. -/
def decodeBlocks (v : Nat) : FecVerdict × List (BitVec 258) :=
  let r := rsDecode (symbols 272 v)
  let d := unsymbols (r.2.take 258)
  (r.1, (List.range 10).map fun i => BitVec.ofNat 258 (d / 2 ^ (258 * i)))

/-! ## The frame check sequence: R101 -/

/-- The FCS of IEEE 802.3 over octets, bit 0 of each first (notes/assumptions/11.md). -/
def frameCrc (o : List Octet) : BitVec 32 :=
  ~~~ (o.foldl (fun (c : BitVec 32) b =>
    (List.range 8).foldl (fun (c : BitVec 32) i =>
      (c >>> 1) ^^^ (if (c.getLsbD 0) ^^ (b.getLsbD i) then 0xEDB88320#32 else 0)) c) 0xFFFFFFFF#32)
/-- Its four octets as they are sent. -/
def fcsOctets (o : List Octet) : List Octet := (List.range 4).map fun i => (frameCrc o).extractLsb' (8 * i) 8
/-- The last four octets of a frame are its FCS. -/
def fcsOk (o : List Octet) : Bool := decide (o.drop (o.length - 4) = fcsOctets (o.take (o.length - 4)))

end Sys2Proof.Machine
end

