-- ==== Sys2Proof/Machine/Fwd.lean ====
section
/-! DEFINITION. Fwd.lean: the forwarding tables (spec/05): keys, hashing, placement, search, learning, ageing, commands
and learning events. -/

namespace Sys2Proof.Machine

/-- FWD register of quadrant q (R160), and counter k of Table 5.6. -/
def fwdOff (q o : Nat) : Nat := 0xC00000 + q * 0x100000 + o
def State.fwdCount (s : State) (q k : Nat) : State := s.count (fwdOff q (0x300 + 4 * k))
/-- PRS.PORTSET k of quadrant q as a set of ports. -/
def State.portset (s : State) (q k : Nat) : BitVec 32 :=
  s.ports32 (0x800000 + q * 0x100000 + 0x800 + 8 * k) (0x800000 + q * 0x100000 + 0x804 + 8 * k)

/-! ## Keys and hashing: R133, R135 -/

def keyPart (slice : Nat) (id : Nat) : BitVec 67 := BitVec.ofNat 67 (slice % 64 * 2 ^ 60 + id % 2 ^ 14)
def keyMac (slice vlan id : Nat) : BitVec 67 :=
  BitVec.ofNat 67 (2 ^ 66 + slice % 64 * 2 ^ 60 + vlan % 2 ^ 12 * 2 ^ 48 + id % 2 ^ 48)

/-- The candidate buckets h1 and h2 (R135). -/
def State.buckets (s : State) (q : Nat) (v : BitVec 67) : Nat × Nat :=
  let c : BitVec 32 := BitVec.ofNat 32 (s.fld ⟨fwdOff q 0x24, 15, 0⟩ * 2 ^ 16 + s.fld ⟨fwdOff q 0x20, 15, 0⟩)
  let c := crcBits polyRinek c ((List.range 67).map fun i => v.getLsbD (66 - i))
  let h1 := c.toNat % 2 ^ 16
  let h2 := c.toNat / 2 ^ 16
  (h1, if h2 = h1 then h1 ^^^ 1 else h2)

/-! ## Entries: R132, R134 -/

def stashBase : Nat := 0x40000
def State.fent (s : State) (q p : Nat) : FEntry := SMap.get {} (s.fwdQ q).tab p
def State.setFent (s : State) (q p : Nat) (e : FEntry) : State :=
  s.modFwd q fun f => { f with tab := SMap.set {} f.tab p e }
def State.delFent (s : State) (q p : Nat) : State := s.setFent q p {}
/-- NOW (R149). -/
def State.ageNow (s : State) (q : Nat) : Word := (s.reg (fwdOff q 0x2C)).extractLsb' 0 14

def bucketPos (b : Nat) : List Nat := (List.range 4).map fun w => 4 * b + w
def stashPos : List Nat := (List.range 8).map fun i => stashBase + i
/-- Positions where a key can stand. -/
def State.places (s : State) (q : Nat) (v : BitVec 67) : List Nat :=
  bucketPos (s.buckets q v).1 ++ bucketPos (s.buckets q v).2 ++ stashPos
/-- The position of a key. -/
def State.fwdFind (s : State) (q : Nat) (v : BitVec 67) : Option Nat :=
  (s.places q v).find? fun p => (s.fent q p).valid && decide ((s.fent q p).key = v)
/-- The lowest free way of bucket b. -/
def State.freeWay (s : State) (q b : Nat) : Option Nat := (bucketPos b).find? fun p => !(s.fent q p).valid

/-- LEARNED entries and queued learns of port p in quadrant q (R146). -/
def State.fwdLearned (s : State) (q p : Nat) : Nat :=
  ((s.fwdQ q).tab.filter fun x => decide (x.2.kind = 1) && decide (x.2.dest.toNat = p)).length +
    ((s.fwdQ q).learnq.filter fun x => decide (x.port.toNat = p)).length

/-! ## Insertion: R137 to R139, R156 -/

/-- The other candidate bucket of the entry at a bucket position. -/
def State.altBucket (s : State) (q p : Nat) : Nat :=
  let h := s.buckets q (s.fent q p).key
  if h.1 = p / 4 then h.2 else h.1

/-- The walk must be told of a move (R156). -/
def Fwd.tells (f : Fwd) (src dst : Nat) : Bool := f.walk && decide (f.cursor ≤ src) && decide (dst < f.cursor)

/-- The moves of a path (newest position last) to a free way `w`: each entry to the next position. -/
def pathMoves : List Nat → Nat → List (Nat × Nat)
  | [], _ => []
  | [p], w => [(p, w)]
  | p :: q :: ps, w => pathMoves (q :: ps) w ++ [(p, q)]
/-- The catch-up list has room for the path. -/
def Fwd.pathOk (f : Fwd) (ms : List (Nat × Nat)) : Bool :=
  decide (f.catchup.length + (ms.filter fun m => f.tells m.1 m.2).length ≤ 32)

/-- The first usable path among those of one level. -/
def State.pathAt (s : State) (q : Nat) (paths : List (List Nat)) : Option (List (Nat × Nat)) :=
  paths.findSome? fun ps =>
    match ps.getLast? with
    | some p =>
      match s.freeWay q (s.altBucket q p) with
      | some w => if (s.fwdQ q).pathOk (pathMoves ps w) then some (pathMoves ps w) else none
      | none => none
    | none => none
/-- Paths one move longer. -/
def State.pathNext (s : State) (q : Nat) (paths : List (List Nat)) : List (List Nat) :=
  paths.flatMap fun ps => match ps.getLast? with
    | some p => (bucketPos (s.altBucket q p)).map fun r => ps ++ [r]
    | none => []
/-- Breadth-first search of at most three moves. -/
def State.pathFind (s : State) (q : Nat) (h1 h2 : Nat) : Option (List (Nat × Nat)) :=
  let l1 := (bucketPos h1 ++ bucketPos h2).map fun p => [p]
  let l2 := s.pathNext q l1
  ((s.pathAt q l1).orElse fun _ => s.pathAt q l2).orElse fun _ => s.pathAt q (s.pathNext q l2)

/-- Move an entry (R138), telling an active walk. -/
def State.moveFent (s : State) (q src dst : Nat) : State :=
  let e := s.fent q src
  let tell := (s.fwdQ q).tells src dst
  ((s.setFent q dst e).delFent q src).modFwd q fun f => { f with catchup := if tell then f.catchup ++ [dst] else f.catchup }

/-- Insert an entry: 0 OK, 2 REPLACED, 3 FULL (R137). -/
def State.fwdInsert (s : State) (q : Nat) (e : FEntry) : Nat × State :=
  match s.fwdFind q e.key with
  | some p => (2, s.setFent q p e)
  | none =>
    let h := s.buckets q e.key
    match (s.freeWay q h.1).orElse fun _ => s.freeWay q h.2 with
    | some p => (0, s.setFent q p e)
    | none =>
      match s.pathFind q h.1 h.2 with
      | some ms =>
        let s := s.each ms fun s m => s.moveFent q m.1 m.2
        (0, s.setFent q ((ms.getLast?.map (·.1)).getD 0) e)
      | none =>
        match stashPos.find? fun p => !(s.fent q p).valid with
        | some p => (0, s.setFent q p e)
        | none => (3, s)

/-- After a removal, stash entries move into freed ways (R139). A full catch-up list holds back insertions alone (R156), so these
moves are told beyond its 32 places; while a flush scans they wait for its end, so that none passes it: DEDUCED,
notes/assumptions/18.md. -/
def State.stashCheck (s : State) (q : Nat) : State :=
  if (s.fwdQ q).flush.isSome then s else s.each stashPos fun s p =>
    if (s.fent q p).valid then
      let h := s.buckets q (s.fent q p).key
      match (s.freeWay q h.1).orElse fun _ => s.freeWay q h.2 with
      | some w => s.moveFent q p w
      | none => s
    else s
/-- Remove entries, then check the stash. -/
def State.removeAll (s : State) (q : Nat) (ps : List Nat) : State :=
  if ps = [] then s else (s.each ps fun s p => s.delFent q p).stashCheck q

/-! ## Events: R159 -/

/-- Post event 1 LEARNED, 2 MOVED or 3 AGED; PF vector 22 + q when LEVEL reaches THRESH (R406). -/
def State.fwdEvent (s : State) (q : Nat) (e : FEvent) : State :=
  let o := fwdOff q 0x54
  if s.fld ⟨o, e.event.toNat - 1, e.event.toNat - 1⟩ = 0 then s
  else if 512 ≤ (s.fwdQ q).events.length then
    (s.setFld ⟨fwdOff q 0x50, 10, 10⟩ 1).bumpFld ⟨fwdOff q 0x50, 27, 12⟩ 1
  else
    let s := s.modFwd q fun f => { f with events := f.events ++ [e] }
    if (s.fwdQ q).events.length = max 1 (s.fld ⟨o, 12, 3⟩) then s.msix 0 (22 + q) else s

/-- EVT_INFO of an event. -/
def FEvent.info (e : FEvent) : Pair :=
  BitVec.ofNat 28 (e.event.toNat + 4 * e.port.toNat + 2 ^ 7 * e.old.toNat + 2 ^ 12 * b2n e.fromCopy)
/-- EVT_INFO_READ: the head event, which is popped (R159). -/
def State.evtInfoRead (s : State) (q : Nat) : Pair × State :=
  match (s.fwdQ q).events with
  | [] => (0, s)
  | e :: es => (e.info, s.modFwd q fun f => { f with events := es })
/-- EVT_INFO_READ. -/
def execEvtInfoRead (q : Fin 4) (s : State) : Out := .next (s.readRow (fwdOff q 0x4C) fun s => s.evtInfoRead q.val)

/-! ## Learning: R144 to R147 -/

/-- What a learning check does with the packet. -/
inductive LearnRes where
  | pass | drop
  deriving DecidableEq, Repr

/-- A source that is not learned (R144). -/
def badSource (v : BitVec 67) : Bool :=
  if bit v 66 then bit v 40 || decide (ext v 47 0 = 0) else decide (ext v 13 0 = 0x3FFF)

/-- The port's limit is reached: the packet goes by EXCESS (R146). -/
def State.learnExcess (s : State) (q p : Nat) : LearnRes × State :=
  if s.fld ⟨fwdOff q (0x100 + 8 * (p % 8)), 16, 16⟩ = 0 then (.drop, s.fwdCount q 8) else (.pass, s.fwdCount q 9)
def State.learnRoom (s : State) (q p : Nat) : Bool :=
  decide (s.fwdLearned q p < s.fld ⟨fwdOff q (0x100 + 8 * (p % 8)), 15, 0⟩)

/-- The learning check of key v from port p (Table 5.2). -/
def State.learn (s : State) (q p : Nat) (v : BitVec 67) : LearnRes × State :=
  let p5 : BitVec 5 := BitVec.ofNat 5 p
  let now := s.ageNow q
  if badSource v then (.pass, s.fwdCount q 12)
  else match s.fwdFind q v with
  | none =>
    if s.learnRoom q p = false then s.learnExcess q p
    else if 64 ≤ (s.fwdQ q).learnq.length then (.pass, s.fwdCount q 11)
    else (.pass, ((s.modFwd q fun f => { f with learnq := f.learnq ++ [{ key := v, port := p5, ts := now }] }).fwdCount q 5).fwdEvent q
      { event := 1, key := v, port := p5, old := 0, fromCopy := false })
  | some x =>
    let e := s.fent q x
    if e.kind = 0 then (.pass, if e.dkind = false ∧ e.dest.toNat = p then s else s.fwdCount q 13)
    else if e.kind = 1 ∧ e.dest.toNat = p then (.pass, s.setFent q x { e with ts := now })
    else if s.learnRoom q p = false then (s.setFent q x { e with ts := now }).learnExcess q p
    else (.pass, ((s.setFent q x { e with kind := 1, dest := BitVec.ofNat 6 p, ts := now }).fwdCount q 6).fwdEvent q
      { event := 2, key := v, port := p5, old := e.dest.setWidth 5, fromCopy := decide (e.kind = 2) })

/-! ## Ageing: R149 to R151 -/

/-- NOW advances in every quadrant that is clocked; a sweep begins. -/
def State.ageingStrobe (s : State) : State :=
  s.each [0, 1, 2, 3] fun s q =>
    if s.clocked (3 + q) then
      (s.setReg (fwdOff q 0x2C) ((s.ageNow q + 1).setWidth 28)).modFwd q fun f => { f with sweep := some 0 }
    else s
/-- AGEING_STROBE: every 400,000 ticks (R149). -/
def execAgeingStrobe (s : State) : Out := .next (s.strobe .ageing 400000 s.tick.toNat State.ageingStrobe)

/-- The scanner at one entry: whether it is removed, and the state. `hit`: a refresh falls in the decision or before
the removal. -/
def State.ageOne (s : State) (q p : Nat) (hit : Bool) : Bool × State :=
  let e := s.fent q p
  let now := s.ageNow q
  let time := s.fld ⟨fwdOff q 0x28, 13, 0⟩
  let age := (now - e.ts).toNat
  if e.valid = false ∨ e.kind = 0 then (false, s)
  else if hit then (false, s.setFent q p { e with ts := now })
  else if time ≠ 0 ∧ time ≤ age then
    let s := (s.delFent q p).fwdCount q 7
    (true, if e.kind = 1 then s.fwdEvent q { event := 3, key := e.key, port := e.dest.setWidth 5, old := 0, fromCopy := false }
           else s)
  else if age = 16383 then (false, s.setFent q p { e with ts := now - 16383 })
  else (false, s)
/-- The scanner at bucket b, or at the stash when b is 65,536. -/
def State.scanBucket (s : State) (q b : Nat) (hit : BitVec 8) : State :=
  let ps := if b < 65536 then bucketPos b else stashPos
  let r := ps.zipIdx.foldl (fun (acc : Bool × State) pi =>
    let x := acc.2.ageOne q pi.1 (bit hit pi.2)
    (acc.1 || x.1, x.2)) (false, s)
  if r.1 then r.2.stashCheck q else r.2
/-- The next visit of the sweep: the buckets in ascending order, then the stash (R150). -/
def State.ageingVisit (s : State) (q : Nat) (b : Nat) (hit : BitVec 8) : State :=
  match (s.fwdQ q).sweep with
  | some n =>
    if n = b ∧ s.clocked (3 + q) then
      (s.scanBucket q b hit).modFwd q fun f => { f with sweep := if b < 65536 then some (b + 1) else none }
    else s
  | none => s
/-- AGEING_VISIT (R150, R151). -/
def execAgeingVisit (q : Fin 4) (b : BitVec 17) (hit : BitVec 8) (s : State) : Out := .next (s.ageingVisit q.val b.toNat hit)

/-! ## Commands: R153 to R157 -/

/-- The key staged in KEY0 to KEY2. -/
def State.stagedKey (s : State) (q : Nat) : BitVec 67 :=
  let k0 := s.reg (fwdOff q 8)
  BitVec.ofNat 67 (b2n (bit k0 0) * 2 ^ 66 + ext k0 6 1 * 2 ^ 60 + ext k0 18 7 * 2 ^ 48 +
    s.fld ⟨fwdOff q 0x10, 23, 0⟩ * 2 ^ 24 + s.fld ⟨fwdOff q 0x0C, 23, 0⟩)
/-- Registers KEY0 to KEY2 of a key. -/
def keyRegs (v : BitVec 67) : Pair × Pair × Pair :=
  (BitVec.ofNat 28 (b2n (bit v 66) + 2 * ext v 65 60 + 2 ^ 7 * ext v 59 48), BitVec.ofNat 28 (ext v 23 0),
   BitVec.ofNat 28 (ext v 47 24))
/-- A PART key with VLAN or ID[47:14] (COMBO). -/
def badKey (v : BitVec 67) : Bool := !bit v 66 && decide (ext v 59 14 ≠ 0)

/-- RES of an entry. -/
def FEntry.res (e : FEntry) : Pair :=
  BitVec.ofNat 28 (b2n e.dkind + 2 * e.dest.toNat + 2 ^ 7 * e.kind.toNat + 2 ^ 9 * e.ts.toNat + 2 ^ 27)
/-- Return the entry at position p in RES and POS. -/
def State.retFent (s : State) (q p : Nat) : State :=
  (s.setReg (fwdOff q 0x14) (s.fent q p).res).setReg (fwdOff q 0x18) (BitVec.ofNat 28 p)
def State.noFent (s : State) (q : Nat) : State := s.setFld ⟨fwdOff q 0x14, 27, 27⟩ 0

/-- Code of the checks of a command, 0 when they pass (R153, Table 5.4). -/
def State.fwdCheck (s : State) (q : Nat) (v : Pair) : Nat :=
  let op := ext v 2 0
  let k := s.stagedKey q
  let r := s.reg (fwdOff q 0x14)
  let unused := match op with
    | 1 => decide (ext v 9 4 = 0)
    | 4 => decide (ext v 3 3 = 0)
    | _ => decide (ext v 18 3 = 0)
  if ext v 27 19 ≠ 0 ∨ 5 ≤ op ∨ unused = false then 5
  else
    let bad := match op with
      | 1 => decide (ext v 11 10 = 3)
      | 4 => decide (ext v 11 10 = 3) || (bit v 9 && decide (ext v 8 4 ≠ 0))
      | 2 => badKey k || decide (ext r 8 7 = 1) || decide (ext r 8 7 = 3) || (!bit r 0 && decide (31 < ext r 6 1)) ||
          (bit r 0 && decide (ext r 8 7 = 2))
      | _ => badKey k
    if bad then 6 else 0

/-- SCOPE takes the kind: 0 LEARNED, 1 also COPIED, 2 all. -/
def scopeTakes (scope : Nat) (kind : BitVec 2) : Bool := decide (kind = 1) || (decide (1 ≤ scope) && decide (kind = 2)) || decide (2 ≤ scope)
/-- The slice filter of a command. -/
def sliceTakes (v : Pair) (e : FEntry) : Bool := !bit v 12 || decide (ext e.key 65 60 = ext v 18 13)

/-- FLUSH-PORT with command word v removes the entry (R157). -/
def flushTakes (v : Pair) (e : FEntry) : Bool :=
  e.valid && (bit v 9 || (!e.dkind && decide (e.dest.toNat = ext v 8 4))) && scopeTakes (ext v 11 10) e.kind && sliceTakes v e
/-- A flush begins to scan (R157). -/
def State.flushBegin (s : State) (q : Nat) (v : Pair) (down : Bool) : State :=
  s.modFwd q fun f => { f with flush := some { cmd := v, down := down } }

/-- NEXT: the position returned, and the walk after it (R156). -/
def State.walkNext (s : State) (q : Nat) (v : Pair) : Option Nat × State :=
  let s := if bit v 3 then s.modFwd q fun f => { f with walk := true, cursor := 0, catchup := [] } else s
  let f := s.fwdQ q
  let ok (p : Nat) : Bool := (s.fent q p).valid && scopeTakes (ext v 11 10) (s.fent q p).kind && sliceTakes v (s.fent q p)
  if f.walk = false then (none, s)
  else match f.catchup.dropWhile fun p => !ok p with
  | p :: ps => (some p, s.modFwd q fun f => { f with catchup := ps })
  | [] =>
    match (List.find? (fun x : Nat × FEntry => decide (f.cursor ≤ x.1) && ok x.1) f.tab).map (·.1) with
    | some p => (some p, s.modFwd q fun f => { f with cursor := p + 1, catchup := [] })
    | none => (none, s.modFwd q fun f => { f with walk := false, catchup := [] })

/-- What a command that passes its checks does: its code, none for a flush that has begun, and the state. -/
def State.fwdRun (s : State) (q : Nat) (v : Pair) : Option Nat × State :=
  let k := s.stagedKey q
  let r := s.reg (fwdOff q 0x14)
  match ext v 2 0 with
  | 0 => match s.fwdFind q k with
    | some p => (some 0, s.retFent q p)
    | none => (some 1, s.noFent q)
  | 1 => match s.walkNext q v with
    | (some p, s) =>
      let ks := keyRegs (s.fent q p).key
      (some 0, (((s.setReg (fwdOff q 8) ks.1).setReg (fwdOff q 0x0C) ks.2.1).setReg (fwdOff q 0x10) ks.2.2).retFent q p)
    | (none, s) => (some 4, s.noFent q)
  | 2 =>
    let r := s.fwdInsert q { valid := true, key := k, dkind := bit r 0, dest := BitVec.ofNat 6 (ext r 6 1),
                             kind := BitVec.ofNat 2 (ext r 8 7), ts := s.ageNow q }
    (some r.1, r.2)
  | 3 => match s.fwdFind q k with
    | some p => (some 0, s.removeAll q [p])
    | none => (some 1, s)
  | _ => (none, s.flushBegin q v false)

def State.fwdBusy (s : State) (q : Nat) : Bool := decide (s.fld ⟨fwdOff q 4, 4, 4⟩ = 1)
/-- The command in CMD runs; its CODE is written when it ends. The next turn of the engine is a learn's (R147). -/
def State.fwdServe (s : State) (q : Nat) (v : Pair) : State :=
  let (c, s) := if s.fwdCheck q v ≠ 0 then (some (s.fwdCheck q v), s) else s.fwdRun q v
  s.modFwd q fun f => { f with code := c.map (BitVec.ofNat 4), cmd := none, learnTurn := true }
/-- A command that finds the engine taken waits: a learn that is queued has the turn, or a flush runs (R147, R157). -/
def Fwd.taken (f : Fwd) : Bool := (f.learnTurn && !f.learnq.isEmpty) || f.flush.isSome
/-- A write of FWD.CMD (R153): the command starts, unless the engine is taken. -/
def State.fwdCmd (s : State) (q : Nat) (v : Pair) : State :=
  if s.fwdBusy q then s.setFld ⟨fwdOff q 4, 5, 5⟩ 1
  else
    let s := (s.setReg (fwdOff q 0) (v &&& bits 18 0)).setFld ⟨fwdOff q 4, 4, 4⟩ 1
    if (s.fwdQ q).taken then s.modFwd q fun f => { f with cmd := some v } else s.fwdServe q v
/-- A write of FWD.CMD with operation `op`; SEARCH also stands for the reserved operations. -/
def State.fwdRow (s : State) (op q : Nat) (v : Pair) : State :=
  s.when (decide (ext v 2 0 = op) || (decide (op = 0) && decide (5 ≤ ext v 2 0))) fun s => s.regRow (fwdOff q 0) v fun s => s.fwdCmd q v
/-- SEARCH (R154). -/
def execSearch (q : Fin 4) (v : Pair) (s : State) : Out := .next (s.fwdRow 0 q.val v)
/-- NEXT (R156). -/
def execNext (q : Fin 4) (v : Pair) (s : State) : Out := .next (s.fwdRow 1 q.val v)
/-- INSERT (R137). -/
def execInsert (q : Fin 4) (v : Pair) (s : State) : Out := .next (s.fwdRow 2 q.val v)
/-- DELETE (R154). -/
def execDelete (q : Fin 4) (v : Pair) (s : State) : Out := .next (s.fwdRow 3 q.val v)
/-- FLUSH-PORT (R157). -/
def execFlushPort (q : Fin 4) (v : Pair) (s : State) : Out := .next (s.fwdRow 4 q.val v)

/-- The oldest queued learn is inserted with the NOW of its check (R137, R145); a STATIC entry is left (R148). -/
def State.learnOne (s : State) (q : Nat) : State :=
  match (s.fwdQ q).learnq with
  | [] => s
  | l :: rest =>
    let s := s.modFwd q fun f => { f with learnq := rest, learnTurn := false }
    if ((s.fwdFind q l.key).map fun x => (s.fent q x).kind) = some 0 then s
    else
      match s.fwdInsert q { valid := true, key := l.key, dkind := false, dest := l.port.setWidth 6, kind := 1, ts := l.ts } with
      | (3, s) => s.fwdCount q 10
      | (_, s) => s
/-- A command that waits takes its turn once the engine is not taken. -/
def State.fwdNext (s : State) (q : Nat) : State :=
  match (s.fwdQ q).cmd with
  | some v => if (s.fwdQ q).taken then s else s.fwdServe q v
  | none => s
/-- LEARN_INSERT: a learn takes its turn, and a command that waited for it takes the next (R147). A flush holds the engine until it
ends (DEDUCED, notes/assumptions/18.md). -/
def State.learnInsert (s : State) (q : Nat) : State := if (s.fwdQ q).flush.isSome then s else (s.learnOne q).fwdNext q
/-- LEARN_INSERT. -/
def execLearnInsert (q : Fin 4) (s : State) : Out := .next (s.when (s.clocked (3 + q.val)) fun s => s.learnInsert q.val)

/-- Positions that a flush scans at its step n: a bucket, or one place of the stash (R157). -/
def flushPos (n : Nat) : List Nat := if n < 65536 then bucketPos n else [stashBase + (n - 65536)]
/-- A flush has scanned the table: the count goes to CMD_COUNT, a command ends, and the stash is checked (R139, R157). -/
def State.flushEnd (s : State) (q : Nat) (x : Flush) : State :=
  (((s.setReg (fwdOff q 0x1C) (BitVec.ofNat 28 x.removed)).modFwd q fun f =>
    { f with flush := none, code := if x.down then f.code else some 0 }).stashCheck q).fwdNext q
/-- One CCLK of the flush of quadrant q: the entries that it takes in its next bucket go (R157). -/
def State.flushStep (s : State) (q : Nat) : State :=
  match (s.fwdQ q).flush with
  | some x =>
    let ps := (flushPos x.next).filter fun p => flushTakes x.cmd (s.fent q p)
    let y : Flush := { x with next := x.next + 1, removed := x.removed + ps.length }
    let s := (s.each ps fun s p => s.delFent q p).modFwd q fun f => { f with flush := some y }
    if y.next < 65544 then s else s.flushEnd q y
  | none => s

/-- FWD_CMD_END: CODE is written and BUSY clears (R153). -/
def State.fwdCmdEnd (s : State) (q : Nat) : State :=
  match (s.fwdQ q).code with
  | some c =>
    ((s.setFld ⟨fwdOff q 4, 3, 0⟩ c.toNat).setFld ⟨fwdOff q 4, 4, 4⟩ 0).modFwd q fun f => { f with code := none }
  | none => s
def execFwdCmdEnd (q : Fin 4) (s : State) : Out := .next (s.when (s.clocked (3 + q.val)) fun s => s.fwdCmdEnd q.val)

/-- HASH_SEED_WRITE: only while the table is empty (R136). -/
def State.hashSeedWrite (s : State) (q : Nat) (hi : Bool) (v : Pair) : State :=
  if (s.fwdQ q).tab = [] then s.setReg (fwdOff q (if hi then 0x24 else 0x20)) (v &&& bits 15 0)
  else s.setFld ⟨fwdOff q 0x30, 24, 24⟩ 1
def execHashSeedWrite (q : Fin 4) (hi : Bool) (v : Pair) (s : State) : Out :=
  .next (s.regRow (fwdOff q (if hi then 0x24 else 0x20)) v fun s => s.hashSeedWrite q.val hi v)

/-- FLUSH_ON_DOWN: the flush that a link's return to DETECT has left waiting begins when no command and no flush runs (R157). -/
def State.flushOnDown (s : State) (p : Nat) : State :=
  let q := p / 8
  if s.fwdBusy q ∨ (s.fwdQ q).flush.isSome then s
  else if (s.fwdQ q).flushes.any fun x => decide (x.toNat = p) then
    (s.modFwd q fun f => { f with flushes := f.flushes.filter fun x => decide (x.toNat ≠ p) }).flushBegin q (BitVec.ofNat 28 (16 * p)) true
  else s
def execFlushOnDown (p : Fin 32) (s : State) : Out := .next (s.when (s.portClocked p.val) fun s => s.flushOnDown p.val)

/-- A port's link returns to DETECT: with FLUSH_ON_DOWN 1 a flush waits (R157). -/
def State.fwdLinkDown (s : State) (p : Nat) : State :=
  if s.fld ⟨fwdOff (p / 8) (0x100 + 8 * (p % 8)), 17, 17⟩ = 1 then
    s.modFwd (p / 8) fun f => { f with flushes := f.flushes ++ [BitVec.ofNat 5 p] }
  else s

end Sys2Proof.Machine
end

