-- ==== Sys2Proof/Machine/Prs.lean ====
section
/-! DEFINITION. Prs.lean: Prism (spec/04): contexts, windows, steps, rules and banks, results and the slow path. A packet is
named by its number in `State.pkts`; those of a port arrive in the order of their numbers. -/

namespace Sys2Proof.Machine

/-- PRS register of quadrant q (R131). -/
def prsOff (q o : Nat) : Nat := 0x800000 + q * 0x100000 + o
def Pkt.q (p : Pkt) : Nat := p.port.val / 8
/-- Causes of Table 4.6. -/
def cDepth : Nat := 1
def cWindow : Nat := 2
def cLength : Nat := 3
def cFragment : Nat := 4
def cOptions : Nat := 5
def cEthertype : Nat := 6
def cMalformed : Nat := 7
def cRsvd : Nat := 8
def cSlice : Nat := 9
def cNoformat : Nat := 10
def cMiss : Nat := 11
def cRecirc : Nat := 12
def cTrap : Nat := 13

/-! ## Contexts: R105 -/

/-- The packet holds a context. -/
def Pkt.inCtx (p : Pkt) : Bool :=
  decide (p.stage = .waitPass) || decide (p.stage = .stepping) || decide (p.stage = .matching) || decide (p.stage = .lookup) ||
    decide (p.stage = .result)
/-- The packet is alive, and goes to Prism unless EPC discards it. -/
def Pkt.alive (p : Pkt) : Bool := !p.doomed && !p.gone && !p.idle && !p.discard
/-- Prism may take it: a wave once EPC has accepted it. -/
def Pkt.toPrism (p : Pkt) : Bool := p.alive && (p.stamped || decide (p.cls ≠ 0))
/-- Packets re-presented after a freeze go ahead of the new packets of their port (R382). -/
def replayFirst (l : List (Nat × Pkt)) : List (Nat × Pkt) := (l.filter fun x => x.2.replay) ++ l.filter fun x => !x.2.replay
/-- The packet of port p that takes the next context: the oldest that waits for one, if Prism may take it and it stands in the wave
buffer (R105, R110). A re-presented one is placed with its context. -/
def State.waitCtx (s : State) (p : Nat) : Option (Nat × Pkt) :=
  match replayFirst (s.pkts.filter fun x => decide (x.2.port.val = p) && decide (x.2.stage = .waitCtx) && x.2.alive) with
  | [] => none
  | x :: _ => if x.2.toPrism ∧ (x.2.placed ∨ (x.2.replay ∧ s.waveRoom (p / 8) x.2.size)) then some x else none

/-- CONTEXT_TAKE: what the ingress queues hold goes to the wave buffer as far as that has room, and the rotation among the ports gives
a waiting packet one of the 256 contexts (R26, R105). -/
def State.contextTake (s : State) (q : Nat) : State :=
  let s := s.each (List.range 8) fun s j => s.drainPort (8 * q + j)
  if 256 ≤ (s.pkts.filter fun x => decide (x.2.q = q) && x.2.inCtx).length then s
  else match rotPick (s.pointer (20 + q) 8) 8 (fun j => (s.waitCtx (8 * q + j)).isSome) with
    | none => s
    | some j => match s.waitCtx (8 * q + j) with
      | none => s
      | some (k, p) =>
        if p.placed then s.setPkt k { p with stage := .waitPass } else s.placePkt k { p with stage := .waitPass } q
def execContextTake (q : Fin 4) (s : State) : Out := .next (s.when (s.clocked (3 + q.val)) fun s => s.contextTake q.val)
/-- CCLK runs in the quadrant of packet k (R414, R468). -/
def State.pktClocked (s : State) (k : Nat) : Bool := (s.pkt? k).all fun p => s.clocked (3 + p.q)

/-! ## Banks: R125 to R127 -/

/-- State of bank A (false) or B: 0 IDLE, 1 ACTIVE, 2 DRAINING, 3 PENDING. -/
def State.bankState (s : State) (q : Nat) (b : Bool) : Nat := s.fld ⟨prsOff q 8, if b then 3 else 1, if b then 2 else 0⟩
def State.setBankState (s : State) (q : Nat) (b : Bool) (n : Nat) : State :=
  s.setFld ⟨prsOff q 8, if b then 3 else 1, if b then 2 else 0⟩ n
/-- The bank in force. -/
def State.bankActive (s : State) (q : Nat) : Bool := decide (s.bankState q true = 1)
/-- Packets stamped with bank b that have a rule match still to make (R126). -/
def State.inflight (s : State) (q : Nat) (b : Bool) : Nat :=
  (s.pkts.filter fun x => decide (x.2.q = q) && decide (x.2.bank = some b) && !x.2.doomed &&
    (decide (x.2.stage = .waitPass) || decide (x.2.stage = .stepping) || decide (x.2.stage = .matching))).length
/-- The stamp of a packet whose first pass begins (R126, R127). -/
def State.bankStamp (s : State) (q : Nat) (p : Pkt) : Bool :=
  let a := s.bankActive q
  if s.bankState q (!a) = 3 ∧ p.cls = 0 ∧ precedes (hdrEpoch (p.flits.headD 0)) (s.reg (prsOff q 4)) = false then !a else a

/-- Bank b becomes ACTIVE and the other DRAINING. -/
def State.bankSwap (s : State) (q : Nat) (b : Bool) : State := (s.setBankState q b 1).setBankState q (!b) 2

/-- GO of epoch n (low 28 bits) has been received, or decided (R127). -/
def State.goKnown (s : State) (n : Pair) : Bool := s.epc.gos.any fun g => decide (lo28 g.1 = n)
/-- A write of BANK_CTL with SWAP 1 (R127). -/
def State.swap (s : State) (q : Nat) (v : Pair) : State :=
  let s := s.setReg (prsOff q 0) (v &&& bits 1 0)
  if bit v 2 = false then s
  else
    let b := bit v 0
    let e := s.reg (prsOff q 4)
    let at' := bit v 1 && s.run
    let d := (e - lo28 s.epc.epoch).toNat
    if s.bankState q b = 1 ∨ 2 ≤ s.bankState q true ∨ 2 ≤ s.bankState q false ∨
        (at' ∧ (d = 0 ∨ 2 ^ 27 ≤ d ∨ s.goKnown e)) then s.setFld ⟨prsOff q 8, 4, 4⟩ 1
    else if at' then s.setBankState q b 3
    else s.bankSwap q b
/-- SWAP. -/
def execSwap (q : Fin 4) (v : Pair) (s : State) : Out := .next (s.regRow (prsOff q 0) v fun s => s.swap q.val v)

/-- The start of the epoch with low bits `e`: a PENDING bank becomes ACTIVE (R127). -/
def State.bankApply (s : State) (e : Pair) : State :=
  s.each [0, 1, 2, 3] fun s q => s.each [false, true] fun s b =>
    if s.bankState q b = 3 ∧ s.reg (prsOff q 4) = e then s.bankSwap q b else s

/-- BANK_DRAINED: a DRAINING bank with no packet left to match becomes IDLE (R126). -/
def execBankDrained (q : Fin 4) (bank : Bool) (s : State) : Out :=
  .next (s.when (decide (s.bankState q.val bank = 2) && decide (s.inflight q.val bank = 0)) fun s => s.setBankState q.val bank 0)

/-! ## Stopping, and the start of a pass: R111, R116, R128 -/

/-- The packet goes to the slow path. -/
def Pkt.slow (p : Pkt) (cause : Nat) (trap : Nat) : Pkt :=
  { p with stage := .result, res := some (.slow (BitVec.ofNat 4 cause) (BitVec.ofNat 8 trap)) }

/-- A bit that Table 3.4 reserves for the class is set. -/
def hdrReserved (cls : Nat) (h : Flit) : Bool :=
  let z (i hi lo : Nat) : Bool := decide (ext (fword h i) hi lo = 0)
  let w (i : Nat) : Bool := decide (fword h i = 0)
  !(z 3 7 7 && w 16 && w 17 && (match cls with
    | 0 => z 6 9 3 && z 7 13 5
    | 1 => z 4 13 3 && w 6 && z 7 13 5 && (List.range 8).all fun i => w (8 + i)
    | _ => w 2 && w 4 && w 5 && w 6 && z 7 13 12 && (List.range 8).all fun i => w (8 + i)))

/-- The length fields of a Rinek header agree (R116). -/
def hdrLengthOk (cls : Nat) (h : Flit) : Bool :=
  let n := hdrLength h
  if cls = 2 then
    let f := ext (fword h 7) 11 0
    decide (60 ≤ f) && decide (f ≤ 4000) && decide (n = (f * 8 + 251) / 252)
  else
    let l := ext (fword h 7) 4 0
    if n = 0 then decide (l = 0) else decide (1 ≤ l) && decide (l ≤ 18)

/-- PRS register of port p in its quadrant's block. -/
def prsPort (p o : Nat) : Nat := prsOff (p / 8) (0x300 + 0x10 * (p % 8) + o)
/-- Slice i is allowed on port p. -/
def State.sliceAllowed (s : State) (p i : Nat) : Bool := bit (s.reg (prsPort p (4 + 4 * (i / 28)))) (i % 28)

/-- The window of the pass is complete (R106). -/
def Pkt.windowOk (p : Pkt) : Bool :=
  if p.cls = 3 then true
  else if p.cls = 4 then decide ((min 64 p.octets.length * 8 + 251) / 252 + 1 ≤ p.flits.length)
  else decide (min 2 (hdrLength (p.flits.headD 0) + 1) ≤ p.flits.length)

/-- The first pass of a packet: a Rinek header is checked before its format entry is looked at, since no step program, and no
missing one, bypasses the checks (R111, R114, R116, R117, R126, R131; order DEDUCED, notes/assumptions/12.md). -/
def State.firstPass (s : State) (p : Pkt) : Pkt :=
  let c := p.cls.toNat
  let f := s.reg (prsOff p.q (0x200 + 4 * (4 * ext (s.reg (prsPort p.port 0)) 0 0 + c % 4)))
  let h := p.flits.headD 0
  let lim := ext f 14 10
  let p := { p with bank := some (s.bankStamp p.q p), cursor := 0, issued := 0, key := [],
                    limit := if lim = 0 ∨ 24 < lim then 24 else lim, step := BitVec.ofNat 10 (ext f 9 0) }
  let go (p : Pkt) : Pkt := if bit f 27 then { p with stage := .stepping } else p.slow cNoformat 0
  if c = 3 then go { p with slice := if p.replay then p.slice else some (BitVec.ofNat 6 (ext (s.reg (prsPort p.port 0)) 6 1)) }
  else if hdrLengthOk c h = false then p.slow cLength 0
  else if hdrReserved c h then p.slow cRsvd 0
  else if s.sliceAllowed p.port (hdrSlice h).toNat = false then p.slow cSlice 0
  else go { p with slice := some (hdrSlice h) }

/-- An Ethernet frame with more than its window of 64 octets, FCS included, may end before its pass or behind it (R116). -/
def State.tailOf (s : State) (p : Pkt) : Bool × State :=
  if p.cls = 3 ∧ 60 < p.octets.length then (decide ((s.choose 2).1 = 1), (s.choose 2).2) else (false, s)

/-- PASS_START: the window is complete and the pass begins (R106). -/
def State.passStart (s : State) (k : Nat) : State :=
  match s.pkt? k with
  | some p =>
    if p.stage = .waitPass ∧ p.doomed = false ∧ p.windowOk then
      if p.pass then s.setPkt k { p with stage := .stepping }
      else (s.tailOf p).2.setPkt k { (s.tailOf p).2.firstPass p with tail := (s.tailOf p).1, ipBad := false }
    else s
  | none => s
def execPassStart (k : Nat) (s : State) : Out := .next (s.when (s.pktClocked k) fun s => s.passStart k)

/-! ## Fetches: R108, R109 -/

/-- A fetch: the value, or the cause that stops the pass. -/
inductive Fetch where
  | val (n : Nat)
  | stop (cause : Nat)

def Pkt.octet (p : Pkt) (o : Nat) : Nat := (p.octets.getD o (Config.padOctet p.octets o)).toNat
/-- Fetch w bits at `shift` of unit o. -/
def Pkt.fetch (p : Pkt) (o shift w : Nat) : Fetch :=
  if p.cls.toNat < 3 then
    if 35 < o then .stop cWindow
    else if 18 ≤ o ∧ hdrLength (p.flits.headD 0) = 0 then .stop cLength
    else .val ((fword (p.flits.getD (o / 18) 0) (o % 18)).toNat / 2 ^ shift % 2 ^ w)
  else
    let last := if 8 ≤ shift then o else o + 1
    if 63 < last then .stop cWindow
    else if p.octets.length ≤ last then .stop cLength
    else .val ((p.octet o * 256 + (if 8 ≤ shift then 0 else p.octet (o + 1))) / 2 ^ shift % 2 ^ w)

/-! ## Steps: R112 to R116, Table 4.3 -/

def sOp (w : BitVec 56) : Nat := ext w 55 52
def sNext (w : BitVec 56) : BitVec 10 := w.extractLsb' 42 10
def sAlt (w : BitVec 56) : BitVec 10 := w.extractLsb' 32 10
def sOffset (w : BitVec 56) : Nat := ext w 31 26
def sShift (w : BitVec 56) : Nat := ext w 25 22
def sWidth (w : BitVec 56) : Nat := ext w 21 18 + 1
def sDseg (w : BitVec 56) : Nat := ext w 17 14
def sImm (w : BitVec 56) : Nat := ext w 13 0
def Pkt.moved (p : Pkt) (n : Nat) : Pkt := { p with cursor := min 4095 (p.cursor + n) }
def Pkt.k (p : Pkt) (i : Nat) : BitVec 16 := SMap.get 0 p.key i
def Pkt.setK (p : Pkt) (i : Nat) (v : BitVec 16) : Pkt := { p with key := SMap.set 0 p.key i v }
/-- The step's own fetch at the cursor. -/
def Pkt.stepFetch (p : Pkt) (w : BitVec 56) (f : Nat → Pkt) : Pkt :=
  match p.fetch (p.cursor + sOffset w) (sShift w) (sWidth w) with
  | .val n => f n
  | .stop c => p.slow c 0

/-- A packet in its pass issues the step at its place, when that step has operation `op`; one step beyond the limit stops
with DEPTH (R113). -/
def State.prsStep (s : State) (k op : Nat) (f : BitVec 56 → Pkt → Pkt) : State :=
  match s.pkt? k with
  | some p =>
    let w := SMap.get 0 (s.prsQ p.q).steps p.step.toNat
    if p.stage = .stepping ∧ p.doomed = false ∧ sOp w = op ∧ s.clocked (3 + p.q) then
      s.setPkt k (if p.limit ≤ p.issued then p.slow cDepth 0 else f w { p with issued := p.issued + 1 })
    else s
  | none => s

/-- END: rule matching begins. -/
def execPrsEnd (k : Nat) (s : State) : Out := .next (s.prsStep k 0 fun _ p => { p with stage := .matching })
/-- EXTRACT. -/
def execPrsExtract (k : Nat) (s : State) : Out :=
  .next (s.prsStep k 1 fun w p => p.stepFetch w fun n =>
    { p.setK (sDseg w) (ins (p.k (sDseg w)) (sImm w % 16 + sWidth w - 1) (sImm w % 16) n) with step := sNext w })
/-- MATCH. -/
def execPrsMatch (k : Nat) (s : State) : Out :=
  .next (s.prsStep k 2 fun w p => p.stepFetch w fun n => { p with step := if n = sImm w then sNext w else sAlt w })
/-- ADVANCE. -/
def execPrsAdvance (k : Nat) (s : State) : Out :=
  .next (s.prsStep k 3 fun w p =>
    if sImm w / 2 ^ 13 = 1 then
      p.stepFetch w fun n => { p.moved (sImm w % 64 + n * 2 ^ (sImm w / 2 ^ 6 % 8)) with step := sNext w }
    else { p.moved (sImm w % 64) with step := sNext w })
/-- SET. -/
def execPrsSet (k : Nat) (s : State) : Out :=
  .next (s.prsStep k 4 fun w p => { p.setK (sDseg w) (BitVec.ofNat 16 (sImm w)) with step := sNext w })

/-- The ETYPE entry of quadrant q with a value; the lowest-numbered of several (R112; DESIGN CHOICE, notes/assumptions/18.md). -/
def State.etypeHit (s : State) (q v : Nat) : Option (BitVec 10) :=
  ((List.range 16).map fun i => s.reg (prsOff q (0x240 + 4 * i))).findSome? fun e =>
    if bit e 27 ∧ ext e 15 0 = v then some (BitVec.ofNat 10 (ext e 25 16)) else none
/-- ETYPE. -/
def State.etypeStep (s : State) (w : BitVec 56) (p : Pkt) : Pkt :=
  if p.cls.toNat < 3 then p.slow cMalformed 0
  else match p.fetch (p.cursor + sOffset w) 0 16 with
    | .stop c => p.slow c 0
    | .val n =>
      let p := p.setK (sDseg w) (BitVec.ofNat 16 n)
      match s.etypeHit p.q n with
      | some t => { p.moved (sOffset w + 2) with step := t }
      | none => p.slow cEthertype 0
/-- ETYPE. -/
def execPrsEtype (k : Nat) (s : State) : Out := .next (s.prsStep k 5 s.etypeStep)

/-- The IP length check (R116): T against the frame length. -/
def Pkt.ipLength (p : Pkt) (t : Nat) : Bool :=
  let l := p.octets.length
  decide (t ≤ l) && (decide (l ≤ 60) || decide (l ≤ t))
/-- The IP length check ends the pass with LENGTH when it fails; that of a frame whose end is still to come is made then (R116). -/
def Pkt.ipChecked (p : Pkt) (t : Nat) (next : Pkt) : Pkt :=
  if p.ipLength t then next else if p.tail then { next with ipBad := true } else p.slow cLength 0
/-- n octets of an IP header lie in the window. R116 has no other check of a shorter frame: the octets behind its end are free values
(notes/assumptions/18.md). -/
def Pkt.ipFetch (p : Pkt) (n : Nat) : Option Nat := if 64 < p.cursor + n then some cWindow else none
/-- IPV4 (R116). -/
def ipv4Step (w : BitVec 56) (p : Pkt) : Pkt :=
  let c := p.cursor
  let o (i : Nat) : Nat := p.octet (c + i)
  if p.cls.toNat < 3 then p.slow cMalformed 0
  else match p.ipFetch 20 with
    | some cause => p.slow cause 0
    | none =>
      if o 0 / 16 ≠ 4 then p.slow cMalformed 0
      else if o 0 % 16 < 5 then p.slow cLength 0
      else if 5 < o 0 % 16 then p.slow cOptions 0
      else if (o 6 * 256 + o 7) % 2 ^ 14 ≠ 0 then p.slow cFragment 0
      else p.ipChecked (c + o 2 * 256 + o 3) { p.moved 20 with step := sNext w }
/-- IPV4. -/
def execPrsIpv4 (k : Nat) (s : State) : Out := .next (s.prsStep k 6 ipv4Step)
/-- IPV6 (R116). -/
def ipv6Step (w : BitVec 56) (p : Pkt) : Pkt :=
  let c := p.cursor
  let o (i : Nat) : Nat := p.octet (c + i)
  if p.cls.toNat < 3 then p.slow cMalformed 0
  else match p.ipFetch 40 with
    | some cause => p.slow cause 0
    | none =>
      if o 0 / 16 ≠ 6 then p.slow cMalformed 0
      else if o 6 = 44 then p.slow cFragment 0
      else if o 6 = 0 then p.slow cOptions 0
      else p.ipChecked (c + 40 + o 4 * 256 + o 5) { p.moved 40 with step := sNext w }
/-- IPV6. -/
def execPrsIpv6 (k : Nat) (s : State) : Out := .next (s.prsStep k 7 ipv6Step)
/-- STOP. -/
def execPrsStop (k : Nat) (s : State) : Out := .next (s.prsStep k 8 fun w p => p.slow cTrap (sImm w % 256))

/-! ## Rules: R117 to R124 -/

/-- Meta fields of a packet, laid out as RULE_META_VAL. -/
def Pkt.meta (p : Pkt) : Pair :=
  BitVec.ofNat 28 (p.cls.toNat + 8 * p.port.val + 2 ^ 8 * (p.slice.getD 0).toNat + 2 ^ 14 * b2n p.pass)
/-- A valid entry matches the packet's key. -/
def Rule.matches (r : Rule) (p : Pkt) : Bool :=
  bit r.metaVal 27 && decide ((p.meta ^^^ r.metaVal) &&& r.metaMsk &&& bits 14 0 = 0) &&
    (List.range 12).all fun i => decide ((p.k i ^^^ SMap.get 0 r.vals i) &&& SMap.get 0 r.msks i = 0)
/-- The lowest-numbered matching entry of the packet's bank. -/
def State.ruleHit (s : State) (p : Pkt) : Option Rule :=
  let b := 4096 * b2n (p.bank.getD false)
  (List.find? (fun x : Nat × Rule => decide (b ≤ x.1) && decide (x.1 < b + 4096) && x.2.matches p) (s.prsQ p.q).rules).map (·.2)

/-- Fields of an action (Table 4.5). -/
def aPrimary (a : BitVec 56) : Nat := ext a 1 0
def aDest (a : BitVec 56) : Nat := ext a 3 2
def aMirror (a : BitVec 56) : Bool := bit a 4
def aRecirc (a : BitVec 56) : Bool := bit a 8
def aLearn (a : BitVec 56) : Bool := bit a 27
def aHandler (a : BitVec 56) : BitVec 12 := a.extractLsb' 28 12
def aPortset (a : BitVec 56) : Nat := ext a 45 40

/-- Result of an action without a lookup: an empty port set acts as COPY-TO-PROCESSOR (R122). -/
def State.actionRes (s : State) (p : Pkt) (a : BitVec 56) : PResult :=
  match aPrimary a with
  | 0 => .drop
  | 1 =>
    let ps := s.portset p.q (aPortset a)
    if ps = 0 then .task (aHandler a) 0 0 false else .task (aHandler a) ps (word (aPortset a + 64 + 128)) false
  | _ => .task (aHandler a) 0 0 false

/-- The second pass of a packet (R124). -/
def Pkt.recirc (p : Pkt) (a : BitVec 56) : Pkt :=
  let p := { p with pass := true, stage := .waitPass, step := BitVec.ofNat 10 (ext a 19 10), limit := 24, issued := 0, cursor := 0 }
  if bit a 9 then { p with cls := 4, octets := frameOf p.flits } else p

/-- RULE_MATCH (R118, R121 to R124). A frame whose IP length check fails at its end, behind the match, is stamped LENGTH and no
action is applied (R116). -/
def State.ruleMatch (s : State) (k : Nat) : State :=
  match s.pkt? k with
  | some p =>
    if p.stage = .matching ∧ p.doomed = false then
      if p.ipBad then s.setPkt k (p.slow cLength 0)
      else match s.ruleHit p with
      | none => s.setPkt k (p.slow cMiss 0)
      | some r =>
        let a := r.act
        if aRecirc a then
          if p.pass ∨ (bit a 9 ∧ p.cls ≠ 2) then s.setPkt k (p.slow cRecirc 0)
          else (s.setPkt k (p.recirc a)).count (prsOff p.q 0xB04)
        else
          let p := { p with rule := a, slice := if bit a 20 ∧ 3 ≤ p.cls.toNat ∧ p.replay = false then some (a.extractLsb' 21 6) else p.slice }
          if 3 ≤ p.cls.toNat ∧ s.sliceAllowed p.port (p.slice.getD 0).toNat = false then s.setPkt k (p.slow cSlice 0)
          else if aDest a = 0 ∧ aLearn a = false then s.setPkt k { p with stage := .result, res := some (s.actionRes p a) }
          else s.setPkt k { p with stage := .lookup }
    else s
  | none => s
def execRuleMatch (k : Nat) (s : State) : Out := .next (s.when (s.pktClocked k) fun s => s.ruleMatch k)

/-! ## Lookup and learning: R140 to R146 -/

def Pkt.id48 (p : Pkt) (i : Nat) : Nat := (p.k i).toNat * 2 ^ 32 + (p.k (i + 1)).toNat * 2 ^ 16 + (p.k (i + 2)).toNat
/-- Keys of the destination and of the source. -/
def Pkt.dstKey (p : Pkt) : BitVec 67 :=
  if aDest p.rule = 1 then keyPart (p.slice.getD 0).toNat (ext (p.k 0) 13 0)
  else keyMac (p.slice.getD 0).toNat (ext (p.k 6) 11 0) (p.id48 0)
def Pkt.srcKey (p : Pkt) : BitVec 67 :=
  if p.cls.toNat < 3 then keyPart (p.slice.getD 0).toNat (ext (p.k 3) 13 0)
  else keyMac (p.slice.getD 0).toNat (ext (p.k 6) 11 0) (p.id48 3)

/-- Ports of a destination: the ingress port leaves a MAC set (R141); the result and whether it was filtered. -/
def Pkt.destRes (p : Pkt) (ps : BitVec 32) (k6 : Word) : PResult × Bool :=
  if ps = 0 then (.task (aHandler p.rule) 0 0 false, false)
  else
    let qs := if aDest p.rule = 2 then ps &&& ~~~(BitVec.ofNat 32 (2 ^ p.port.val)) else ps
    if qs = 0 then (.drop, true) else (.task (aHandler p.rule) qs k6 false, false)

/-- The destination search of a packet (R141, R142). -/
def State.destLookup (s : State) (p : Pkt) : PResult × State :=
  let q := p.q
  let s := s.fwdCount q 0
  let fin (s : State) (r : PResult × Bool) : PResult × State := (r.1, if r.2 then s.fwdCount q 4 else s)
  match s.fwdFind q p.dstKey with
  | some x =>
    let e := s.fent q x
    let s := s.fwdCount q 1
    let s := if e.kind ≠ 0 ∧ s.fld ⟨fwdOff q 0x28, 14, 14⟩ = 1 then s.setFent q x { e with ts := s.ageNow q } else s
    if e.dkind then fin s (p.destRes (s.portset q e.dest.toNat) (word (e.dest.toNat + 64 + 128)))
    else fin s (p.destRes (BitVec.ofNat 32 (2 ^ (e.dest.toNat % 32))) (word (e.dest.toNat % 32 + 128)))
  | none =>
    let s := s.fwdCount q 2
    let f := s.reg (fwdOff q (0x200 + 4 * (p.slice.getD 0).toNat))
    if aDest p.rule = 2 ∧ bit f 6 then
      fin (s.fwdCount q 3) (p.destRes (s.portset q (ext f 5 0)) (word (ext f 5 0 + 64 + 128)))
    else (.task (aHandler p.rule) 0 0 true, s)

/-- FORWARD_LOOKUP: destination search and, with LEARN, the learning check, which the packet's link check precedes
(R140 to R146). -/
def State.forwardLookup (s : State) (k : Nat) : State :=
  match s.pkt? k with
  | some p =>
    if p.stage = .lookup ∧ p.doomed = false ∧ (aLearn p.rule = false ∨ p.link = .passed) then
      let r := if aPrimary p.rule = 1 ∧ aDest p.rule ≠ 0 then s.destLookup p else (s.actionRes p p.rule, s)
      let l := if aLearn p.rule then r.2.learn p.q p.port p.srcKey else (.pass, r.2)
      l.2.setPkt k { p with stage := .result, res := some (if l.1 = .drop then .drop else r.1) }
    else s
  | none => s
def execForwardLookup (k : Nat) (s : State) : Out := .next (s.when (s.pktClocked k) fun s => s.forwardLookup k)

/-! ## Release: R110, R122, R123, R128 to R130, R164 -/

/-- The quadrant where the packet's task is created (R17, R374): its own when the slice holds a share there, else the pick
of this epoch, which a slice that had no candidate at the start of the epoch makes with its first packet. -/
def State.movePick (s : State) (q i : Nat) : Nat × State :=
  if s.hasShare i q then (q, s)
  else match (s.slice i).pick with
    | some r => (r.val, s)
    | none => match s.pickQuad i with
      | some r => (r.val, s.modSlice i fun x => { x with pick := some r })
      | none => (q, s)

/-- Move the packet to the wave buffer of quadrant r. -/
def State.movePkt (s : State) (k r : Nat) : State :=
  match s.pkt? k with
  | some p => s.placePkt k p r
  | none => s

/-- Outputs that classification promises for a wave, with their deadlines (R56, R65); a port that the ingress port does not
feed is UNFED (R60). DESIGN CHOICE, notes/assumptions/18.md: UNFED is declared at the release of the result, before the link
check of the wave; R60 does not say when. -/
def State.promise (s : State) (k : Nat) (p : Pkt) (ports : BitVec 32) : State :=
  s.each (portList ports) fun s o =>
    let (n, s) := s.newId
    let e : EOut := { port := o, xseq := p.xseq, inPort := BitVec.ofNat 5 p.port.val, epoch := p.epoch, replay := p.replay,
                      dl := s.egressDl p.due o (hdrLength (p.flits.headD 0) + 1), slice := p.slice.getD 0, pkt := some k,
                      expect := true }
    if s.unfed e then (s.setEOut n { e with bad := true }).outOverrun 9 e else s.setEOut n e

/-- A task result is released (R164). -/
def State.releaseTask (s : State) (k : Nat) (p : Pkt) (handler : BitVec 12) (ports : BitVec 32) (k6 : Word) (miss : Bool) : State :=
  let i := (p.slice.getD 0).toNat
  let (r, s) := s.movePick p.q i
  let s := if r = p.q then s else s.movePkt k r
  let s := if p.cls = 0 then s.promise k p ports else s
  s.addReq r (if r = p.q then p.port.val % 8 else 8)
    { pkt := some k, slice := BitVec.ofNat 6 i, handler := handler, src := if p.cls = 0 then 0 else 1, ports := ports, k6 := k6,
      miss := miss, cause := 0, trap := 0 }

/-- Level of the bucket of a cause, in 1/16 token; full at reset (R129). -/
def State.bucket (s : State) (q c : Nat) : Nat :=
  (SMap.find? (s.prsQ q).buckets c).getD (16 * s.fld ⟨prsOff q (0xA00 + 4 * c), 23, 12⟩)
def State.setBucket (s : State) (q c n : Nat) : State :=
  s.modPrs q fun x => { x with buckets := SMap.put c n x.buckets }

/-- A slow-path result is released (R129, R130): its task, of slice 0, or the packet is gone. The wave buffer goes on holding the packet
for the slice that it has been stamped with (R32). -/
def State.releaseSlow (s : State) (k : Nat) (p : Pkt) (cause : BitVec 4) (trap : BitVec 8) : State :=
  let q := p.q
  let c := cause.toNat
  if 16 ≤ s.bucket q c then
    let s := (s.setBucket q c (s.bucket q c - 16)).count (prsOff q (0xA80 + 4 * c))
    (s.modPkt k fun p => { p with slice := p.slice.orElse fun _ => some 0 }).addReq q 9
      { pkt := some k, slice := 0, handler := BitVec.ofNat 12 (s.fld ⟨prsOff q (0xA40 + 4 * c), 11, 0⟩), src := 2, ports := 0,
        k6 := 0, miss := false, cause := cause, trap := trap }
  else (s.count (prsOff q (0xAC0 + 4 * c))).forgetPkt k

/-- Mirror copies that wait on a port, and on the ring queue of quadrant q. -/
def State.mirrorsAt (s : State) (p : Nat) : Nat :=
  (s.eouts.filter fun o => o.2.mirror && decide (o.2.port.val = p)).length
def State.mirrorsRing (s : State) (q : Nat) : Nat := (s.offers.filter fun o => decide (o.src.val = 8 + q)).length

/-- The mirror copy of a packet (R123, R298). -/
def State.mirrorCopy (s : State) (p : Pkt) : State :=
  let q := p.q
  let m := s.reg (prsOff q (0x280 + 4 * ext p.rule 7 5))
  let lost (s : State) : State := s.count (prsOff q 0xB0C)
  if bit m 27 = false then lost s
  else if bit m 0 then
    if 64 ≤ s.mirrorsRing q then lost s
    else
      let i := (p.slice.getD 0).toNat
      let e : Pair := if p.cls = 0 then hdrEpoch (p.flits.headD 0) else lo28 s.epc.epoch
      let o : Offer := { ring := BitVec.ofNat 8 (ext m 13 6), src := ⟨8 + q % 4, by omega⟩, rtype := 2,
                         slice := BitVec.ofNat 6 i, system := true, epoch := s.epc.epoch - (lo28 s.epc.epoch - e).setWidth 56,
                         ref := 0, change := false, cmd := none,
                         words := rawRecord p.cls.toNat p.port.val i e p.flits p.octets }
      { s with offers := s.offers ++ [o] }
  else if 64 ≤ s.mirrorsAt (ext m 5 1) then lost s
  else
    let (n, s) := s.newId
    let o : EOut := { port := ⟨ext m 5 1 % 32, Nat.mod_lt _ (by decide)⟩, flits := p.flits, octets := p.octets, released := true,
                      kind := if p.cls = 3 then .frame else if p.cls = 2 ∨ p.cls = 4 then .tunnel else .msg,
                      slice := p.slice.getD 0, mirror := true }
    s.setEOut n o

/-- The oldest packet of port p whose result has not been released. -/
def State.oldest (s : State) (p : Nat) : Option (Nat × Pkt) :=
  List.find? (fun x : Nat × Pkt => decide (x.2.port.val = p) && decide (x.2.stage ≠ .released) && x.2.alive) (replayFirst s.pkts)

/-- A drop and a mirror copy come after the link check or the FCS. -/
def Pkt.mayRelease (p : Pkt) : Bool :=
  decide (p.stage = .result) && (decide (p.link = .passed) || (!aMirror p.rule && decide (p.res ≠ some .drop)))

/-- An earlier result of port p still waits for a slot (R166). -/
def State.portWaits (s : State) (p : Nat) : Bool :=
  (List.range 4).any fun q => (s.dspQ q).reqs.any fun x => x.2.any fun r => (r.pkt.bind s.pkt?).any fun k => decide (k.port.val = p)

/-- A task result that must move to another quadrant has room in the wave buffer there (R17). -/
def State.moveRoom (s : State) (p : Pkt) : Bool :=
  match p.res with
  | some (.task _ _ _ _) =>
    let r := (s.movePick p.q (p.slice.getD 0).toNat).1
    decide (r = p.q) || s.waveRoom r p.size
  | _ => true

/-- RESULT_RELEASE: the oldest result of the port, behind which later ones wait, as it waits behind an earlier one without a
slot (R110, R166). -/
def State.resultRelease (s : State) (port : Nat) : State :=
  match s.oldest port with
  | some (k, p) =>
    if p.mayRelease ∧ s.portWaits port = false ∧ s.moveRoom p then
      let q := p.q
      let s := (s.modPkt k fun p => { p with stage := .released }).count (prsOff q 0xB00)
      match p.res with
      | some (.slow c t) => s.releaseSlow k p c t
      | some .drop =>
        let s := if aMirror p.rule then s.mirrorCopy p else s
        (s.count (prsOff q 0xB08)).endPkt k
      | some (.task h ports k6 miss) =>
        let s := if aMirror p.rule then s.mirrorCopy p else s
        s.releaseTask k p h ports k6 miss
      | none => s
    else s
  | none => s
def execResultRelease (p : Fin 32) (s : State) : Out := .next (s.when (s.portClocked p.val) fun s => s.resultRelease p.val)

/-- BUCKET_REFILL: every 1,600 CCLK every bucket of a clocked quadrant rises by RATE, up to BURST × 16 (R129, R414). -/
def State.bucketRefill (s : State) : State :=
  s.each ([0, 1, 2, 3].filter fun q => s.clocked (3 + q)) fun s q => s.each ((List.range 13).map (· + 1)) fun s c =>
    s.setBucket q c (min (16 * s.fld ⟨prsOff q (0xA00 + 4 * c), 23, 12⟩)
      (s.bucket q c + s.fld ⟨prsOff q (0xA00 + 4 * c), 11, 0⟩))
def execBucketRefill (s : State) : Out := .next (s.strobe .bucket 1600 s.cclk State.bucketRefill)

/-- SP_RATE_WRITE: the bucket is full (R129). -/
def State.spRateWrite (s : State) (q c : Nat) (v : Pair) : State :=
  (s.setReg (prsOff q (0xA00 + 4 * c)) (v &&& bits 23 0)).setBucket q c (16 * ext v 23 12)
def execSpRateWrite (q : Fin 4) (k : Fin 16) (v : Pair) (s : State) : Out :=
  .next (s.when (decide (1 ≤ k.val) && decide (k.val ≤ 13)) fun s => s.regRow (prsOff q (0xA00 + 4 * k)) v fun s => s.spRateWrite q.val k.val v)

/-! ## RULE_CMD and STEP_CMD: R115, R120, R121 -/

/-- The rule staged. -/
def State.stagedRule (s : State) (q : Nat) : Rule :=
  { vals := (List.range 12).foldl (fun m i => SMap.set 0 m i ((s.reg (prsOff q (0x40 + 4 * i))).extractLsb' 0 16)) [],
    msks := (List.range 12).foldl (fun m i => SMap.set 0 m i ((s.reg (prsOff q (0x80 + 4 * i))).extractLsb' 0 16)) [],
    metaVal := s.reg (prsOff q 0x18), metaMsk := s.reg (prsOff q 0x1C),
    act := (s.reg (prsOff q 0x24)).setWidth 28 ++ s.reg (prsOff q 0x20) }
/-- Stage a rule. -/
def State.stageRule (s : State) (q : Nat) (r : Rule) : State :=
  let s := s.each (List.range 12) fun s i =>
    (s.setReg (prsOff q (0x40 + 4 * i)) ((SMap.get 0 r.vals i).setWidth 28)).setReg (prsOff q (0x80 + 4 * i))
      ((SMap.get 0 r.msks i).setWidth 28)
  (((s.setReg (prsOff q 0x18) r.metaVal).setReg (prsOff q 0x1C) r.metaMsk).setReg (prsOff q 0x20) (r.act.extractLsb' 0 28)).setReg
    (prsOff q 0x24) (r.act.extractLsb' 28 28)

/-- COMBO of a rule (R121). -/
def ruleCombo (a : BitVec 56) : Bool :=
  decide (aPrimary a = 3) || decide (aDest a = 3) || (decide (aDest a ≠ 0) && decide (aPrimary a ≠ 1)) ||
    (decide (aPortset a ≠ 0) && decide (aDest a ≠ 0)) || (decide (aHandler a ≠ 0) && decide (aPrimary a = 0)) ||
    (decide (ext a 7 5 ≠ 0) && !aMirror a) || (decide (ext a 26 21 ≠ 0) && !bit a 20) ||
    (decide (ext a 19 9 ≠ 0) && !aRecirc a) ||
    (aRecirc a && (decide (ext a 7 0 ≠ 0) || aLearn a || decide (ext a 45 28 ≠ 0)))

def State.ruleStatus (s : State) (q c : Nat) : State := s.setFld ⟨prsOff q 0x14, 2, 0⟩ c
/-- A write of RULE_CMD (R120). -/
def State.ruleCmd (s : State) (q : Nat) (v : Pair) : State :=
  let s := s.setReg (prsOff q 0x10) (v &&& bits 14 0)
  let b := bit v 12
  let i := 4096 * b2n b + ext v 11 0
  if ext v 27 15 ≠ 0 ∨ ext v 14 13 = 3 then s.ruleStatus q 2
  else match ext v 14 13 with
    | 0 => (s.stageRule q (SMap.get {} (s.prsQ q).rules i)).ruleStatus q 0
    | 1 =>
      let r := s.stagedRule q
      if ruleCombo r.act then s.ruleStatus q 3
      else if s.bankState q b = 2 then s.ruleStatus q 4
      else (s.modPrs q fun x => { x with rules := SMap.set {} x.rules i r }).ruleStatus q 0
    | _ =>
      if s.bankState q b = 2 then s.ruleStatus q 4
      else (s.modPrs q fun x => { x with rules := SMap.modify {} x.rules i fun r => { r with metaVal := ins r.metaVal 27 27 0 } }
        ).ruleStatus q 0
/-- A write of RULE_CMD with operation `op`; READ also stands for the reserved operation. -/
def State.ruleRow (s : State) (op q : Nat) (v : Pair) : State :=
  s.when (decide (ext v 14 13 = op) || (decide (op = 0) && decide (ext v 14 13 = 3))) fun s => s.regRow (prsOff q 0x10) v fun s => s.ruleCmd q v
/-- RULE_READ (R120). -/
def execRuleRead (q : Fin 4) (v : Pair) (s : State) : Out := .next (s.ruleRow 0 q.val v)
/-- RULE_WRITE (R120, R121). -/
def execRuleWrite (q : Fin 4) (v : Pair) (s : State) : Out := .next (s.ruleRow 1 q.val v)
/-- RULE_INVALIDATE (R120). -/
def execRuleInvalidate (q : Fin 4) (v : Pair) (s : State) : Out := .next (s.ruleRow 2 q.val v)

/-- Bits of a step that its operation uses (Table 4.3). -/
def stepUsed (op : Nat) (branch : Bool) : Nat :=
  let m (hi lo : Nat) : Nat := 2 ^ (hi + 1) - 2 ^ lo
  let fetch := m 31 26 + m 25 22 + m 21 18
  match op with
  | 0 => 0
  | 1 => fetch + m 17 14 + m 3 0 + m 51 42
  | 2 => fetch + m 13 0 + m 51 42 + m 41 32
  | 3 => m 5 0 + m 13 13 + m 51 42 + (if branch then fetch + m 8 6 else 0)
  | 4 => m 17 14 + m 13 0 + m 51 42
  | 5 => m 31 26 + m 17 14
  | 6 => m 51 42
  | 7 => m 51 42
  | _ => m 7 0
/-- Status of a step (Table 4.7): RSVD 2 for a bit that its operation does not use, COMBO 3. DESIGN CHOICE,
notes/assumptions/18.md: for a step that is wrong in both ways a reserved OP is tested first, then RSVD, then the rest of COMBO;
R115 gives no order. -/
def stepCode (w : BitVec 56) : Nat :=
  let op := sOp w
  if 9 ≤ op then 3
  else
    let used := stepUsed op (bit w 13) + (2 ^ 56 - 2 ^ 52)
    if w &&& ~~~(BitVec.ofNat 56 used) ≠ 0 then 2
    else
      let fetches := decide (op = 1) || decide (op = 2) || (decide (op = 3) && bit w 13)
      let seg := decide (op = 1) || decide (op = 4) || decide (op = 5)
      if (seg ∧ 11 < sDseg w) ∨ (op = 1 ∧ 16 < sImm w % 16 + sWidth w) ∨ (fetches ∧ 16 < sShift w + sWidth w) ∨
          (op = 2 ∧ 14 < sWidth w) then 3
      else 0

def State.stepStatus (s : State) (q c : Nat) : State := s.setFld ⟨prsOff q 0x10C, 2, 0⟩ c
/-- A write of STEP_CMD (R115). -/
def State.stepCmd (s : State) (q : Nat) (v : Pair) : State :=
  let s := s.setReg (prsOff q 0x108) (v &&& bits 10 0)
  let i := ext v 9 0
  if ext v 27 11 ≠ 0 then s.stepStatus q 2
  else if bit v 10 then
    let w : BitVec 56 := s.reg (prsOff q 0x104) ++ s.reg (prsOff q 0x100)
    if stepCode w ≠ 0 then s.stepStatus q (stepCode w)
    else (s.modPrs q fun x => { x with steps := SMap.set 0 x.steps i w }).stepStatus q 0
  else
    let w := SMap.get 0 (s.prsQ q).steps i
    ((s.setReg (prsOff q 0x100) (w.extractLsb' 0 28)).setReg (prsOff q 0x104) (w.extractLsb' 28 28)).stepStatus q 0
/-- STEP_READ (R115). -/
def execStepRead (q : Fin 4) (v : Pair) (s : State) : Out := .next (s.when (!bit v 10) fun s => s.regRow (prsOff q 0x108) v fun s => s.stepCmd q.val v)
/-- STEP_WRITE (R115). -/
def execStepWrite (q : Fin 4) (v : Pair) (s : State) : Out := .next (s.when (bit v 10) fun s => s.regRow (prsOff q 0x108) v fun s => s.stepCmd q.val v)

end Sys2Proof.Machine
end

