-- ==== Sys2Proof/Machine/Lnk.lean ====
section
/-! DEFINITION. Lnk.lean: ports (spec/03): modes, training, the line code, groups and check flits, retry, and the
Ethernet MAC. -/

namespace Sys2Proof.Machine

/-! ## Status and counters: R102, R103 -/

/-- PORT_STATUS.STATE: 0 DISABLED, 1 DETECT, 2 EQ, 3 ALIGN, 4 DESKEW, 5 CONFIRM, 6 UP, 7 RETRAIN, 8 FAIL. -/
def State.lstate (s : State) (p : Nat) : Nat := s.fld ⟨lnk p 4, 3, 0⟩
def State.setLstate (s : State) (p n : Nat) : State := s.setFld ⟨lnk p 4, 3, 0⟩ n
def linkDom (p : Nat) : Nat := 7 + p / 8

/-- Count `n` more events in counter m of port p; 56 bits, saturating (R103). -/
def State.bumpCnt (s : State) (p m n : Nat) : State :=
  s.modPort p fun x => { x with cnt := SMap.modify 0 x.cnt m fun v => BitVec.ofNat 56 (min (v.toNat + n) (2 ^ 56 - 1)) }

/-- An error record of a port (Table 18.3). -/
def State.lnkErr (s : State) (p code cls info : Nat) : State :=
  s.err { src := 2, code := code, cls := cls, unit := p, info := [info] }

/-- Protocol errors, counted and reported (R80, R83, R103). -/
def State.protoErrs (s : State) (p n : Nat) : State :=
  s.each (List.range n) fun s _ => (s.bumpCnt p 5 1).lnkErr p 2 0 0

/-! ## Discards, and what a port forgets: R28, R90, R97 -/

/-- Discard every packet that is not complete (R90, R97). -/
def State.dropIncomplete (s : State) (p : Nat) : State :=
  let ks := (s.port p).incomplete.map (·.1)
  (s.each ks fun s k => s.discardPkt k).modPort p fun x => { x with incomplete := [], openPkt := none, snapOpen := none }

/-- Header groups of the incomplete waves of a port, and of those whose copies have not come (R90, R97). -/
def State.wavesLost (s : State) (p : Nat) : List (BitVec 12) :=
  let x := s.port p
  x.lost ++ ((x.incomplete.filter fun e => (s.pkt? e.1).any fun q => decide (q.cls = 0)).map (·.2.1)).diff x.lost

/-- A failed group, or the groups that a retrain breaks off (R90, R97): R is the group of the oldest incomplete
header; while a replay is awaited it stays what it was. -/
def State.rxFail (s : State) (p : Nat) : State :=
  let x := s.port p
  let lost := s.wavesLost p
  let (r, k) : BitVec 12 × Nat := match x.incomplete with
    | [] => match x.nack with
      | some r => (r, x.skip)
      | none => (x.rxExp, 0)
    | (_, g, i) :: _ => if g = x.rxExp then (g, 0) else (g, i)
  (s.dropIncomplete p).modPort p fun x =>
    { x with rxExp := r, nack := some r, skip := k, lost := lost, rxFlits := [], rxBad := false, proto := 0, ctrl := [] }

/-- The flits of the output's own packet are free once its last output has left (R236). -/
def State.outputGone (s : State) (o : Nat) : State :=
  match s.eout? o with
  | some e => match e.pkt with
    | some k => (s.delEOut o).modPkt k (fun p => { p with uses := p.uses - 1 }) |>.freePkt k
    | none => s.delEOut o
  | none => s

/-- Move flits of the started packet into the egress queue while it has room; the wave buffer frees them with the last one
(R27, R236). -/
def State.feedPort (s : State) (p : Nat) : State :=
  let x := s.port p
  let n := 32 - x.txq.length
  let s := s.modPort p fun x => { x with txq := x.txq ++ x.feed.take n, feed := x.feed.drop n }
  if (s.port p).feed = [] then
    match x.feedOut with
    | some o => (s.modPort p fun x => { x with feedOut := none }).outputGone o
    | none => s
  else s

/-- Output o starts on port p with these flits (R27, R29). -/
def State.startPacket (s : State) (p o : Nat) (fs : List Flit) : State :=
  let s := match s.eout? o with
    | some e => s.setEOut o { e with started := true }
    | none => s
  (s.modPort p fun x => { x with feed := fs, feedOut := some o }).feedPort p

/-- Take the link down (R97): buffers, incomplete packets and started outputs are gone and GSEQ restarts at 0.
Counters stay. -/
def State.linkReset (s : State) (p : Nat) : State :=
  let s := match (s.port p).feedOut with
    | some o => s.outputGone o
    | none => s
  (s.dropIncomplete p).modPort p fun x =>
    { cnt := x.cnt, hi := x.hi, ctrlIn := x.ctrlIn, timeouts := x.timeouts, tsn := x.tsn, prbs := x.prbs, since := x.since }

/-- A measurement of a port begins afresh (R53). -/
def State.clearDelay (s : State) (p : Nat) : State :=
  (s.setReg (epcPort p 8) 0).modEPort p fun e => { e with meas := [], req := none, reqAt := none }

/-- A state of Table 3.8 is entered now. -/
def State.enterLstate (s : State) (p n : Nat) : State := (s.setLstate p n).modPort p fun x => { x with since := s.tick }

/-- A training state is entered, 3 ALIGN, 4 DESKEW or 5 CONFIRM; in RETRAIN the port's state stays (Table 3.8). ALIGN finds its
lanes afresh. -/
def State.enterTs (s : State) (p : Fin 32) (n : Nat) : State :=
  let s := if s.lstate p = 7 then s.modPort p fun x => { x with phase := n } else s.enterLstate p n
  s.modPort p fun x =>
    { x with sent := 0, ack := x.ack && decide (n ≠ 3), txUp := false, rxUp := false,
             lanes := if n = 3 then [] else SMap.mapVals {} (fun l => { l with acks := 0, confirms := 0 }) x.lanes }

/-- The state of training: that of PORT_STATUS, or the one inside RETRAIN. -/
def State.phase (s : State) (p : Nat) : Nat := if s.lstate p = 7 then (s.port p).phase else s.lstate p

/-- PRBS31 starts on every lane at a place that the spec does not give (R96): free, and not the state without a pattern. -/
def State.freePrbs (s : State) (p : Nat) : State :=
  s.each (List.range 4) fun s k =>
    let (v, s) := s.freshVal
    s.modPort p fun x => { x with prbs := SMap.set 0 x.prbs k (v.extractLsb' 0 31 ||| 1) }

/-- Enter DETECT (R53, R96, R97). PARTNER.VALID is 0 in DETECT and DISABLED, and FAIL_CAUSE holds until EN takes the port out of
DISABLED (R102; DESIGN CHOICE, notes/assumptions/18.md). -/
def State.enterDetect (s : State) (p : Nat) : State :=
  let up := decide (s.lstate p = 6) || decide (s.lstate p = 7)
  let back := decide (2 ≤ s.lstate p)
  let lost := (s.wavesLost p).length
  let s := (((s.enterLstate p 1).setFld ⟨lnk p 4, 4, 4⟩ 0).setFld ⟨lnk p 8, 19, 19⟩ 0).clearDelay p
  let s := (s.linkReset p).freePrbs p
  let s := if up then (if s.isEth p then s else s.bumpCnt p 8 1).lnkErr p 3 2 lost else s
  if back then s.fwdLinkDown p else s

/-- Enter RETRAIN from UP (R78, R96, R97). Flits of the unfinished group are sent again in a new group, but for IDLE and timed flits,
of which an ANNOUNCE is sent afresh, and the count of replays of one group begins anew (R91; DESIGN CHOICE, notes/assumptions/18.md).
A codeword that has begun goes on with the retrain requests (R98). -/
def State.enterRetrain (s : State) (p : Fin 32) : State :=
  let s := (s.bumpCnt p 7 1).protoErrs p (s.port p).proto
  let s := (s.rxFail p).modPort p fun x =>
    let timed := x.filling.filter fun f => decide (ftype f = 4) && decide (ckind f < 4)
    { x with
      txUp := false, rxUp := false, blocks := 0, badAt := [], retrainReq := 0, reqLeft := 8, phase := 3, replays := 0,
      replayFrom := none, lastNack := none, replay := [], replayAt := 0, filling := [],
      txq := x.filling.filter (fun f => !(decide (ftype f = 4) && decide (ckind f < 4)) && decide (ftype f ≠ 7)) ++ x.txq,
      fresh := x.fresh ++ ((timed.filter fun f => decide (ckind f = 1)).map fun f => (ctrlStop f, ctrlEpoch f)) }
  ((s.enterLstate p 7).setFld ⟨lnk p 4, 4, 4⟩ 0).enterTs p 3

/-- A port fails to train (Table 3.8, Table 18.3). -/
def State.trainFail (s : State) (p cause : Nat) : State :=
  let s := (((s.enterLstate p 8).setFld ⟨lnk p 4, 4, 4⟩ 0).setFld ⟨lnk p 4, 12, 10⟩ cause).linkReset p
  (s.modPort p fun x => { x with timeouts := 0 }).lnkErr p 4 2 cause

/-! ## Register writes: R72, R96, R103 -/

/-- PORT_ENABLE: EN 1 takes DISABLED to DETECT. -/
def State.portEnable (s : State) (p : Nat) : State :=
  let s := s.setFld ⟨lnk p 0, 0, 0⟩ 1
  if s.lstate p = 0 then (s.setFld ⟨lnk p 4, 12, 10⟩ 0).enterDetect p else s
def execPortEnable (p : Fin 32) (s : State) : Out :=
  .next (s.regRow (lnk p 0) (s.reg (lnk p 0) ||| 1) fun s => s.portEnable p)

/-- PORT_DISABLE: EN 0 takes every state to DISABLED; what R97 says of a link that goes down holds. -/
def State.portDisable (s : State) (p : Nat) : State :=
  let s := s.setFld ⟨lnk p 0, 0, 0⟩ 0
  if s.lstate p = 0 then s
  else
    let s := ((s.enterLstate p 0).setFld ⟨lnk p 4, 4, 4⟩ 0).setFld ⟨lnk p 8, 19, 19⟩ 0
    (s.linkReset p).modPort p fun x => { x with timeouts := 0 }
def execPortDisable (p : Fin 32) (s : State) : Out :=
  .next (s.regRow (lnk p 0) (s.reg (lnk p 0) &&& bits 13 1) fun s => s.portDisable p)

/-- MODE_WRITE: refused for a reserved value, and for an Ethernet mode but on ports 8q and 8q+1 (R72); a locked
quadrant ignores it (R9). On a port that is not DISABLED it changes the field alone, as a write of RATE does: state, buffers and lanes
stay (DESIGN CHOICE, notes/assumptions/18.md). -/
def State.modeWrite (s : State) (p mode : Nat) : State :=
  if s.fld ⟨0x480000 + p / 8 * 0x100000, 0, 0⟩ = 1 then s
  else if 6 ≤ mode ∨ (2 ≤ mode ∧ 2 ≤ p % 8) then s.setFld ⟨lnk p 4, 13, 13⟩ 1
  else s.setFld ⟨lnk p 0, 3, 1⟩ mode
def execModeWrite (p : Fin 32) (mode : BitVec 3) (s : State) : Out :=
  .next (s.regRow (lnk p 0) (ins (s.reg (lnk p 0)) 3 1 mode.toNat) fun s => s.modeWrite p mode.toNat)

/-- RETRAIN: from UP into RETRAIN (R96); Rinek modes. -/
def State.retrainCmd (s : State) (p : Fin 32) : State := if s.lstate p = 6 ∧ ¬ s.isEth p then s.enterRetrain p else s
def execRetrain (p : Fin 32) (s : State) : Out :=
  .next (s.regRow (lnk p 0) (s.reg (lnk p 0) ||| bits 14 14) fun s => s.retrainCmd p)

/-- CLR_CNT: every counter of the port becomes 0 (R103). -/
def State.clrCnt (s : State) (p : Nat) : State := s.modPort p fun x => { x with cnt := [] }
def execClrCnt (p : Fin 32) (s : State) : Out :=
  .next (s.regRow (lnk p 0) (s.reg (lnk p 0) ||| bits 15 15) fun s => s.clrCnt p)

/-! ## Training: R94 to R97 -/

/-- SIGNAL_DETECT: a LINK domain that is not ON gets Glint LINK-DETECT (Table 16.5); else DETECT becomes EQ. -/
def State.signalDetect (s : State) (p : Nat) : State :=
  if ¬ s.domOn (linkDom p) then s.fireGlint 5 (linkDom p) 0 false
  else if s.lstate p = 1 then s.enterLstate p 2
  else s
def execSignalDetect (p : Fin 32) (s : State) : Out := .next (s.signalDetect p)

/-- The port has been in its state of Table 3.8 for `n` ms. -/
def State.inStateMs (s : State) (p n : Nat) : Bool := decide (400000 * n ≤ s.since (s.port p).since)

/-- EQ_COMPLETE: after 1 ms EQ becomes ALIGN (Rinek modes). -/
def State.eqComplete (s : State) (p : Fin 32) : State :=
  if s.lstate p = 2 ∧ ¬ s.isEth p ∧ s.inStateMs p 1 then s.enterTs p 3 else s
def execEqComplete (p : Fin 32) (s : State) : Out := .next (s.eqComplete p)

/-- One bit of a CRC-8 with polynomial 0x07, and of the CRC-32 of R86. -/
def crc8Bit (c : Nat) (b : Bool) : Nat :=
  let top := (decide (128 ≤ c)) ^^ b
  Nat.xor (c * 2 % 256) (if top then 0x07 else 0)
def crc32Bit (c : Nat) (b : Bool) : Nat :=
  let top := (decide (2 ^ 31 ≤ c)) ^^ b
  Nat.xor (c * 2 % 2 ^ 32) (if top then 0x1EDC6F41 else 0)
/-- CHECK of a training sequence (R94). -/
def tsCheck (t : BitVec 64) : Nat := (List.range 56).foldl (fun c i => crc8Bit c (t.getLsbD i)) 0

def tsLane (t : BitVec 64) : BitVec 2 := t.extractLsb' 16 2
def tsState (t : BitVec 64) : Nat := ext t 25 23
def tsNum (t : BitVec 64) : BitVec 8 := t.extractLsb' 44 8
/-- The 64 bits hold a good training sequence (R95). -/
def tsGood (t : BitVec 64) : Bool :=
  decide (ext t 15 0 = 0x4B3E) && decide (ext t 63 56 = tsCheck t) && decide (1 ≤ tsState t) && decide (tsState t ≤ 4)

/-- Take 64 bits on a lane, the first of which arrives at UI `ui` (R95): an unlocked lane locks after eight good ones at 64-bit
spacing, and finds its inversion. Consecutive TS with ACK 1, and CONFIRM or START TS, are counted (R96). -/
def Lane.take (l : Lane) (raw : BitVec 64) (ui : Nat) : Lane × BitVec 64 :=
  let inv := if l.locked then l.inv else decide (ext raw 15 0 = 0xB4C1)
  let t := if inv then ~~~ raw else raw
  let follows := decide (ui = l.ui + 64)
  if tsGood t then
    let n := if l.inv = inv ∧ follows then l.good + 1 else 1
    ({ l with good := n, ui := ui, inv := inv, locked := l.locked || decide (8 ≤ n), lane := if l.locked then l.lane else tsLane t,
              tsn := tsNum t, start := if tsState t = 4 then some (tsNum t) else l.start,
              acks := if bit t 29 then (if follows then l.acks + 1 else 1) else 0,
              confirms := if 3 ≤ tsState t then l.confirms + 1 else l.confirms }, t)
  else ({ l with good := 0, acks := 0 }, t)

def State.lane (s : State) (p k : Nat) : Lane := SMap.get {} (s.port p).lanes k
def State.laneAll (s : State) (p : Nat) (f : Fin 4 → Lane → Bool) : Bool := (List.finRange 4).all fun k => f k (s.lane p k)

/-- The checks that end ALIGN (R95, Table 3.8). -/
def State.alignChecks (s : State) (p : Fin 32) (t : BitVec 64) : State :=
  let straight := s.laneAll p fun k l => decide (l.lane.toNat = k.val)
  let rev := s.laneAll p fun k l => decide (l.lane.toNat = 3 - k.val)
  if ¬ straight ∧ ¬ rev then s.trainFail p 2
  else if ext t 27 26 ≠ s.fld ⟨lnk p 0, 5, 4⟩ ∨ (bit t 28) ≠ decide (s.portMode p = 1) then s.trainFail p 3
  else
    let inv := (List.finRange 4).foldl (fun n k => n + (if (s.lane p k.val).inv then 2 ^ k.val else 0)) 0
    let s := (s.setFld ⟨lnk p 4, 5, 5⟩ (b2n rev)).setFld ⟨lnk p 4, 9, 6⟩ inv
    let s := s.setReg (lnk p 8) (BitVec.ofNat 28 (ext t 43 30 + 2 ^ 14 * ext t 22 18 + 2 ^ 19))
    (s.modPort p fun x => { x with timeouts := 0 }).enterTs p 4

/-- The UI at which a lane's TS with TSN 0 begins, modulo 256 training sequences. -/
def Lane.phase (l : Lane) : Nat := (l.ui + 64 * (256 - l.tsn.toNat)) % 16384
/-- How far two lanes lie apart, in UI (R95). -/
def uiApart (a b : Nat) : Nat := min ((a + 16384 - b) % 16384) ((b + 16384 - a) % 16384)
/-- The largest skew between lanes of port p, matched by TSN (R95). -/
def State.skew (s : State) (p : Nat) : Nat :=
  (List.range 4).foldl (fun m j => (List.range j).foldl (fun m k => max m (uiApart (s.lane p j).phase (s.lane p k).phase)) m) 0
/-- The port's own deskew is done: lanes are at most 511 UI apart (R95). -/
def State.deskewed (s : State) (p : Nat) : Bool := decide (s.skew p ≤ 511)

/-- Both directions of a port are up (R96): PORT_STATUS.UP. -/
def State.linkUpdate (s : State) (p : Nat) : State :=
  s.setFld ⟨lnk p 4, 4, 4⟩ (b2n (decide (s.lstate p = 6) && (s.port p).txUp && (s.port p).rxUp))

/-- A replay begins at group g (R90, R91, R97), or, past the limit, a retrain. The group that is being sent again is
finished first. -/
def State.startReplay (s : State) (p : Fin 32) (g : BitVec 12) : State :=
  let x := s.port p
  let n := if x.replayFrom = some g then x.replays + 1 else 1
  if max 1 (s.fld ⟨lnk p 0xC, 15, 12⟩) < n then s.enterRetrain p
  else
    let from' := x.held.dropWhile fun h => decide (h.gseq ≠ g)
    (s.bumpCnt p 4 1).modPort p fun x =>
      { x with replay := (if x.replayAt = 0 then [] else x.replay.take 1) ++ from', replayFrom := some g, replays := n }

/-- CONFIRM is over: one START is sent and the port is UP (R96). After a retrain the first action is a replay (R97). -/
def State.enterUp (s : State) (p : Fin 32) : State :=
  let again := decide (s.lstate p = 7)
  let s := (s.enterLstate p 6).modPort p fun x =>
    { x with txUp := true, txScr := 0x7FFFFFFF#31, txn := 0, fecTx := [], filling := [], replay := [], replayAt := 0 }
  let s := s.linkUpdate p
  match again, (s.port p).held with
  | true, g :: _ => s.startReplay p g.gseq
  | _, _ => s

/-- START has come on all four lanes with one TSN: the receive direction is up (R96). -/
def State.startSeen (s : State) (p : Nat) : State :=
  if (s.lane p 0).start.isSome && s.laneAll p fun _ l => decide (l.start = (s.lane p 0).start) then
    (s.modPort p fun x => { x with rxUp := true, rxScr := 0x7FFFFFFF#31, blocks := 0, badAt := [], retrainReq := 0,
                                   rxFlits := [], rxBad := false, fecRx := [] }).linkUpdate p
  else s

/-- What a good TS does in ALIGN, DESKEW and CONFIRM (Table 3.8): a count holds when every lane has reached it. -/
def State.tsAdvance (s : State) (p : Fin 32) (t : BitVec 64) : State :=
  match s.phase p with
  | 3 => if s.laneAll p (fun _ l => l.locked) ∧ (s.port p).reqLeft = 0 then s.alignChecks p t else s
  | 4 =>
    let s := if s.deskewed p then (s.setFld ⟨lnk p 4, 22, 14⟩ (s.skew p)).modPort p fun x => { x with ack := true } else s
    if (s.port p).ack ∧ s.laneAll p (fun _ l => decide (16 ≤ l.acks)) then s.enterTs p 5 else s
  | 5 => s.startSeen p
  | 6 => s.startSeen p
  | _ => s

/-- TS_RECEIVE: 64 bits of a training sequence on a lane (R94 to R96). -/
def State.tsReceive (s : State) (p : Fin 32) (k : Fin 4) (ts : BitVec 64) (ui : Nat) : State :=
  if s.isEth p ∨ s.phase p < 3 ∨ 6 < s.phase p ∨ (s.port p).rxUp then s
  else
    let r := (s.lane p k).take ts ui
    let s := s.modPort p fun x => { x with lanes := SMap.set {} x.lanes k r.1 }
    if tsGood r.2 ∧ r.1.locked then s.tsAdvance p r.2 else s
def execTsReceive (p : Fin 32) (lane : Fin 4) (ts : TsArrival) (s : State) : Out := .next (s.tsReceive p lane ts.bits ts.ui)

/-- The timeout of a state of Table 3.8, in ms; 0 where it has none. -/
def lstateLimit : Nat → Nat
  | 3 => 2
  | 4 => 1
  | 5 => 1
  | 7 => 4
  | _ => 0

/-- TRAINING_TIMEOUT (Table 3.8). In RETRAIN the limit of 4 ms is the only one: those of the states it runs through do not apply
(DESIGN CHOICE, notes/assumptions/18.md). -/
def State.trainingTimeout (s : State) (p : Fin 32) : State :=
  if s.isEth p ∨ lstateLimit (s.lstate p) = 0 ∨ s.inStateMs p (lstateLimit (s.lstate p)) = false then s
  else match s.lstate p with
    | 3 =>
      let n := (s.port p).timeouts + 1
      let s := s.modPort p fun x => { x with timeouts := n, lanes := [] }
      if 4 ≤ n then s.trainFail p 1 else s.enterLstate p 2
    | 4 => s.enterTs p 3
    | 5 => s.enterTs p 3
    | 7 => s.enterDetect p
    | _ => s
def execTrainingTimeout (p : Fin 32) (s : State) : Out := .next (s.trainingTimeout p)

/-- LOSS_OF_SIGNAL: EQ falls back to DETECT (Table 3.8), UP goes to RETRAIN (R78), and an Ethernet port that was up
goes back to DETECT. -/
def State.lossOfSignal (s : State) (p : Fin 32) : State :=
  match s.isEth p, s.lstate p with
  | false, 2 => s.enterDetect p
  | false, 6 => s.enterRetrain p
  | true, 2 => s.enterDetect p
  | true, 6 => s.enterDetect p
  | _, _ => s
def execLossOfSignal (p : Fin 32) (s : State) : Out := .next (s.lossOfSignal p)

/-- Lanes that an Ethernet mode uses (Table 3.1). -/
def State.ethLanes (s : State) (p : Nat) : BitVec 4 := if s.portMode p = 5 then 15 else 1

/-- ETH_LINK_TRAINING: an Ethernet port that trains (state 2) is up, or its link is lost (R101, Table 3.11). Lanes that arrive
inverted train only where RX_INV says so: `inv` is the polarity found on the board. -/
def State.ethLinkTraining (s : State) (p : Nat) (up : Bool) (inv : BitVec 4) : State :=
  let fits := decide ((inv ^^^ BitVec.ofNat 4 (s.fld ⟨lnk p 0, 13, 10⟩)) &&& s.ethLanes p = 0)
  match s.isEth p, up && fits, s.lstate p with
  | true, true, 2 => (s.enterLstate p 6).setFld ⟨lnk p 4, 4, 4⟩ 1
  | true, false, 2 => s.enterDetect p
  | true, false, 6 => s.enterDetect p
  | _, _, _ => s
def execEthLinkTraining (p : Fin 32) (up : Option (BitVec 4)) (s : State) : Out :=
  .next (s.ethLinkTraining p up.isSome (up.getD 0))

/-! ## Line code and check flits: R75, R76, R85, R86, R98 -/

/-- Scramble or descramble a body (R76): the state after it and the body. -/
def scramble (st : BitVec 31) (f : Flit) : BitVec 31 × Flit :=
  (List.range 256).foldl (fun (a : BitVec 31 × Flit) i =>
    let n := (a.1.getLsbD 30) ^^ (a.1.getLsbD 27)
    (a.1 <<< 1 ||| (if n then 1 else 0), a.2 ^^^ (if n then (1 : Flit) <<< i else 0))) (st, f)

/-- The CRC of a group: its 16 flits, then bits 32 to 255 of the check flit (R86). -/
def groupCrc (fs : List Flit) (chk : Flit) : Nat :=
  let c := fs.foldl (fun c f => (List.range 256).foldl (fun c i => crc32Bit c (f.getLsbD i)) c) 0xFFFFFFFF
  Nat.xor ((List.range 224).foldl (fun c i => crc32Bit c (chk.getLsbD (32 + i))) c) 0xFFFFFFFF

def ckGseq (c : Flit) : BitVec 12 := c.extractLsb' 240 12
def ckAck (c : Flit) : BitVec 12 := c.extractLsb' 228 12
def ckAckValid (c : Flit) : Bool := bit c 227
def ckNack (c : Flit) : Bool := bit c 226
def ckNackSeq (c : Flit) : BitVec 12 := c.extractLsb' 214 12
def ckReplay (c : Flit) : Bool := bit c 213

/-- R of R89: the group that the oldest incomplete packet begins in, or the one that is asked for. -/
def Port.oldestGroup (x : Port) : Option (BitVec 12) :=
  match x.nack, x.incomplete with
  | some r, _ => some r
  | none, (_, g, _) :: _ => some g
  | none, [] => none

/-- The check flit of a group sent now (R85, R86, R89, R90). -/
def Port.checkFlit (x : Port) (g : Group) (replay : Bool) : Flit :=
  let ack : BitVec 12 := match x.oldestGroup with
    | some r => r - 1
    | none => x.rxLast.getD 0xFFF#12
  let c : Flit := BitVec.ofNat 256 (6 * 2 ^ 252 + g.gseq.toNat * 2 ^ 240 + ack.toNat * 2 ^ 228
    + b2n x.rxLast.isSome * 2 ^ 227 + b2n x.nack.isSome * 2 ^ 226 + (x.nack.getD 0).toNat * 2 ^ 214 + b2n replay * 2 ^ 213)
  c ||| BitVec.ofNat 256 (groupCrc g.flits c)

/-- TX_INV of lane k. -/
def State.txInv (s : State) (p k : Nat) : Bool := decide (s.fld ⟨lnk p 0, 6 + k, 6 + k⟩ = 1)

/-- Send n stream bits, dealt to the four lanes from stream index `base` modulo 4 on (R77, R95). -/
def State.sendBits (s : State) (p : Fin 32) (base n v : Nat) : State :=
  s.each (List.finRange 4) fun s k =>
    let x := dealLane base n (s.txInv p k) v k
    s.emit (.lane p k x.1 x.2)

/-- Send one block on the port (R75, R77), and after ten blocks in RINEK-F the parity of the codeword (R98). -/
def State.sendBlock (s : State) (p : Fin 32) (sh : BitVec 2) (body : Flit) : State :=
  let b : BitVec 258 := body ++ sh
  let s := (s.sendBits p (2 * (s.port p).txn) 258 b.toNat).modPort p fun x => { x with txn := x.txn + 1 }
  if s.portMode p = 1 then
    let l := (s.port p).fecTx ++ [b]
    if 10 ≤ l.length then (s.sendBits p 0 140 (fecParity l).toNat).modPort p fun x => { x with fecTx := [] }
    else s.modPort p fun x => { x with fecTx := l }
  else s

/-- The training sequence that lane k of port p sends next (Table 3.7). -/
def State.txTs (s : State) (p : Fin 32) (st : Nat) (k : Nat) : BitVec 64 :=
  let t : BitVec 64 := BitVec.ofNat 64 (0x4B3E + k * 2 ^ 16 + p.val * 2 ^ 18 + st * 2 ^ 23 + s.fld ⟨lnk p 0, 5, 4⟩ * 2 ^ 26
    + b2n (decide (s.portMode p = 1)) * 2 ^ 28 + b2n (s.port p).ack * 2 ^ 29 + s.fld ⟨lnk p 0x10, 13, 0⟩ * 2 ^ 30
    + (s.port p).tsn.toNat * 2 ^ 44)
  t ||| BitVec.ofNat 64 (tsCheck t * 2 ^ 56)

/-- Send one training sequence on every lane, with one TSN (R94). -/
def State.sendTs (s : State) (p : Fin 32) (st : Nat) : State :=
  (s.each (List.finRange 4) fun s k =>
    let v := (s.txTs p st k).toNat
    s.emit (.lane p k 64 (if s.txInv p k then 2 ^ 64 - 1 - v else v))).modPort p fun x => { x with tsn := x.tsn + 1 }

/-- 64 bits of PRBS31, and the state after them (R96). -/
def prbs31 (st : BitVec 31) : BitVec 31 × Nat :=
  (List.range 64).foldl (fun (a : BitVec 31 × Nat) i =>
    let n := (a.1.getLsbD 30) ^^ (a.1.getLsbD 27)
    (a.1 <<< 1 ||| (if n then 1 else 0), a.2 + b2n n * 2 ^ i)) (st, 0)

/-- Send 64 bits of PRBS31 on every lane (R96). -/
def State.sendPrbs (s : State) (p : Fin 32) : State :=
  s.each (List.finRange 4) fun s k =>
    let r := prbs31 (SMap.get 0 (s.port p).prbs k)
    (s.emit (.lane p k 64 (if s.txInv p k then 2 ^ 64 - 1 - r.2 else r.2))).modPort p fun x => { x with prbs := SMap.set 0 x.prbs k r.1 }

/-- Send one flit, scrambled (R76). -/
def State.sendFlit (s : State) (p : Fin 32) (f : Flit) : State :=
  let r := scramble (s.port p).txScr f
  (s.modPort p fun x => { x with txScr := r.1 }).sendBlock p 1 r.2

/-! ## Transmission: R85, R88, R90, R91, R93 -/

def idleFlit : Flit := BitVec.ofNat 256 (7 * 2 ^ 252)

/-- REMAIN of an announce that is sent afresh (R93): free where its epoch is not known any more, long after its start
(notes/assumptions/4.md). -/
def State.freshRemain (s : State) (p : Nat) (n : Epoch) : Pair × State := match s.startOf n with
  | some t => s.remainOf p t
  | none => (s.freshVal.1.extractLsb' 0 28, s.freshVal.2)
/-- Fresh announces of a replay that has ended go before anything else, at a packet boundary: the next flit continues no packet
(R93). -/
def State.freshAnnounce (s : State) (p : Nat) : State :=
  if ftype ((s.port p).txq.headD 0) ≠ 5 ∧ s.fatal = 0 then
    (s.each (s.port p).fresh.reverse fun s a =>
      let (r, s) := s.freshRemain p a.2
      s.modPort p fun x => { x with txq := flitAnnounce a.1 a.2 r :: x.txq }).modPort p fun x => { x with fresh := [] }
  else s

/-- Send the next block of a replay: a flit of its first group, or that group's check flit (R88). -/
def State.sendReplay (s : State) (p : Fin 32) (g : Group) : State :=
  let x := s.port p
  if x.replayAt < 16 then
    ((s.sendFlit p (g.flits.getD x.replayAt idleFlit)).bumpCnt p 0 1).modPort p fun x => { x with replayAt := x.replayAt + 1 }
  else
    let ann := (g.flits.filter fun f => decide (ftype f = 4) && decide (ckind f = 1)).map fun f => (ctrlStop f, ctrlEpoch f)
    (s.sendFlit p (x.checkFlit g true)).modPort p fun x =>
      { x with replay := x.replay.tail, replayAt := 0, fresh := x.fresh ++ ann.filter fun a => !x.fresh.contains a,
               held := x.held.map fun h => if h.gseq = g.gseq then { h with sent := s.tick } else h }

/-- Send the next block of a new group (R85): a flit that is due, or IDLE; after sixteen the check flit, and the group
is held. -/
def State.sendNew (s : State) (p : Fin 32) : State :=
  let s := s.freshAnnounce p
  let x := s.port p
  if x.filling.length < 16 then
    let f := x.txq.headD idleFlit
    (((s.sendFlit p f).bumpCnt p 0 1).modPort p fun x => { x with filling := x.filling ++ [f], txq := x.txq.tail }).feedPort p
  else
    let g : Group := { gseq := x.txGseq, flits := x.filling, sent := s.tick }
    (s.sendFlit p (x.checkFlit g false)).modPort p fun x =>
      { x with filling := [], txGseq := x.txGseq + 1, held := x.held ++ [g],
               replay := if x.replay = [] then [] else x.replay ++ [g] }

/-- What a port sends in training: PRBS31 in DETECT and EQ, else training sequences; in CONFIRM, once sixteen have been sent and
every lane has received eight, one START, and the port is UP (Table 3.8). -/
def State.trainTransmit (s : State) (p : Fin 32) : State :=
  match s.phase p with
  | 1 => s.sendPrbs p
  | 2 => s.sendPrbs p
  | 3 => s.sendTs p 1
  | 4 => s.sendTs p 2
  | 5 =>
    if 16 ≤ (s.port p).sent ∧ s.laneAll p (fun _ l => decide (8 ≤ l.confirms)) then (s.sendTs p 4).enterUp p
    else (s.sendTs p 3).modPort p fun x => { x with sent := x.sent + 1 }
  | _ => s

/-- FLIT_TRANSMIT: the port sends its next block (R85, R88, R91), or what its training state sends (R94, R96). With a full retry
buffer a replay takes the place of a new group. -/
def State.flitTransmit (s : State) (p : Fin 32) : State :=
  let x := s.port p
  if s.isEth p then s
  else if s.lstate p = 7 ∧ 0 < x.reqLeft then
    (s.sendBlock p 2 (BitVec.ofNat 256 ((2 ^ 256 - 1) / 15 * 10))).modPort p fun x => { x with reqLeft := x.reqLeft - 1 }
  else if s.lstate p ≠ 6 then s.trainTransmit p
  else match x.filling, x.replay with
    | [], g :: _ => s.sendReplay p g
    | [], [] =>
      if 64 ≤ x.held.length then
        let t := s.startReplay p ((x.held.map (·.gseq)).headD 0)
        match (t.port p).replay with
        | g :: _ => t.sendReplay p g
        | [] => t
      else s.sendNew p
    | _ :: _, _ => s.sendNew p
def execFlitTransmit (p : Fin 32) (s : State) : Out := .next (s.flitTransmit p)

/-- Free held groups up to and including `a` (R89). -/
def State.ackGroups (s : State) (p : Nat) (a : BitVec 12) : State :=
  let x := s.port p
  match x.held with
  | [] => s
  | h :: _ =>
    let n := (a - h.gseq).toNat + 1
    if n ≤ x.held.length then
      let gone := (x.held.take n).map (·.gseq)
      s.modPort p fun x =>
        { x with held := x.held.drop n, replays := 0, replayFrom := none,
                 lastNack := if x.lastNack.any gone.contains then none else x.lastNack,
                 replay := (if x.replayAt = 0 then [] else x.replay.take 1) ++
                   ((if x.replayAt = 0 then x.replay else x.replay.drop 1).filter fun g => !gone.contains g.gseq) }
    else s

/-- The acknowledgement fields of a check flit that passes (R89, R90). A NACK_SEQ that a replay has answered is not answered again
before its group is freed (DESIGN CHOICE, notes/assumptions/18.md); before the port is UP no replay begins, as entry into UP begins one
(R97). -/
def State.ackFields (s : State) (p : Fin 32) (c : Flit) : State :=
  let s := if ckAckValid c then s.ackGroups p (ckAck c) else s
  let x := s.port p
  if ckNack c ∧ s.lstate p = 6 ∧ x.lastNack ≠ some (ckNackSeq c) ∧ (x.held.any fun g => decide (g.gseq = ckNackSeq c)) then
    (s.startReplay p (ckNackSeq c)).modPort p fun x => { x with lastNack := some (ckNackSeq c) }
  else s

/-- REPLAY_TIMEOUT: the oldest held group has been held longer than TIMEOUT, in units of 10 ns, since it was last sent (R91). -/
def State.replayTimeout (s : State) (p : Fin 32) : State :=
  match (s.port p).held with
  | g :: _ =>
    if s.lstate p = 6 ∧ ¬ s.isEth p ∧ (s.port p).replay = [] ∧ 4 * s.fld ⟨lnk p 0xC, 11, 0⟩ < s.since g.sent then s.startReplay p g.gseq
    else s
  | [] => s
def execReplayTimeout (p : Fin 32) (s : State) : Out := .next (s.replayTimeout p)

/-! ## Reception: R78 to R84, R87, R89, R90 -/

/-- A header opens a packet (R79), which waits in the wave buffer unless its queue has to hold it (R26, R105). -/
def State.openPacket (s : State) (p : Fin 32) (g : BitVec 12) (i : Nat) (f : Flit) : State :=
  let (k, s) := s.newId
  let n := hdrLength f
  let q : Pkt := { port := p, cls := BitVec.ofNat 3 (ftype f - 1), flits := [f], missing := n, stage := .waitCtx }
  ((s.setPkt k q).drainPort p).modPort p fun x =>
    { x with incomplete := x.incomplete ++ [(k, g, i)], openPkt := if n = 0 then none else some k }

/-- A payload flit of the open packet; what stands in the wave buffer grows with it. -/
def State.payload (s : State) (p : Nat) (k : Nat) (f : Flit) : State :=
  match s.pkt? k with
  | none => s.modPort p fun x => { x with openPkt := none }
  | some q =>
    let i := q.flits.length
    let q' := { q with flits := q.flits ++ [f], missing := q.missing - 1 }
    let q' := if q.cls = 4 then { q' with octets := frameOf q'.flits } else q'
    let s := s.setPkt k q'
    let s := if 0 < q.len then s.putWords (q.addr.toNat + 18 * i) ((List.range 18).map (fword f)) else s
    if q.missing ≤ 1 then s.modPort p fun x => { x with openPkt := none } else s

/-- A protocol error (R80): counted with the group; the open packet is discarded when the group's check confirms it. -/
def State.protoError (s : State) (p : Nat) : State :=
  let s := match (s.port p).openPkt with
    | some k => s.modPkt k fun q => { q with doomed := true }
    | none => s
  s.modPort p fun x => { x with openPkt := none, proto := x.proto + 1 }

/-- One flit at place i of group g (R79, R80, R83). A CHECK flit at one of the sixteen places is no flit that may come there: it
counts as a protocol error and spoils the open packet. An IDLE with a nonzero body where a PAYLOAD is due is one error, a CTRL flit
with a reserved field there two (DEDUCED, notes/assumptions/18.md). A well-formed CTRL flit there is taken in all the same (DESIGN
CHOICE, notes/assumptions/18.md). -/
def State.rxFlit (s : State) (p : Fin 32) (g : BitVec 12) (i : Nat) (f : Flit) : State :=
  let due := (s.port p).openPkt
  match ftype f with
  | 5 => match due with
    | some k => s.payload p k f
    | none => s.protoError p
  | 1 => (if due.isSome then s.protoError p else s).openPacket p g i f
  | 2 => (if due.isSome then s.protoError p else s).openPacket p g i f
  | 3 => (if due.isSome then s.protoError p else s).openPacket p g i f
  | 4 =>
    let s := if due.isSome then s.protoError p else s
    if ctrlOk f then s.modPort p fun x => { x with ctrl := x.ctrl ++ [f] } else s.protoError p
  | 7 => if due.isSome ∨ ext f 251 0 ≠ 0 then s.protoError p else s
  | _ => s.protoError p

/-- The receive direction is up: START has come, in UP or, before the port's own START, in CONFIRM (R96). -/
def State.receiving (s : State) (p : Nat) : Bool := (decide (s.phase p = 6) || decide (s.phase p = 5)) && (s.port p).rxUp && !s.isEth p

/-- Stream bits that arrive on port p from stream index `base` modulo 4 on: the lane order and the polarity found in training are
undone (R77, R95). -/
def State.rxBits (s : State) (p base n : Nat) (raw : BitVec 2720) : Nat :=
  mergeLanes base n (decide (s.fld ⟨lnk p 4, 5, 5⟩ = 1)) (BitVec.ofNat 4 (s.fld ⟨lnk p 4, 9, 6⟩)) raw

/-- What the decoder finds in a codeword is counted (R98, R103). -/
def State.fecCount (s : State) (p : Nat) : FecVerdict → State
  | .clean => s
  | .corrected => s.bumpCnt p 9 1
  | .uncorrectable => s.bumpCnt p 10 1

/-- The next received block (R75, R77). In RINEK-F a codeword is decoded when its first block is taken, and the others come from it
(R98). -/
def State.rxNext (s : State) (p : Nat) (raw : BitVec 2720) : BitVec 258 × State :=
  if s.portMode p ≠ 1 then (BitVec.ofNat 258 (s.rxBits p (2 * (s.port p).blocks) 258 raw), s)
  else match (s.port p).fecRx with
    | b :: bs => (b, s.modPort p fun x => { x with fecRx := bs })
    | [] =>
      let r := decodeBlocks (s.rxBits p 0 2720 raw)
      (r.2.headD 0, (s.fecCount p r.1).modPort p fun x => { x with fecRx := r.2.tail })
/-- Sync header and body of a block. -/
def blockSh (b : BitVec 258) : BitVec 2 := b.extractLsb' 0 2
def blockBody (b : BitVec 258) : Flit := b.extractLsb' 2 256

/-- The sync header of a received block (R75, R78): bad headers are counted, and 16 within 1,024 blocks begin a
retrain of a port in UP, as do four retrain requests in a row. Answers whether the block is a flit that the port goes on to take. -/
def State.rxBlock (s : State) (p : Fin 32) (sh : BitVec 2) : Bool × State :=
  let x := s.port p
  let bad := decide (sh = 0) || decide (sh = 3)
  let n := x.blocks + 1
  let badAt := (x.badAt.filter fun b => decide (n < b + 1024)) ++ (if bad then [n] else [])
  let req := if sh = 2 then x.retrainReq + 1 else 0
  let s := s.modPort p fun x => { x with blocks := n, badAt := badAt, retrainReq := req }
  let s := if bad then s.bumpCnt p 3 1 else s
  if s.lstate p = 6 ∧ (16 ≤ badAt.length ∨ 4 ≤ req) then (false, s.enterRetrain p) else (decide (sh ≠ 2), s)

/-- Descramble a flit block, and take the snapshot at the start of a group. -/
def State.rxTake (s : State) (p : Nat) (body : Flit) : Flit × State :=
  let r := scramble (s.port p).rxScr body
  (r.2, s.modPort p fun x => { x with rxScr := r.1 })

/-- FLIT_RECEIVE at one of the sixteen places of a group (R75 to R84, R26). A flit that a full queue discards, or that
came under a bad header, spoils the group; while a replay is awaited the flits are only kept. -/
def State.flitReceive (s : State) (p : Fin 32) (raw : BitVec 2720) : State :=
  let b := s.rxNext p raw
  let sh := blockSh b.1
  if ¬ s.receiving p ∨ (16 ≤ (s.port p).rxFlits.length ∧ sh ≠ 2) then s
  else
    let (go, s) := b.2.rxBlock p sh
    if go then
      let (f, s) := s.rxTake p (blockBody b.1)
      let x := s.port p
      let full := x.nack.isNone && s.ingressFull p
      let i := x.rxFlits.length
      let snap := x.openPkt.bind fun k => (s.pkt? k).map fun q => (k, q.flits.length)
      let s := if i = 0 then s.modPort p fun x => { x with snapOpen := snap } else s
      let bad := x.rxBad || full || decide (sh ≠ 1)
      let s := if full then s.bumpCnt p 6 1 else s
      let s := s.modPort p fun x => { x with rxFlits := x.rxFlits ++ [f], rxBad := bad }
      if bad ∨ x.nack.isSome then s else s.rxFlit p x.rxExp i f
    else s
def execFlitReceive (p : Fin 32) (l0 l1 l2 l3 : LaneBits) (s : State) : Out := .next (s.flitReceive p (l3 ++ l2 ++ l1 ++ l0))

/-- A duplicate: what its flits did is undone (R87). -/
def State.rxDuplicate (s : State) (p : Nat) : State :=
  let x := s.port p
  let fresh := x.incomplete.filter fun e => decide (e.2.1 = x.rxExp)
  let s := s.each fresh fun s e => s.discardPkt e.1
  let s := match x.snapOpen with
    | some (k, n) => s.modPkt k fun q =>
        { q with doomed := false, flits := q.flits.take n, missing := hdrLength (q.flits.headD 0) + 1 - n }
    | none => s
  s.modPort p fun x => { x with incomplete := x.incomplete.filter (fun e => decide (e.2.1 ≠ x.rxExp)),
                                openPkt := x.snapOpen.map (·.1), rxFlits := [], rxBad := false, proto := 0, ctrl := [] }

/-- Timed flits of a group that is a retransmission are discarded and counted, those of a duplicate or before the oldest incomplete
header too (R93). -/
def State.timedDrop (s : State) (p : Nat) (replay : Bool) : State :=
  let timed := (s.port p).rxFlits.filter fun f => replay && decide (ftype f = 4) && ctrlOk f && decide (ckind f < 4)
  s.bumpCnt p 11 timed.length

/-- CTRL flits of a group that has passed (R84, R93). -/
def State.ctrlPass (s : State) (p : Nat) (replay : Bool) : State :=
  (s.timedDrop p replay).modPort p fun x =>
    { x with ctrl := [], ctrlIn := x.ctrlIn ++ x.ctrl.filter fun f => !(replay && decide (ckind f < 4)) }

/-- The packets that the group completes, and those that a protocol error ended (R28, R80, R89). -/
def State.completePkts (s : State) (p : Nat) : State :=
  let done := (s.port p).incomplete.filter fun e => match s.pkt? e.1 with
    | some q => q.doomed || decide (q.missing = 0)
    | none => true
  let s := s.each done fun s e => match s.pkt? e.1 with
    | some q => if q.doomed then s.discardPkt e.1 else s.passPkt e.1
    | none => s
  s.modPort p fun x => { x with incomplete := x.incomplete.filter fun e => !done.contains e }

/-- The flits of the awaited group R from its oldest incomplete header on (R90); the first that finds the queue full and all behind
it are discarded, which answers true (R26). -/
def State.rxReplayed (s : State) (p : Fin 32) : Bool × State :=
  let x := s.port p
  if x.nack.isNone then (false, s)
  else (x.rxFlits.zipIdx.drop x.skip).foldl (fun a fi =>
    if a.1 || a.2.ingressFull p then (true, a.2.bumpCnt p 6 1) else (false, a.2.rxFlit p x.rxExp fi.2 fi.1)) (false, s)

/-- A group fails its check (R87, R90). -/
def State.groupFail (s : State) (p : Fin 32) : State :=
  (((s.protoErrs p (s.port p).proto).bumpCnt p 2 1).lnkErr p 1 0 0).rxFail p

/-- A group passes its check (R84, R87, R89, R90); the awaited one fails when the queue has discarded a flit of it. -/
def State.rxPass (s : State) (p : Fin 32) (c : Flit) : State :=
  let (full, s) := s.rxReplayed p
  if full then (s.dropIncomplete p).groupFail p
  else
    let s := s.modPort p fun x => { x with nack := none, skip := 0, lost := x.lost.filter fun g => decide (g ≠ x.rxExp) }
    let s := (((s.bumpCnt p 1 16).protoErrs p (s.port p).proto).ctrlPass p (ckReplay c)).completePkts p
    (s.modPort p fun x => { x with rxLast := some x.rxExp, rxExp := x.rxExp + 1, rxFlits := [], proto := 0 }).ackFields p c

/-- The judgement of R87 on a group and its check flit. The protocol errors seen in a group that fails are counted too; those of a
duplicate, and of flits behind a bad header, are not (DEDUCED, notes/assumptions/18.md). Nor do the flits of a duplicate count in
RX_FLITS (R103; DESIGN CHOICE, notes/assumptions/18.md). -/
def State.judgeGroup (s : State) (p : Fin 32) (sh : BitVec 2) (c : Flit) : State :=
  let x := s.port p
  let back := (x.rxExp - ckGseq c).toNat
  let ok := !x.rxBad && decide (sh = 1) && decide (ext c 31 0 = groupCrc x.rxFlits c) && decide (ext c 212 32 = 0)
  if ok ∧ back = 0 then s.rxPass p c
  else if ok ∧ back ≤ 64 then ((s.timedDrop p (ckReplay c)).rxDuplicate p).ackFields p c
  else s.groupFail p

/-- CHECK_FLIT_RECEIVE: the seventeenth flit of a group (R85, R87). -/
def State.checkFlitReceive (s : State) (p : Fin 32) (raw : BitVec 2720) : State :=
  let b := s.rxNext p raw
  let sh := blockSh b.1
  if ¬ s.receiving p ∨ (s.port p).rxFlits.length ≠ 16 ∨ sh = 2 then s
  else
    let (go, s) := b.2.rxBlock p sh
    if go then
      let (c, s) := s.rxTake p (blockBody b.1)
      s.judgeGroup p sh c
    else s
def execCheckFlitReceive (p : Fin 32) (lo hi : LaneBits × LaneBits) (s : State) : Out :=
  .next (s.checkFlitReceive p (hi.2 ++ hi.1 ++ lo.2 ++ lo.1))

/-! ## Ethernet: R101 -/

/-- ETH_CFG.MAX_FRAME; values above 4,004 act as 4,004. -/
def State.maxFrame (s : State) (p : Nat) : Nat := min 4004 (s.fld ⟨lnk p 0x14, 11, 0⟩)

/-- Codewords that the FEC of ETH25-RS or ETH100 has corrected, or could not correct, since the last frame (R103). -/
def State.ethFec (s : State) (p corr uncorr : Nat) : State :=
  if s.portMode p = 4 ∨ s.portMode p = 5 then (s.bumpCnt p 9 corr).bumpCnt p 10 uncorr else s

/-- The frame finds no room: neither the wave buffer nor the ingress queue of the port can take it (R26). -/
def State.frameOverflow (s : State) (p : Fin 32) (o : List Octet) : Bool :=
  let k := s.newId.1
  let t := s.newId.2.setPkt k { port := p, cls := 3, octets := o, stage := .waitCtx }
  decide (32 < t.ingress p) && decide (32 < (t.drained (p / 8)).ingress p)

/-- ETH_FRAME_RECEIVE: a frame with its FCS. The first reason to discard it counts, an accepted one goes to Prism
without its FCS (R26, R101). -/
def State.ethFrame (s : State) (p : Fin 32) (o : List Octet) : State :=
  if o.length < 64 then s.bumpCnt p 15 1
  else if s.maxFrame p < o.length then s.bumpCnt p 16 1
  else if ¬ fcsOk o then s.bumpCnt p 14 1
  else if o[12]? = some 0x88 ∧ o[13]? = some 0x08 then s.bumpCnt p 18 1
  else if s.frameOverflow p (o.take (o.length - 4)) then s.bumpCnt p 17 1
  else
    let (k, s) := s.newId
    (((s.setPkt k { port := p, cls := 3, octets := o.take (o.length - 4), link := .passed, stage := .waitCtx }).drainPort p).bumpCnt
      p 12 1).bumpCnt p 13 o.length
def execEthFrameReceive (p : Fin 32) (octets : List Octet) (corr uncorr : Nat) (s : State) : Out :=
  .next (s.when (s.isEth p && decide (s.lstate p = 6)) fun s => (s.ethFec p corr uncorr).ethFrame p octets)

end Sys2Proof.Machine
end

