-- ==== Sys2Proof/Machine/EpcCmd.lean ====
section
/-! DEFINITION. EpcCmd.lean: the commands of EPC but the starts of epochs and phases (spec/02): run control, the Beacon,
delay measurements, the judgement of waves, deadlines, and egress. -/

namespace Sys2Proof.Machine

/-! ## Run control: R42, R45, R46, R65, R70 -/

/-- What EPC forgets of a run (R42, R70): link delays stay. -/
def Epc.idle (e : Epc) : Epc :=
  { epoch := e.epoch, epochHi := e.epochHi, tickHi := e.tickHi, start := e.start, ovrAt := e.ovrAt, ovrRec := e.ovrRec,
    ports := e.ports.foldl (fun m x => SMap.set {} m x.1 { req := x.2.req, reqAt := x.2.reqAt, meas := x.2.meas }) [] }

/-- RUN_ARM: RUN 1 arms EPC when a schedule is in force; the master's first epoch is to start D ticks later (R42). A FOLLOW_PIN
device counts its pulses from EPC.EPOCH (R54). -/
def State.runArm (s : State) : State :=
  if s.run then s
  else if phValid (s.phaseA 0) = false then s.setFld ⟨0x100020, 2, 2⟩ 1
  else (s.setFld ⟨0x100000, 0, 0⟩ 1).modEpc fun e => { e.idle with armed := some (tadd s.tick s.leadD), pulseNo := e.epoch }
def execRunArm (s : State) : Out := .next (s.regRow 0x100000 1 State.runArm)

/-- Waves that EPC has taken in and that hold no running task: they are discarded with the run (R70, R182). A wave that has not left
its ingress queue arrives with RUN 0 (R478). -/
def State.heldWaves (s : State) : List Nat :=
  (s.pkts.filter fun x => decide (x.2.cls = 0) && (x.2.stamped || x.2.replay) && !x.2.idle && decide (s.slotOfPkt x.1 = none) &&
    !x.2.gone && !x.2.ended).map (·.1)

/-- Discard what leaves only in a run: wave outputs and the waves behind them (R70, R182). -/
def State.dropWaves (s : State) : State :=
  let s := s.dspRunStop
  let s := s.each s.heldWaves fun s k => s.forgetPkt k
  let outs := s.eouts.filter fun o => decide (o.2.kind = .wave) && !o.2.expect && !o.2.started
  let s : State := { s with eouts := s.eouts.filter fun o => !decide (o.2.kind = .wave) || o.2.started }
  s.each (outs.filterMap fun o => o.2.pkt) fun s k =>
    (s.modPkt k fun p => { p with uses := p.uses - 1 }).freePkt k

/-- RUN_STOP: RUN 0 stops epochs, discards the held waves and gives GEN.MODE.STATE back to READY; a pending table
applies at once (R46, R70, R182). -/
def State.runStop (s : State) : State :=
  if s.run = false then s
  else
    let s := (s.setFld ⟨0x100000, 0, 0⟩ 0).dropWaves
    let s := s.modEpc fun e => { e.idle with live := false }
    let s := if s.tablePending then s.applyTable else s
    if s.gen = 3 ∨ s.gen = 4 then s.setGen 2 else s
def execRunStop (s : State) : Out := .next (s.regRow 0x100000 0 State.runStop)

/-- HALT written 1 in EPC.CTL: overrun HOST (R65, Table 2.3). -/
def State.ctlHalt (s : State) : State := s.overrun { cause := 15, epoch := s.epc.epoch }
/-- CTL_HALT, with RUN as it is. -/
def execCtlHalt (s : State) : Out := .next (s.regRow 0x100000 (s.reg 0x100000 ||| 2) State.ctlHalt)

/-- Table 2.2: the first check of the shadow that fails, or 0. -/
def State.commitCode (s : State) : Nat :=
  let per := s.fld ⟨0x100004, 14, 0⟩
  let v := (List.range 16).filter fun i => phValid (s.phaseS i)
  let st (i : Nat) : Nat := phStart (s.phaseS i)
  let pairs := v.zip v.tail
  if per < 160 ∨ 25600 < per then 1
  else if v ≠ List.range v.length ∨ v = [] ∨ st 0 ≠ 0 ∨ (pairs.any fun x => decide (st x.2 ≤ st x.1)) ∨ (v.any fun i => decide (per ≤ st i)) then 2
  else if v.any fun i => decide (phEnd s.phaseS per i < st i + 16) then 3
  else if v.any fun i => decide (phDue (s.phaseS i) < i) || !v.contains (phDue (s.phaseS i)) then 4
  else if (v.any fun i => phAccept (s.phaseS i) && decide (phKind (s.phaseS i) ≠ 0)) ∨ ¬ v.any fun i => phAccept (s.phaseS i) then 5
  else if v.any fun i => decide (2 < phKind (s.phaseS i)) then 6
  else if (List.range 32).any fun p => decide (s.fld ⟨epcPort p 0, 0, 0⟩ = 1) && !v.contains (s.fld ⟨epcPort p 0, 4, 1⟩) then 7
  else if s.run ∧ 2 ^ 27 ≤ (s.applyEpoch + 2 ^ 28 - (lo28 s.epc.epoch).toNat) % 2 ^ 28 then 8
  else 0

/-- COMMIT: check the shadow and period, and apply them, now or from the apply epoch (R45, R46). A shadow that fails is not applied,
one that was pending neither (DEDUCED, notes/assumptions/18.md). -/
def State.commit (s : State) : State :=
  let c := s.commitCode
  let s := s.setFld ⟨0x100020, 7, 4⟩ c
  if c ≠ 0 then s.setFld ⟨0x100020, 1, 1⟩ 0 else if s.run then s.setFld ⟨0x100020, 1, 1⟩ 1 else s.applyTable
def execCommit (s : State) : Out := .next (s.regRow 0x100020 1 State.commit)

/-! ## The Beacon: R48 to R51, R54, R68, R480 -/

/-- The last epoch whose GO has been accepted or decided, and its start. -/
def State.lastGo (s : State) : Option (Epoch × Tick) :=
  match s.epc.gos.getLast? with
  | some g => some g
  | none => if s.epc.begun then some (s.epc.epoch, s.epc.start) else none

/-- The epoch that comes next, and where it is predicted: none before the first (R51). -/
def State.nextGo (s : State) : Epoch × Option Tick :=
  match s.lastGo with
  | some g => (g.1 + 1, some (tadd g.2 (s.periodOf g.1)))
  | none => (s.epc.epoch, none)

/-- Enter a decision or an accepted announce: start tick known, to be announced and pulsed. -/
def State.enterGo (s : State) (stop : Bool) (n : Epoch) (t : Tick) (pulse : Bool) : State :=
  s.modEpc fun e => { e with gos := if stop then e.gos else e.gos ++ [(n, t)], stop := if stop then some (n, t) else e.stop,
                             anns := e.anns ++ [(stop, n, t)], pulses := if pulse then e.pulses ++ [(stop, n, t)] else e.pulses }

/-- GO_DECISION: at start(N) − D the master decides GO, or STOP after an overrun (R42, R51, R54, R68, R480). -/
def State.goDecision (s : State) : State :=
  let x := s.nextGo
  let t := x.2.getD (s.epc.armed.getD s.tick)
  if s.role = 1 ∧ s.run ∧ s.epc.stop.isNone ∧ s.epc.stopped = false ∧ t.toNat ≤ s.tick.toNat + s.leadD then
    s.enterGo s.epc.overrun x.1 t true
  else s
def execGoDecision (s : State) : Out := .next s.goDecision

/-- An announce of start tick t can be inserted on port p: on the master its first bit leaves the balls no earlier than at
start(N) − LEAD (R49, R52), so that each port takes it its own latency before. -/
def State.announceDue (s : State) (p : Nat) (t : Tick) : Bool :=
  decide (s.role ≠ 1) || decide (t.toNat ≤ s.tick.toNat + s.lead + s.txLat p)

/-- ANNOUNCE_SEND: the oldest decision goes to the downstream ports, each of which holds it back until it is due there (R48, R49); its
REMAIN is filled in when it is inserted. -/
def State.announceSend (s : State) : State :=
  match s.epc.anns with
  | (stop, n, t) :: rest =>
    if s.fatal ≠ 0 ∨ (portList s.downPorts ≠ [] ∧ (portList s.downPorts).any (fun p => s.announceDue p t) = false) then s
    else
      let s := s.modEpc fun e => { e with anns := rest }
      s.each (portList s.downPorts) fun s p =>
        if s.linkUp p ∧ ¬ s.isEth p then s.sendCtrl p (flitAnnounce stop n 0) t else s
  | [] => s
def execAnnounceSend (s : State) : Out := .next s.announceSend

/-- PIN_PULSE_SEND: at start(N) − PIN_LEAD a pulse of 8 ticks for GO or 24 for STOP (R54). -/
def State.pinPulseSend (s : State) : State :=
  match s.epc.pulses with
  | (stop, _, t) :: rest =>
    if s.fatal ≠ 0 ∨ s.tick.toNat + s.pinLead < t.toNat then s
    else (s.modEpc fun e => { e with pulses := rest }).emit (.pulse (if stop then 24 else 8))
  | [] => s
def execPinPulseSend (s : State) : Out := .next s.pinPulseSend

/-- BEACON-LATE for epoch n; an IN_PORT for port announces. -/
def State.beaconLate (s : State) (n : Epoch) (p : Option Nat) : State := s.overrun { cause := 11, epoch := n, inPort := p }

/-- The correction of a start against its prediction (R51): LAST_ERROR, LOCKED and BEACON-SLIP. An announce of an epoch that does not
follow the last accepted one, after a missed one, is not checked and sets LOCKED (DESIGN CHOICE, notes/assumptions/18.md). -/
def State.slip (s : State) (n : Epoch) (t : Tick) (p : Option Nat) : State :=
  match s.nextGo with
  | (m, some pred) =>
    if m = n then
      let d : Int := (t.toNat : Int) - pred.toNat
      let s := s.setFld ⟨0x100054, 27, 12⟩ ((d * 16) % 2 ^ 16).toNat
      if s.tol < d.natAbs then (s.setFld ⟨0x100054, 0, 0⟩ 0).overrun { cause := 12, epoch := n, inPort := p }
      else s.setFld ⟨0x100054, 0, 0⟩ 1
    else s.setFld ⟨0x100054, 0, 0⟩ 1
  | (_, none) => s.setFld ⟨0x100054, 0, 0⟩ 1

/-- A follower accepts an epoch or its STOP (R49 to R51, R54): it is forwarded, and pulsed when PIN_OUT_EN is 1 unless
fewer than PIN_LEAD ticks remain, which is BEACON-LATE. -/
def State.follow (s : State) (stop : Bool) (n : Epoch) (t : Tick) (p : Option Nat) : State :=
  let s := s.slip n t p
  let pin := decide (s.fld ⟨0x100040, 7, 7⟩ = 1)
  let late := pin && decide (t.toNat < s.tick.toNat + s.pinLead)
  let s := s.enterGo stop n t (pin && !late)
  if late then s.beaconLate n p else s

/-- The epoch has been accepted before. -/
def State.known (s : State) (n : Epoch) : Bool :=
  (s.epc.gos.any fun g => decide (g.1 = n)) || s.epc.stop.isSome || (s.epc.begun && decide (s.epc.epoch = n)) ||
    decide (s.epc.missed = some n)

/-- Take the first CTRL flit of port p that agrees with `f`; none when none waits (R84). -/
def State.takeCtrl (s : State) (p : Nat) (f : Flit → Bool) : Option (Flit × State) :=
  match (s.port p).ctrlIn.find? f with
  | some x => some (x, s.modPort p fun q => { q with ctrlIn := q.ctrlIn.erase x })
  | none => none

/-- start(N) of an announce with arrival tick a (R49): to the nearest tick, halves upward. -/
def State.annStart (s : State) (p : Nat) (remain : Pair) (a : Tick) : Tick :=
  BitVec.ofNat 56 ((a.toNat * 16 + remain.toNat + 8 - s.fld ⟨epcPort p 8, 19, 0⟩) / 16)

/-- ANNOUNCE_RECEIVE on an armed FOLLOW_PORT device (R48 to R50, R52): on another port, unarmed, known already, or a GO
without a valid LINK_DELAY, it is ignored. One that leaves fewer than 16 ticks is late, which declares BEACON-LATE; it is accepted,
forwarded and its epoch started all the same (DESIGN CHOICE, notes/assumptions/18.md). -/
def State.announce (s : State) (p : Nat) (stop : Bool) (n : Epoch) (remain : Pair) (a : Tick) : State :=
  if s.role ≠ 3 ∨ s.upport ≠ p ∨ s.run = false ∨ s.epc.stopped ∨ s.known n ∨
      (stop = false ∧ s.fld ⟨epcPort p 8, 27, 27⟩ = 0) then s
  else
    let t := s.annStart p remain a
    if t.toNat < a.toNat + 16 then (s.follow stop n t (some p)).beaconLate n (some p) else s.follow stop n t (some p)
def execAnnounceReceive (p : Fin 32) (stop : Bool) (n : Epoch) (remain : Pair) (a : Tick) (s : State) : Out :=
  .next (match s.takeCtrl p fun f => decide (f = flitAnnounce stop n remain) with
    | some (_, s) => s.announce p stop n remain a
    | none => s)

/-- BEACON_PULSE_RECEIVE on an armed FOLLOW_PIN device (R54): epochs are numbered by counting GO pulses, and an epoch whose pulse
came too late is not started (R50). A pulse of another width is ignored (DESIGN CHOICE, notes/assumptions/18.md). Every pulse is a
Glint of source BEACON (R419). -/
def State.pulseReceive (s : State) (edge : Tick) (width : Nat) : State :=
  let n := s.epc.pulseNo
  let t : Tick := BitVec.ofNat 56 ((edge.toNat * 16 + s.pinLead * 16 + 8 - s.pinDelay) / 16)
  if s.role = 2 ∧ s.run ∧ s.epc.stopped = false ∧ s.epc.stop.isNone ∧ (width = 8 ∨ width = 24) then
    let s := s.modEpc fun e => { e with pulseNo := n + 1 }
    if width = 8 ∧ s.epc.missed = some n then s else s.follow (decide (width = 24)) n t none
  else s
def execBeaconPulseReceive (edge : Tick) (width : Nat) (s : State) : Out := .next ((s.pulseReceive edge width).fireAll 6)

/-- ANNOUNCE_TIMEOUT (R50): start(N − 1) + PERIOD + 16 has come without an announce of N that the device may follow (R53). It
then stays in epoch N − 1, whose last phase goes on, and still takes the announces of later epochs (DESIGN CHOICE,
notes/assumptions/18.md). -/
def State.announceTimeout (s : State) : State :=
  let n := s.epc.epoch + 1
  if 2 ≤ s.role ∧ s.run ∧ s.epc.begun ∧ (s.epc.gos.any fun g => decide (g.1 = n)) = false ∧ s.epc.stop.isNone ∧ s.epc.stopped = false ∧
      s.epc.missed ≠ some n ∧ s.epc.start.toNat + s.period + 16 ≤ s.tick.toNat then
    (s.modEpc fun e => { e with missed := some n }).beaconLate n (if s.role = 3 then some s.upport else none)
  else s
def execAnnounceTimeout (s : State) : Out := .next s.announceTimeout

/-! ## Link delays: R52, R53, R93 -/

/-- 16 µs have passed since the last request of the port (R52). -/
def State.reqDue (s : State) (p : Nat) : Bool := match (s.eport p).reqAt with
  | some t => decide (6400 ≤ s.since t)
  | none => true

/-- DELAY_REQ_SEND: every 16 µs on UPPORT and the ports of BEACON_DOWN while the link is up (R52). The tag is the device's choice;
the transmit tick is stamped when the flit is inserted. -/
def State.delayReqSend (s : State) (p : Fin 32) : State :=
  if s.linkUp p ∧ ¬ s.isEth p ∧ ((s.role = 3 ∧ s.upport = p.val) ∨ s.downPorts.getLsbD p) ∧ s.reqDue p then
    let (n, s) := s.choose (2 ^ 14)
    (s.sendCtrl p (flitDelayReq (word n)) 0).modEPort p fun e => { e with req := some (word n, none), reqAt := some s.tick }
  else s
def execDelayReqSend (p : Fin 32) (s : State) : Out := .next (s.delayReqSend p)

/-- DELAY_REQ_RECEIVE with arrival tick a: answered with its tag, and with the residence once the answer is inserted (R52). -/
def execDelayReqReceive (p : Fin 32) (tag : Word) (a : Tick) (s : State) : Out :=
  .next (match s.takeCtrl p fun f => decide (f = flitDelayReq tag) with
    | some (_, s) => s.sendCtrl p (flitDelayRsp tag 0) a
    | none => s)

/-- A measurement enters the mean of the last 16 (R52), rounded down. Before there are 16 the mean is of those taken (DESIGN CHOICE,
notes/assumptions/18.md). -/
def State.measure (s : State) (p : Nat) (m : Int) : State :=
  let l := (m :: (s.eport p).meas).take 16
  let mean := l.foldl (· + ·) 0 / (2 * (l.length : Int))
  (s.setReg (epcPort p 8) (BitVec.ofNat 28 ((mean % 2 ^ 20).toNat + 2 ^ 27 * b2n (decide (16 ≤ l.length))))).modEPort p
    fun e => { e with meas := l, req := none }

/-- DELAY_RSP_RECEIVE: the answer to the outstanding request, no later than 4 µs after it, completes a measurement (R52, R93). -/
def State.delayRsp (s : State) (p : Nat) (tag : Word) (r : Pair) (t4 : Tick) : State :=
  match (s.eport p).req with
  | some (g, some t1) =>
    if g = tag ∧ (t4 - t1).toNat ≤ 1600 then
      let asym := ((s.reg (epcPort p 0)).extractLsb' 12 16).toInt
      s.measure p (((t4.toNat : Int) - t1.toNat) * 16 - r.toNat + 2 * asym)
    else s
  | _ => s
def execDelayRspReceive (p : Fin 32) (tag : Word) (residence : Pair) (t4 : Tick) (s : State) : Out :=
  .next (match s.takeCtrl p fun f => decide (f = flitDelayRsp tag residence) with
    | some (_, s) => s.delayRsp p tag residence t4
    | none => s)

/-- DELAY_MEASUREMENT_DROP: 4 µs have passed without a valid answer (R93). -/
def State.delayDrop (s : State) (p : Nat) : State := match (s.eport p).req with
  | some (_, some t1) => if 1600 < s.since t1 ∧ t1.toNat < s.tick.toNat then s.modEPort p fun e => { e with req := none } else s
  | _ => s
def execDelayMeasurementDrop (p : Fin 32) (s : State) : Out := .next (s.delayDrop p)

/-- REF_LOST (R38). -/
def State.refLost (s : State) : State :=
  let s := s.setFld ⟨0x100054, 1, 1⟩ 0
  if s.epc.live then s.overrun { cause := 13, epoch := s.epc.epoch } else s
def execRefLost (s : State) : Out := .next s.refLost

/-- HALT_FLIT_RECEIVE: overrun REMOTE with the cause and epoch of the flit (R65, R67). -/
def execHaltFlitReceive (p : Fin 32) (cause : BitVec 5) (e : Epoch) (s : State) : Out :=
  .next (match s.takeCtrl p fun f => decide (f = flitHalt cause.toNat e) with
    | some (_, s) => s.overrun { cause := 14, epoch := e, inPort := some p.val, remote := cause.toNat }
    | none => s)

/-! ## Arriving waves: R43, R62, R63, R478, R479 -/

/-- A place in the numbering of port p for a wave of epoch e accepted in phase i (R62, R63): the packet with its XSEQ and due tick;
PHASE-CLOSED is noted (R479). SEQ is judged once its link check has passed. -/
def State.acceptWave (s : State) (k : Nat) (p : Pkt) (e : Epoch) (start : Tick) (i : Nat) (stamp : Tick) : State :=
  let h := p.flits.headD 0
  let tab := s.tableOf e
  let x : BitVec 16 := BitVec.ofNat 16 (s.recsOf p.port e).length
  let due := tadd start (tab.2 (phDue (tab.1 i)))
  let open' := phAccept (tab.1 i)
  (s.setPkt k { p with stamped := true, counted := true, epoch := e, phase := i, xseq := x, due := due, discard := !open',
                       ovr := if open' then [] else [7] }).modEPort p.port fun ep =>
    { ep with recs := ep.recs ++ [{ epoch := e, xseq := x, seq := fword h 2, arr := stamp, due := due, last := hdrLast h,
                                    completed := false }] }

/-- The epochs that a stamp can lie in, with their starts: the last one, the current one, and those accepted or decided (R40). -/
def State.epochStarts (s : State) : List (Epoch × Tick) :=
  (match s.epc.prev with
    | some x => [(x.epoch, x.start)]
    | none => []) ++ (if s.epc.begun then [(s.epc.epoch, s.epc.start)] else []) ++ s.epc.gos

/-- Accept the wave at this stamp in epoch g: as if it arrived at the start where the stamp comes before it (R43). -/
def State.acceptIn (s : State) (k : Nat) (p : Pkt) (g : Epoch × Tick) (stamp : Tick) : State :=
  s.acceptWave k p g.1 g.2 (if g.2.toNat ≤ stamp.toNat then phaseAt (s.tableOf g.1).1 (stamp.toNat - g.2.toNat) else 0) stamp

/-- The judgement of R43 on a wave of port p with this stamp, against the epoch current at the stamp (R40). Before the first start
only a wave of N0 is accepted (R478); any other is EPOCH-MISMATCH (DESIGN CHOICE, notes/assumptions/18.md). -/
def State.judgeWave (s : State) (k : Nat) (p : Pkt) (stamp : Tick) : State :=
  let f := hdrEpoch (p.flits.headD 0)
  let wrong (e : Epoch) (late : Bool) : State :=
    s.setPkt k { p with stamped := true, discard := true, epoch := e + BitVec.signExtend 56 (f - lo28 e),
                        ovr := [if late ∧ f = lo28 e - 1 then 5 else 6] }
  let past := s.epochStarts.filter fun g => decide (g.2.toNat ≤ stamp.toNat)
  let ahead := s.epochStarts.filter fun g => decide (stamp.toNat < g.2.toNat)
  if s.run = false ∨ (s.epc.begun = false ∧ s.epc.gos = []) then s.setPkt k { p with stamped := true, idle := true }
  else match past.getLast?, ahead.head? with
    | some g, some n =>
      if f = lo28 g.1 then s.acceptIn k p g stamp else if n.1 = g.1 + 1 ∧ f = lo28 n.1 then s.acceptIn k p n stamp else wrong g.1 true
    | some g, none => if f = lo28 g.1 then s.acceptIn k p g stamp else wrong g.1 true
    | none, some n => if f = lo28 n.1 then s.acceptIn k p n stamp else wrong n.1 false
    | none, none => s

/-- The oldest wave of port p that has not left its ingress queue. -/
def State.waveNext (s : State) (p : Nat) : Option (Nat × Pkt) :=
  s.pkts.find? fun x => decide (x.2.port.val = p) && decide (x.2.cls = 0) && !x.2.stamped && !x.2.gone && !x.2.doomed

/-- Packets of port p leave the ingress queue in order, up to number k, as far as the wave buffer has room (R26). -/
def State.leaveQueue (s : State) (p k : Nat) : State :=
  (s.pkts.filter fun x => decide (x.2.port.val = p) && decide (x.1 ≤ k) && !x.2.placed).foldl (fun (s : State) x =>
    if (s.pkts.any fun y => decide (y.2.port.val = p) && decide (y.1 < x.1) && !y.2.placed) then s else s.placePkt x.1 x.2 (p / 8)) s

/-- WAVE_ARRIVAL: the header of the oldest such wave leaves the ingress queue for the wave buffer, is stamped and judged (R26, R43);
without room for it nothing happens. -/
def State.waveArrival (s : State) (p : Nat) : State :=
  match s.waveNext p with
  | some (k, _) =>
    let s := s.leaveQueue p k
    match s.pkt? k with
    | some q => if q.placed then ((s.judgeWave k q s.copy).settlePkt k).drainPort p else s
    | none => s
  | none => s
def execWaveArrival (p : Fin 32) (s : State) : Out := .next (s.when (s.portClocked p) fun s => s.waveArrival p)

/-! ## Deadlines: R40, R61, R62, R65 -/

/-- DEADLINE of output o (R40, R65): its header has not started, or started too late. -/
def State.deadline (s : State) (o : Nat) : State :=
  match s.eout? o with
  | some e =>
    if s.judging ∧ e.kind = .wave ∧ e.late = false ∧ e.bad = false ∧ e.started = false ∧ s.overdue (lo28 e.dl) then
      (s.setEOut o { e with late := true }).outOverrun 1 e
    else s.declareLate 1 o
  | none => s.declareLate 1 o
def execDeadline (o : Nat) (s : State) : Out := .next (s.deadline o)

/-- The number of a slot among the late events. -/
def slotId (q n : Nat) : Nat := 4096 * q + n
/-- The overrun of the task of packet p in slot x (R65). -/
def lateTask (p : Pkt) (x : Slot) : Overrun :=
  { cause := 2, epoch := p.epoch, wave := some (waveId p), inPort := some p.port.val, deadline := x.dl }
/-- The slot holds the task of a wave without an egress output, which R65 watches. -/
def watched (x : Slot) (p : Pkt) : Bool :=
  decide (x.st ≠ .free) && !x.late && decide (p.cls = 0) && (p.counted || p.replay) && (decide (x.src ≠ 0) || decide (x.ports = 0))

/-- TASK_LATE: a wave's task without an egress port has not executed DONE by its task deadline, or did so too late (R40, R65). -/
def State.taskLate (s : State) (q n : Nat) : State :=
  let x := s.slot q n
  match x.pkt.bind s.pkt? with
  | some p =>
    if s.judging ∧ watched x p ∧ s.overdue x.dl then (s.modSlot q n fun x => { x with late := true }).overrun (lateTask p x)
    else s.declareLate 2 (slotId q n)
  | none => s.declareLate 2 (slotId q n)
def execTaskLate (q : Fin 4) (slot : Fin 4096) (s : State) : Out := .next (s.taskLate q slot)

/-- LAST-LATE of the oldest LAST wave of port p that has not started, or started too late (R40, R61). -/
def lastOvr (p : Nat) (e : Epoch) (dl : Tick) : Overrun := { cause := 3, epoch := e, outPort := some p, deadline := lo28 dl }
def State.lastLate (s : State) (p : Nat) : State :=
  match (s.eport p).lastDl.find? fun x => !x.2.2 with
  | some (e, dl, _) =>
    if s.judging ∧ s.overdue (lo28 dl) then
      (s.modEPort p fun x => { x with lastDl := x.lastDl.map fun y => if y.1 = e then (e, dl, true) else y }).overrun (lastOvr p e dl)
    else s.declareLate 3 p
  | none => s.declareLate 3 p
def execLastLate (p : Fin 32) (s : State) : Out := .next (s.lastLate p)

/-- ARRIVAL on port p, of the oldest epoch of which no LAST wave that counts as received has a stamp at or before the end of its CLOSE
phase (R62). An epoch waits while the link check of one stamped in time is open, and needs no check once that has passed. -/
def State.arrival (s : State) (p : Nat) : State :=
  match (s.eport p).arrDl.find? fun x => s.overdue (lo28 x.2) && decide (s.lastIn p x.1 x.2 = []) with
  | some (e, lim) =>
    if s.judging then
      (s.modEPort p fun x => { x with arrDl := x.arrDl.erase (e, lim) }).overrun { cause := 4, epoch := e, inPort := some p, deadline := lo28 lim }
    else s
  | none => s
def execArrival (p : Fin 32) (s : State) : Out := .next (s.arrival p)

/-! ## The stop: R69, R480 -/

/-- Unsent waves in the wave buffers: outputs that have not left, and waves whose tasks have not completed. -/
def State.unsent (s : State) : Nat :=
  (s.eouts.filter fun o => decide (o.2.kind = .wave) && !o.2.expect && !o.2.bad && !o.2.started).length +
    (s.pkts.filter fun x => (x.2.counted || x.2.replay) && !x.2.ended && !x.2.discard && !x.2.gone).length

/-- Where the run stops: at start(S) + PERIOD while S runs (R69), else at the start that STOP names (R480). -/
def State.stopAt (s : State) (n : Epoch) (t : Tick) : Tick :=
  if s.epc.begun ∧ n = s.epc.epoch + 1 then tadd s.epc.start s.period else t

/-- EPOCH_STOP: the device stops (R69); before the first epoch HALT_PENDING is 0 (R480). -/
def State.epochStop (s : State) : State :=
  match s.epc.stop with
  | some (n, t) =>
    if s.run ∧ s.epc.stopped = false ∧ s.epc.gos = [] ∧ (s.stopAt n t).toNat ≤ s.tick.toNat then
      let held := if s.epc.begun then min s.unsent 16383 else 0
      let s := ((s.setReg 0x100080 (lo28 (n - 1))).setReg 0x100084 (hi28 (n - 1))).setReg 0x100088 (BitVec.ofNat 28 held)
      (s.modEpc fun e => { e with stopped := true, live := false }).setGen (if s.fatal = 0 then 4 else 5)
    else s
  | none => s
def execEpochStop (s : State) : Out := .next s.epochStop

/-! ## Egress: R27, R29, R59 to R61, R64, R234, R236 -/

/-- OUTPUT_RELEASE: the order key, the watermarks and the re-presented waves allow output o (R60, R382). -/
def State.outputRelease (s : State) (o : Nat) : State :=
  match s.eout? o with
  | some e =>
    if e.kind = .wave ∧ e.expect = false ∧ e.bad = false ∧ e.released = false ∧ s.epc.begun ∧ e.epoch.toNat ≤ s.epc.epoch.toNat ∧
        s.firstKey o e ∧ s.feedsAllow e ∧ s.replaysDone e then
      s.setEOut o { e with released := true }
    else s
  | none => s
def execOutputRelease (o : Nat) (s : State) : Out := .next (s.when (s.clocked 1) fun s => s.outputRelease o)

/-- A port can start a packet: its link is up, the last packet's flits are in the link layer, and the fatal path has not
begun (R27, R453). -/
def State.canStart (s : State) (p : Nat) : Bool :=
  s.linkUp p && decide ((s.port p).txq = []) && decide ((s.port p).feed = []) && decide (s.fatal = 0)

/-- Every wave of an earlier epoch that may still bring an output for port p has completed its task, and every such output has left
(R61). -/
def State.earlierDone (s : State) (p : Fin 32) (e : Epoch) : Bool :=
  (s.pkts.all fun x => !((x.2.counted || x.2.replay && decide (x.2.cls = 0)) && !x.2.ended && !x.2.gone && (s.feed p).getLsbD x.2.port && decide (x.2.epoch.toNat < e.toNat))) &&
    (s.wavesOf p).all fun o => o.2.released || decide (e.toNat ≤ o.2.epoch.toNat)

/-- The first of the released waves of port p, in the order of their keys (R59, R61): none while a wave of an earlier epoch, LAST
included, is still to be sent. -/
def State.nextWave (s : State) (p : Fin 32) : Option (Nat × EOut) :=
  let l := (s.wavesOf p).filter fun o => o.2.released
  match l.foldl (fun (b : Option (Nat × EOut)) o => match b with
      | none => some o
      | some x => if keyLt o.2 x.2 then some o else some x) none with
  | some o =>
    if ((s.eport p).lastDl.any fun x => decide (x.1.toNat < o.2.epoch.toNat)) ∨ s.earlierDone p o.2.epoch = false then none else some o
  | none => none

/-- The number of the next wave of epoch e on port p (R61), which is then taken. -/
def State.takeSeq (s : State) (p : Nat) (e : Epoch) : Nat × State :=
  let n := if (s.eport p).txEpoch = e then (s.eport p).txSeq else 0
  (n, s.modEPort p fun x => { x with txEpoch := e, txSeq := n + 1 })

/-- Write SEQ and EPOCH into a wave header and set LAST (R61, R234). -/
def waveHeader (h : Flit) (seq : Nat) (e : Epoch) (last : Bool) : Flit :=
  let h := setWord (setWord (setWord h 2 (word seq)) 4 (loW (lo28 e))) 5 (hiW (lo28 e))
  ins h (14 * 6) (14 * 6) (b2n last)
/-- In job mode SLICE becomes the task's slice (R234). -/
def sliceHeader (h : Flit) (i : BitVec 6) : Flit := if i = 0 then h else ins h (14 * 3 + 13) (14 * 3 + 8) i.toNat

/-- A wave or message on an Ethernet port: discarded and recorded (R234). -/
def State.ethOutput (s : State) (o : Nat) (e : EOut) : State :=
  (s.err { src := 6, code := 2, cls := 1, unit := e.port, slice := some e.slice.toNat }).outputGone o

/-- Start wave output o (R29, R61): a header stamped past its deadline is DEADLINE (R40). -/
def State.startWave (s : State) (o : Nat) (e : EOut) : State :=
  if s.isEth e.port then s.ethOutput o e
  else
    let (n, s) := s.takeSeq e.port e.epoch
    let fs := match e.flits with
      | [] => []
      | h :: ps => sliceHeader (waveHeader h n e.epoch false) e.slice :: ps
    let s := if e.dl.toNat < s.copy.toNat ∧ e.late = false then s.lateEvent o (s.outOvr 1 e (some e.inPort.toNat)) else s
    s.startPacket e.port o fs

/-- EGRESS_START (R29, R59, R61, R69). An output that has still to cross does so now, when there is room (R18). -/
def State.egressStart (s : State) (p : Fin 32) : State :=
  match s.nextWave p with
  | some (o, _) =>
    if s.canStart p ∧ s.run ∧ s.epc.stopped = false then
      let s := s.crossOut o
      match s.eout? o with
      | some e => if e.cross then s else s.startWave o e
      | none => s
    else s
  | none => s
def execEgressStart (p : Fin 32) (s : State) : Out := .next (s.when (s.portClocked p) fun s => s.egressStart p)

/-- Every output of epoch e bound for port p has been released and sent, and every watermark of the feed ports is final
(R61). -/
def State.lastReady (s : State) (p : Fin 32) (e : Epoch) : Bool :=
  ((portList (s.feed p)).all fun f => s.waterFinal f e) && !s.replaysOf e (2 ^ 16) && (s.wavesOf p).all fun o => decide (e.toNat < o.2.epoch.toNat)

/-- The empty wave that ends epoch e on a port: the words that the spec gives no value are free (notes/assumptions/4.md). -/
def State.lastFlit (s : State) (e : Epoch) (n : Nat) : Flit × State :=
  let (a, s) := s.freshVal
  let (b, s) := s.freshVal
  let h := mkFlit 1 [a.extractLsb' 0 14, a.extractLsb' 14 14, 0, word (b.toNat % 64 * 256)]
  (waveHeader h n e true, s)

/-- LAST_WAVE_SEND: the LAST wave of the oldest epoch of a SCHED port that still wants one (R61). -/
def State.lastWaveSend (s : State) (p : Fin 32) : State :=
  match (s.eport p).lastDl with
  | (e, dl, late) :: rest =>
    if s.canStart p ∧ ¬ s.isEth p ∧ s.run ∧ s.epc.stopped = false ∧ s.lastReady p e then
      let (n, s) := s.takeSeq p e
      let (f, s) := s.lastFlit e n
      let s := (s.modEPort p fun x => { x with lastDl := rest }).modPort p fun x => { x with txq := x.txq ++ [f] }
      if dl.toNat < s.copy.toNat ∧ late = false then s.lateEvent p (lastOvr p e dl) else s
    else s
  | [] => s
def execLastWaveSend (p : Fin 32) (s : State) : Out := .next (s.when (s.portClocked p) fun s => s.lastWaveSend p)

/-- The earliest egress deadline pending on port p leaves room for f flits and 16 ticks (R64). After the stop no deadline is pending:
no wave leaves any more (DEDUCED, notes/assumptions/18.md). -/
def State.slack (s : State) (p : Fin 32) (f : Nat) (now : Tick) : Bool :=
  let dls := ((s.eouts.filter fun o => decide (o.2.port = p) && decide (o.2.kind = .wave) && !o.2.bad && !o.2.started).map (·.2.dl)) ++
    ((s.eport p).lastDl.map (·.2.1))
  s.epc.stopped || dls.all fun d => decide (now.toNat + s.ser p f + 16 ≤ d.toNat)

/-- A tunnel packet that carries a frame out of port p (R82, R234). -/
def State.tunnelOf (s : State) (p : Nat) (slice : BitVec 6) (octets : List Octet) : List Flit :=
  let n := octets.length
  let len := (n * 8 + 251) / 252
  let v := (octets.zipIdx.foldl (fun acc oi => acc + oi.1.toNat * 2 ^ (8 * oi.2)) 0)
  mkFlit 3 [0, word (s.fld ⟨lnk p 0x10, 13, 0⟩), 0, word (len + 256 * slice.toNat), 0, 0, 0, word n] ::
    (List.range len).map fun k => BitVec.ofNat 256 (v / 2 ^ (252 * k) % 2 ^ 252 + 5 * 2 ^ 252)

/-- A frame leaves on an Ethernet port (R101): padded to 60 octets, with its FCS, which counts, and inverted by TX_INV. -/
def State.sendFrame (s : State) (p : Fin 32) (o : List Octet) : State :=
  if s.maxFrame p < o.length + 4 then s.bumpCnt p 20 1
  else
    let o := o ++ List.replicate (60 - o.length) 0
    let inv := (List.range 4).foldl (fun n k => n + b2n (s.txInv p k) * 2 ^ k) 0
    ((s.emit (.frame p (o ++ fcsOctets o) (BitVec.ofNat 4 inv))).bumpCnt p 19 1).bumpCnt p 21 (o.length + 4)

/-- What a CTRL flit becomes when it is inserted: REMAIN of an announce, the transmit tick of a request, and the residence of an
answer, from the arrival tick that `dl` keeps (R49, R52). -/
def State.stampCtrl (s : State) (e : EOut) (f : Flit) : Flit × State :=
  match ckind f with
  | 1 => (flitAnnounce (ctrlStop f) (ctrlEpoch f) (s.remainOf e.port e.dl).1, (s.remainOf e.port e.dl).2)
  | 2 => (f, s.modEPort e.port fun x =>
      { x with req := match x.req with
        | some (g, t) => some (g, if g = fword f 1 then some (s.leaves e.port) else t)
        | none => none })
  | 3 => (flitDelayRsp (fword f 1) (BitVec.ofNat 28 ((s.leaves e.port - e.dl).toNat * 16)), s)
  | _ => (f, s)

/-- The flits of a non-wave output on a Rinek port. -/
def State.nonwaveFlits (s : State) (e : EOut) : List Flit :=
  match e.kind with
  | .frame => s.tunnelOf e.port e.slice e.octets
  | .ctrl => e.flits
  | _ => match e.flits with
    | [] => []
    | h :: ps => (if e.mirror then h else sliceHeader h e.slice) :: ps

/-- The announce is one that the port has to hold back (R49). -/
def State.tooEarly (s : State) (e : EOut) : Bool :=
  decide (e.kind = .ctrl) && decide (ckind (e.flits.headD 0) = 1) && !s.announceDue e.port e.dl
/-- The oldest released non-wave packet of port p. -/
def State.nextPacket (s : State) (p : Fin 32) : Option (Nat × EOut) :=
  s.eouts.find? fun o => decide (o.2.port = p) && decide (o.2.kind ≠ .wave) && o.2.released && !o.2.started && !s.tooEarly o.2

/-- Non-wave output o of port p starts when the deadlines leave room (R64, R101, R234). -/
def State.sendPacket (s : State) (p : Fin 32) (o : Nat) (e : EOut) : State :=
  if e.cross then s
  else if s.isEth p then
    match e.kind with
    | .frame => (s.sendFrame p e.octets).outputGone o
    | .tunnel => (s.sendFrame p (frameOf e.flits)).outputGone o
    | .ctrl => s.outputGone o
    | _ => s.ethOutput o e
  else
    let fs := s.nonwaveFlits e
    if s.slack p fs.length s.copy then
      let (fs, s) := match e.kind, fs with
        | .ctrl, [f] => let r := s.stampCtrl e f; ([r.1], r.2)
        | _, _ => (fs, s)
      s.startPacket p o fs
    else s
/-- NONWAVE_EGRESS; an output that has still to cross does so now, when there is room (R18). -/
def State.nonwaveEgress (s : State) (p : Fin 32) : State :=
  match s.nextPacket p with
  | some (o, _) =>
    if s.canStart p = false then s
    else
      let s := s.crossOut o
      match s.eout? o with
      | some e => s.sendPacket p o e
      | none => s
  | none => s
def execNonwaveEgress (p : Fin 32) (s : State) : Out := .next (s.when (s.portClocked p) fun s => s.nonwaveEgress p)

end Sys2Proof.Machine
end

