-- ==== Sys2Proof/Machine/Task.lean ====
section
/-! DEFINITION. Task.lean: TASK, DONE and what it sends, OUT, FORK and JOIN (spec/08 R231 to R238; spec/06 R177, R178). -/

namespace Sys2Proof.Machine

/-! ## TASK: R177, R231, R273 -/

/-- CHAN-FAULT reason STAGED. -/
def State.stagedFault (s : State) (t : Nat) : State := s.raiseChan t (s.thread t).stagedCh.toNat 9

/-- TASK: TASK-STATE with a task held, STAGED for a child with staged words; else the thread waits for a task and nothing
of its work is left. -/
def State.taskOp (s : State) (t : Nat) : State :=
  let x := s.thread t
  if x.hasTask then s.exc t 0xA 0
  else if x.child ∧ x.staged ≠ [] then s.stagedFault t
  else
    let s := (s.dropHeld t).copEnd t
    s.modThread t fun x => if x.stepping then { x.waits with st := .halted, dbg := true } else x.waits
/-- TASK; it issues once every earlier store has been answered (R203). -/
def execTask (t : Fin 1024) (s : State) : Out :=
  .next (s.lum t.val 0x24 0 fun s _ => if s.storesDone t.val then s.taskOp t.val else s)

/-! ## OUT: R232, Tables 8.9 and 8.10 -/

/-- The check of a header address: that of a load without ALIGN, an extent that is not allocated included (R31, R232, R328). -/
def State.hdrFault (s : State) (t a : Nat) : Option Nat :=
  (s.accFault t a false false).orElse fun _ => match s.region a with
    | .dram l _ => if (s.extent (l / 2 ^ 24)).valid then none else some 6
    | _ => none

/-- OUT checks its header address, and fills an output entry. -/
def State.outOp (s : State) (t : Nat) (w : Pair) : State :=
  let x := s.thread t
  let cls := ext w 2 1
  let a := addrOf (x.bank (ext w 16 14)) (x.r (ext w 13 9))
  match (if cls = 3 then none else s.hdrFault t a.toNat) with
  | some c => s.exc t c a
  | none =>
    let rs := x.r (ext w 21 17)
    let k := x.rp (ext w 7 3)
    let e : OutEntry :=
      { valid := true, rs := rs, cls := BitVec.ofNat 2 cls, keyed := bit w 8, hdr := if cls = 3 then 0 else a,
        xseq := if bit w 8 then BitVec.ofNat 16 (ext k 13 0 + 2 ^ 14 * ext k 20 19) else 0,
        inPort := if bit w 8 then BitVec.ofNat 5 (ext k 18 14) else 0 }
    s.modThread t fun x => { x with outs := SMap.set {} x.outs (ext rs 12 7) e }.complete
/-- OUT (R232). -/
def execOut (t : Fin 1024) (s : State) : Out := .next (s.lum t.val 0x26 0 fun s w => s.outOp t.val w)

/-! ## DONE: R233 to R236 -/

/-- The egress ports that an entry names, in the task's quadrant q. -/
def State.outPorts (s : State) (q : Nat) (e : OutEntry) : BitVec 32 :=
  e.ports.getD (if bit e.rs 6 then s.portset q (ext e.rs 5 0) else BitVec.ofNat 32 (2 ^ ext e.rs 4 0))

/-- Groups of 18 words. -/
def chunks18 : Nat → List Word → List (List Word)
  | 0, _ => []
  | n + 1, ws => ws.take 18 :: chunks18 n (ws.drop 18)
/-- The flits of a packet of class c (0 wave, 1 message, 2 tunnel) from its words. -/
def wordsFlits (c : Nat) (ws : List Word) : List Flit :=
  match chunks18 (ws.length / 18) ws with
  | [] => []
  | h :: ps => mkFlit (c + 1) h :: ps.map (mkFlit 5)
/-- The octets of a frame from its words. -/
def wordsFrame (n : Nat) (ws : List Word) : List Octet :=
  let v := (ws.zipIdx.foldl (fun acc wi => acc + wi.1.toNat * 2 ^ (14 * wi.2)) 0)
  (List.range n).map fun j => BitVec.ofNat 8 (v / 2 ^ (8 * j) % 256)

/-- Quadrants of a set of ports. -/
def quadsOf (ports : BitVec 32) : List Nat :=
  (List.range 4).filter fun q => (portList ports).any fun p => decide (p.val / 8 = q)
/-- The task's own packet as it stands in the wave buffer (R233, R234): LENGTH is as received. -/
def State.ownOut (s : State) (p : Pkt) (g : Gathered) : Gathered :=
  let ws := s.getWords p.addr.toNat p.len
  if p.cls = 3 then { g with kind := .frame, octets := wordsFrame p.octets.length ws, size := p.len }
  else
    let fs := match wordsFlits (if p.cls = 4 then 2 else p.cls.toNat) ws with
      | [] => []
      | h :: ps => ins h (14 * 3 + 6) (14 * 3) (hdrLength (p.flits.headD 0)) :: ps
    if p.cls = 4 then { g with kind := .frame, octets := frameOf fs, size := p.len }
    else { g with kind := if p.cls = 0 then .wave else if p.cls = 1 then .msg else .tunnel, flits := fs, size := p.len }

/-- How a gather ends: done, in an exception, in a wait for a domain that wakes, or in a wait for room or for DRAM. -/
inductive GatherEnd where
  | done
  | fault (cause addr : Nat)
  | asleep (src d addr : Nat)
  | full
  deriving DecidableEq, Repr

/-- Word addresses from H on. -/
def hdrAddrs (h : WAddr) (n : Nat) : List Nat := (List.range n).map fun i => (h + BitVec.ofNat 42 i).toNat

/-- Words in the wave buffer of each of these quadrants, placed; none where one has no room. -/
def State.placeOut (s : State) (ws : List Word) : List Nat → List (Nat × WAddr) → Option (List (Nat × WAddr) × State)
  | [], acc => some (acc, s)
  | q :: qs, acc => (s.allocWave q ws.length).bind fun r => (r.2.putWords r.1.toNat ws).placeOut ws qs (acc ++ [(q, r.1)])

/-- Stage an output in these quadrants, or wait for room. -/
def State.stage (s : State) (t : Nat) (g : Gathered) (ws : List Word) (qs : List Nat) : GatherEnd × State :=
  match s.placeOut ws qs [] with
  | some (pl, s) => (.done, s.modThread t fun x => { x with gath := x.gath ++ [{ g with places := pl }] })
  | none => (.full, s)

/-- Gather a non-OWN entry (R233): LENGTH, then the flits, into every egress quadrant; its requests wait at their channels (R336). -/
def State.gatherOut (s : State) (t : Nat) (g : Gathered) : GatherEnd × State :=
  let h : Holder := .gather (Fin.ofNat 1024 t)
  let r := { s.asThread t with held := some h }
  let want (as : List Nat) : Want := { r := r, wr := false, lines := s.linesAt t as }
  let la := hdrAddrs (g.ent.hdr + 3) 1
  match s.asleepIn t la with
  | some (src, d) => (.asleep src d (s.asleepAddr t la), s)
  | none =>
    if s.visited h (want la).lines = false then (.full, s.askVisits h [want la])
    else match s.readFor t r la with
    | (.fault c a, s) => (.fault c a, s)
    | (.ok l, s) =>
      let as := hdrAddrs g.ent.hdr (18 * (ext (l.headD 0) 6 0 + 1))
      match s.asleepIn t as with
      | some (src, d) => (.asleep src d (s.asleepAddr t as), s)
      | none =>
        if s.visited h (want as).lines = false then (.full, s.askVisits h [want as])
        else if (quadsOf g.ports).all (fun q => s.waveRoom q as.length) = false then (.full, s)
        else match s.readFor t r as with
          | (.fault c a, s) => (.fault c a, s)
          | (.ok ws, s) =>
            (s.dropHolder h).stage t { g with flits := wordsFlits g.ent.cls.toNat ws, size := as.length, kind := match g.ent.cls with
              | 0 => .wave
              | 1 => .msg
              | _ => .tunnel } ws (quadsOf g.ports)

/-- Make ready the listed entries one after another; each is kept with the thread when its gather has ended. An OWN entry gathers
nothing, and of a task without a packet it stages nothing. -/
def State.gatherAll (s : State) (t : Nat) (own : Option Pkt) : List (Nat × OutEntry) → GatherEnd × State
  | [] => (.done, s)
  | (i, e) :: es =>
    let g : Gathered := { idx := i, ent := e, ports := s.outPorts (quadOf t) e }
    if g.ports = 0 ∨ (e.cls = 3 ∧ own = none) then s.gatherAll t own es
    else
      let r := if e.cls = 3 then (match own with
          | some p => (.done, s.modThread t fun x => { x with gath := x.gath ++ [s.ownOut p g] })
          | none => (.done, s))
        else s.gatherOut t g
      match r with
      | (.done, s) => s.gatherAll t own es
      | r => r

/-- The key of a wave output and the due tick of the wave that supplies it (R63, R235). -/
structure OutKey where
  xseq : BitVec 16
  inPort : BitVec 5
  due : Tick
  epoch : Epoch
  replay : Bool
  deriving DecidableEq, Repr

/-- The wave received with key (XSEQ, IN_PORT) in epoch e (R62). -/
def State.keyWave (s : State) (e : Epoch) (x : BitVec 16) (f : BitVec 5) : Option OutKey :=
  ((s.recsOf f.toNat e).find? fun r => decide (r.xseq = x) && r.ok).map fun r =>
    { xseq := x, inPort := f, due := r.due, epoch := e, replay := false }
/-- The key of an output (R235): none where no such wave has been received. -/
def State.outKey (s : State) (own : Option Pkt) (e : OutEntry) : Option OutKey :=
  let w := own.bind fun p => if p.cls = 0 then some p else none
  if e.keyed then s.keyWave s.epc.epoch e.xseq e.inPort
  else w.map fun p => { xseq := p.xseq, inPort := BitVec.ofNat 5 p.port.val, due := p.due, epoch := p.epoch, replay := p.replay }

/-- The output that classification promised for packet k on port p. -/
def State.promised (s : State) (k : Option Nat) (p : Fin 32) : Option EOut :=
  (s.eouts.find? fun o => o.2.expect && decide (o.2.port = p) && decide (o.2.pkt = k) && k.isSome).map (·.2)

/-- A wave output of one port enters the egress order stage (R57, R59, R60, R235); outside a run it is dropped (R70). What
EPC has declared of the output that classification promised is not declared again. Without the wave that the key names nothing is
sent: UNFED, with the IN_PORT of RK. Answers whether there is an output. -/
def State.waveOut (s : State) (k : Option Nat) (o : EOut) (e : OutEntry) (key : Option OutKey) : Bool × State :=
  if s.run = false then (false, s)
  else match key with
    | none => (false, s.overrun (s.outOvr 9 { o with epoch := s.epc.epoch } (if e.keyed then some e.inPort.toNat else none)))
    | some w =>
      let old := if e.keyed then none else s.promised k o.port
      let o := { o with xseq := w.xseq, inPort := w.inPort, epoch := w.epoch, replay := w.replay,
                        dl := s.egressDl w.due o.port o.flits.length, late := (old.map (·.late)).getD false }
      if s.unfed o then (false, if (old.map (·.bad)).getD false then s else s.outOverrun 9 o)
      else if w.replay = false ∧ (s.eport o.port).used.contains (w.epoch, w.xseq, w.inPort, o.idx) then (false, s.outOverrun 10 o)
      else
        let s := if w.replay then s else s.modEPort o.port fun e => { e with used := e.used ++ [(w.epoch, w.xseq, w.inPort, o.idx)] }
        let (n, s) := s.newId
        (true, if s.judging ∧ o.dl.toNat < s.copy.toNat ∧ o.late = false then (s.setEOut n { o with late := true }).outOverrun 1 o
               else s.setEOut n o)

/-- Send one ready output of a task of quadrant q on every port that it names (R233 to R236); an OWN output for another quadrant has
still to cross (R18). -/
def State.commitOut (s : State) (q : Nat) (slice : BitVec 6) (k : Option Nat) (own : Option Pkt) (g : Gathered) : State :=
  let key := s.outKey own g.ent
  let mine := decide (g.ent.cls = 3)
  s.each (portList g.ports) fun s p =>
    let a := (g.places.find? fun x => decide (x.1 = p.val / 8)).map (·.2)
    let o : EOut := { port := p, kind := g.kind, flits := g.flits, octets := g.octets, idx := BitVec.ofNat 6 g.idx, slice := slice,
                      pkt := if mine then k else none, addr := a.getD 0, len := if a.isSome then g.size else 0,
                      cross := mine && decide (p.val / 8 ≠ q) }
    let r := if g.kind = .wave then s.waveOut k o g.ent key
             else let r := s.newId; (true, r.2.setEOut r.1 { o with released := true })
    match k with
    | some k => if mine ∧ r.1 then r.2.modPkt k fun p => { p with uses := p.uses + 1 } else r.2
    | none => r.2

/-- A wave's task without an egress output that executes DONE past its task deadline (R40, R65). -/
def State.doneLate (s : State) (q n : Nat) (own : Option Pkt) : State :=
  let x := s.slot q n
  match own with
  | some p => if watched x p ∧ precedes x.dl (lo28 s.copy) then s.lateEvent (slotId q n) (lateTask p x) else s
  | none => s

/-- The commit of DONE (R178, R233): the outputs go, the task completes, its packet's flits are free unless an OWN output
reads them. DONE transfers control to the next instruction: no loop level acts (R207). -/
def State.doneCommit (s : State) (t q n : Nat) : State :=
  let k := (s.slot q n).pkt
  let own := k.bind s.pkt?
  let slice := BitVec.ofNat 6 (s.sliceOf t)
  let s := ((s.doneLate q n own).each (s.thread t).gath fun s g => s.commitOut q slice k own g).dspDone q n
  let s := match k with
    | some k => (s.endPkt k).crossAll k
    | none => s
  s.modThread t fun x => { x with hasTask := false, outs := [], gathered := false, gath := [] }.jump (x.pc + 1)

/-- The output entries of a DONE (R233): with D 1 entry 0 is the task's own packet on the ports that it was dispatched with. -/
def doneOuts (x : Thread) (ports : BitVec 32) : List (Nat × OutEntry) :=
  let outs := if bit x.bw 21 ∧ ports ≠ 0 then SMap.set {} x.outs 0 { valid := true, cls := 3, ports := some ports } else x.outs
  outs.filter fun o => o.2.valid && x.gath.all fun g => decide (g.idx < o.1)

/-- GATHER and commit of a thread in DONE, once its children have executed TASK (R233): past the wait step it is RUN (R244). An
exception gives up what has been gathered. -/
def State.gather (s : State) (t : Nat) : State :=
  let x := s.thread t
  match s.heldSlot t with
  | some (q, n) =>
    if (x.st = .run ∧ x.gathered) ∨ (x.st = .blocked ∧ x.blk = .done ∧ s.children t = [] ∧ s.storesDone t) then
      let s0 := s.modThread t fun x => { x with st := .run, blk := .none, gathered := true }
      match s0.gatherAll t ((s.slot q n).pkt.bind s.pkt?) (doneOuts x (s.slot q n).ports) with
      | (.done, s1) => s1.doneCommit t q n
      | (.fault c a, s1) =>
        ((s1.dropHolder (.gather (Fin.ofNat 1024 t))).modThread t fun x => { x with gathered := false, gath := [] }).exc t c (BitVec.ofNat 42 a)
      | (.asleep a d _, s1) => s1.domAccess a d (word t)
      | (.full, s1) => s1
    else s
  | none => s
/-- GATHER (R233). -/
def execGather (t : Fin 1024) (s : State) : Out := .next (s.gather t.val)

/-- DONE (R178, R231, R233): TASK-STATE without a task, the oldest failed completion that has come (R283), STAGED with staged
words; else the thread waits for GATHER. -/
def State.doneOp (s : State) (t : Nat) (w : Pair) : State :=
  match s.heldSlot t with
  | none => s.exc t 0xA 0
  | some _ =>
    match (s.thread t).copq.find? fun c => decide (ext c 11 6 ≠ 0) with
    | some c => s.raisePending t (ext c 1 0) c
    | none => if (s.thread t).staged ≠ [] then s.stagedFault t else s.modThread t fun x => x.block .done w
/-- DONE; it issues once every earlier store has been answered (R203). -/
def execDone (t : Fin 1024) (s : State) : Out :=
  .next (s.lum t.val 0x25 0 fun s w => if s.storesDone t.val then s.doneOp t.val w else s)

/-! ## FORK and JOIN: R237, R238, R246 -/

/-- The child of thread t: keys and banks copied, w0 to w7 from the parent's w8 to w15, everything else as after a
dispatch. -/
def childThread (f : Nat) (x : Thread) (t : Nat) (pc : BitVec 16) : Thread :=
  { st := .run, child := true, parent := t, pc := pc, banks := x.banks, runsOn := x.runsOn,
    regs := ((List.range 8).map x.r ++ (List.range 8).map fun i => x.r (16 + i)).zipIdx.foldl
      (fun m wi => SMap.set 0 m wi.2 wi.1) (freeGroups f) }

/-- FORK (R237): `lost`: a dispatch took the thread in this CCLK; `squashed` before its commit it does nothing. -/
def State.fork (s : State) (t : Nat) (w : Pair) (lost squashed : Bool) : State :=
  if squashed then s
  else
    let fail (s : State) : State := s.modThread t fun x => { x with z := true }.complete
    if lost then fail s
    else match s.pick ((threadsOfCore (t / 8)).filter fun c => decide ((s.thread c).st = .waitTask)) with
      | (none, s) => fail s
      | (some c, s) =>
        let y := { childThread s.free (s.thread t) t (targetOf w) with stepping := (s.thread c).stepping }
        ({ s with free := s.free + 72, threads := SMap.set {} s.threads c y }).modThread t fun x =>
          { x.setR (ext w 21 17) (word (c % 8)) with z := false }.complete
/-- FORK (R237, R246). -/
def execFork (t : Fin 1024) (lost squashed : Bool) (s : State) : Out :=
  .next (s.lum t.val 0x27 0 fun s w => s.fork t.val w lost squashed)

/-- The thread of t's core that RA of JOIN names, when it is a running child of t (R238). -/
def State.joins (s : State) (t : Nat) (w : Pair) : Bool :=
  (s.children t).contains (8 * (t / 8) + (((s.thread t).r (ext w 16 12)).toNat % 8))
/-- JOIN. -/
def execJoin (t : Fin 1024) (s : State) : Out :=
  .next (s.lum t.val 0x28 0 fun s w =>
    if s.joins t.val w then s.modThread t.val fun x => x.block .join w else s.complete t.val)
/-- JOIN_WAKE: the child has executed TASK, or has been killed (R238, R268). -/
def State.joinWake (s : State) (t : Nat) : State :=
  let x := s.thread t
  if x.st = .blocked ∧ x.blk = .join ∧ s.joins t x.bw = false then s.complete t else s
def execJoinWake (t : Fin 1024) (s : State) : Out := .next (s.joinWake t.val)

end Sys2Proof.Machine
end

