-- ==== Sys2Proof/Machine/Debug.lean ====
section
/-! DEFINITION. Debug.lean: the debug controls of LUM (spec/09 R265 to R269, Tables 9.5 to 9.8). -/

namespace Sys2Proof.Machine

/-- A write ignored while BUSY. -/
def State.dbgIgnore (s : State) : State := s.setFld ⟨dbgStatus, 14, 14⟩ 1
/-- The operation ends with a code: 0 OK, 1 RSVD, 2 STATE. -/
def State.dbgEnd (s : State) (code : Nat) : State := (s.setFld ⟨dbgStatus, 13, 13⟩ 0).setFld ⟨dbgStatus, 16, 15⟩ code

/-- A write of DBG_SEL, and of DBG_CTL, which starts an operation (R265): a reserved OP, or a reserved bit set, ends it with RSVD
(R11). -/
def State.dbgSelWrite (s : State) (v : Pair) : State :=
  if s.dbgBusy then s.dbgIgnore else s.setReg dbgSel (v &&& bits 17 0)
def State.dbgCtlWrite (s : State) (v : Pair) : State :=
  if s.dbgBusy then s.dbgIgnore
  else if ext v 2 0 = 0 ∨ 5 ≤ ext v 2 0 ∨ ext v 27 3 ≠ 0 then s.dbgEnd 1
  else (s.setReg dbgCtl (v &&& bits 2 0)).setFld ⟨dbgStatus, 13, 13⟩ 1

/-- The operation in progress is `op` on thread t: it ends with STATE unless `ok`; when it may take effect it does and ends
with OK. -/
def State.dbgOp (s : State) (op t : Nat) (ok ready : Bool) (f : State → State) : State :=
  if s.dbgBusy ∧ s.fld ⟨dbgCtl, 2, 0⟩ = op ∧ s.dbgThread = t then
    if ok = false then s.dbgEnd 2 else if ready then (f s).dbgEnd 0 else s
  else s

/-- The thread is at an instruction boundary (R266): no response to come, no repetition in progress, and not past the
wait step of DONE. -/
def Thread.boundary (x : Thread) : Bool := x.await.isNone && !(decide (x.st = .run) && x.rep.isSome) && !x.gathered
/-- The thread halts: a blocking instruction is abandoned and issues again (R266). -/
def State.haltThread (s : State) (t : Nat) : State :=
  (s.unwait t).modThread t fun x =>
    { x with prior := if x.st = .waitTask then .waitTask else .run, st := .halted, priorBlk := if x.st = .blocked then x.blk else .none,
             blk := .none, stepping := false }

/-- HALT (Table 9.5, R266). -/
def State.haltOp (s : State) (t : Nat) : State :=
  let x := s.thread t
  s.dbgOp 1 t (decide (x.st = .waitTask) || decide (x.st = .run) || decide (x.st = .blocked)) x.boundary fun s =>
    (s.haltThread t).modThread t fun x => { x with dbg := true }
def execHalt (t : Fin 1024) (s : State) : Out := .next (s.haltOp t.val)

/-- HALTED by debug and not by a freeze (R380). -/
def Thread.dbgHeld (x : Thread) : Bool := decide (x.st = .halted) && !x.frz

/-- RESUME (Table 9.5). -/
def execResume (t : Fin 1024) (s : State) : Out :=
  .next (s.dbgOp 2 t (s.thread t).dbgHeld true fun s => s.modThread t fun x => { x with st := x.prior, priorBlk := .none, dbg := false })
/-- STEP (R267). -/
def execStep (t : Fin 1024) (s : State) : Out :=
  .next (s.dbgOp 4 t (s.thread t).dbgHeld true fun s =>
    s.modThread t fun x => { x with st := x.prior, priorBlk := .none, dbg := false, stepping := true })

/-- Thread t with the threads below it, up to `n` generations. -/
def State.tree (s : State) : Nat → Nat → List Nat
  | 0, t => [t]
  | n + 1, t => t :: (s.children t).flatMap fun c => s.tree n c
/-- Every store of the thread and of those below it has been answered, no response is to come, and no DONE is past its wait step
(R266, R268). -/
def State.quiet (s : State) (t : Nat) : Bool :=
  (s.tree 8 t).all fun c => (s.thread c).stores.all PStore.arrived && (s.thread c).await.isNone && !(s.thread c).gathered
/-- KILL (R268). -/
def execKill (t : Fin 1024) (s : State) : Out :=
  .next (s.dbgOp 3 t (decide ((s.thread t).st ≠ .waitTask)) (s.quiet t) fun s => s.kill 8 t.val)

/-! ## DBG_DATA: R269, Table 9.6 -/

def Thread.open' (x : Thread) : Bool := decide (x.st = .halted) || decide (x.st = .faulted)
def State.dbgItem (s : State) : Nat := s.fld ⟨dbgSel, 17, 10⟩

/-- The item that DBG_SEL names. -/
def State.dbgGet (s : State) (t n : Nat) : Pair :=
  let x := s.thread t
  if n < 24 then (x.r n).setWidth 28
  else if n < 32 then x.bank (n - 24)
  else if n = 32 then x.pc.setWidth 28
  else if 40 ≤ n ∧ n ≤ 56 then s.mfs t (n - 40)
  else if 64 ≤ n ∧ n ≤ 95 then (x.staged.getD (n - 64) 0).setWidth 28
  else 0
def State.dbgPut (s : State) (t n : Nat) (v : Pair) : State :=
  if n < 24 then s.modThread t fun x => x.setR n (loW v)
  else if n < 32 then s.modThread t fun x => x.setBank (n - 24) v
  else if n = 32 then s.modThread t fun x => { x with pc := v.extractLsb' 0 16 }
  else if 40 ≤ n ∧ n ≤ 56 then s.mts t (n - 40) v
  else s

def State.notHalted (s : State) : State := s.setFld ⟨dbgStatus, 17, 17⟩ 1
/-- A read of DBG_DATA, and a write. -/
def State.dbgRead (s : State) : Pair × State :=
  if (s.thread s.dbgThread).open' then (s.dbgGet s.dbgThread s.dbgItem, s) else (0, s.notHalted)
def State.dbgWrite (s : State) (v : Pair) : State :=
  if (s.thread s.dbgThread).open' then s.dbgPut s.dbgThread s.dbgItem v else s.notHalted

/-- DBG_DATA_ACCESS: what a read returns stands in `readData`. -/
def execDbgDataAccess (wr : Bool) (v : Pair) (s : State) : Out :=
  .next (if wr then s.regRow 0x1400114 v fun s => s.dbgWrite v else s.readRow 0x1400114 State.dbgRead)

end Sys2Proof.Machine
end

