-- ==== Sys2Proof/Machine/MemRows.lean ====
section
/-! DEFINITION. MemRows.lean: the commands of MEM (spec/13): service of DRAM requests by urgency, refresh, temperature,
sweeps, census, training, wipes begun by software, and scrub. -/

namespace Sys2Proof.Machine

/-! ## Urgency and service: R336 to R340 -/

/-- MEM.STATUS.STATE of channel k: 0 OFF, 1 TRAINING, 2 WIPING, 3 READY, 4 FAIL, 5 SELF-REFRESH. -/
def State.chState (s : State) (k : Nat) : Nat := s.fld ⟨memReg k 4, 2, 0⟩
def State.setChState (s : State) (k n : Nat) : State := s.setFld ⟨memReg k 4, 2, 0⟩ n
/-- The channel serves accesses: those of its wipe while it is WIPING. -/
def State.chServes (s : State) (k : Nat) : Bool := decide (s.chState k = 2) || decide (s.chState k = 3)
/-- Table 13.5: age thresholds in percent of TARGET. -/
def curve (c : Nat) : List Nat := match c with
  | 0 => [10, 25, 40, 55, 70, 85, 100]
  | 1 => [25, 50, 75, 100, 150, 200, 300]
  | 2 => [50, 100, 200, 400, 800, 1600, 3200]
  | _ => [100, 200, 400, 800, 1600, 3200, 6400]

/-- MEM.PORT_CFG[p] of channel k. -/
def portCfg (k p : Nat) : Nat := memReg k (0x20 + 4 * p)
/-- RESERVE of a port as it acts (R338). -/
def State.reserve (s : State) (k p : Nat) : Nat :=
  if s.fld ⟨genMode, 4, 4⟩ = 1 then (if p = 1 then 70 else if p = 0 then s.fld ⟨portCfg k 0, 20, 14⟩ else 0)
  else s.fld ⟨portCfg k p, 20, 14⟩

/-- The urgency of a request at channel k against tick `c`, the MCLK copy (R337). -/
def State.urgency (s : State) (k : Nat) (c : Tick) (r : DReq) : Nat :=
  let p := r.port.toNat
  let age := s.mclk k c.toNat - r.arr
  let target := s.fld ⟨portCfg k p, 11, 0⟩ * (if s.slowDimm k then 13 else 16)
  let byAge := ((curve (s.fld ⟨portCfg k p, 13, 12⟩)).filter fun pc => decide (pc * target ≤ age * 100)).length
  let byDl := match (if p < 2 then r.dl else none) with
    | some d =>
      let slack := (d - lo28 c).toNat
      if 2 ^ 27 ≤ slack ∨ slack ≤ s.fld ⟨memGlob 0, 23, 16⟩ then 7
      else if slack ≤ s.fld ⟨memGlob 0, 15, 8⟩ then 6
      else if slack ≤ s.fld ⟨memGlob 0, 7, 0⟩ then 5 else 0
    | none => 0
  let got := ((s.dchan k).bursts.filter fun b => decide (b = r.port)).length
  max (max byAge byDl) (if got * 100 < s.reserve k p * 256 then 6 else 0)

/-- The channel line of a request at channel k. -/
def State.reqPlace (s : State) (k : Nat) (r : DReq) : Option Nat := match r.m with
  | some m => some m
  | none => (s.place r.line).bind fun km => if km.1 = k then some km.2 else none
/-- Subchannel, rank and bank key of a request at channel k; none when its line has no storage. -/
def State.reqAt (s : State) (k : Nat) (r : DReq) : Option (Nat × Nat × Nat) :=
  (s.reqPlace k r).map fun m => (lineSc m, s.lineRk k m, s.lineBankKey k m)
/-- The operation ends in the write queue. -/
def LineOp.writes : LineOp → Bool
  | .write _ _ _ => true
  | .cas _ _ _ => true
  | .words _ => true
  | .visit wr => wr
  | .wipe => true
  | _ => false
/-- The request belongs to the move of an extent. -/
def Reply.isMove : Reply → Bool
  | .move _ => true
  | _ => false
/-- A request that subchannel `sc` may serve now: its rank issues no owed refreshes first (R343), its line is not being copied
(R331), and the write queue has room for it (R339). No line is copied while a channel wipes (notes/assumptions/9.md). -/
def State.reqOpen (s : State) (k sc : Nat) (r : DReq) : Bool :=
  match s.reqPlace k r with
  | some m =>
    decide (lineSc m = sc) && !SMap.get false (s.dchan k).flush (4 * sc + s.lineRk k m) &&
      (if r.reply.isMove then s.dchans.all fun d => d.2.wiping.isNone else r.m.isSome || !s.copyLine r.line) &&
      (!r.op.writes || s.wrRoom k m)
  | none => true
/-- The row of a request is open. -/
def State.rowHit (s : State) (k : Nat) (r : DReq) : Bool :=
  match s.reqPlace k r with
  | some m => decide ((s.shadow k (s.lineBankKey k m)).row = some (s.lineRow k m))
  | none => false

/-- Request a is chosen before b (R339). -/
def State.reqBefore (s : State) (k : Nat) (c : Tick) (a b : DReq) : Bool :=
  let ua := s.urgency k c a
  let ub := s.urgency k c b
  let ha := s.rowHit k a
  let hb := s.rowHit k b
  decide (ub < ua) || (decide (ua = ub) &&
    ((decide (ua < 7) && ha && !hb) || ((decide (ua = 7) || decide (ha = hb)) &&
      (decide (a.arr < b.arr) || (decide (a.arr = b.arr) && decide (a.port.toNat < b.port.toNat))))))

/-- The pair of the line that a request concerns; none when it is the whole line. -/
def DReq.pair (r : DReq) : Option Nat := match r.op with
  | .write w _ _ => some (w / 2)
  | .cas w _ _ => some (w / 2)
  | .read => match r.reply with
    | .load _ w _ => some (w / 2)
    | _ => none
  | _ => none
/-- Two requests reach the same pair address. -/
def DReq.cell (a b : DReq) : Bool :=
  a.m.isNone && b.m.isNone && decide (a.line = b.line) && (a.pair.isNone || b.pair.isNone || decide (a.pair = b.pair))
/-- Two requests of one master (Table 1.2) reach the same pair address. -/
def DReq.meets (a b : DReq) : Bool := decide (a.mkind = b.mkind) && decide (a.mid = b.mid) && decide (a.tag = b.tag) && a.cell b
/-- The number of a requester at a site (R310). -/
def State.siteNo (s : State) (r : DReq) : Option Nat := match r.reply, r.mkind with
  | .ring _ _ _, _ => some 150
  | _, 1 => some (r.mid / 8)
  | _, 2 => some (128 + r.mid / 4)
  | _, 3 => (s.qp r.mid).entry.map fun x => 136 + x.engine
  | _, 5 => some 145
  | _, _ => none
/-- CCLK count in which a request arrived at channel k. -/
def State.arrCclk (s : State) (k : Nat) (r : DReq) : Nat := if s.slowDimm k then (4 * r.arr + 12) / 13 * 4 else r.arr
/-- Request x reached the address of r in the same CCLK and goes before it: a wipe write, or a requester that the rotating pointer meets
first (R310). -/
def State.sitePrior (s : State) (k : Nat) (x r : DReq) : Bool :=
  decide (x.arr = r.arr) &&
    ((decide (x.op = .wipe) && decide (r.op ≠ .wipe) && decide (s.reqPlace k x = s.reqPlace k r)) ||
      (x.cell r && match s.siteNo x, s.siteNo r with
        | some a, some b =>
          let p := (Config.pointerPhase 6000 + s.arrCclk k r) % 151
          decide ((a + 151 - p) % 151 < (b + 151 - p) % 151)
        | _, _ => false))
/-- No earlier request of the same master to the same pair address waits (R23), and none of the same CCLK that goes before it (R310). -/
def State.reqFirst (s : State) (k : Nat) (r : DReq) : Bool :=
  (((s.dchan k).reqs.takeWhile fun x => decide (x ≠ r)).all fun x => !x.meets r) && (s.dchan k).reqs.all fun x => !s.sitePrior k x r
/-- The first of some requests (R339). -/
def State.firstReq (s : State) (k : Nat) (c : Tick) (l : List DReq) : Option DReq :=
  l.foldl (fun (b : Option DReq) r => match b with
    | none => some r
    | some x => if s.reqBefore k c r x then some r else some x) none
/-- What subchannel `sc` may serve: requests, and lines of the write queue. -/
def State.openReqs (s : State) (k sc : Nat) : List DReq :=
  ((s.dchan k).reqs.filter fun r => s.reqOpen k sc r && s.reqFirst k r) ++ (s.dchan k).wq.filter (s.reqOpen k sc)
/-- The request that subchannel `sc` of channel k serves next. -/
def State.pickReq (s : State) (k sc : Nat) (c : Tick) : Option DReq := s.firstReq k c (s.openReqs k sc)

/-- Completion status of a line fault: UNMAPPED, TAG-FAULT, POISON. -/
def statusOf (cause : Nat) : Nat := cause - 2
/-- Give a request its answer: LOAD_RESPONSE, STORE_ANSWER and ENTRY_CAS deliver it; WR of a ring moves. -/
def State.answerReq (s : State) (r : DReq) (a : Answer) : State :=
  let await (t : Fin 1024) : State := s.modThread t fun x => { x with await := x.await.map fun w => { w with ans := some a } }
  match r.reply with
  | .store t id => s.modThread t fun x =>
      { x with stores := x.stores.map fun p => if p.id = id then { p with ans := some a } else p }
  | .load t _ _ => await t
  | .cas t => await t
  | .entry q => s.modEntry q fun x => match a with
      | .cas o ok => { x with started := true, status := some 0, res0 := o, res1 := BitVec.ofNat 28 (b2n ok) }
      | .value _ => { x with started := true, status := some 0 }
      | .fault c => { x with started := true, status := some (BitVec.ofNat 6 (statusOf c.toNat)) }
  | .ring g run i => s.ringAnswer g run i (match a with
      | .fault _ => false
      | _ => true)
  | _ => s

/-- The requester of a waiting request. -/
def DReq.who (r : DReq) : Requester :=
  { slice := r.slice.toNat, port := r.port.toNat, dl := r.dl, mkind := r.mkind, mid := r.mid, tag := r.tag }
/-- What a read returns of its line. -/
def DReq.value (r : DReq) (d : BitVec 504) : Pair := match r.reply with
  | .load _ w true => linePair d w
  | .load _ w false => (lineWord d w).setWidth 28
  | _ => 0
/-- The answer of a line access. -/
def LineRes.answer (f : BitVec 504 → Pair) : LineRes → Answer
  | .ok d => .value (f d)
  | .fault c => .fault (BitVec.ofNat 6 c)

/-- A write was refused (R338, R351, R352, R358). -/
def State.memCfgErr (s : State) (k : Nat) : State := s.setFld ⟨memReg k 4, 4, 4⟩ 1

/-! ## Extent moves: R331 -/

/-- The engine asks for the line at the copy pointer, through port MOVE. -/
def State.askMove (s : State) (x : Nat) : State :=
  let e := s.extent x
  match e.moving with
  | some p =>
    if p < 2 ^ 24 then
      let km := placeIn e.group.toNat e.pbase.toNat p
      let q : DReq := { line := x * 2 ^ 24 + p, m := some km.2, op := .read, slice := 0, port := 5, dl := none,
                        arr := s.mclk km.1 s.tick.toNat, reply := .move x }
      s.modDchan km.1 fun d => { d with reqs := d.reqs ++ [q] }
    else s
  | none => s
/-- The line at the copy pointer has been read: its copy stands in the write queue of its new place (R339). -/
def State.copyOut (s : State) (x : Nat) : State :=
  let e := s.extent x
  match e.moving with
  | some p =>
    let km := placeIn e.toGroup.toNat e.toPbase.toNat p
    let q : DReq := { line := x * 2 ^ 24 + p, m := some km.2, op := .drain, slice := 0, port := 5, dl := none,
                      arr := s.mclk km.1 s.tick.toNat, reply := .move x }
    (s.modExtent x fun e => { e with copying := true }).putWrite km.1 q
  | none => s
/-- Requests and visits of extent x's lines go to the channel that has the line now. -/
def State.rehome (s : State) (x : Nat) : State :=
  s.each (List.range 16) fun s k =>
    let away (l : Nat) : Bool := decide (l / 2 ^ 24 = x) && decide ((s.place l).map (·.1) ≠ some k)
    let rs := (s.dchan k).reqs.filter fun q => q.m.isNone && away q.line
    let vs := (s.dchan k).visits.filter fun v => away v.line
    let s := if rs = [] ∧ vs = [] then s else s.modDchan k fun d =>
      { d with reqs := d.reqs.filter fun q => q.m.isSome || !away q.line, visits := d.visits.filter fun v => !away v.line }
    let s := s.each rs fun s q => match s.place q.line with
      | some (j, _) => s.modDchan j fun d => { d with reqs := d.reqs ++ [q] }
      | none => s.answerReq q (.fault 6)
    s.each vs fun s v => match s.place v.line with
      | some (j, _) => s.modDchan j fun d => { d with visits := d.visits ++ [v] }
      | none => s
/-- The copy of the line at the pointer has been written: accesses to it go to the new place, and the next line follows. -/
def State.copied (s : State) (x : Nat) : State := match (s.extent x).moving with
  | some p => ((s.modExtent x fun e => { e with moving := some (p + 1), copying := false }).rehome x).askMove x
  | none => s

/-! ## Wipes: R358 -/

def wipeStatus : Nat := memGlob 0x24
/-- Lines of channel k (R332). -/
def State.chLines (s : State) (k : Nat) : Nat := 2 ^ (13 + s.rankLog k + s.rowBits k)
/-- Extents that have storage: those of the map and, while DRAM has no extents, those of the copy of the fatal path, whose lines the
modules hold (R455). -/
def State.storedExts (s : State) : List (Nat × Extent) :=
  List.filter (fun x : Nat × Extent => x.2.valid) (s.exts ++ (if s.extents = 0 then s.savedExts else []))
/-- Offsets in an extent with a group and a chunk whose channel line may be m of channel k (R329). -/
def offsetsAt (group pbase k m : Nat) : List Nat :=
  let c := m / 2 ^ 20
  if 4 ≤ group then (if c = pbase then (List.range 16).map (· + 16 * (m % 2 ^ 20)) else [])
  else if pbase ≤ c ∧ c < pbase + 4 ∧ k / 4 = group then (List.range 4).map (· + 4 * (m - pbase * 2 ^ 20)) else []
/-- The logical line at channel line m of channel k, when an extent has it there now (R329, R331). -/
def State.logical (s : State) (k m : Nat) : Option Nat :=
  s.storedExts.findSome? fun x =>
    let e := x.2
    let old := offsetsAt e.group.toNat e.pbase.toNat k m
    let new := if e.moving.isSome then offsetsAt e.toGroup.toNat e.toPbase.toNat k m else []
    ((old ++ new).find? fun o => decide (e.at o = (k, m))).map (· + x.1 * 2 ^ 24)
/-- The channel line that a logical line has now. -/
def State.stored (s : State) (l : Nat) : Option (Nat × Nat) :=
  (s.storedExts.find? fun x => decide (x.1 = l / 2 ^ 24)).map fun x => x.2.at (l % 2 ^ 24)

/-- The next line of a channel's wipe waits for its turn at port MAINT. -/
def State.askWipe (s : State) (k : Nat) : State := match (s.dchan k).wiping with
  | some w =>
    if w.next < w.stop then
      let q : DReq := { line := (s.logical k w.next).getD 0, m := some w.next, op := .wipe, slice := w.slice, port := 6, dl := none,
                        arr := s.mclk k s.tick.toNat, reply := .none }
      s.modDchan k fun d => { d with reqs := d.reqs ++ [q] }
    else s
  | none => s
/-- Channel k takes no more wipe writes. -/
def State.dropWipe (s : State) (k : Nat) : State :=
  if (s.dchan k).wiping.isNone then s
  else s.modDchan k fun d => { d with wiping := none, reqs := d.reqs.filter fun q => decide (q.op ≠ .wipe) }
/-- Channel k begins to wipe; a training that wipes it ends with this wipe. -/
def State.beginWipe (s : State) (k : Nat) (w : Wiping) : State :=
  let t := ((s.dchan k).wiping.map Wiping.train).getD false
  ((s.dropWipe k).modDchan k fun d => { d with wiping := some { w with train := w.train || t } }).askWipe k
/-- The lines of an extent at a place are wiped to slice o. -/
def State.wipePlace (s : State) (group pbase o : Nat) : State :=
  let span (n : Nat) : Wiping := { first := pbase * 2 ^ 20, next := pbase * 2 ^ 20, stop := (pbase + n) * 2 ^ 20, slice := BitVec.ofNat 6 o, train := false }
  if 4 ≤ group then s.each (List.range 16) fun s k => s.beginWipe k (span 1)
  else s.each (List.range 4) fun s j => s.beginWipe (4 * group + j) (span 4)
/-- An extent is wiped; one that moves is wiped when its move has ended. -/
def State.wipeOf (s : State) (x o : Nat) : State :=
  if (s.extent x).valid ∧ (s.extent x).moving = none then s.wipePlace (s.extent x).group.toNat (s.extent x).pbase.toNat o else s
/-- The channels begin the wipe that is due: software's before that of SLC's command. -/
def State.beginWipes (s : State) : State := match s.wipe, s.slcCmd with
  | some .all, _ => s.each (List.range 16) fun s k => s.beginWipe k { next := 0, stop := s.chLines k, slice := 0, train := false }
  | some (.extent x o), _ => s.wipeOf x o.toNat
  | none, some c =>
    if c.op = 3 then match c.place with
      | some p => s.wipePlace p.1.toNat p.2.toNat c.slice.toNat
      | none => s
    else if c.op = 4 ∨ (c.op = 2 ∧ (s.slice c.slice.toNat).destroying) then s.wipeOf c.ext 0
    else s
  | none, none => s
/-- The wipe that is due begins, unless one is in progress: it then begins when that one ends. -/
def State.startWipes (s : State) : State :=
  if s.dchans.any fun d => d.2.wiping.any fun w => !w.train then s else s.beginWipes
/-- Percent of the lines of the channels' wipes that are done. -/
def State.wipeShare (s : State) : Nat :=
  let ws := s.dchans.filterMap fun d => d.2.wiping
  let n := (ws.map fun w => w.stop - w.first).sum
  if n = 0 then 100 else 100 * (ws.map fun w => w.next - w.first).sum / n

/-! ## Training: R326, R327, R352, R353, R355 -/

/-- Training of channel k fails (R353). -/
def State.memTrainFail (s : State) (k cause step lane rank sc : Nat) : State :=
  let w := s.fld ⟨memReg k 0x10, 23, 17⟩
  let s := s.setReg (memReg k 0x10)
    (BitVec.ofNat 28 (step + 16 * 3 + 64 * cause + 512 * lane + 2 ^ 14 * rank + 2 ^ 16 * sc + 2 ^ 17 * w))
  let s := (((s.dropWipe k).modDchan k fun d => { d with trained := false }).setChState k 4).setFld ⟨0x8, 12, 0⟩ 0
  s.err { src := 9, code := 6, cls := 2, unit := k, info := [(s.reg (memReg k 0x10)).toNat] }

/-- DIMM of a module population (Table 13.10). -/
def spdDimm (d : Spd) : Nat :=
  d.dpc.toNat + 4 * d.ranks.toNat + 16 * b2n d.die + 32 * b2n (decide (d.dpc = 2)) + 64 * b2n d.rfmReq + 128 * b2n d.drfm
/-- A module set of Table 13.1 and R326. -/
def spdOk (d : Spd) : Bool :=
  d.supported && d.fastEnough && (decide (d.dpc = 1) || decide (d.dpc = 2)) && (decide (d.ranks = 1) || decide (d.ranks = 2))
/-- Channel k has read a population, and it is not that of DC0 (R327). -/
def State.dimmDiffers (s : State) (k : Nat) : Bool :=
  let own := s.reg (memReg k 8)
  let first := s.reg (memReg 0 8)
  decide (ext own 1 0 ≠ 0) && decide (ext first 1 0 ≠ 0) && decide (ext own 5 0 ≠ ext first 5 0)

/-- TRAIN_START: a write of TRAIN_CTL with START (R352); the SPD is checked (R327), on DC0 against the channels trained before
it. -/
def State.trainStart (s : State) (k : Nat) (v : Pair) (d : Spd) : State :=
  let s := s.setFld ⟨memReg k 0xC, 8, 1⟩ (ext v 8 1)
  if bit v 0 = false then s
  else if s.gen = 3 then s.memCfgErr k
  else
    let s := ((s.setReg (memReg k 0x10) (BitVec.ofNat 28 (1 + 16))).setChState k 1).setFld ⟨memReg k 4, 3, 3⟩ 0
    let s := (s.dropWipe k).modDchan k fun x => { x with trained := false, eyes := [] }
    let s := (s.setReg (memReg k 8) (BitVec.ofNat 28 (spdDimm d))).setFld ⟨memReg k 0x40, 16, 16⟩ (b2n d.drfm)
    let s := if spdOk d = false ∨ s.dimmDiffers k then s.memTrainFail k 1 2 0 0 0 else s.setFld ⟨memReg k 0x10, 3, 0⟩ 2
    if k = 0 then
      s.each ((List.range 16).filter fun j => s.dimmDiffers j && decide (1 ≤ s.chState j) && decide (s.chState j ≤ 3)) fun s j =>
        s.memTrainFail j 1 2 0 0 0
    else s
def execTrainStart (k : Fin 16) (v : Pair) (spd : Spd) (s : State) : Out :=
  .next (s.regRow (memReg k 0xC) v fun s => s.trainStart k.val v spd)

/-- The extent map comes back from the copy of the fatal path, with every extent owned by slice 0, when each channel was in
self-refresh and has been trained with KEEP (R455). -/
def State.reloadExts (s : State) : State :=
  if s.fld ⟨0x3400040, 5, 5⟩ = 1 ∧ s.fld ⟨0x3400040, 24, 9⟩ = 0xFFFF ∧
      ((List.range 16).all fun k => decide (s.fld ⟨memReg k 4, 3, 3⟩ = 1)) then
    State.tidyLines { s with exts := SMap.mapVals {} (fun e => { e with owner := 0 }) s.savedExts }
  else s
/-- Every channel has passed training (R352). -/
def State.allTrained (s : State) : Bool := (List.range 16).all fun k => (s.dchan k).trained
/-- Step 10 of Table 17.4: TRAINING ends once every channel has passed, and the ports that CONFIG lists are UP or in FAIL, or its link
wait has passed. -/
def State.bootReady (s : State) : State :=
  let settled := (s.boot.links.all fun p => [6, 8].contains (s.fld ⟨lnk p 4, 3, 0⟩)) || decide (s.boot.linkUntil ≤ s.uclk)
  if s.gen = 1 ∧ s.allTrained ∧ settled then s.setGen 2 else s
/-- Once every channel has passed: GEN.DRAM_TOP.EXTENTS of the population (Table 13.2), READY where no link is awaited, and the
WIPED fuse of an owed wipe (R442). -/
def State.setTop (s : State) : State :=
  if s.allTrained then
    let s := (s.setFld ⟨0x8, 12, 0⟩ (2 ^ (s.rankLog 0 + s.rowBits 0 - 7))).reloadExts
    let s := if s.boot.otp.wipeOwed then { s with boot := { s.boot with otp := s.boot.otp.blowWiped } } else s
    s.bootReady
  else s

/-- Step 10 of Table 13.7: RESULT 2 and READY. -/
def State.trainDone (s : State) (k : Nat) : State :=
  (((s.setFld ⟨memReg k 0x10, 5, 0⟩ (10 + 16 * 2)).setChState k 3).modDchan k fun d => { d with trained := true }).setTop
/-- KEEP acts, unless a wipe is owed (R355, R442). -/
def State.keeps (s : State) (k : Nat) : Bool := decide (s.fld ⟨memReg k 0xC, 1, 1⟩ = 1) && !s.boot.otp.wipeOwed
/-- Every sweep of channel k has passed (R352): with KEEP its lines and tags stay (R355); without, it is WIPING until every line
of it is wiped. -/
def State.trainPass (s : State) (k : Nat) : State :=
  if s.keeps k then (s.setFld ⟨memReg k 4, 3, 3⟩ 1).trainDone k
  else ((s.setChState k 2).setFld ⟨memReg k 0x10, 3, 0⟩ 9).beginWipe k { next := 0, stop := s.chLines k, slice := 0, train := true }

/-! ### What the sweeps find: R353 -/

/-- Start and length of the longest run of true, the first on a tie. -/
def longRun (l : List Bool) : Nat × Nat :=
  (l.foldl (fun (a : Nat × Nat × Nat × Nat) b =>
    let n := if b then a.2.1 + 1 else 0
    (a.1 + 1, n, if a.2.2.2 < n then (a.1 + 1 - n, n) else (a.2.2.1, a.2.2.2))) (0, 0, 0, 0)).2.2
/-- The lower midpoint of a run. -/
def runMid (r : Nat × Nat) : Nat := r.1 + (r.2 - 1) / 2
/-- The delays 0 to 127 that pass. -/
def passing (b : BitVec 128) : List Bool := (List.range 128).map fun i => b.getLsbD i
/-- The centre of a sweep over Vref values from 0 on (R353): v*, d* and Wmax. -/
def sweepEye (points : List (BitVec 128)) : Eye :=
  let ws := points.map fun b => longRun (passing b)
  let top := ws.foldl (fun m w => max m w.2) 0
  let v := runMid (longRun (ws.map fun w : Nat × Nat => decide (3 * top ≤ 4 * w.2)))
  { vref := v, delay := runMid (ws.getD v (0, 0)), width := top }
/-- Write leveling: the delay at the first 0-to-1 transition of the sampled CK, with width 1; 0 where there is none. -/
def levelEye (b : BitVec 128) : Eye := match (List.range 128).find? fun i => decide (0 < i) && b.getLsbD i && !b.getLsbD (i - 1) with
  | some i => { delay := i, width := 1 }
  | none => {}
/-- What a step found for one lane: CS sweeps delay only (R353), the read gate is placed at the centre of the preamble. -/
def pointEye (p : TrainPoint) : Eye := match p.step.toNat with
  | 3 => sweepEye (p.points.take 1)
  | 5 => levelEye (p.points.headD 0)
  | 6 => sweepEye (p.points.take 1)
  | _ => sweepEye (p.points.take 64)
/-- Lanes of a subchannel that a step finds a result for: CS and CA have one. -/
def stepLanes (step : Nat) : Nat := if step ≤ 4 then 1 else 10
/-- Key of a result. -/
def eyeKey (step sc rk lane : Nat) : Nat := ((step * 2 + sc) * 4 + rk) * 16 + lane
def pointKey (p : TrainPoint) : Nat := eyeKey p.step.toNat (b2n p.sc) p.rank.toNat p.lane.toNat
/-- The result is one of channel k's. -/
def State.trainPlace (s : State) (k : Nat) (p : TrainPoint) : Bool :=
  decide (3 ≤ p.step.toNat) && decide (p.step.toNat ≤ 8) && decide (p.rank.toNat < 2 ^ s.rankLog k) &&
    decide (p.lane.toNat < stepLanes p.step.toNat)
/-- Cause of a failed step (Table 13.9). -/
def stepCause (step : Nat) : Nat := match step with
  | 3 => 2
  | 4 => 3
  | 5 => 4
  | 6 => 5
  | _ => 6
/-- The step fails on the lane. -/
def State.eyeFails (s : State) (k step : Nat) (e : Eye) : Bool :=
  if step = 5 ∨ step = 6 then decide (e.width = 0) else decide (e.width < s.fld ⟨memReg k 0xC, 8, 2⟩)
/-- Smallest Wmax of the sweeps. -/
def worstEye (m : SMap Eye) : Nat :=
  (m.filter fun x => decide (x.1 / 128 ≠ 5) && decide (x.1 / 128 ≠ 6)).foldl (fun b x => min b x.2.width) 127
/-- One result of the training of channel k. Lanes of subchannel B are 10 to 19. -/
def State.trainPoint (s : State) (k : Nat) (p : TrainPoint) : State :=
  if s.trainPlace k p = false then s
  else
    let s := s.modDchan k fun d => { d with eyes := SMap.put (pointKey p) (pointEye p) d.eyes }
    let s := (s.setFld ⟨memReg k 0x10, 3, 0⟩ p.step.toNat).setFld ⟨memReg k 0x10, 23, 17⟩ (worstEye (s.dchan k).eyes)
    if s.eyeFails k p.step.toNat (pointEye p) then
      s.memTrainFail k (stepCause p.step.toNat) p.step.toNat (p.lane.toNat + 10 * b2n p.sc) p.rank.toNat (b2n p.sc)
    else s
/-- Results one after another; a failure stops the channel. -/
def State.trainPoints (s : State) (k : Nat) : List TrainPoint → State
  | [] => s
  | p :: ps => if s.chState k ≠ 1 then s else (s.trainPoint k p).trainPoints k ps
/-- Every step has a result for each lane and rank. -/
def State.trainedAll (s : State) (k : Nat) : Bool :=
  [3, 4, 5, 6, 7, 8].all fun st => (List.range 2).all fun sc => (List.range (2 ^ s.rankLog k)).all fun rk =>
    (List.range (stepLanes st)).all fun l => (SMap.find? (s.dchan k).eyes (eyeKey st sc rk l)).isSome
/-- TRAIN_END: what the PHY sweeps of a channel in training found (R353). It passes once every result is there. -/
def State.trainEnd (s : State) (k : Nat) (ps : List TrainPoint) : State :=
  if s.chState k ≠ 1 then s
  else
    let s := s.trainPoints k ps
    if s.chState k = 1 ∧ s.trainedAll k then s.trainPass k else s
def execTrainEnd (k : Fin 16) (o : List TrainPoint) (s : State) : Out := .next (s.trainEnd k.val o)

/-! ## Lines wiped, and DRAM_ACCESS: R339, R356, R358 -/

/-- Channel line m of channel k is wiped: zeros, kind 0b00 and the new slice; the write is in the write queue. -/
def State.wipeLine (s : State) (k m : Nat) (o : BitVec 6) : State := match s.logical k m with
  | some l => (s.modLine l fun _ => { slice := o }).pushWrite asMaint k m l
  | none => s.pushWrite asMaint k m 0
/-- The wipe write of a channel's next line. -/
def State.wipeNext (s : State) (k : Nat) : State := match (s.dchan k).wiping with
  | some w =>
    let s := (s.wipeLine k w.next w.slice).modDchan k fun d => { d with wiping := some { w with next := w.next + 1 } }
    let s := if s.wipe.isSome then s.setFld ⟨wipeStatus, 9, 3⟩ s.wipeShare else s
    if w.next + 1 < w.stop then s.askWipe k else if w.train ∧ s.wipe.isNone then (s.dropWipe k).trainDone k else s
  | none => s
/-- OWED of a rank (Table 13.10). -/
def owedFld (k sc rk : Nat) : Fld := ⟨memReg k 0x18, 3 * (4 * sc + rk) + 2, 3 * (4 * sc + rk)⟩
/-- Precharge the rank and issue one REF (R342, R348), which lowers the counts of R348's RFM by what one RFM does. -/
def State.issueRef (s : State) (k sc rk : Nat) : State :=
  let s := s.each (List.range 32) fun s b => s.modShadow k (bankKey sc rk b) fun t =>
    { t with row := none, raa := t.raa - raaMax k }
  s.modDchan k fun d => { d with refs := SMap.modify 0 d.refs (4 * sc + rk) (· + 1) }
/-- Channel k issues every owed REF of its ranks; `hot`: of those whose owed refreshes come before any access (R343, R344). -/
def State.catchUp (s : State) (k : Nat) (hot : Bool) : State :=
  s.each ((List.range 2).flatMap fun sc => (List.range 4).map fun rk => (sc, rk)) fun s x =>
    if hot ∧ SMap.get false (s.dchan k).flush (4 * x.1 + x.2) = false then s
    else
      let n := s.fld (owedFld k x.1 x.2)
      ((s.each (List.range n) fun s _ => s.issueRef k x.1 x.2).setFld (owedFld k x.1 x.2) 0).modDchan k fun d =>
        { d with flush := SMap.set false d.flush (4 * x.1 + x.2) false }
/-- Channel lines a to b of channel k are accessed one after another by maintenance, behind the refreshes that come first. -/
def State.passLines (s : State) (port k a b : Nat) : State := if b ≤ a then s else (s.catchUp k true).sweepRows port k a b
/-- The lines of channel k that its wipe has not reached are wiped, and a training that the wipe ends is done. -/
def State.wipeRest (s : State) (k : Nat) : State := match (s.dchan k).wiping with
  | some w =>
    let s := s.passLines 6 k w.next w.stop
    let zero (s : State) (l : Nat) : State := s.modLine l fun _ => { slice := w.slice }
    let inside (l : Nat) : Bool := match s.stored l with
      | some (j, m) => decide (j = k) && decide (w.next ≤ m) && decide (m < w.stop)
      | none => false
    let s := s.each ((s.lines.map (·.1)).filter inside) zero
    let s := s.each (if w.train then s.storedExts.filter fun x => decide (x.2.tagOf ≠ w.slice) else []) fun s x =>
      s.each (((List.range (2 ^ 24)).map (· + x.1 * 2 ^ 24)).filter inside) zero
    let s := s.dropWipe k
    if w.train then s.trainDone k else s
  | none => s
/-- Lines of extent x that no write has reached have tag slice o. -/
def State.retag (s : State) (x o : Nat) : State :=
  (s.modExtent x fun e => { e with tagOf := BitVec.ofNat 6 o }).tidyLines
/-- Every line of extent x is zero, with tag slice o and kind 0b00 (R358). -/
def State.wipeExt (s : State) (x o : Nat) : State :=
  { s.modExtent x (fun e => { e with tagOf := BitVec.ofNat 6 o }) with lines := s.lines.filter fun l => !decide (l.1 / 2 ^ 24 = x) }

/-- A request meets its line (R334, R335, R340): whether its row was opened for it, and whether the line has an uncorrectable error. -/
def State.serveAt (s : State) (r : DReq) (k m : Nat) (acted : Option Bool) (ue : Bool) : State :=
  match r.op with
  | .read => match r.reply with
    | .move x => s.copyOut x
    | _ =>
      let x := s.readAt r.who k m r.line acted ue
      x.2.answerReq r (x.1.answer r.value)
  | .write w pair v =>
    let x := s.writeAt r.who k m r.line acted ue .part (fun d => linePut d w pair v)
    x.2.answerReq r (x.1.answer fun _ => 0)
  | .words d =>
    let x := s.writeAt r.who k m r.line acted ue .part (fun _ => d)
    x.2.answerReq r (x.1.answer fun _ => 0)
  | .cas w cmp new => match s.casAt r.who k m r.line acted ue w cmp new with
    | (.ok (o, ok), s) => s.answerReq r (.cas o ok)
    | (.error c, s) => s.answerReq r (.fault (BitVec.ofNat 6 c))
  | .visit _ => match r.reply with
    | .op h => s.modDchan k fun d => { d with visits := d.visits ++ [{ h := h, line := r.line, acted := acted, ue := ue }] }
    | _ => s
  | _ => s
/-- A line of the write queue, or the copy of an extent's line, is written: a column access (R339, R350). -/
def State.drainLine (s : State) (r : DReq) (k m : Nat) : State :=
  let x := s.openRow k m
  let s := (x.2.burst k r.port.toNat).census r.port.toNat k m r.line (some x.1)
  match r.reply with
  | .move e => s.copied e
  | _ => s
/-- Channel k serves a request. What stands in the write queue is read from there, without a check of its ECC bits (R339, R356). -/
def State.serveDram (s : State) (k : Nat) (r : DReq) (ecc : Ecc) : State :=
  let s := s.modDchan k fun d => { d with reqs := d.reqs.erase r, wq := d.wq.erase r }
  match s.reqPlace k r, r.op with
  | none, _ => s.answerReq r (.fault 6)
  | some m, .drain => s.drainLine r k m
  | some _, .wipe => s.wipeNext k
  | some m, _ =>
    let ecc := if s.wrPending k m then Ecc.ok else ecc
    let x := s.lineOpen r.who k m r.op.writes
    match ecc with
    | .ok => x.2.serveAt r k m x.1 false
    | .ce d => (x.2.eccCe k m r.line r.port.toNat d.val).serveAt r k m x.1 false
    | .ue => (x.2.eccUe k m r.line r.port.toNat).serveAt r k m x.1 true
/-- DRAM_ACCESS: subchannel `sc` of channel k serves a request (R339, R356). -/
def State.dramAccess (s : State) (k sc : Nat) (ecc : Ecc) : State :=
  let (c, s) := s.mclkCopy
  match (if s.chServes k then s.pickReq k sc c else none) with
  | none => s
  | some r => s.serveDram k r ecc
def execDramAccess (k : Fin 16) (sc : Bool) (ecc : Ecc) (s : State) : Out := .next (s.dramAccess k.val (b2n sc) ecc)

/-! ## Refresh and temperature: R341 to R344, R348 -/

def State.rankOk (s : State) (k rk : Nat) : Bool := decide (rk < 2 ^ s.rankLog k)

/-- An RT request waits for the rank at urgency HOLD or above (R342). -/
def State.rtWaits (s : State) (k sc rk : Nat) (c : Tick) : Bool :=
  ((s.dchan k).reqs ++ (s.dchan k).wq).any fun r => decide (r.port.toNat < 2) && decide ((s.reqAt k r).map (fun x => (x.1, x.2.1)) = some (sc, rk)) &&
    decide (s.fld ⟨memReg k 0x14, 2, 0⟩ ≤ s.urgency k c r)

/-- REFRESH_DUE: issued, postponed or split (R342). -/
def State.refreshDue (s : State) (k sc rk : Nat) : State :=
  if ¬ s.chServes k ∨ ¬ s.rankOk k rk then s
  else
    let (c, s) := s.mclkCopy
    if s.rtWaits k sc rk c then
      if s.fld (owedFld k sc rk) < 4 then (s.setFld (owedFld k sc rk) (s.fld (owedFld k sc rk) + 1)).memCount k 5
      else (s.issueRef k sc rk).memCount k 6
    else s.issueRef k sc rk
def execRefreshDue (k : Fin 16) (sc : Bool) (rk : Fin 4) (s : State) : Out := .next (s.refreshDue k.val (b2n sc) rk.val)

/-- OWED_REFRESH: one owed REF while no RT request holds it off, or while a hot module's owed REFs come first (R342,
R343). -/
def State.owedRefresh (s : State) (k sc rk : Nat) : State :=
  let (c, s) := s.mclkCopy
  let n := s.fld (owedFld k sc rk)
  if s.chServes k ∧ 0 < n ∧ (SMap.get false (s.dchan k).flush (4 * sc + rk) ∨ s.rtWaits k sc rk c = false) then
    let s := (s.issueRef k sc rk).setFld (owedFld k sc rk) (n - 1)
    if n = 1 then s.modDchan k fun d => { d with flush := SMap.set false d.flush (4 * sc + rk) false } else s
  else s
def execOwedRefresh (k : Fin 16) (sc : Bool) (rk : Fin 4) (s : State) : Out := .next (s.owedRefresh k.val (b2n sc) rk.val)

/-- SHADOW_CLEAR: after 8,192 REFs every COUNT and SPILL of the rank is cleared (R348). -/
def State.shadowClear (s : State) (k sc rk : Nat) : State :=
  if SMap.get 0 (s.dchan k).refs (4 * sc + rk) < 8192 then s
  else
    let s := s.modDchan k fun d => { d with refs := SMap.modify 0 d.refs (4 * sc + rk) (· - 8192) }
    s.each (List.range 32) fun s b => s.modShadow k (bankKey sc rk b) fun t =>
      { t with spill := 0, rows := t.rows.map fun x => (x.1, (x.2.1, 0)) }
def execShadowClear (k : Fin 16) (sc : Bool) (rk : Fin 4) (s : State) : Out := .next (s.shadowClear k.val (b2n sc) rk.val)

/-- The reading of module i of channel k (R343). Ranks of module i: RANKS of them, from i × RANKS on. -/
def State.moduleTemp (s : State) (k i t : Nat) : State :=
  let s := s.setFld ⟨memReg k 0x1C, 8 * i + 7, 8 * i⟩ t
  let rks := (List.range (s.fld ⟨memReg k 8, 3, 2⟩)).map (· + i * s.fld ⟨memReg k 8, 3, 2⟩)
  let s :=
    if 85 < t then
      (s.setFld ⟨memReg k 0x1C, 16 + i, 16 + i⟩ 1).each ((List.range 2).flatMap fun sc => rks.map fun rk => (sc, rk)) fun s x =>
        if 0 < s.fld (owedFld k x.1 x.2) then
          s.modDchan k fun d => { d with flush := SMap.set false d.flush (4 * x.1 + x.2) true } else s
    else if t ≤ 83 then s.setFld ⟨memReg k 0x1C, 16 + i, 16 + i⟩ 0
    else s
  if 95 < t then
    let s := s.setFld ⟨memReg k 0x1C, 18 + i, 18 + i⟩ 1
    (s.err { src := 9, code := 4, cls := 2, unit := k, info := [(s.reg (memReg k 0x1C)).toNat] }).fireGlint 8 1 0 false
  else s

/-- TEMP_READING of every module of channel k (R343). -/
def State.tempReading (s : State) (k t0 t1 : Nat) : State :=
  let n := s.fld ⟨memReg k 8, 1, 0⟩
  let s := if 1 ≤ n then s.moduleTemp k 0 t0 else s
  if 2 ≤ n then s.moduleTemp k 1 t1 else s
def execTempReading (k : Fin 16) (t0 : BitVec 8) (t1 : BitVec 8) (s : State) : Out := .next (s.tempReading k.val t0.toNat t1.toNat)

/-- SWEEP_END: the bank's entries and SPILL are cleared (R347). -/
def State.sweepEnd (s : State) (k b : Nat) : State :=
  if (s.shadow k b).sweeping then s.modShadow k b fun t => { t with sweeping := false, rows := [], spill := 0 } else s
def execSweepEnd (k : Fin 16) (sc : Bool) (rk : Fin 4) (bank : Fin 32) (s : State) : Out :=
  .next (s.sweepEnd k.val (bankKey (b2n sc) rk.val bank.val))

/-- WRITE_TIMING_CHECK: an oscillator result that lies two steps or more from its value at training moves the rank's
write DQ delays by as much (R354). -/
def State.writeTiming (s : State) (k rk : Nat) (osc : Int) : State :=
  if s.chServes k ∧ s.rankOk k rk ∧ 2 ≤ osc.natAbs then s.modDchan k fun d => { d with drift := SMap.set 0 d.drift rk osc } else s
def execWriteTimingCheck (k : Fin 16) (rk : Fin 4) (osc : Int) (s : State) : Out := .next (s.writeTiming k.val rk.val osc)

/-! ## Census: R349, R351 -/

def censusState (k : Nat) : Fld := ⟨memReg k 0x48, 4, 3⟩

/-- Entries in the order in which the split keeps them: highest COUNT, then lowest index. -/
def Shadow.best (t : Shadow) : List (Nat × Nat × Nat) :=
  t.rows.mergeSort fun a b => decide (b.2.2 < a.2.2) || (decide (a.2.2 = b.2.2) && decide (a.1 ≤ b.1))

/-- The split of a table (R349). -/
def Shadow.split (t : Shadow) : Shadow :=
  let l := t.best
  { t with rows := (l.take 16).zipIdx.map (fun x => (x.2, x.1.2)), census := [],
           spill := max t.spill (((l.drop 16).head?.map (·.2.2)).getD 0) }

/-- CENSUS_START (R349, R351). -/
def State.censusStart (s : State) (k : Nat) : State :=
  if s.censusOn k then s.memCfgErr k
  else (s.modDchan k fun d => { d with shadow := SMap.mapVals {} Shadow.split d.shadow, censusAt := s.tick.toNat }).setFld
    (censusState k) 1
def execCensusStart (k : Fin 16) (s : State) : Out := .next (s.regRow (memReg k 0x48) 1 fun s => s.censusStart k.val)

/-- The census ends; its entries freeze (R351). -/
def State.censusEnd (s : State) (k : Nat) : State := if s.censusOn k then s.setFld (censusState k) 2 else s
/-- CENSUS_STOP. -/
def execCensusStop (k : Fin 16) (s : State) : Out := .next (s.regRow (memReg k 0x48) 2 fun s => s.censusEnd k.val)

/-- A channel's census entries go, as after CLEAR (Table 16.3). -/
def State.loseCensus (s : State) (k : Nat) : State :=
  (s.modDchan k fun d => { d with shadow := SMap.mapVals {} (fun t => { t with census := [] }) d.shadow }).setFld (censusState k) 0
/-- CENSUS_CLEAR: frozen entries go and STATE becomes OFF (Table 13.10). -/
def State.censusClear (s : State) (k : Nat) : State := if s.fld (censusState k) = 2 then s.loseCensus k else s
def execCensusClear (k : Fin 16) (s : State) : Out := .next (s.regRow (memReg k 0x48) 4 fun s => s.censusClear k.val)

/-- CENSUS_WINDOW_END: WINDOW µs have passed; WINDOW 0 has no end (R351). -/
def State.censusWindowEnd (s : State) (k : Nat) : State :=
  let w := s.fld ⟨memReg k 0x44, 22, 7⟩
  if w ≠ 0 ∧ (s.dchan k).censusAt + 400 * w ≤ s.tick.toNat then s.censusEnd k else s
def execCensusWindowEnd (k : Fin 16) (s : State) : Out := .next (s.censusWindowEnd k.val)

/-! ## WIPE_CMD and scrub: R357, R358 -/

/-- A write of WIPE_CMD (R358): while BUSY it is ignored and sets CFG_ERR. -/
def State.wipeCmd (s : State) (v : Pair) : State :=
  if s.fld ⟨wipeStatus, 0, 0⟩ = 1 then s.memCfgErr 0
  else
    let s := s.setReg (memGlob 0x20) (v &&& bits 19 0)
    let code (n : Nat) : State := s.setReg wipeStatus (BitVec.ofNat 28 (2 * n))
    let start (w : Wipe) : State := ({ s.setReg wipeStatus 1 with wipe := some w } : State).beginWipes
    if bit v 20 = false then s
    else if ext v 27 21 ≠ 0 then code 2
    else match ext v 1 0 with
      | 1 => if s.gen = 3 then code 1 else start .all
      | 2 => if s.extents ≤ ext v 13 2 then code 2 else start (.extent (ext v 13 2) (ext v 19 14))
      | _ => code 2
/-- WIPE_ALL: OP ALL with GO. -/
def execWipeAll (v : Pair) (s : State) : Out :=
  .next (s.when (decide (ext v 1 0 = 1)) fun s => s.regRow (memGlob 0x20) v fun s => s.wipeCmd v)
/-- WIPE_EXTENT: OP EXTENT with GO. -/
def execWipeExtent (v : Pair) (s : State) : Out :=
  .next (s.when (decide (ext v 1 0 = 2)) fun s => s.regRow (memGlob 0x20) v fun s => s.wipeCmd v)

/-- MCLK between two reads of the patrol: PERIOD hours over the lines of the channel (R357). -/
def State.scrubStep (s : State) (k : Nat) : Nat :=
  s.fld ⟨memReg k 0x60, 7, 0⟩ * 3600 * (if s.slowDimm k then 1300000000 else 1600000000) / s.chLines k
/-- The patrol's request, waiting at port MAINT since its line fell due. -/
def State.scrubReq (s : State) (k : Nat) : DReq :=
  { line := (s.logical k (s.dchan k).scrub).getD 0, m := some (s.dchan k).scrub, op := .visit false, slice := 0, port := 6, dl := none,
    arr := (s.dchan k).scrubAt, reply := .none }
/-- The patrol reads its line (R357). A line that no extent has reads as slice 0's (R329); its logical address is a free value. -/
def State.scrubLine (s : State) (k : Nat) (ecc : Ecc) : State :=
  let m := (s.dchan k).scrub
  let ecc := if s.wrPending k m then Ecc.ok else ecc
  let now := s.mclk k s.tick.toNat
  let s := s.modDchan k fun d =>
    { d with scrub := if m + 1 < s.chLines k then m + 1 else 0, scrubAt := max (d.scrubAt + s.scrubStep k) now }
  let s := (s.lineOpen asMaint k m false).2
  let (l, s) := match s.logical k m with
    | some l => (l, s)
    | none => let r := s.freshVal; (2 ^ 36 + r.1.toNat % 2 ^ 28, r.2)
  match ecc with
  | .ok => s
  | .ce d => s.eccCe k m (l % 2 ^ 36) 6 d.val
  | .ue => if l < 2 ^ 36 then s.eccUe k m l 6
           else
             let (d, s) := s.freshVal
             (((s.memCount k 3).eccLog k m (l % 2 ^ 36) 6 true (ext d 3 0)).pushWrite asMaint k m 0).err
               { src := 9, code := 2, cls := 1, unit := k, slice := some 0, info := [l % 2 ^ 28, 0] }
/-- SCRUB: the patrol's next line has fallen due, and no other request of its subchannel goes before it (R339, R343, R357). -/
def State.scrub (s : State) (k : Nat) (ecc : Ecc) : State :=
  let (c, s) := s.mclkCopy
  let r := s.scrubReq k
  let sc := lineSc (s.dchan k).scrub
  if s.fld ⟨memReg k 0x60, 7, 0⟩ = 0 ∨ s.chServes k = false ∨ s.mclk k c.toNat < (s.dchan k).scrubAt ∨ s.reqOpen k sc r = false ∨
      ((s.openReqs k sc).any fun x => s.reqBefore k c x r) then s
  else s.scrubLine k ecc
def execScrub (k : Fin 16) (ecc : Ecc) (s : State) : Out := .next (s.scrub k.val ecc)

end Sys2Proof.Machine
end

