-- ==== Sys2Proof/Machine/Hst.lean ====
section
/-! DEFINITION. Hst.lean: the host interface (spec/15): function pages, queue pairs, doorbells, entries, DMA, receive queues,
MSI-X and resets of functions; and the channel commands that meet it (spec/09 R251 to R254). -/

namespace Sys2Proof.Machine

/-! ## Function pages and queue pairs: R396 to R399, R411 -/

/-- HST register (R412). -/
def hstOff (o : Nat) : Nat := 0x2800000 + o
/-- Page registers of a queue pair. -/
def qpPage (k o : Nat) : Nat := 0x40 * k + o
/-- The function exists (R395, R409): the PF, or a VF of 1 to NumVFs while VF Enable is set. -/
def State.fnExists (s : State) (fn : Nat) : Bool :=
  decide (fn = 0) || (decide (fn ≤ 62) && decide (s.fld ⟨hstOff 4, 7, 7⟩ = 1) && decide (fn ≤ s.fld ⟨hstOff 4, 6, 0⟩))

def State.qpFld (s : State) (q : Qp) (o hi lo : Nat) : Nat := s.pageFld q.fn ⟨qpPage q.qp o, hi, lo⟩
def State.setQpFld (s : State) (q : Qp) (o hi lo n : Nat) : State := s.setPageFld q.fn ⟨qpPage q.qp o, hi, lo⟩ n
def State.qpEn (s : State) (q : Qp) : Bool := decide (s.qpFld q 0 0 0 = 1)
def State.sqSz (s : State) (q : Qp) : Nat := 2 ^ s.qpFld q 0 4 1
def State.cqSz (s : State) (q : Qp) : Nat := 2 ^ s.qpFld q 0 8 5
def State.rqSz (s : State) (q : Qp) : Nat := 2 ^ s.qpFld q 0 12 9
def State.sqHead (s : State) (q : Qp) : Nat := s.qpFld q 0x20 15 4
def State.sqTailOf (s : State) (q : Qp) : Nat := s.qpFld q 0x20 27 16
/-- QP_STATUS.STATE as it is kept: 0 DISABLED, 1 RUNNING, 2 STOPPING; a slice that is frozen or restoring makes RUNNING
read HELD (Table 15.7). -/
def State.qpMode (s : State) (q : Qp) : Nat := s.qpFld q 0x20 1 0
/-- The function's slice lets its queue pairs run. -/
def State.fnActive (s : State) (fn : Nat) : Bool := decide (s.sliceState fn = 1) || decide (s.sliceState fn = 2)
/-- A doorbell of the queue pair is pending (R400). -/
def State.dbPending (s : State) (q : Qp) : Bool := s.qpEn q && decide (s.sqHead q ≠ s.sqTailOf q)
def qpsOf (fn : Fin 64) : List Qp := (List.finRange 8).map fun k => { fn := fn, qp := k }
/-- A doorbell of the function of slice i is pending (R262). -/
def State.fnPending (s : State) (i : Nat) : Bool :=
  if h : i < 64 then (qpsOf ⟨i, h⟩).any s.dbPending else false

/-- DB_ERR or CFG_ERR of a queue pair, and FN_EVENT.QERR. -/
def State.qpErr (s : State) (q : Qp) (b : Nat) : State := (s.setQpFld q 0x20 b b 1).fnEvent q.fn 5
/-- An ignored doorbell (CNT_DB_DROP). -/
def State.dbDrop (s : State) : State := s.count (hstOff 0x1C)

/-- A write or doorbell that reaches a function page: dropped when the function's link is in reset or after step 4 of the
fatal path, or when boot has stopped (R409, R454, R457); it waits for the HOST domain (R418). -/
def State.pageRow (s : State) (fn : Fin 64) (o : Nat) (v : BitVec 32) (f : State → State) : State :=
  if 4 ≤ s.fatal ∨ s.boot.stopped ∨ s.inReset ∨ s.pins.perstLow ∨ s.fnExists fn = false then s
  else if s.domOn 2 then f s
  else
    let s := s.domAccess 3 2 (0x1000#14 + BitVec.ofNat 14 (8 * fn.val))
    { s with power := { s.power with stalled := s.power.stalled ++
        [{ domain := 2, m := .host, sp := .page fn, wr := true, off := BitVec.ofNat 26 o, v := v }] } }

/-! ## Completions: R401, R406, R408, Table 15.4 -/

/-- Dword d of an entry. -/
def edw (e : BitVec 512) (d : Nat) : Nat := ext e (32 * d + 31) (32 * d)
def entKind (e : BitVec 512) : Nat := ext e 3 0
def entOct (e : BitVec 512) : Bool := bit e 4

/-- Break the semaphores of a queue pair (R322). -/
def State.qpBreak (s : State) (q : Qp) : State := s.breakOwned fun o => decide (o = ownerOf (.queue q.fn q.qp))
/-- Entries fetched and not completed. -/
def QpState.fetched (x : QpState) : List Fetched := x.entry.toList ++ x.ahead
/-- PASID of a ring access, and the host address of entry i of the ring whose base stands at page offset `o` (R398). -/
def State.ringPasid (s : State) (q : Qp) : Option (BitVec 20) :=
  if s.qpFld q 0x1C 20 20 = 1 then some (BitVec.ofNat 20 (s.qpFld q 0x1C 19 0)) else none
def State.ringAt (s : State) (q : Qp) (o i bytes : Nat) : BitVec 64 :=
  BitVec.ofNat 64 (2 ^ 12 * s.qpFld q o 27 0 + 2 ^ 40 * s.qpFld q (o + 4) 23 0 + bytes * i)
/-- A stopping queue pair with nothing running becomes DISABLED (R408). -/
def State.qpFinish (s : State) (q : Qp) : State :=
  if s.qpMode q = 2 ∧ (s.qp (qpNo q)).entry.isNone then (s.qpBreak q).setQpFld q 0x20 1 0 0 else s

/-- The completion entry (Table 15.4); SQ_HEAD after the entry is that of the first one fetched behind it. -/
def State.cqEntry (s : State) (q : Qp) (e : BitVec 512) (st : Nat) (r0 r1 : Pair) : BitVec 128 :=
  BitVec.ofNat 128 (ext e 31 16 + 2 ^ 16 * entKind e + 2 ^ 24 * st + 2 ^ 31 * s.qpFld q 0x24 12 12
    + 2 ^ 32 * ((s.sqHead q + s.sqSz q - (s.qp (qpNo q)).ahead.length) % s.sqSz q) + 2 ^ 64 * r0.toNat + 2 ^ 96 * r1.toNat)

/-- An index field steps, and the phase inverts on a wrap. -/
def State.qpStep (s : State) (q : Qp) (hi lo ph size : Nat) : State :=
  let i := s.qpFld q 0x24 hi lo
  let s := s.setQpFld q 0x24 hi lo ((i + 1) % size)
  if i + 1 = size then s.setQpFld q 0x24 ph ph (1 - s.qpFld q 0x24 ph ph) else s
/-- A vector that is armed is sent, and disarmed. -/
def State.qpVector (s : State) (q : Qp) (b v : Nat) : State :=
  if s.qpFld q 0x24 b b = 1 then (s.setQpFld q 0x24 b b 0).msix q.fn (v + q.qp.val) else s

/-- The completion of the entry of a queue pair is written, and the next fetched one is to run. -/
def State.completeOne (s : State) (q : Qp) (st : Nat) (r0 r1 : Pair) : State :=
  match (s.qp (qpNo q)).entry with
  | none => s
  | some x =>
    let irq := bit x.entry 5
    let s := (s.dropHolder (.entry q)).emit
      (.completion q (s.ringAt q 0xC (s.qpFld q 0x24 11 0) 16) (s.ringPasid q) (s.cqEntry q x.entry st r0 r1))
    let s := (s.qpStep q 11 0 12 (s.cqSz q)).modQp (qpNo q) fun y =>
      { y with entry := y.ahead.head?, ahead := y.ahead.tail, irqs := y.irqs ++ [irq] }
    let s := s.count (hstOff 0x10)
    let s := if st = 10 then s.count (hstOff 0x20)
      else if st = 7 then (s.count (hstOff 0x28)).err
        { src := 11, code := 2, cls := 1, unit := q.qp.val, slice := some q.fn.val, mkind := 3, mid := qpNo q, info := [ext x.entry 31 16] }
      else s
    if irq then s.qpVector q 13 0 else s
/-- Entries that a stop has aborted complete behind the one that ran on (R401, R408). -/
def State.completeAborted (s : State) (q : Qp) : Nat → State
  | 0 => s
  | n + 1 => match (s.qp (qpNo q)).entry with
    | some x => if x.started = false ∧ x.status = some 10 then (s.completeOne q 10 0 0).completeAborted q n else s
    | none => s
/-- The entry of a queue pair completes. -/
def State.completeEntry (s : State) (q : Qp) (st : Nat) (r0 r1 : Pair) : State :=
  ((s.completeOne q st r0 r1).completeAborted q (s.qp (qpNo q)).ahead.length).qpFinish q

/-! ## Doorbells: R400 -/

/-- The queue pair takes doorbells: its slice's state and its own let it; else the doorbell is ignored and counted. -/
def State.doorbell (s : State) (q : Qp) (f : State → State) : State :=
  let st := s.sliceState q.fn
  if st = 0 ∨ 6 ≤ st ∨ s.qpEn q = false then s.dbDrop else f s
/-- A doorbell with a bad index. -/
def State.dbBad (s : State) (q : Qp) : State := (s.qpErr q 2).dbDrop

/-- A write of SQ_TAIL. -/
def State.sqTailWrite (s : State) (q : Qp) (v : Pair) : State :=
  s.doorbell q fun s => if s.sqSz q ≤ ext v 11 0 then s.dbBad q else s.setQpFld q 0x20 27 16 (ext v 11 0)
def execSqTail (qp : Qp) (v : Pair) (s : State) : Out :=
  .next (s.pageRow qp.fn (0x1000 + 0x10 * qp.qp.val) (v.setWidth 32) fun s => s.sqTailWrite qp v)

/-- A write of CQ_HEAD. -/
def State.cqHeadWrite (s : State) (q : Qp) (v : Pair) : State :=
  s.doorbell q fun s =>
    let h := ext v 11 0
    let x := s.qp (qpNo q)
    let c := (h + s.cqSz q - x.cqHead) % s.cqSz q
    if s.cqSz q ≤ h ∨ x.irqs.length < c then s.dbBad q
    else
      let s := s.modQp (qpNo q) fun y => { y with cqHead := if c = 0 then y.cqHead else h, irqs := y.irqs.drop c }
      if bit v 27 then
        let s := s.setQpFld q 0x24 13 13 1
        if (s.qp (qpNo q)).irqs.any id then s.qpVector q 13 0 else s
      else s
def execCqHead (qp : Qp) (v : Pair) (s : State) : Out :=
  .next (s.pageRow qp.fn (0x1004 + 0x10 * qp.qp.val) (v.setWidth 32) fun s => s.cqHeadWrite qp v)

/-- A write of RQ_HEAD. -/
def State.rqHeadWrite (s : State) (q : Qp) (v : Pair) : State :=
  s.doorbell q fun s =>
    let h := ext v 11 0
    let x := s.qp (qpNo q)
    let c := (h + s.rqSz q - x.rqHead) % s.rqSz q
    if s.rqSz q ≤ h ∨ x.rqUsed < c then s.dbBad q
    else
      let s := s.modQp (qpNo q) fun y => { y with rqHead := if c = 0 then y.rqHead else h, rqUsed := y.rqUsed - c }
      if bit v 27 then
        let s := s.setQpFld q 0x24 27 27 1
        if 0 < (s.qp (qpNo q)).rqUsed then s.qpVector q 27 8 else s
      else s
def execRqHead (qp : Qp) (v : Pair) (s : State) : Out :=
  .next (s.pageRow qp.fn (0x1008 + 0x10 * qp.qp.val) (v.setWidth 32) fun s => s.rqHeadWrite qp v)

/-! ## Enable and stop: R399, R408 -/

/-- PASID p is bound to slice i and VALID (R372). -/
def State.pasidBound (s : State) (i p : Nat) : Bool :=
  (List.range 4).any fun j => decide (s.fld ⟨slcReg i (0x10 + 4 * j), 20, 20⟩ = 1) && decide (s.fld ⟨slcReg i (0x10 + 4 * j), 19, 0⟩ = p)

/-- A queue pair may be enabled with QP_CTL `v` (R399). -/
def State.qpCanEnable (s : State) (q : Qp) (v : Pair) : Bool :=
  let sq := ext v 4 1
  let cq := ext v 8 5
  let rq := ext v 12 9
  decide (4 ≤ sq) && decide (sq ≤ 12) && decide (4 ≤ cq) && decide (cq ≤ 12) && decide (4 ≤ rq) && decide (rq ≤ 12) &&
    decide (sq ≤ cq) && (decide (s.qpFld q 0x1C 20 20 = 0) || s.pasidBound q.fn (s.qpFld q 0x1C 19 0)) && s.fnActive q.fn

/-- A write of QP_CTL with EN 1. A queue pair that was stopping gives up its semaphores; what still runs there completes in the new
rings (notes/assumptions/18.md). -/
def State.qpEnable (s : State) (q : Qp) (v : Pair) : State :=
  if s.qpEn q then s.qpErr q 3
  else
    let s := s.setPageReg q.fn (qpPage q.qp 0) (v &&& bits 12 1)
    if s.qpCanEnable q v = false then s.qpErr q 3
    else
      let s := if s.qpMode q = 2 then s.qpBreak q else s
      let s := (s.setQpFld q 0 0 0 1).modQp (qpNo q) fun y => { entry := y.entry, ahead := y.ahead }
      let s := (s.setQpFld q 0x20 1 0 1).setQpFld q 0x20 27 4 0
      s.setPageReg q.fn (qpPage q.qp 0x24) 0xC003000
def execQpEnable (qp : Qp) (v : Pair) (s : State) : Out :=
  .next (s.when (bit v 0) fun s => s.pageRow qp.fn (qpPage qp.qp 0) (v.setWidth 32) fun s => s.qpEnable qp v)

/-- Take a waiting CHAN entry of the queue pair back from its channel. -/
def State.dropHostWriter (s : State) (q : Qp) : State :=
  s.each (s.chans.filter fun x => x.2.writers.any fun w => decide (w.qp = some q)) fun s x =>
    s.modChan x.1 fun c => { c with writers := c.writers.filter fun w => decide (w.qp ≠ some q) }

/-- What an entry that has not started left waiting goes: its message, its requests and its submission (R407). -/
def State.entryDrop (s : State) (q : Qp) : State :=
  s.each (List.range 4) (fun s p => s.modDsp p fun d =>
    { d with reqs := SMap.set [] d.reqs 11 ((SMap.get [] d.reqs 11).filter fun r => decide (r.sub.map (·.2.2) ≠ some (.host q))) })
  |>.dropHostWriter q |>.dropHolder (.entry q)

/-- A queue-pair stop (R408): entries that have not started are aborted, one that has started runs on. -/
def State.qpStop (s : State) (q : Qp) : State :=
  if s.qpMode q ≠ 1 then s
  else
    let s := (s.setQpFld q 0 0 0 0).setQpFld q 0x20 1 0 2
    let s := s.modQp (qpNo q) fun y => { y with ahead := y.ahead.map fun x => { x with status := some 10 } }
    match (s.qp (qpNo q)).entry with
    | some x => if x.started then s else (s.entryDrop q).completeEntry q 10 0 0
    | none => s.qpFinish q
def execQpStop (qp : Qp) (s : State) : Out := .next (s.pageRow qp.fn (qpPage qp.qp 0) 0 fun s => s.qpStop qp)

/-! ## Fetching: R401 -/

/-- DMA engines in use. -/
def State.enginesUsed (s : State) : List Nat := s.qps.flatMap fun x => x.2.fetched.map (·.engine)
def State.freeEngine (s : State) : Option Nat := (List.range 8).find? fun e => !s.enginesUsed.contains e
/-- Functions run on the link: not in reset, HOST is ON. -/
def State.linkRuns (s : State) : Bool := !s.pins.perstLow && s.domOn 2

/-- The queue pair has an entry to fetch, and its CQ a slot that no completion holds and no fetched entry has reserved. -/
def State.canFetch (s : State) (q : Qp) : Bool :=
  s.fnExists q.fn && decide (s.qpMode q = 1) && s.fnActive q.fn && s.dbPending q &&
    decide ((s.qp (qpNo q)).irqs.length + (s.qp (qpNo q)).fetched.length < s.cqSz q) && !SMap.get false s.d3 q.fn
/-- Queue pair number n. -/
def qpNum (n : Nat) : Qp := { fn := ⟨n / 8 % 64, Nat.mod_lt _ (by decide)⟩, qp := ⟨n % 8, Nat.mod_lt _ (by decide)⟩ }

/-- ENTRY_FETCH: the rotation, which advances every HCLK, takes an entry into the lowest-numbered free engine. -/
def State.entryFetch (s : State) (entry : BitVec 512) : State :=
  if s.fatal ≠ 0 ∨ s.linkRuns = false then s
  else match rotPick ((Config.pointerPhase 4000 + s.hclk) % 512) 512 (fun n => s.canFetch (qpNum n)), s.freeEngine with
    | some n, some e =>
      let q := qpNum n
      let x : Fetched := { entry := entry, engine := e, started := false, moved := 0, status := none, res0 := 0, res1 := 0 }
      ((s.emit (.entryRead q (s.ringAt q 4 (s.sqHead q) 64) (s.ringPasid q))).setQpFld q 0x20 15 4 ((s.sqHead q + 1) % s.sqSz q)).modQp
        (qpNo q) fun y => if y.entry.isNone then { y with entry := some x } else { y with ahead := y.ahead ++ [x] }
    | _, _ => s
def execEntryFetch (entry : BitVec 512) (s : State) : Out := .next (s.entryFetch entry)

/-! ## The checks of an entry: R402, R404, Tables 15.3 and 15.5 -/

def entPair (e : BitVec 512) (d : Nat) : Pair := BitVec.ofNat 28 (edw e d)
def entHigh (e : BitVec 512) (ds : List Nat) : Bool := ds.all fun d => decide (edw e d / 2 ^ 28 = 0)
/-- A reserved field or KIND is nonzero. Bits [15:14] of the 16-bit words of a CHAN entry are ignored, as R397 says of DMA data: DESIGN
CHOICE, notes/assumptions/18.md. -/
def entRsvd (e : BitVec 512) : Bool :=
  let z (hi lo : Nat) : Bool := decide (ext e hi lo = 0)
  !(z 15 6 && (match entKind e with
    | 0 => z 4 4 && z 511 32
    | 1 => z 4 4 && z 63 32 && entHigh e [2, 3, 4, 5, 6, 7] && z 511 256
    | 2 => z 63 53 && entHigh e [4] && z 191 174 && z 223 216 && z 511 224
    | 3 => z 63 53 && entHigh e [4] && z 191 174 && z 223 216 && z 511 224
    | 4 => z 4 4 && z 63 32 && z 95 78 && z 127 96
    | 5 => z 4 4 && z 63 32 && z 95 78 && z 511 96
    | 6 => z 4 4 && z 63 32 && entHigh e [2, 4, 5] && z 127 110 && z 511 192
    | _ => false))

def dmaLine (e : BitVec 512) : Nat := ext e 155 128 + 2 ^ 28 * ext e 167 160
def dmaFirst (e : BitVec 512) : Nat := ext e 173 168
def dmaCount (e : BitVec 512) : Nat := ext e 215 192
def dmaAddr (e : BitVec 512) : Nat := ext e 127 64
/-- Units in a line (R404). -/
def dmaUnits (e : BitVec 512) : Nat := if entOct e then 63 else 36
def chanLen (e : BitVec 512) : Nat := ext e 77 73
def entCasAddr (e : BitVec 512) : Nat := ext e 91 64 + 2 ^ 28 * ext e 109 96

/-- COMBO of an entry. -/
def entCombo (e : BitVec 512) : Bool :=
  match entKind e with
  | 4 => decide (chanLen e = 0) || decide (24 < chanLen e)
  | 6 => decide (entCasAddr e % 2 = 1)
  | n => (decide (n = 2) || decide (n = 3)) &&
    (decide (dmaCount e = 0) || decide ((if entOct e then 62 else 35) < dmaFirst e) || (!entOct e && decide (dmaAddr e % 2 = 1)))

/-- Lines a to b lie in DRAM, in extents that are allocated (R328). -/
def State.linesMapped (s : State) (a b : Nat) : Bool :=
  decide (b < s.extents * 2 ^ 24) && (List.range (b / 2 ^ 24 + 1 - a / 2 ^ 24)).all fun j => (s.extent (a / 2 ^ 24 + j)).valid

/-- The first failing check of an entry of slice i (Table 15.5), or 0. -/
def State.entryCode (s : State) (i : Nat) (e : BitVec 512) : Nat :=
  let dma := decide (entKind e = 2) || decide (entKind e = 3)
  if entRsvd e then 1
  else if entCombo e then 2
  else if dma ∧ bit e 52 ∧ s.pasidBound i (ext e 51 32) = false then 3
  else if dma ∧ s.linesMapped (dmaLine e) (dmaLine e + (dmaFirst e + dmaCount e - 1) / dmaUnits e) = false then 4
  else if entKind e = 6 ∧ s.linesMapped (lineOf (entCasAddr e)) (lineOf (entCasAddr e)) = false then 4
  else 0

/-- The next line of a DMA entry: line, first unit and number of units. -/
def Fetched.span (x : Fetched) : Nat × Nat × Nat :=
  let pos := dmaFirst x.entry + x.moved
  let u := dmaUnits x.entry
  (dmaLine x.entry + pos / u, pos % u, min (u - pos % u) (dmaCount x.entry - x.moved))

/-- The domains on the way of an entry (R418). -/
def State.entryDoms (s : State) (x : Fetched) : List Nat :=
  let line (l : Nat) : List Nat := match s.place l with
    | some km => [11 + km.1 / 4, 1]
    | none => []
  match entKind x.entry with
  | 1 => if bit x.entry 91 then [1] else [3 + ext x.entry 90 89, 1]
  | 2 => line x.span.1
  | 3 => line x.span.1
  | 4 => [3 + ext x.entry 66 64 / 2, 1]
  | 5 => [1]
  | 6 => line (lineOf (entCasAddr x.entry))
  | _ => []
/-- The domain that an entry needs and whose path, through BASE, is not ON: its Glint source and number. -/
def State.entryAsleep (s : State) (x : Fetched) : Option (Nat × Nat) :=
  let f (src d : Nat) : Option (Nat × Nat) := if s.domOn d ∧ s.domOn 1 then none else some (src, d)
  match s.entryDoms x with
  | d :: _ => f (if 11 ≤ d then 4 else 3) d
  | [] => none

/-- Run the entry of a queue pair when its kind is one of `kinds`: a failing check completes it, a domain that sleeps is
woken and waited for (R418). -/
def State.runEntry (s : State) (q : Qp) (kinds : List Nat) (f : State → Fetched → State) : State :=
  match (s.qp (qpNo q)).entry with
  | some x =>
    if ¬ kinds.contains (entKind x.entry) ∨ x.status.isSome ∨ 4 ≤ s.fatal then s
    else if x.started = false ∧ s.fnActive q.fn = false then s
    else if x.started = false ∧ s.entryCode q.fn x.entry ≠ 0 then s.completeEntry q (s.entryCode q.fn x.entry) 0 0
    else match s.entryAsleep x with
      | some (src, d) => s.domAccess src d (ownerOf (.queue q.fn q.qp))
      | none => f s x
  | none => s

/-! ## Entries: R402, R403 -/

/-- ENTRY_NOP; an entry of a reserved KIND completes here too, with RSVD. -/
def execEntryNop (qp : Qp) (s : State) : Out :=
  .next (s.runEntry qp [0, 7, 8, 9, 10, 11, 12, 13, 14, 15] fun s _ => s.completeEntry qp 0 0 0)

/-- ENTRY_TASK: a submission for the function's slice (R168, R169). -/
def State.entryTask (s : State) (q : Qp) (x : Fetched) : State :=
  let p (d : Nat) : Pair := entPair x.entry d
  if s.submitting (.host q) then s
  else s.submit { src := 3, slice := q.fn.val, system := decide (q.fn.val = 0), quad := none }
    { p0 := p 2, p1 := p 3, p2 := p 4, p3 := p 5, p4 := p 6, p5 := p 7 } (.host q)
/-- The answer that an entry of this kind waits for completes it. -/
def State.entryAnswer (s : State) (q : Qp) (kind : Nat) : State :=
  match (s.qp (qpNo q)).entry with
  | some x => match x.status with
    | some c => if entKind x.entry = kind then s.completeEntry q c.toNat x.res0 x.res1 else s
    | none => s
  | none => s
def execEntryTask (qp : Qp) (s : State) : Out := .next ((s.runEntry qp [1] fun s x => s.entryTask qp x).entryAnswer qp 1)

/-- The cluster channel that a CHAN entry names. -/
def entChanOf (e : BitVec 512) : Nat := 64 * ext e 66 64 + ext e 72 67
/-- ENTRY_CHAN: the message waits at the channel as a hardware writer; that of a VF must own it (R253). CHANNEL_ACCEPT
completes the entry. -/
def State.entryChan (s : State) (q : Qp) (x : Fetched) : State :=
  let c := entChanOf x.entry
  if s.chanValid c = false ∨ (q.fn.val ≠ 0 ∧ s.chanSlice c ≠ q.fn.val) then s.completeEntry q 9 0 0
  else if (s.chan c).writers.any fun w => decide (w.qp = some q) then s
  else s.modChan c fun y => { y with writers := y.writers ++
    [{ pos := 1024, qp := some q, words := (List.range (chanLen x.entry)).map fun i => word (ext x.entry (141 + 16 * i) (128 + 16 * i)) }] }
def execEntryChan (qp : Qp) (s : State) : Out := .next (s.runEntry qp [4] fun s x => s.entryChan qp x)

/-- Requester of a queue pair (R404). -/
def qpRequester (q : Qp) (octet : Bool) : Requester :=
  { slice := q.fn.val, octet := octet, port := 4, mkind := 3, mid := (qpNo q), held := some (.entry q) }

/-- The CAS of the entry waits at its channel already. -/
def State.casAsked (s : State) (q : Qp) : Bool := s.dchans.any fun d => d.2.reqs.any fun r => decide (r.reply = .entry q)
/-- ENTRY_CAS: the CAS waits at the channel of its line (R308 to R311, R336); its answer completes the entry. -/
def State.entryCas (s : State) (q : Qp) (x : Fetched) : State :=
  let a := entCasAddr x.entry
  match s.place (lineOf a) with
  | none => s.completeEntry q (statusOf 6) 0 0
  | some (k, _) =>
    if s.casAsked q then s
    else
      let r : DReq := { line := lineOf a, op := .cas (wordIn a) (entPair x.entry 4) (entPair x.entry 5), slice := BitVec.ofNat 6 q.fn.val,
                        port := 4, mkind := 3, mid := qpNo q, dl := none, arr := s.mclk k s.tick.toNat, reply := .entry q }
      s.modDchan k fun d => { d with reqs := d.reqs ++ [r] }
def execEntryCas (qp : Qp) (s : State) : Out := .next ((s.runEntry qp [6] fun s x => s.entryCas qp x).entryAnswer qp 6)

/-! ## DMA: R404 -/

/-- The DMA has ended; DMA_COMPLETE writes its completion. -/
def State.dmaEnd (s : State) (q : Qp) (st : Nat) (r0 : Nat) (moved : Nat) : State :=
  s.modEntry q fun x => { x with started := true, status := some (BitVec.ofNat 6 st), res0 := BitVec.ofNat 28 r0,
                                 res1 := if st = 0 then 0 else BitVec.ofNat 28 moved }
/-- Put units into a line from position `i`. -/
def putUnits (oct : Bool) (d : BitVec 504) (i : Nat) : List (BitVec 16) → BitVec 504
  | [] => d
  | u :: us =>
    putUnits oct (if oct then ins d (8 * i + 7) (8 * i) u.toNat else ins d (14 * i + 13) (14 * i) u.toNat) (i + 1) us
/-- Units of a line. -/
def getUnits (oct : Bool) (d : BitVec 504) (i n : Nat) : List (BitVec 16) :=
  (List.range n).map fun j => BitVec.ofNat 16 (if oct then ext d (8 * (i + j) + 7) (8 * (i + j)) else ext d (14 * (i + j) + 13) (14 * (i + j)))

/-- Lines that the next n units of a DMA entry lie in. -/
def Fetched.ahead (x : Fetched) (n : Nat) : List Nat :=
  let u := dmaUnits x.entry
  let a := dmaFirst x.entry + x.moved
  let n := min n (dmaCount x.entry - x.moved)
  if n = 0 then [] else (List.range ((a + n - 1) / u + 1 - a / u)).map (· + (dmaLine x.entry + a / u))
/-- The requests of a DMA entry for the lines of its next n units (R336). -/
def State.dmaAsk (s : State) (q : Qp) (wr : Bool) (n : Nat) : State := match (s.qp (qpNo q)).entry with
  | some x => s.askVisits (.entry q) [{ r := qpRequester q (entOct x.entry), wr := wr, lines := x.ahead n }]
  | none => s
/-- The DMA has done with a line. -/
def State.lineLeft (s : State) (h : Holder) (l : Nat) : State := match s.place l with
  | some (k, _) => s.modDchan k fun d => { d with visits := d.visits.filter fun v => decide (v.h ≠ h) || decide (v.line ≠ l) }
  | none => s

/-- Lines of a DMA-WR while host data lasts; a failed host read ends it with HOSTERR. -/
def State.dmaWrGo (s : State) (q : Qp) (err : Bool) : Nat → List (BitVec 16) → State
  | 0, _ => s
  | fuel + 1, us =>
    match (s.qp (qpNo q)).entry with
    | none => s
    | some x =>
      let (l, i, n) := x.span
      let oct := entOct x.entry
      if dmaCount x.entry ≤ x.moved then s.dmaEnd q 0 0 0
      else if us.length < n then (if err then s.dmaEnd q 7 0 x.moved else s)
      else match s.entryAsleep x with
        | some (src, d) => s.domAccess src d (ownerOf (.queue q.fn q.qp))
        | none =>
          if s.visited (.entry q) [l] = false then s.dmaAsk q true us.length
          else match s.lineWrite (qpRequester q oct) l (if n = dmaUnits x.entry then .whole else .part) (fun d => putUnits oct d i (us.take n)) with
          | (.fault c, s) => s.dmaEnd q (statusOf c) (l % 2 ^ 28) x.moved
          | (.ok _, s) =>
            (((s.lineLeft (.entry q) l).modEntry q fun x => { x with started := true, moved := x.moved + n }).count
              (hstOff 0x14)).dmaWrGo q err fuel (us.drop n)
/-- DMA_WR: `data` is what the host's reads deliver. -/
def execDmaWr (qp : Qp) (data : HostData) (s : State) : Out :=
  .next (s.runEntry qp [2] fun s _ => s.dmaWrGo qp data.error (data.units.length + 1) data.units)

/-- PASID of the host accesses of a DMA entry (Table 15.3). -/
def entPasid (e : BitVec 512) : Option (BitVec 20) := if bit e 52 then some (BitVec.ofNat 20 (ext e 51 32)) else none
/-- Lines of a DMA-RD. -/
def State.dmaRdGo (s : State) (q : Qp) : Nat → State
  | 0 => s
  | fuel + 1 =>
    match (s.qp (qpNo q)).entry with
    | none => s
    | some x =>
      let (l, i, n) := x.span
      let oct := entOct x.entry
      if dmaCount x.entry ≤ x.moved then s.dmaEnd q 0 0 0
      else match s.entryAsleep x with
        | some (src, d) => s.domAccess src d (ownerOf (.queue q.fn q.qp))
        | none =>
          if s.visited (.entry q) [l] = false then s.dmaAsk q false (dmaCount x.entry)
          else match s.lineRead (qpRequester q oct) l with
          | (.fault c, s) => s.dmaEnd q (statusOf c) (l % 2 ^ 28) x.moved
          | (.ok d, s) =>
            let a := dmaAddr x.entry + x.moved * (if oct then 1 else 2)
            let s := s.emit (.hostWrite q (BitVec.ofNat 64 a) (entPasid x.entry) (getUnits oct d i n))
            (((s.lineLeft (.entry q) l).modEntry q fun x => { x with started := true, moved := x.moved + n }).count
              (hstOff 0x18)).dmaRdGo q fuel
def execDmaRd (qp : Qp) (s : State) : Out :=
  .next (s.runEntry qp [3] fun s x => s.dmaRdGo qp (dmaCount x.entry - x.moved + 1))

/-- DMA_COMPLETE: the last line is answered. -/
def State.dmaComplete (s : State) (q : Qp) : State :=
  match (s.qp (qpNo q)).entry with
  | some x => match x.status with
    | some st => s.completeEntry q st.toNat x.res0 x.res1
    | none => s
  | none => s
def execDmaComplete (qp : Qp) (s : State) : Out := .next (s.dmaComplete qp)

/-- The entry of queue pair q waits for domain d. -/
def State.entryWaits (s : State) (d : Nat) (q : Qp) : Bool := match (s.qp (qpNo q)).entry with
  | some x => x.status.isNone && decide ((s.entryAsleep x).map (·.2) = some d)
  | none => false
/-- The entry of queue pair q completes with WAKE-TIMEOUT (R404, R418). -/
def State.entryTimeout (s : State) (q : Qp) : State := match (s.qp (qpNo q)).entry with
  | some x =>
    if entKind x.entry = 2 ∨ entKind x.entry = 3 then s.dmaEnd q 11 (x.span.1 % 2 ^ 28) x.moved else s.completeEntry q 11 0 0
  | none => s

/-! ## Receive queues: R257, R405 -/

/-- The receive queue has a free entry. -/
def State.rqFree (s : State) (q : Qp) : Bool :=
  s.fnExists q.fn && decide (s.qpMode q = 1) && s.fnActive q.fn && s.linkRuns &&
    decide ((s.qp (qpNo q)).rqUsed + (s.qp (qpNo q)).rqWait.length < s.rqSz q)
/-- A receive entry (R405): LEN, PHASE and the payload words. -/
def rqBits (phase : Nat) (ws : List Word) : BitVec 512 :=
  BitVec.ofNat 512 (ws.length + 2 ^ 15 * phase + ws.zipIdx.foldl (fun a wi => a + wi.1.toNat * 2 ^ (16 * (wi.2 + 1))) 0)
/-- Write a message to the next receive entry. -/
def State.rqWrite (s : State) (q : Qp) (ws : List Word) : State :=
  let s := s.emit (.rqEntry q (s.ringAt q 0x14 (s.qpFld q 0x24 25 14) 64) (s.ringPasid q) (rqBits (s.qpFld q 0x24 26 26) ws))
  ((s.qpStep q 25 14 26 (s.rqSz q)).modQp (qpNo q) fun y => { y with rqUsed := y.rqUsed + 1 }).qpVector q 27 8
/-- Write the accepted messages, unless the function is in D3hot. -/
def State.rqDrain (s : State) (q : Qp) : State :=
  if SMap.get false s.d3 q.fn then s
  else ((s.modQp (qpNo q) fun y => { y with rqWait := [] }).each (s.qp (qpNo q)).rqWait) fun s ws => s.rqWrite q ws

/-- Threads of the function's slice that wait in CHC on HOST for the queue pair. -/
def State.hostWriters (s : State) (q : Qp) : List Nat :=
  (s.threads.filter fun x => decide (x.2.st = .blocked) && decide (x.2.blk = .chc) && decide (chOf x.2.bw = 0x101) &&
    decide (s.sliceOf x.1 = q.fn.val) && decide (ext (x.2.staged.headD 0) 2 0 = q.qp.val)).map (·.1)

/-- HOST_MESSAGE_ACCEPT: a waiting message is accepted into the receive queue; among several threads the device
chooses. -/
def State.hostMessageAccept (s : State) (q : Qp) : State :=
  if s.rqFree q = false ∨ s.fatal ≠ 0 then s
  else match s.pick (s.hostWriters q) with
    | (some t, s) =>
      let ws := (s.thread t).staged.drop 1
      let s := s.modThread t fun x => { x with staged := [], stagedCh := 0 }.complete
      (s.modQp (qpNo q) fun y => { y with rqWait := y.rqWait ++ [ws] }).rqDrain q
    | (none, s) => s
def execHostMessageAccept (qp : Qp) (s : State) : Out := .next (s.hostMessageAccept qp)

/-! ## MSI-X and resets of functions: R406, R409, R466 -/

/-- Vector control of vector v: the mask bit (PCIe Base 5.0). Unmasking sends what is pending. -/
def State.msixMask (s : State) (fn v : Nat) (masked : Bool) : State :=
  let s : State := { s with unmasked := SMap.set false s.unmasked (fn * 32 + v) (!masked) }
  if masked = false ∧ SMap.get false s.pba (fn * 32 + v) then
    ({ s with pba := SMap.set false s.pba (fn * 32 + v) false } : State).emit (.msix fn v)
  else s
/-- MSIX_UNMASK. -/
def execMsixUnmask (fn : Fin 64) (v : Fin 32) (s : State) : Out :=
  .next (s.pageRow fn (0x8000 + 16 * v.val + 12) 0 fun s => s.msixMask fn v false)

/-- The function is one of the list. -/
def inFns (fns : List (Fin 64)) (n : Nat) : Bool := fns.any fun f => decide (f.val = n)
/-- FLR of functions (R409): nothing of theirs is sent from its start; what they have accepted is discarded, their semaphores
break, and their pages return to the reset values. -/
def State.flr (s : State) (fns : List (Fin 64)) : State :=
  let s := { s with unmasked := SMap.keep (fun k _ => !inFns fns (k / 32)) s.unmasked,
                    vectors := SMap.keep (fun k _ => !inFns fns (k / 96)) s.vectors }
  let s := s.each (fns.flatMap qpsOf) fun s q =>
    let n := (s.qp (qpNo q)).rqWait.length
    ((s.entryDrop q).bumpFld ⟨hstOff 0x24, 27, 0⟩ n).qpBreak q
  { s with qps := SMap.keep (fun k _ => !inFns fns (k / 8)) s.qps,
           page := SMap.keep (fun k _ => !inFns fns (k / 0x10000)) s.page,
           pba := SMap.keep (fun k _ => !inFns fns (k / 32)) s.pba }
def execFlr (fn : Fin 64) (s : State) : Out := .next (s.when (s.fnExists fn) fun s => s.flr [fn])
/-- The PF and VF 1 to 62 (R395). -/
def functions : List (Fin 64) := (List.finRange 64).filter fun f => decide (f.val ≤ 62)
/-- VF Enable is cleared: as an FLR of every VF (R409); the VFs are gone (R395). -/
def State.vfsClear (s : State) : State :=
  (s.flr (functions.filter fun f => decide (f.val ≠ 0))).setFld ⟨hstOff 4, 7, 7⟩ 0
/-- VF_ENABLE_CLEAR. -/
def execVfEnableClear (s : State) : Out := .next s.vfsClear
/-- A conventional reset: as an FLR of every function; the link goes down, and VF Enable with it. -/
def State.conventional (s : State) : State :=
  ((s.flr functions).setReg (hstOff 0) 0).setReg (hstOff 4) 0
/-- PERST (R409, R466). -/
def execPerst (s : State) : Out := .next { s.conventional with pins := { s.pins with perstLow := true } }
/-- PERST_RELEASE (R466): the link trains, to a speed and a width that are the host's (free choices, notes/assumptions/13.md). -/
def State.perstRelease (s : State) : State :=
  let (a, s) := s.choose 5
  let (b, s) := s.choose 5
  let s := ((s.setFld ⟨hstOff 0, 2, 0⟩ (a + 1)).setFld ⟨hstOff 0, 7, 3⟩ (2 ^ b)).setFld ⟨hstOff 0, 8, 8⟩ 1
  { s with pins := { s.pins with perstLow := false } }
def execPerstRelease (s : State) : Out := .next (s.when s.pins.perstLow State.perstRelease)
/-- D3HOT: the function enters or leaves D3hot (R395, R409). -/
def execD3hot (fn : Fin 64) (on : Bool) (s : State) : Out :=
  .next (({ s with d3 := SMap.set false s.d3 fn on } : State).each (qpsOf fn) State.rqDrain)

/-! ## Queue pairs by slice state: R407, R410 -/

/-- At start(F) entries that have not started return to their SQ. -/
def State.hstFreeze (s : State) (fn : Fin 64) : State :=
  s.each (qpsOf fn) fun s q =>
    if s.qpMode q ≠ 1 then s
    else
      let y := s.qp (qpNo q)
      let stays := y.entry.filter (·.started)
      let n := y.fetched.length - stays.toList.length
      let s := if stays.isSome then s else s.entryDrop q
      (s.setQpFld q 0x20 15 4 ((s.sqHead q + s.sqSz q - n) % s.sqSz q)).modQp (qpNo q) fun y => { y with entry := stays, ahead := [] }
/-- A reset stops every queue pair of the slice (R390, R408). -/
def State.hstReset (s : State) (fn : Fin 64) : State := s.each (qpsOf fn) State.qpStop
/-- A DMA of the function has started and not ended. -/
def State.hstBusy (s : State) (fn : Fin 64) : Bool := (qpsOf fn).any fun q => (s.qp (qpNo q)).entry.isSome

/-- The record of a queue pair in section 11 (R410). -/
def State.qpRecord (s : State) (q : Qp) : List Word :=
  let x := s.qp (qpNo q)
  [word (s.qpFld q 0 12 0), word (s.sqHead q), word (s.sqTailOf q), word (s.qpFld q 0x24 11 0), word x.cqHead,
   word (s.qpFld q 0x24 25 14), word x.rqHead,
   word (s.qpFld q 0x24 12 12 + 2 * s.qpFld q 0x24 26 26 + 4 * s.qpFld q 0x24 13 13 + 8 * s.qpFld q 0x24 27 27)]
/-- Entries between a head and a tail; the record does not tell a full ring from an empty one (notes/assumptions/13.md). -/
def ringFill (tail head size : Nat) : Nat := (tail + size - head) % size
/-- Load the record of a queue pair; it does not tell which unconsumed completions carried IRQ 1 (notes/assumptions/13.md). -/
def State.qpLoad (s : State) (q : Qp) (ws : List Word) : State :=
  let w (i : Nat) : Nat := (ws.getD i 0).toNat
  let s := s.setPageReg q.fn (qpPage q.qp 0) (BitVec.ofNat 28 (w 0 % 2 ^ 13))
  let s := ((s.setQpFld q 0x20 1 0 (w 0 % 2)).setQpFld q 0x20 15 4 (w 1)).setQpFld q 0x20 27 16 (w 2)
  let s := s.setPageReg q.fn (qpPage q.qp 0x24)
    (BitVec.ofNat 28 (w 3 % 2 ^ 12 + 2 ^ 12 * (w 7 % 2) + 2 ^ 13 * (w 7 / 4 % 2) + 2 ^ 14 * (w 5 % 2 ^ 12) + 2 ^ 26 * (w 7 / 2 % 2) + 2 ^ 27 * (w 7 / 8 % 2)))
  let n := ringFill (w 3) (w 4) (s.cqSz q)
  s.modQp (qpNo q) fun _ => { cqHead := w 4, rqHead := w 6, rqUsed := ringFill (w 5) (w 6) (s.rqSz q), irqs := List.replicate n true }

/-! ## Channels: R251 to R254 -/

/-- The host entry behind an accepted or dropped message ends. -/
def State.chanDone (s : State) (st : Nat) (q : Qp) : State := s.completeEntry q st 0 0
/-- CHANNEL_ACCEPT: waiting commits are accepted in rotation order while the next one fits (R253). -/
def execChannelAccept (ch : Fin 512) (s : State) : Out :=
  .next (s.acceptLoop ch.val (fun s q => s.chanDone 0 q) ((s.chan ch.val).writers.length))

/-- Threads BLOCKED on CHR or CHC of channel c. -/
def State.chanWaiters (s : State) (c : Nat) : List Nat :=
  (s.threads.filter fun x => decide (x.2.st = .blocked) && (decide (x.2.blk = .chr) || decide (x.2.blk = .chc)) &&
    decide (chanIdx (clusterOf x.1) (chOf x.2.bw) = some c)).map (·.1)

/-- Everything that the channel holds goes (R254): messages and notices are counted, host entries complete with CHANNEL,
threads that wait raise UNOWNED. -/
def State.chanDiscard (s : State) (c : Nat) : State :=
  let x := s.chan c
  let n := x.msgs.length + (if x.rest = [] then 0 else 1) + (x.writers.filter fun w => decide (w.pos = 1024) && w.qp.isNone).length
  let s := ({ s with chans := SMap.del c s.chans } : State).bumpFld ⟨lumDiscard, 27, 0⟩ n
  let s := s.each (x.writers.filterMap (·.qp)) fun s q => s.chanDone 9 q
  s.each (s.chanWaiters c) fun s t => s.raiseChan t (chOf (s.thread t).bw) 5

/-- A write of CHAN_CFG (R254). -/
def State.chanCfgWrite (s : State) (c : Nat) (v : Pair) : State :=
  let changed := decide (s.fld ⟨lumCfg c, 6, 0⟩ ≠ ext v 6 0)
  let s := s.setFld ⟨lumCfg c, 6, 0⟩ (ext v 6 0)
  if changed ∨ bit v 7 then s.chanDiscard c else s
/-- CHAN_CFG_WRITE. -/
def execChanCfgWrite (ch : Fin 512) (v : Pair) (s : State) : Out :=
  .next (s.regRow (lumCfg ch.val) v fun s => s.chanCfgWrite ch.val v)
/-- CHAN_CLEAR: CLEAR 1 with SLICE and VALID as they are. -/
def execChanClear (ch : Fin 512) (s : State) : Out :=
  let v : Pair := BitVec.ofNat 28 (s.fld ⟨lumCfg ch.val, 6, 0⟩ + 128)
  .next (s.regRow (lumCfg ch.val) v fun s => s.chanCfgWrite ch.val v)

end Sys2Proof.Machine
end

