-- ==== Sys2Proof/Machine/Image.lean ====
section
/-! DEFINITION. Image.lean: the Afterimage of a slice (spec/14 R383 to R389, Tables 14.6 to 14.8): its sections as word
streams, their place in the image area, and the loading of a slice from them. -/

namespace Sys2Proof.Machine

/-! ## Words and lines -/

/-- A pair as two words. -/
def pair2 (p : Pair) : List Word := [loW p, hiW p]
/-- A number as a pair of words. -/
def num2 (n : Nat) : List Word := pair2 (BitVec.ofNat 28 n)
/-- Word i of a list, as a number, and the pair there. -/
def wAt (ws : List Word) (i : Nat) : Nat := (ws.getD i 0).toNat
def pAt (ws : List Word) (i : Nat) : Pair := pairOf (ws.getD i 0) (ws.getD (i + 1) 0)
/-- Groups of n elements. -/
def chunks {α : Type} (n : Nat) : Nat → List α → List (List α)
  | 0, _ => []
  | k + 1, l => l.take n :: chunks n k (l.drop n)
/-- Lines that a word stream takes (R383). -/
def wordLines (n : Nat) : Nat := (n + 35) / 36
/-- A list padded with zeros, or cut, to n words. -/
def padTo (n : Nat) (ws : List Word) : List Word := (List.range n).map fun i => ws.getD i 0

/-- CRC of a word stream (R383): the loop of R86 with its initial value and final inversion. -/
def imageCrc (ws : List Word) : Nat :=
  2 ^ 32 - 1 - (ws.foldl (fun c w => (List.range 14).foldl (fun c i => crc32Bit c (w.getLsbD i)) c) (2 ^ 32 - 1))
/-- A CRC as three words. -/
def crcWords (c : Nat) : List Word := [word (c % 2 ^ 14), word (c / 2 ^ 14 % 2 ^ 14), word (c / 2 ^ 28)]

/-- Line l is a slice 0 word line. -/
def State.imageLine (s : State) (l : Nat) : Bool :=
  (s.place l).isSome && decide ((s.line l).slice = 0) && decide ((s.line l).kind = 1)
/-- SLC as a requester of port MOVE, whose lines it may have visited. -/
def asMove : Requester := { slice := 0, port := 5, held := some .image }

/-- Write words into consecutive lines from line l; false at a line that is not a slice 0 word line, where it ends (R387). -/
def State.writeLines (s : State) (l : Nat) : List (List Word) → Bool × State
  | [] => (true, s)
  | c :: cs =>
    if s.imageLine l then
      ((s.lineWrite asMove l .part fun d => c.zipIdx.foldl (fun d wi => linePut d wi.2 false (wi.1.setWidth 28)) d).2).writeLines (l + 1) cs
    else (false, s)
/-- The words of n lines from line l; none at a line that is not a slice 0 word line. -/
def State.readLines (s : State) (l : Nat) : Nat → Option (List Word)
  | 0 => some []
  | n + 1 =>
    if s.imageLine l then
      (s.readLines (l + 1) n).map fun ws => ((List.range 36).map fun i => lineWord (s.line l).data i) ++ ws
    else none

/-! ## What a slice holds -/

/-- Extents of the slice, ascending. -/
def State.extentsOf (s : State) (i : Nat) : List Nat :=
  (s.exts.filter fun x => x.2.valid && decide (x.2.owner.toNat = i)).map (·.1)
/-- Cluster channels of the slice. -/
def State.chansOf (s : State) (i : Nat) : List Nat :=
  (List.range 512).filter fun c => s.chanValid c && decide (s.chanSlice c = i)
/-- Trace rings of the slice. -/
def State.ringsOf (s : State) (i : Nat) : List Nat :=
  (List.range 256).filter fun r => decide (ringCfg s r 0 0 = 1) && decide (s.ringSlice r = i)
/-- Cores that the slice holds or has on loan, ascending. -/
def State.coresOf (s : State) (i : Nat) : List Nat :=
  (List.range 128).filter fun n => decide ((s.core n).slice = some (BitVec.ofNat 6 i))
/-- Slots of the slice that have a record: quadrant and number. -/
def State.slotsOf (s : State) (i : Nat) : List (Nat × Nat) :=
  (List.range 4).flatMap fun q => ((s.dspQ q).slots.filter fun x =>
    decide (x.2.slice.toNat = i) && decide (x.2.st ≠ .free) && decide (x.2.st ≠ .held)).map fun x => (q, x.1)
/-- Contexts held by threads of the slice: unit number and context. -/
def State.ctxsOf (s : State) (i : Nat) : List (Nat × Nat) :=
  (List.range 32).flatMap fun n => (List.range 4).filterMap fun k =>
    match (s.ctx n k).holder with
    | some t => if n % 4 < 3 ∧ s.assigned t i then some (n, k) else none
    | none => none

/-- PLACE of cluster c (R394). -/
def State.placeReg (s : State) (i c : Nat) : Pair := BitVec.ofNat 28 (s.placeHeld i c + 32 * s.placeLent i c)
/-- RING_WORD (R294), and a ring register as it is read. -/
def State.ringRead (s : State) (r o : Nat) : Pair :=
  if o = 0x14 then BitVec.ofNat 28 ((s.ring r).line.length + 1) else s.reg (ringReg r o)

/-! ## Sections: Table 14.7 -/

/-- Section 1, QUOTA. -/
def State.secQuota (s : State) (i : Nat) : List Word :=
  ((List.range 8).flatMap fun c => pair2 (s.reg (slcShare i c)) ++ pair2 (s.reg (slcImem i c)) ++ pair2 (s.reg (slcIbase i c))
    ++ pair2 (s.placeReg i c)) ++
  ((List.range 4).flatMap fun q => pair2 (s.reg (dspOff q (0x100 + 8 * i)))) ++
  (word (s.extentsOf i).length :: (s.extentsOf i).map word) ++
  (word (s.chansOf i).length :: (s.chansOf i).map fun c => word (c / 64 + 8 * (c % 64))) ++
  (word (s.ringsOf i).length :: (s.ringsOf i).flatMap fun r => num2 r ++ (List.range 19).flatMap fun k => pair2 (s.ringRead r (4 * k)))

def SState.code : SState → Nat
  | .free => 0
  | .waiting => 1
  | .held => 2
  | .ready => 3
  | .running => 4

/-- A slot record (R386). -/
def State.slotRecord (s : State) (i q n : Nat) : List Word :=
  let x := s.slot q n
  [handleOf x.gen n, word (q + 4 * x.st.code + 32 * x.src.toNat + 256 * x.count.toNat),
   word (x.handler.toNat + 2 ^ 12 * b2n x.succ0.isSome + 2 ^ 13 * b2n x.succ1.isSome), x.succ0.getD 0, x.succ1.getD 0]
   ++ pair2 (x.dl - lo28 (s.slice i).freezeStart) ++ pair2 x.arg0 ++ pair2 x.arg1 ++ [0]
/-- Section 3, SLOTS. -/
def State.secSlots (s : State) (i : Nat) : List Word :=
  word (s.slotsOf i).length :: (s.slotsOf i).flatMap fun x => s.slotRecord i x.1 x.2

def TState.code : TState → Nat
  | .waitTask => 0
  | .run => 1
  | .blocked => 2
  | .halted => 3
  | .faulted => 4
/-- BLOCK (Table 9.8). -/
def Block.code : Block → Nat
  | .none => 0
  | .chr => 1
  | .chc => 2
  | .wfe => 3
  | .join => 4
  | .cpl => 5
  | .cpq => 6
  | .done => 7

/-- An output entry of a thread record. -/
def outWords (e : OutEntry) : List Word :=
  [e.rs, word (e.cls.toNat + 4 * b2n e.keyed + 8 * b2n e.valid), e.hdr.extractLsb' 0 14, e.hdr.extractLsb' 14 14,
   e.hdr.extractLsb' 28 14, word (e.xseq.toNat % 2 ^ 14), word (e.inPort.toNat + 32 * (e.xseq.toNat / 2 ^ 14))]
/-- A thread record (Table 14.8). -/
def Thread.record (x : Thread) (job : Bool) (t : Nat) : List Word :=
  [word (x.st.code + 8 * b2n x.child + 16 * (x.parent % 8) + 128 * x.priorBlk.code + 2 ^ 12 * b2n x.hasTask + 2 ^ 13 * b2n x.dbg),
   word (x.pc.toNat % 2 ^ 14), word (x.d + 64 * x.spilled), if x.hasTask then x.handle else 0, word (quadOf t)]
  ++ ((List.range 8).map fun k => SMap.get 0 x.regs k) ++ ((List.range 8).flatMap fun b => pair2 (x.bank b))
  ++ ((List.range 17).flatMap fun n => pair2 (x.sr job n)) ++ ((List.range 88).map fun k => SMap.get 0 x.regs (8 + k))
  ++ (word x.staged.length :: padTo 32 x.staged) ++ [x.stagedCh.setWidth 14]
  ++ pair2 (x.timerLeft.getD 0) ++ [word (b2n x.timerLeft.isSome + 2 * b2n x.timerWord.isSome)]
  ++ padTo 2 x.reply ++ [word (x.reply.length % 4 + 4 * b2n x.replyDue)]
  ++ (word x.copq.length :: padTo 48 x.copq) ++ [x.evr.setWidth 14] ++ padTo 15 []
  ++ ((List.range 64).flatMap fun k => outWords (SMap.get {} x.outs k))
/-- A core record. -/
def State.coreRecord (s : State) (n : Nat) : List Word :=
  word (n / 16 + 8 * b2n (s.core n).lent) :: (s.getWords (scratchBase n) 0x4000 ++
    (threadsOfCore n).flatMap fun t => (s.thread t).record (!s.system t) t)
/-- Section 4, CORES. -/
def State.secCores (s : State) (i : Nat) : List Word :=
  word (s.coresOf i).length :: (s.coresOf i).flatMap s.coreRecord

/-- A context record: unit, the holder's place among the core records, unit registers and sponge. -/
def State.ctxRecord (s : State) (i n k : Nat) : List Word :=
  let x := s.ctx n k
  let t := (x.holder.map (·.val)).getD 0
  word (n % 4 + 4 * ((s.coresOf i).findIdx fun c => decide (c = t / 8)) + 2 ^ 10 * (t % 8)) ::
    (((List.range 64).flatMap fun j => pair2 (s.cpmRead n k j)) ++
      if n % 4 = 2 then ((List.range 115).map fun j => x.keccak.extractLsb' (14 * j) 14) ++ [x.sponge.setWidth 14] else [])
/-- Section 5, CONTEXTS. -/
def State.secContexts (s : State) (i : Nat) : List Word :=
  word (s.ctxsOf i).length :: (s.ctxsOf i).flatMap fun x => s.ctxRecord i x.1 x.2

/-- The messages of a channel; what is left of a partly read message stands as the first
(notes/assumptions/14.md). -/
def Chan.queued (c : Chan) : List (List Word) := if c.rest = [] then c.msgs else c.rest :: c.msgs
/-- Section 6, CHANNELS. -/
def State.secChannels (s : State) (i : Nat) : List Word :=
  (s.chansOf i).flatMap fun c =>
    word (s.chan c).queued.length :: (s.chan c).queued.flatMap fun m => word m.length :: m

def sharedBase (c : Nat) : Nat := 0x3FE00000000 + c * 0x1000000
/-- First word and length of the shared allotment of slice i in cluster c. -/
def State.sharedArea (s : State) (i c : Nat) : Nat × Nat :=
  (sharedBase c + 1024 * s.fld ⟨slcShare i c, 12, 5⟩, 1024 * s.fld ⟨slcShare i c, 21, 13⟩)
/-- Section 7, SHARED. -/
def State.secShared (s : State) (i : Nat) : List Word :=
  (List.range 8).flatMap fun c => s.getWords (s.sharedArea i c).1 (s.sharedArea i c).2
/-- First instruction and length of the instruction allotment. -/
def State.imemArea (s : State) (i c : Nat) : Nat × Nat := (256 * s.fld ⟨slcImem i c, 7, 0⟩, 256 * s.fld ⟨slcImem i c, 16, 8⟩)
/-- Section 8, IMEM. -/
def State.secImem (s : State) (i : Nat) : List Word :=
  (List.range 8).flatMap fun c =>
    let (a, n) := s.imemArea i c
    (List.range n).flatMap fun j => pair2 (s.instrAt c (a + j))
/-- Section 9, RINGS. -/
def State.secRings (s : State) (i : Nat) : List Word :=
  (s.ringsOf i).flatMap fun r =>
    let x := s.ring r
    let d := ringLine x.first.toNat (s.ringWr r / 2 ^ s.ringSize r) x.line
    (List.range 36).map fun j => lineWord d j
/-- Section 10, KINDS. -/
def State.secKinds (s : State) (i : Nat) : List Word :=
  (s.extentsOf i).flatMap fun x => (List.range ((2 ^ 24 + 6) / 7)).map fun j =>
    word ((List.range 7).foldl (fun a k =>
      a + (if 7 * j + k < 2 ^ 24 then (s.line (x * 2 ^ 24 + 7 * j + k)).kind.toNat else 0) * 4 ^ k) 0)
/-- Section 11, HOST (R410). -/
def State.secHost (s : State) (i : Nat) : List Word :=
  if h : i < 64 then (qpsOf ⟨i, h⟩).flatMap s.qpRecord else []

/-- The words of section k. -/
def State.section' (s : State) (i k : Nat) : List Word := match k with
  | 1 => s.secQuota i
  | 3 => s.secSlots i
  | 4 => s.secCores i
  | 5 => s.secContexts i
  | 6 => s.secChannels i
  | 7 => s.secShared i
  | 8 => s.secImem i
  | 9 => s.secRings i
  | 10 => s.secKinds i
  | 11 => s.secHost i
  | _ => []
/-- Sections that SAVE writes after the capture. -/
def savedSections : List Nat := [1, 3, 4, 5, 6, 7, 8, 9, 10, 11]
/-- IMG_NEED (R384). -/
def State.imageNeed (s : State) (i : Nat) : Nat :=
  (savedSections.map fun k => wordLines (s.section' i k).length).sum

/-! ## SAVE: R387, Table 14.6 -/

/-- First line, counted from the image base, and line count of each section written so far. -/
abbrev Places := List (Nat × Nat × Nat)

/-- Write the listed sections from image line `at0` on: their places, or the section that met a line that is not a slice 0
word line, and what has been written. -/
def State.saveSections (s : State) (i base : Nat) : Nat → List Nat → Places → Except Nat Places × State
  | _, [], acc => (.ok acc, s)
  | at0, k :: ks, acc =>
    let ws := s.section' i k
    let n := wordLines ws.length
    match s.writeLines (base + at0) (chunks 36 n ws) with
    | (false, t) => (.error k, t)
    | (true, t) => t.saveSections i base (at0 + n) ks (acc ++ [(k, at0, n)])

/-- Header words 19 to 102. Section 0's own CRC words have no value (notes/assumptions/14.md). -/
def State.headerTable (s : State) (base : Nat) (pl : Places) (free : List Word) : List Word :=
  (List.range 12).flatMap fun k =>
    match pl.find? fun x => decide (x.1 = k) with
    | some (_, a, n) => num2 a ++ num2 n ++ (if k = 0 then free else crcWords (imageCrc ((s.readLines (base + a) n).getD [])))
    | none => padTo 7 []
/-- The feature words (R211) as they stand in the header. -/
def State.featWords (s : State) : List Word := (List.range 4).flatMap fun k => pair2 (s.reg (0x1400000 + 4 * k))
/-- The header (Table 14.6). -/
def State.header (s : State) (i base lines : Nat) (pl : Places) (free : List Word) : List Word :=
  let x := s.slice i
  let h := [0x0A17, 0x1E6E, 1, word (i + 64 * b2n x.saveable + 128 * b2n x.capLost)] ++ words56 x.freezeEpoch ++ s.featWords
    ++ num2 lines ++ [12] ++ s.headerTable base pl free
  h ++ crcWords (imageCrc h) ++ [0, 0]

/-- Write the Afterimage: the failing section, if one fails, and what has been written. -/
def State.saveImage (s : State) (i : Nat) : Option Nat × State :=
  let x := s.slice i
  let at0 := 3 + x.capLines
  match s.saveSections i x.imgBase at0 savedSections [(0, 0, 3), (2, 3, x.capLines)] with
  | (.error k, s) => (some k, s)
  | (.ok pl, s) =>
    let (v, s) := s.freshVal
    let h := s.header i x.imgBase (at0 + s.imageNeed i) pl [v.extractLsb' 0 14, v.extractLsb' 14 14, (v.extractLsb' 28 4 : BitVec 4).setWidth 14]
    match s.writeLines x.imgBase (chunks 36 3 h) with
    | (false, s) => (some 0, s)
    | (true, s) => (none, s)

/-! ## RESTORE: the checks of R388 -/

/-- An Afterimage as RESTORE reads it: the words of each section. -/
structure Image where
  head : List Word := []
  secs : List (Nat × List Word) := []
  deriving DecidableEq, Repr

def Image.sec (m : Image) (k : Nat) : List Word := ((m.secs.find? fun x => decide (x.1 = k)).map (·.2)).getD []

/-- The header is good: magic, VERSION, CRC, feature words and section count. -/
def State.headerOk (s : State) (h : List Word) : Bool :=
  decide (wAt h 0 = 0x0A17) && decide (wAt h 1 = 0x1E6E) && decide (wAt h 2 = 1) && decide ((h.drop 8).take 8 = s.featWords) &&
    decide (wAt h 18 = 12) && decide ((h.drop 103).take 3 = crcWords (imageCrc (h.take 103)))
/-- Read section k of an image: its lines are slice 0 word lines inside the image area, and its CRC is right. -/
def State.readSection (s : State) (base lines : Nat) (h : List Word) (k : Nat) : Option (List Word) :=
  let o := 19 + 7 * k
  let a := (pAt h o).toNat
  let n := (pAt h (o + 2)).toNat
  if lines < a + n then none
  else match s.readLines (base + a) n with
    | some ws => if k = 0 ∨ (h.drop (o + 4)).take 3 = crcWords (imageCrc ws) then some ws else none
    | none => none
/-- Read an image: the section that fails, or its words. -/
def State.readSecs (s : State) (base lines : Nat) (h : List Word) : List Nat → Except Nat (List (Nat × List Word))
  | [] => .ok []
  | k :: ks => match s.readSection base lines h k with
    | none => .error k
    | some ws => match s.readSecs base lines h ks with
      | .error e => .error e
      | .ok r => .ok ((k, ws) :: r)
def State.readImage (s : State) (base lines : Nat) : Except Nat Image :=
  match (if 3 ≤ lines then s.readLines base 3 else none) with
  | none => .error 0
  | some h =>
    if s.headerOk h = false then .error 0
    else match s.readSecs base lines h ((List.range 11).map (· + 1)) with
      | .error k => .error k
      | .ok r => .ok { head := h, secs := r }

/-- The lines that the reading of an image takes: those of its header, and those of the sections that a good header gives. -/
def State.imageReads (s : State) (base lines : Nat) : List Nat := match (if 3 ≤ lines then s.readLines base 3 else none) with
  | none => []
  | some h =>
    [base, base + 1, base + 2] ++ if s.headerOk h = false then [] else ((List.range 11).map (· + 1)).flatMap fun k =>
      let a := (pAt h (19 + 7 * k)).toNat
      let n := (pAt h (21 + 7 * k)).toNat
      if lines < a + n then [] else (List.range n).map (· + (base + a))
/-- The lines that SAVE writes behind the capture, and the header (R387), up to one that is not a slice 0 word line. -/
def State.imageWrites (s : State) (i : Nat) : List Nat :=
  let x := s.slice i
  ((List.range (s.imageNeed i)).map (· + (x.imgBase + 3 + x.capLines)) ++ (List.range 3).map (· + x.imgBase)).takeWhile s.imageLine
/-- SLC's requests for lines of an image wait at port MOVE (R336). -/
def State.askImage (s : State) (wr : Bool) (ls : List Nat) : State := s.askVisits .image [{ r := asMove, wr := wr, lines := ls }]
/-- The lines of an image that have not been visited are read now (notes/assumptions/9.md). -/
def State.openImage (s : State) (ls : List Nat) : State :=
  s.each ls fun s l => match s.place l with
    | some (k, m) => if (s.visitOf asMove k l).isSome then s else (s.lineOpen asMove k m false).2
    | none => s
/-- No rank issues owed refreshes ahead of everything else (R343). -/
def State.noFlush (s : State) : Bool := s.dchans.all fun d => d.2.flush.all fun f => !f.2

/-! ## Parts of an image -/

/-- Position of the extent list, the channel list and the ring list of section 1. -/
def Image.extAt (_ : Image) : Nat := 72
def Image.exts (m : Image) : List Nat := (List.range (wAt (m.sec 1) 72)).map fun j => wAt (m.sec 1) (73 + j)
def Image.chanAt (m : Image) : Nat := 73 + wAt (m.sec 1) 72
def Image.chans (m : Image) : List Nat :=
  (List.range (wAt (m.sec 1) m.chanAt)).map fun j => let w := wAt (m.sec 1) (m.chanAt + 1 + j); 64 * (w % 8) + w / 8 % 64
def Image.ringAt (m : Image) : Nat := m.chanAt + 1 + wAt (m.sec 1) m.chanAt
/-- Ring number and its 19 registers. -/
def Image.rings (m : Image) : List (Nat × List Pair) :=
  (List.range (wAt (m.sec 1) m.ringAt)).map fun j =>
    let o := m.ringAt + 1 + 40 * j
    ((pAt (m.sec 1) o).toNat, (List.range 19).map fun k => pAt (m.sec 1) (o + 2 + 2 * k))
/-- Slot records. -/
def Image.slots (m : Image) : List (List Word) := chunks 12 (wAt (m.sec 3) 0) ((m.sec 3).drop 1)
def slotQ (r : List Word) : Nat := wAt r 1 % 4
def slotN (r : List Word) : Nat := wAt r 0 % 4096
/-- Core records: 22,017 words each. -/
def Image.cores (m : Image) : List (List Word) := chunks 22017 (wAt (m.sec 4) 0) ((m.sec 4).drop 1)
def coreC (r : List Word) : Nat := wAt r 0 % 8
/-- Context records, whose length depends on the unit. -/
def ctxRecs : Nat → List Word → List (List Word)
  | 0, _ => []
  | k + 1, ws =>
    let n := if wAt ws 0 % 4 = 2 then 129 + 116 else 129
    ws.take n :: ctxRecs k (ws.drop n)
def Image.ctxs (m : Image) : List (List Word) := ctxRecs (wAt (m.sec 5) 0) ((m.sec 5).drop 1)
/-- n messages, and what follows them. -/
def takeMsgs : Nat → List Word → List (List Word) × List Word
  | 0, ws => ([], ws)
  | k + 1, ws =>
    let n := wAt ws 0
    let r := takeMsgs k (ws.drop (n + 1))
    ((ws.drop 1).take n :: r.1, r.2)
/-- The messages of k channels. -/
def chanMsgs : Nat → List Word → List (List (List Word))
  | 0, _ => []
  | k + 1, ws => let r := takeMsgs (wAt ws 0) (ws.drop 1); r.1 :: chanMsgs k r.2
/-- The captured packets of section 2, for the target slice (R389). -/
def captures (i : Nat) : Nat → List Word → List Capture
  | 0, _ => []
  | fuel + 1, ws =>
    if wAt ws 0 = 0 then []
    else
      let n := wAt ws 1
      let w2 := wAt ws 2
      let cls := w2 % 8
      let cnt := wAt ws 5
      let data := (ws.drop 6).take (n - 4)
      let fs := if cls < 3 then wordsFlits cls data else []
      let fs := match fs with
        | [] => []
        | h :: ps => (if 1 ≤ cls ∨ cls = 0 then ins h (14 * 3 + 13) (14 * 3 + 8) i else h) :: ps
      { port := ⟨w2 / 8 % 32, Nat.mod_lt _ (by decide)⟩, cls := BitVec.ofNat 3 cls, slice := BitVec.ofNat 6 i,
        epoch := pAt ws 3, flits := fs, octets := if cls < 3 then [] else wordsFrame cnt data }
        :: captures i fuel (ws.drop (n + 2))

/-- The section of the first difference between the target's quota record and the image (R388), or none. -/
def State.mismatch (s : State) (i : Nat) (m : Image) : Option Nat :=
  let q := m.sec 1
  if (List.range 8).any fun c =>
      decide (pAt q (8 * c) ≠ s.reg (slcShare i c)) || decide (pAt q (8 * c + 2) ≠ s.reg (slcImem i c)) ||
        decide (pAt q (8 * c + 4) ≠ s.reg (slcIbase i c)) then some 1
  else if (List.range 8).any fun c => decide (s.shareCores i c < (m.cores.filter fun r => decide (coreC r = c)).length) then some 4
  else if m.exts ≠ s.extentsOf i then some 1
  else if (m.chans.any fun c => s.chanValid c && decide (s.chanSlice c ≠ i)) ||
      (m.rings.any fun r => decide (ringCfg s r.1 0 0 = 1) && decide (s.ringSlice r.1 ≠ i)) then some 1
  else none

/-! ## RESTORE: claims and loading, R389 -/

/-- Held cores of cluster c, from one that the device chooses. -/
def State.heldCores (s : State) (i c : Nat) : List Nat :=
  ((List.range 16).map (· + 16 * c)).filter fun n =>
    decide ((s.core n).slice = some (BitVec.ofNat 6 i)) && !(s.core n).lent
/-- The core for each core record: the records of a cluster take its held cores in turn. -/
def placeCores (held : Nat → List Nat) : List (List Word) → List Nat → List Nat
  | [], acc => acc
  | r :: rs, acc =>
    let c := coreC r
    placeCores held rs (acc ++ [((held c).find? fun n => !acc.contains n).getD (16 * c)])
/-- Unit number of a context record, given the core of each core record. -/
def ctxUnit (cores : List Nat) (r : List Word) : Nat := 4 * (cores.getD (wAt r 0 / 4 % 256) 0 / 16) + wAt r 0 % 4
def ctxThread (cores : List Nat) (r : List Word) : Nat := 8 * cores.getD (wAt r 0 / 4 % 256) 0 + wAt r 0 / 2 ^ 10 % 8

/-- The first claimed slot that is in use. -/
def State.slotWait (s : State) (m : Image) : Option Nat :=
  (m.slots.find? fun r => decide ((s.slot (slotQ r) (slotN r)).st ≠ .free)).map slotN
/-- The first cluster that has too few held cores. -/
def State.coreWait (s : State) (i : Nat) (m : Image) : Option Nat :=
  (List.range 8).find? fun c => decide ((s.heldCores i c).length < (m.cores.filter fun r => decide (coreC r = c)).length)
/-- The context records of an image for which no context has been taken, by number and unit. -/
def ctxsLeft (m : Image) (cores : List Nat) (taken : List (Nat × Nat × Nat)) : List (Nat × Nat) :=
  (m.ctxs.zipIdx.map fun r => (r.2, ctxUnit cores r.1)).filter fun x => !taken.any fun y => decide (y.1 = x.1)
/-- DETAIL of a RESTORE that still waits: for a slot, for cores, or for a context (R389). -/
def State.restoreWait (s : State) (c : SlcCmd) (m : Image) : Option Nat :=
  match s.slotWait m, c.cores with
  | some n, _ => some n
  | none, none => (s.coreWait c.slice.toNat m).map (4096 + ·)
  | none, some cores => (ctxsLeft m cores c.ctxs).head?.map fun x => 4096 + x.2 / 4

/-- Claim, or release the claim of, the slots of an image. -/
def State.claim (s : State) (m : Image) (c : Option (BitVec 6)) : State :=
  s.each m.slots fun s r => s.modSlot (slotQ r) (slotN r) fun x => { x with claim := c }

/-- Load a slot record (R386); its deadline is the offset, and the freeze start of the restored slice is 0. -/
def State.loadSlot (s : State) (i : Nat) (r : List Word) : State :=
  let w1 := wAt r 1
  let w2 := wAt r 2
  s.modSlot (slotQ r) (slotN r) fun x =>
    { st := match w1 / 4 % 8 with
        | 1 => .waiting
        | 2 => .held
        | 3 => .ready
        | 4 => .running
        | _ => .free,
      last := x.last, gen := BitVec.ofNat 2 (wAt r 0 / 4096), src := BitVec.ofNat 3 (w1 / 32 % 8), slice := BitVec.ofNat 6 i,
      count := BitVec.ofNat 6 (w1 / 256), dl := pAt r 5, handler := BitVec.ofNat 12 (w2 % 4096),
      succ0 := if w2 / 2 ^ 12 % 2 = 1 then some (r.getD 3 0) else none,
      succ1 := if w2 / 2 ^ 13 % 2 = 1 then some (r.getD 4 0) else none, arg0 := pAt r 7, arg1 := pAt r 9 }

/-- Load special register n of a record, RO fields included. -/
def Thread.loadSr (x : Thread) (n : Nat) (v : Pair) : Thread :=
  match n with
  | 0 => { x with z := bit v 0, n := bit v 1, c := bit v 2, v := bit v 3, u := bit v 4 }
  | 1 => { x with us := bit v 0, lsusp := bit v 1, exc := bit v 2 }
  | 2 => { x with ecause := v.extractLsb' 0 6 }
  | 4 => { x with einfo := (x.einfo.extractLsb' 28 14) ++ v }
  | 5 => { x with einfo := (loW v) ++ (x.einfo.extractLsb' 0 28) }
  | 6 => { x with esFlags := v.extractLsb' 0 5, esUs := bit v 5, esLsusp := bit v 6, esRepv := bit v 7, esImp := bit v 8,
                  edepth := v.extractLsb' 9 6 }
  | _ => x.setSr n v

def blockOf (n : Nat) : Block := match n with
  | 1 => .chr
  | 2 => .chc
  | 3 => .wfe
  | 4 => .join
  | 5 => .cpl
  | 6 => .cpq
  | 7 => .done
  | _ => .none

/-- The output entry at word 0 of a record part. -/
def outOf (r : List Word) : OutEntry :=
  { valid := bit (r.getD 1 0) 3, rs := r.getD 0 0, cls := (r.getD 1 0).extractLsb' 0 2, keyed := bit (r.getD 1 0) 2,
    hdr := (r.getD 4 0) ++ (r.getD 3 0) ++ (r.getD 2 0), xseq := BitVec.ofNat 16 (wAt r 5 + 2 ^ 14 * (wAt r 6 / 32 % 4)),
    inPort := BitVec.ofNat 5 (wAt r 6 % 32) }

/-- Load a thread record as thread t, HALTED (R389). A thread that debug had halted, with no task and no parent, had left WAIT-TASK:
the record does not say (notes/assumptions/14.md). The value of an unread expiry word and bits [15:14] of the PC, which
word 1 has no room for, are not in the record: `fv` is a free value (notes/assumptions/14.md). -/
def threadOf (t : Nat) (fv : BitVec 64) (r : List Word) : Thread :=
  let w := wAt r 0
  let x : Thread :=
    { st := .halted, frz := true, dbg := decide (w / 2 ^ 13 % 2 = 1), priorBlk := blockOf (w / 128 % 16),
      prior := match w % 8 with
        | 0 => .waitTask
        | 4 => .faulted
        | 3 => if w / 2 ^ 13 % 2 = 1 ∧ w / 2 ^ 12 % 2 = 0 ∧ w / 8 % 2 = 0 ∧ w / 128 % 16 = 0 then .waitTask else .run
        | _ => .run,
      child := decide (w / 8 % 2 = 1), parent := 8 * (t / 8) + w / 16 % 8, hasTask := decide (w / 2 ^ 12 % 2 = 1),
      handle := r.getD 3 0, pc := (fv.extractLsb' 14 2 : BitVec 2) ++ r.getD 1 0, d := wAt r 2 % 64, spilled := wAt r 2 / 64 % 64,
      regs := (List.range 96).foldl (fun m k => SMap.set 0 m k (r.getD (if k < 8 then 5 + k else 55 + k) 0)) [],
      banks := (List.range 8).foldl (fun m b => SMap.set 0 m b (pAt r (13 + 2 * b))) [],
      staged := (r.drop 152).take (wAt r 151), stagedCh := (r.getD 184 0).extractLsb' 0 10,
      timerLeft := if wAt r 187 % 2 = 1 then some (pAt r 185) else none,
      timerWord := if wAt r 187 / 2 % 2 = 1 then some (fv.extractLsb' 0 14) else none,
      reply := (r.drop 188).take (wAt r 190 % 4), replyDue := decide (wAt r 190 / 4 % 2 = 1),
      copq := (r.drop 192).take (wAt r 191), evr := (r.getD 240 0).extractLsb' 0 8,
      outs := (List.range 64).foldl (fun m k => SMap.set {} m k (outOf (r.drop (256 + 7 * k)))) [] }
  (List.range 17).foldl (fun x n => x.loadSr n (pAt r (29 + 2 * n))) x

/-- Load a core record on core n. -/
def State.loadCore (s : State) (n : Nat) (r : List Word) : State :=
  let s := s.putWords (scratchBase n) ((r.drop 1).take 0x4000)
  s.each (List.range 8) fun s j =>
    let t := 8 * n + j
    let (v, s) := s.freshVal
    { s with threads := SMap.set {} s.threads t (threadOf t v ((r.drop (1 + 0x4000 + 704 * j)).take 704)) }

/-- A thread number as a holder. -/
def asHolder (t : Nat) : Fin 1024 := ⟨t % 1024, Nat.mod_lt _ (by decide)⟩
/-- Load a context record into context k of unit n, which was taken for it. The position in the sponge's block is not in the record
(notes/assumptions/14.md). -/
def State.loadCtx (s : State) (cores : List Nat) (r : List Word) (n k : Nat) : State :=
  let t := ctxThread cores r
  let (v, s) := s.freshVal
  let kk := r.drop 129
  s.modCtx n k fun _ =>
    { holder := some (asHolder t), last := BitVec.ofNat 10 t,
      uregs := (List.range 62).foldl (fun m j => SMap.set 0 m j (pAt r (1 + 2 * j))) [],
      keccak := if n % 4 = 2 then BitVec.ofNat 1600 ((kk.take 115).zipIdx.foldl (fun a wi => a + wi.1.toNat * 2 ^ (14 * wi.2)) 0) else 0,
      sponge := if n % 4 = 2 then (kk.getD 115 0).extractLsb' 0 2 else 0, pos := if n % 4 = 2 then v.toNat % 1088 else 0 }

/-- Load the channels, and the rings with their partial lines. The count of epoch starts of a FILLING ring is not in the image
(notes/assumptions/14.md). -/
def State.loadChan (s : State) (i c : Nat) (ms : List (List Word)) : State :=
  (s.setFld ⟨lumCfg c, 6, 0⟩ (i + 64)).modChan c fun _ => { msgs := ms }
def State.loadRing (s : State) (i r : Nat) (regs : List Pair) (line : List Word) : State :=
  let (v, s) := s.freshVal
  let s := s.each (regs.zipIdx.filter fun x => decide (x.2 ≠ 5 ∧ x.2 ≠ 14)) fun s x => s.setReg (ringReg r (4 * x.2)) x.1
  let s := s.setFld ⟨ringReg r 0, 8, 3⟩ i
  let n := (regs.getD 5 0).toNat - 1
  s.modRing r fun _ => { line := (line.drop 1).take n, first := (line.getD 0 0).extractLsb' 0 6, starts := v.toNat % 2 ^ 14 }

/-- Load the instruction allotment of cluster c. -/
def State.loadImem (s : State) (c a : Nat) : List Word → Nat → State
  | w0 :: w1 :: ws, n + 1 =>
    ({ s with imem := SMap.set 0 s.imem (imemKey c a) (pairOf w0 w1),
              poison := SMap.set false s.poison (imemPoison c a) false } : State).loadImem c (a + 1) ws n
  | _, _ => s
/-- Load sections 7 and 8: the words of each cluster follow one another. -/
def State.loadMem (s : State) (i : Nat) : List Nat → List Word → List Word → State
  | [], _, _ => s
  | c :: cs, sh, im =>
    let (a, n) := s.sharedArea i c
    let (b, k) := s.imemArea i c
    ((s.putWords a (sh.take n)).loadImem c b im k).loadMem i cs (sh.drop n) (im.drop (2 * k))

/-- The lines that KINDS marks 0b11 (R389 step 5). -/
def Image.poisoned (m : Image) : List Nat :=
  (m.exts.zip (chunks ((2 ^ 24 + 6) / 7) m.exts.length (m.sec 10))).flatMap fun x =>
    ((List.range (2 ^ 24)).filter fun o => decide (wAt x.2 (o / 7) / 4 ^ (o % 7) % 4 = 3)).map (· + x.1 * 2 ^ 24)
/-- The tags of those lines are written through port MOVE: poisoned, with the target slice as owner. -/
def State.loadKinds (s : State) (i : Nat) (ls : List Nat) : State :=
  s.each ls fun s l => match s.place l with
    | some (k, m) => ((s.lineOpen asMove k m true).2.pushWrite asMove k m l).modLine l fun x => { x with slice := BitVec.ofNat 6 i, kind := 3 }
    | none => s

/-- The cores of slice i for the core records of an image, which the device chooses among those it holds (R389 step 2). -/
def State.chooseCores (s : State) (i : Nat) (m : Image) : List Nat × State :=
  let (rot, s) := s.choose 16
  let held (c : Nat) : List Nat := let l := s.heldCores i c; l.drop (rot % max 1 l.length) ++ l.take (rot % max 1 l.length)
  (placeCores held m.cores [], s)
/-- RESTORE takes what has become free (R389 steps 1 to 3): once every claimed slot is free and enough cores are held it places the
cores, and then it takes a context for each record whose unit has one. -/
def State.restoreTake (s : State) (c : SlcCmd) (m : Image) : State :=
  let (c, s) := if (s.slotWait m).isSome ∨ c.cores.isSome ∨ (s.coreWait c.slice.toNat m).isSome then (c, s)
    else let r := s.chooseCores c.slice.toNat m; ({ c with cores := some r.1 }, r.2)
  match (s.slotWait m), c.cores with
  | none, some cores =>
    let r := (ctxsLeft m cores c.ctxs).foldl (fun (p : SlcCmd × State) x => match p.2.pick (p.2.unit x.2).free with
      | (some k, s) => ({ p.1 with ctxs := p.1.ctxs ++ [(x.1, x.2, k.val)] },
                        s.modCtx x.2 k fun _ => { holder := some (asHolder (ctxThread cores (m.ctxs.getD x.1 []))) })
      | (none, s) => (p.1, s)) (c, s)
    { r.2 with slcCmd := some r.1 }
  | _, _ => { s with slcCmd := some c }
/-- RESTORE releases what it claimed and took (R389). -/
def State.restoreRelease (s : State) (c : SlcCmd) (m : Image) : State :=
  s.each c.ctxs (fun s x => s.modCtx x.2.1 x.2.2 fun _ => {}) |>.claim m none

/-- Steps 1 to 5 of R389, when nothing has to be waited for; section 8, the words of the allotments, is measured (R437). -/
def State.loadImage (s : State) (c : SlcCmd) (m : Image) : State :=
  let i := c.slice.toNat
  let s := s.claim m none
  let cores := c.cores.getD []
  let s := s.each (cores.zip m.cores) fun s x => s.loadCore x.1 x.2
  let s := s.each c.ctxs fun s x => s.loadCtx cores (m.ctxs.getD x.1 []) x.2.1 x.2.2
  let s := s.each (m.chans.zip (chanMsgs m.chans.length (m.sec 6))) fun s x => s.loadChan i x.1 x.2
  let s := s.loadMem i (List.range 8) (m.sec 7) (m.sec 8)
  let s := s.each (m.rings.zip (chunks 36 m.rings.length (m.sec 9))) fun s x => s.loadRing i x.1.1 x.1.2 x.2
  let s := s.each (List.range 4) fun s q => s.setReg (dspOff q (0x100 + 8 * i)) (pAt (m.sec 1) (64 + 2 * q))
  let s := s.each m.slots fun s r => s.loadSlot i r
  let s := s.loadKinds i m.poisoned
  let s := if h : i < 64 then s.each ((qpsOf ⟨i, h⟩).zip (chunks 8 8 (m.sec 11))) fun s x => s.qpLoad x.1 x.2 else s
  let imem := (m.sec 8).take ((List.range 8).map fun c => 2 * (s.imemArea i c).2).sum
  let s := (s.extendMeas (64 + i) (shake256 (wordOctets imem) 64)).markRestored (64 + i)
  s.modSlice i fun x => { x with freezeStart := 0, freezeEpoch := words56Of (m.head.drop 4),
                                 captured := captures i (m.sec 2).length (m.sec 2) }
where
  /-- A 56-bit number from four words. -/
  words56Of (ws : List Word) : BitVec 56 := ws.getD 3 0 ++ ws.getD 2 0 ++ ws.getD 1 0 ++ ws.getD 0 0

end Sys2Proof.Machine
end

