-- ==== Sys2Proof/Machine/Slc.lean ====
section
/-! DEFINITION. Slc.lean: slices, their cores and extents, freeze, thaw, save, restore and reset (spec/14), STALL (spec/09
R262 to R264), and the end of a wipe (spec/13 R358). -/

namespace Sys2Proof.Machine

def slcOff (o : Nat) : Nat := 0x2400000 + o
def slcStatus : Nat := slcOff 4

/-! ## The command engine: R366 to R368 -/

def State.slcBusy (s : State) : Bool := decide (s.fld ⟨slcStatus, 4, 4⟩ = 1)
/-- The command ends: CODE, DETAIL, BUSY 0, and the SLC interrupt (R406). -/
def State.slcEnd (s : State) (code : Nat) (detail : Nat := 0) : State :=
  let s := ((s.setFld ⟨slcStatus, 3, 0⟩ code).setFld ⟨slcStatus, 4, 4⟩ 0).setFld ⟨slcStatus, 18, 6⟩ detail
  ({ s with slcCmd := none } : State).msix 0 27
/-- STATUS.CFG_ERR. -/
def State.slcCfgErr (s : State) : State := s.setFld ⟨slcOff 0x20, 0, 0⟩ 1

/-! ## Cores: R194, R362, R373 -/

/-- All eight threads of core n wait at TASK. -/
def State.coreWaits (s : State) (n : Nat) : Bool := (threadsOfCore n).all fun t => decide ((s.thread t).st = .waitTask)
/-- Core n leaves its slice: what its eight threads hold breaks (R322). -/
def State.coreBreaks (s : State) (n : Nat) : State :=
  if (s.core n).slice.isNone then s else s.breakOwned fun o => decide (o.toNat / 8 = n)
/-- Core n passes into the hands of slice i: its scratch is cleared (R194). -/
def State.giveCore (s : State) (n i : Nat) (lent : Bool) : State :=
  let s := s.coreBreaks n
  let b := scratchBase n
  ({ s with mem := SMap.keep (fun a _ => decide (a < b) || decide (b + 0x4000 ≤ a)) s.mem,
            poison := SMap.keep (fun a _ => decide (a < b) || decide (b + 0x4000 ≤ a)) s.poison } : State).modCore n
    fun _ => { slice := some (BitVec.ofNat 6 i), lent := lent }
def State.spareCore (s : State) (n : Nat) : State := (s.coreBreaks n).modCore n fun _ => {}

/-- Slice i waits for cores of cluster c. -/
def State.needsCore (s : State) (i c : Nat) : Bool :=
  decide (s.sliceState i ≠ 0) && decide (s.placeHeld i c < s.shareCores i c)
/-- Cores of cluster c that a grant can take: spare or lent ones whose eight threads wait at TASK (R194). -/
def State.grantable (s : State) (c : Nat) : List Nat :=
  ((List.range 16).map (· + 16 * c)).filter fun n => ((s.core n).slice.isNone || (s.core n).lent) && s.coreWaits n
/-- Grant cores of cluster c to slice i while it needs some and there are some; the device chooses them. -/
def State.grantCores (s : State) (i c : Nat) : Nat → State
  | 0 => s
  | n + 1 =>
    if s.needsCore i c then
      match s.pick (s.grantable c) with
      | (some k, s) => (s.giveCore k i false).grantCores i c n
      | (none, s) => s
    else s

/-- Slice i has a READY task in quadrant q: its earliest deadline (R373). -/
def State.readyDl (s : State) (i q : Nat) : Option Pair :=
  (s.dspQ q).slots.foldl (fun b x =>
    if x.2.st = .ready ∧ x.2.slice.toNat = i then
      match b with
      | none => some x.2.dl
      | some d => if precedes x.2.dl d then some x.2.dl else b
    else b) none
/-- The slice that a spare core of cluster c is lent to. -/
def State.lendTo (s : State) (c : Nat) : Option Nat :=
  ((List.range 64).foldl (fun (b : Option (Nat × Pair)) i =>
    if s.fld ⟨slcReg i 4, 0, 0⟩ = 1 ∧ s.sliceState i ≠ 0 ∧ 0 < s.shareCores i c ∧ s.waiters (c / 2) i = [] then
      match s.readyDl i (c / 2), b with
      | none, _ => b
      | some d, none => some (i, d)
      | some d, some x => if precedes d x.2 then some (i, d) else b
    else b) none).map (·.1)

/-- An idle core that is held beyond the share, or lent and no longer wanted, becomes spare. -/
def State.coreReturn (s : State) (n : Nat) : State :=
  match (s.core n).slice with
  | some i =>
    let c := n / 16
    let needed := (List.range 64).any fun j => s.needsCore j c
    if (s.core n).lent then (if (s.readyDl i.toNat (c / 2)).isNone ∨ needed then s.spareCore n else s)
    else if s.shareCores i.toNat c < s.placeHeld i.toNat c then s.spareCore n else s
  | none => s
/-- A spare core goes to a slice that needs one, which the device chooses, or is lent. -/
def State.coreUse (s : State) (n : Nat) : State :=
  let c := n / 16
  if (s.core n).slice.isSome then s
  else match s.pick ((List.range 64).filter fun j => s.needsCore j c) with
    | (some i, s) => s.giveCore n i false
    | (none, s) => match s.lendTo c with
      | some i => s.giveCore n i true
      | none => s
/-- CORE_IDLE (R373). -/
def execCoreIdle (core : Fin 128) (s : State) : Out :=
  .next (if s.coreWaits core then (s.coreReturn core).coreUse core else s)

/-! ## Extents: R330, R331, R367 -/

/-- The group that the device chooses for an extent of slice i: 0 to 3 QUAD, 4 WIDE (R330). -/
def State.wantGroup (s : State) (i : Nat) : Nat :=
  if i = 0 ∨ i = 63 then 4
  else match (List.range 4).filter fun q => decide (0 < s.shareCores i (2 * q)) || decide (0 < s.shareCores i (2 * q + 1)) with
    | [q] => q
    | _ => 4
/-- Chunks in use: group and PBASE of every extent, of every move's target, and of the extent being granted. -/
def State.chunksUsed (s : State) : List (Nat × Nat) :=
  (s.exts.flatMap fun x =>
    (if x.2.valid then [(x.2.group.toNat, x.2.pbase.toNat)] else []) ++
      (if x.2.moving.isSome then [(x.2.toGroup.toNat, x.2.toPbase.toNat)] else [])) ++
  ((s.slcCmd.bind (·.place)).toList.map fun p => (p.1.toNat, p.2.toNat))
/-- Two placements share a chunk of a channel (R329). -/
def chunksMeet (a b : Nat × Nat) : Bool :=
  if 4 ≤ a.1 then (if 4 ≤ b.1 then decide (a.2 = b.2) else decide (b.2 ≤ a.2) && decide (a.2 < b.2 + 4))
  else if 4 ≤ b.1 then decide (a.2 ≤ b.2) && decide (b.2 < a.2 + 4)
  else decide (a.1 = b.1) && decide (a.2 < b.2 + 4) && decide (b.2 < a.2 + 4)
/-- PBASE values that are free for group g. -/
def State.freePlaces (s : State) (g : Nat) : List Nat :=
  (List.range s.extents).filter fun b =>
    (decide (g = 4) || (decide (b % 4 = 0) && decide (b + 4 ≤ s.extents))) && !s.chunksUsed.any fun u => chunksMeet u (g, b)
/-- The device's choice of a place for group g. -/
def State.pickPlace (s : State) (g : Nat) : Option (BitVec 3 × BitVec 12) × State :=
  let r := s.pick (s.freePlaces g)
  (r.1.map fun b => (BitVec.ofNat 3 g, BitVec.ofNat 12 b), r.2)

/-- Extents of the slice whose group is no longer the one that its shares ask for are moved, while chunks are free; the copy begins with
line 0 (R330, R331). -/
def State.moveExtents (s : State) (i : Nat) : State :=
  s.each (s.extentsOf i) fun s x =>
    let e := s.extent x
    if e.moving.isSome ∨ e.group.toNat = s.wantGroup i then s
    else match s.pickPlace (s.wantGroup i) with
      | (some (g, b), s) => (s.modExtent x fun e => { e with moving := some 0, copying := false, toGroup := g, toPbase := b }).askMove x
      | (none, s) => s
/-- Moves that found no free chunk, or whose extent was moving, begin once they can. -/
def State.moveAll (s : State) : State := s.each (List.range 64) State.moveExtents
/-- ACTs over the lines of an extent's place from offset p on. -/
def State.sweepPlace (s : State) (group pbase p : Nat) : State :=
  if 4 ≤ group then s.each (List.range 16) fun s k => s.passLines 5 k (pbase * 2 ^ 20 + p / 16) ((pbase + 1) * 2 ^ 20)
  else s.each (List.range 4) fun s j => s.passLines 5 (4 * group + j) (pbase * 2 ^ 20 + p / 4) ((pbase + 4) * 2 ^ 20)
/-- The lines of extent x that are not copied yet are copied, and it lies in its new place (R331). -/
def State.moveRest (s : State) (x : Nat) : State :=
  let e := s.extent x
  match e.moving with
  | some p =>
    let s := (s.sweepPlace e.group.toNat e.pbase.toNat p).sweepPlace e.toGroup.toNat e.toPbase.toNat p
    let s := s.each (List.range 16) fun s k =>
      if (s.dchan k).reqs.any fun q => decide (q.reply = .move x) then
        s.modDchan k fun d => { d with reqs := d.reqs.filter fun q => decide (q.reply ≠ .move x) }
      else s
    (s.modExtent x fun e =>
      { e with moving := none, copying := false, group := e.toGroup, pbase := e.toPbase, toGroup := 0, toPbase := 0 }).rehome x
  | none => s
/-- EXTENT_MOVE_END: the last line is copied and MOVING clears (R331); not while a channel wipes, a rank's owed refreshes come first
(R343) or the fatal path has stopped the moves (R453). Moves and a wipe that waited for it begin. -/
def State.extentMoveEnd (s : State) (x : Nat) : State :=
  if (s.extent x).moving.isSome ∧ (s.dchans.all fun d => d.2.wiping.isNone) ∧ s.noFlush ∧ s.fatal < 3 then
    (s.moveRest x).startWipes.moveAll
  else s
def execExtentMoveEnd (x : Fin 4096) (s : State) : Out := .next (s.extentMoveEnd x.val)

/-! ## CREATE: R364, R367 -/

/-- Two parts of a memory overlap. -/
def overlap (a n b m : Nat) : Bool := decide (0 < n) && decide (0 < m) && decide (a < b + m) && decide (b < a + n)
/-- The allotments of slice i fail R364 in cluster c. -/
def State.quotaFails (s : State) (i c : Nat) : Bool :=
  let sh (j : Nat) : Nat × Nat := (s.fld ⟨slcShare j c, 12, 5⟩, s.fld ⟨slcShare j c, 21, 13⟩)
  let im (j : Nat) : Nat × Nat := (s.fld ⟨slcImem j c, 7, 0⟩, s.fld ⟨slcImem j c, 16, 8⟩)
  let ib := s.fld ⟨slcIbase i c, 15, 0⟩
  decide (256 < (sh i).1 + (sh i).2) || decide (256 < (im i).1 + (im i).2) ||
    ((List.range 62).map (· + 1)).any (fun j => decide (j ≠ i) && decide (s.sliceState j ≠ 0) &&
      (overlap (sh i).1 (sh i).2 (sh j).1 (sh j).2 || overlap (im i).1 (im i).2 (im j).1 (im j).2)) ||
    (decide (0 < (im i).2) && (decide (ib < (im i).1 * 256 + 32) || decide (((im i).1 + (im i).2) * 256 ≤ ib))) ||
    (decide (0 < s.shareCores i c) && decide ((im i).2 = 0))

def State.slcCreate (s : State) (i : Nat) (restore : Bool) : State :=
  match (List.range 8).find? (s.quotaFails i) with
  | some c => s.slcEnd 4 c
  | none =>
    let s := (s.modSlice i fun _ => { state := if restore then 5 else 1 }).clearMeas i
    (s.each (List.range 8) fun s c => s.grantCores i c 16).slcEnd 0

/-! ## Freeze: R376 to R378 -/

/-- GO(n) has been received, or on the master sent (R376). -/
def State.goOut (s : State) (n : Pair) : Bool :=
  (s.epc.gos.any fun g => decide (lo28 g.1 = n)) && !(decide (s.role = 1) && s.epc.anns.any fun a => decide (lo28 a.2.1 = n))
/-- An epoch named by a command is too late (R376, R381). -/
def State.epochLate (s : State) (n : Pair) : Bool :=
  let d := (n - lo28 s.epc.epoch).toNat
  s.run && (decide (d = 0) || decide (2 ^ 27 ≤ d) || s.goOut n)

/-- The thread runs a WAVE, PACKET or SLOW task, or is a child of one. -/
def State.packetThread (s : State) (t : Nat) : Bool :=
  match s.slotFor t with
  | some x => decide (x.src.toNat < 3)
  | none => false
/-- A thread of a freezing slice halts, now or at the end of its instruction (R266, R377); one that debug has halted stays so, and is
not halted by R377 (R380). -/
def State.freezeThread (s : State) (t : Nat) : State :=
  let x := s.thread t
  if x.st = .run ∨ x.st = .blocked then
    (if x.boundary then s.haltThread t else s).modThread t fun x => { x with frz := true }
  else s
/-- Timers stop, keeping the ticks that remain (R379). -/
def State.stopTimer (s : State) (start : Tick) (t : Nat) : State :=
  s.modThread t fun x => match x.timer with
    | some e =>
      let d := e - lo28 start
      { x with timer := none, timerLeft := some (if 2 ^ 27 ≤ d.toNat then 0 else d) }
    | none => x

/-- A packet task that has not been dispatched moves into the capture, or is discarded (R377 step 3, R378). -/
def State.captureSlot (s : State) (i q n k : Nat) : State :=
  match s.pkt? k with
  | some p => if s.pastFreeze i p then s.discardFor i k else s.captureAt i k
  | none => s.freeSlot q n 3
/-- Packet tasks of slice i that have not been dispatched, in the order in which they were allocated: packet, quadrant and slot. -/
def State.packetSlots (s : State) (i : Nat) : List (Nat × Nat × Nat) :=
  let l := (List.range 4).flatMap fun q => (s.dspQ q).slots.filterMap fun x =>
    if x.2.slice.toNat = i ∧ x.2.st ≠ .free ∧ x.2.st ≠ .running then x.2.pkt.map fun k => (x.2.born, k, q, x.1) else none
  (l.mergeSort fun a b => decide (a.1 ≤ b.1)).map (·.2)

/-- SLC as the requester of a capture's lines (R336). -/
def asCapture (i : Nat) : Requester := { slice := 0, port := 5, held := some (.capture i) }
/-- Write words of slice i's capture area, from its word `at0` on, into their lines (R378, R383): image lines 3 on, 36 words a line.
A line that is not a slice 0 word line is left, and SAVE will end with IMAGE (R387). -/
def State.capPut (s : State) (i at0 : Nat) : List Word → State
  | [] => s
  | w :: ws =>
    let l := (s.slice i).imgBase + 3 + at0 / 36
    let s := if s.imageLine l then (s.lineWrite (asCapture i) l .part fun d => linePut d (at0 % 36) false (w.setWidth 28)).2
             else s.modSlice i fun x => { x with capBad := true }
    s.capPut i (at0 + 1) ws
/-- The RAW record of packet p for slice i (R378). -/
def State.rawOf (s : State) (i : Nat) (p : Pkt) : List Word :=
  rawRecord p.cls.toNat p.port.val i (if p.cls = 0 then hdrEpoch (p.flits.headD 0) else lo28 s.epc.epoch) p.flits p.octets
/-- n words have room in slice i's capture area; the lines that they take there. -/
def Slice.capRoom (x : Slice) (n : Nat) : Bool := decide (x.capWords + n ≤ x.capLines * 36)
def State.capLinesOf (s : State) (i n : Nat) : List Nat :=
  let x := s.slice i
  if x.capRoom n then
    ((List.range ((x.capWords % 36 + n + 35) / 36)).map (· + (x.imgBase + 3 + x.capWords / 36))).filter s.imageLine
  else []
/-- Capture packet k for slice i (R378): a RAW record appended to the capture area, or a packet lost. -/
def State.capturePkt (s : State) (i k : Nat) : State :=
  match s.pkt? k with
  | none => s
  | some p =>
    let ws := s.rawOf i p
    let s := if (s.slice i).capRoom ws.length then
        (s.capPut i (s.slice i).capWords ws).modSlice i fun x =>
          { x with capWords := x.capWords + ws.length,
                   captured := x.captured ++ [{ port := p.port, cls := p.cls, slice := BitVec.ofNat 6 i,
                                                epoch := if p.cls = 0 then hdrEpoch (p.flits.headD 0) else lo28 s.epc.epoch,
                                                flits := p.flits, octets := p.octets }] }
      else (s.lateDrop i).modSlice i fun x => { x with capLost := true }
    (s.dropHolder (.capture i)).endPkt k
/-- Packets wait for slice i's capture in their order: one at the head that has passed its link check is captured once its record's
lines have been visited, or `now`, and one that is gone is left out (R28, R336, R378). -/
def State.capFlush (s : State) (i : Nat) (now : Bool) : Nat → State
  | 0 => s
  | n + 1 => match (s.slice i).capQueue with
    | [] => s
    | k :: rest =>
      let t := s.modSlice i fun x => { x with capQueue := rest }
      match s.pkt? k with
      | none => t.capFlush i now n
      | some p =>
        if p.gone then t.capFlush i now n
        else if p.link ≠ .passed then s
        else
          let ls := s.capLinesOf i (s.rawOf i p).length
          if now ∨ s.visited (.capture i) ls then ((t.freeCaptured k).capturePkt i k).capFlush i now n
          else s.askVisits (.capture i) [{ r := asCapture i, wr := true, lines := ls }]
/-- The packets that wait for slice i's capture and can be captured are: `now` with the lines not visited yet
(notes/assumptions/9.md). -/
def State.captureDue (s : State) (now : Bool) (i : Nat) : State :=
  if s.capturing i then s.capFlush i now (s.slice i).capQueue.length else s
/-- No packet waits for slice i's capture any more: those that have been queued are discarded (Table 14.2). -/
def State.captureShut (s : State) (i : Nat) : State :=
  let ks := ((s.slice i).capQueue.filter fun k => (s.pkt? k).any fun p => decide (p.link = .passed))
  ((s.modSlice i fun x => { x with capQueue := [] }).dropHolder (.capture i)).each ks fun s k => s.discardLate i k

/-- The freeze point of slice i with freeze epoch e (R377). -/
def State.freeze (s : State) (i : Nat) (e : Epoch) (start : Tick) : State :=
  let s := s.modSlice i fun x => { x with state := 3, freezeAt := none, freezeEpoch := e, freezeStart := start, limited := false }
  let ts := s.threadsOfSlice i
  let on := ts.filter s.packetThread
  let s := s.each on fun s t => s.modThread t fun x => { x with runsOn := true }
  let s := s.each (ts.filter fun t => !on.contains t) State.freezeThread
  let s := s.each ts fun s t => s.stopTimer start t
  let s := s.each (s.packetSlots i) fun s x => s.captureSlot i x.2.1 x.2.2 x.1
  if h : i < 64 then s.hstFreeze ⟨i, h⟩ else s

/-- ARM (R376): the freeze epoch and the image area are noted; with RUN 0 the freeze point is now. -/
def State.slcArm (s : State) (i : Nat) : State :=
  let f := s.reg (slcOff 8)
  if s.epochLate f then s.slcEnd 6
  else
    let e := s.epc.epoch + (f - lo28 s.epc.epoch).setWidth 56
    let s := s.modSlice i fun x =>
      { x with imgBase := s.fld ⟨slcOff 0xC, 27, 0⟩ + 2 ^ 28 * s.fld ⟨slcOff 0x10, 7, 0⟩, imgLines := s.fld ⟨slcOff 0x14, 27, 0⟩,
               capLines := s.fld ⟨slcOff 0x18, 27, 0⟩, captured := [], capWords := 0, capLost := false, capBad := false, saveable := false,
               saved := false, limited := false, freezeEpoch := e, freezeAt := some f, state := 2 }
    (if s.run then s else s.freeze i s.epc.epoch s.tick).slcEnd 0

/-- Every command of a unit by a thread of slice i has completed. -/
def State.copQuiet (s : State) (i : Nat) : Bool :=
  s.units.all fun u => u.2.cmds.all fun c => !s.assigned c.thread i
/-- The request is a line of a trace ring. -/
def Reply.isRing : Reply → Bool
  | .ring _ _ _ => true
  | _ => false
/-- Every DRAM request of slice i's threads, commands and entries has been answered. -/
def State.dramQuiet (s : State) (i : Nat) : Bool :=
  s.dchans.all fun d => d.2.reqs.all fun r => decide (r.slice.toNat ≠ i) || r.reply.isRing
def State.hstQuiet (s : State) (i : Nat) : Bool := if h : i < 64 then !s.hstBusy ⟨i, h⟩ else true
/-- Thread t has still to execute TASK before its slice is frozen (R377 step 1). -/
def State.stillOn (s : State) (t : Nat) : Bool := (s.thread t).runsOn && (s.thread t).live
/-- Steps 1 to 4 of R377 are complete. -/
def State.frozenNow (s : State) (i : Nat) : Bool :=
  (s.threadsOfSlice i).all (fun t =>
    decide ((s.thread t).st ≠ .run) && decide ((s.thread t).st ≠ .blocked) && s.storesDone t &&
      ((s.slice i).limited || !s.stillOn t)) &&
    s.dramQuiet i && s.copQuiet i && s.hstQuiet i &&
    ((List.range 4).all fun q => (s.dspQ q).slots.all fun x => !(decide (x.2.slice.toNat = i) && decide (x.2.st = .held))) &&
    decide ((s.slice i).capQueue = [])
/-- FREEZE_COMPLETE (R377 step 5). -/
def State.freezeComplete (s : State) (i : Nat) : State :=
  let s := if s.noFlush then s.captureDue true i else s
  if s.sliceState i = 3 ∧ s.frozenNow i then
    let s := s.modSlice i fun x => { x with state := 4, saveable := !x.limited }
    let s := s.setReg (slcReg i 0xC) (BitVec.ofNat 28 (s.imageNeed i))
    (s.raiseSlc (slcOff 0x40) i).fnEvent i 0
  else s
def execFreezeComplete (sl : Fin 64) (s : State) : Out := .next (s.freezeComplete sl.val)

/-- FREEZE_LIMIT: FREEZE_LIMIT µs after start(F) the threads of step 1 halt as well; the slice is not saveable (R377). -/
def State.freezeLimit (s : State) (i : Nat) : State :=
  let x := s.slice i
  if s.sliceState i = 3 ∧ x.limited = false ∧ x.freezeStart.toNat + 400 * s.fld ⟨slcOff 0x1C, 9, 0⟩ ≤ s.tick.toNat ∧
      (s.threadsOfSlice i).any s.stillOn then
    (s.modSlice i fun x => { x with limited := true }).each (s.threadsOfSlice i) State.freezeThread
  else s
def execFreezeLimit (sl : Fin 64) (s : State) : Out := .next (s.freezeLimit sl.val)

/-! ## Thaw and replay: R381, R382 -/

/-- A thread of a thawing slice returns to the state it left, except those that debug holds; its timer re-arms. -/
def State.thawThread (s : State) (start : Tick) (t : Nat) : State :=
  s.modThread t fun x =>
    let x := match x.timerLeft with
      | some n => { x with timer := some (lo28 start + n), timerLeft := none, runsOn := false }
      | none => { x with runsOn := false }
    if x.frz then
      if x.dbg ∨ x.st ≠ .halted then { x with frz := false } else { x with st := x.prior, priorBlk := .none, frz := false }
    else x

/-- A captured packet is re-presented (R382): a wave counts as accepted in phase 0 of T with the capture index as XSEQ. A FRAME
that an image gives as octets alone is presented as a frame (notes/assumptions/14.md). -/
def State.represent (s : State) (idx : Nat) (c : Capture) (e : Epoch) (start : Tick) : State :=
  let (k, s) := s.newId
  let wave := decide (c.cls = 0)
  s.setPkt k
    { port := c.port, cls := if c.cls = 4 then (if c.flits = [] then 3 else 2) else c.cls, flits := c.flits, octets := c.octets,
      link := .passed, stage := .waitCtx, slice := some c.slice, replay := true, stamped := true, epoch := if wave then e else 0,
      phase := 0, xseq := BitVec.ofNat 16 idx, due := if wave then tadd start (s.endA (phDue (s.phaseA 0))) else 0 }

/-- The slice thaws at start(T) (R381). A packet whose link check is still open then is not re-presented
(notes/assumptions/18.md). -/
def State.thaw (s : State) (i : Nat) (e : Epoch) (start : Tick) : State :=
  let s := (s.captureDue true i).captureShut i
  let x := s.slice i
  let s := s.each (s.slotsOf i) fun s qn =>
    s.modSlot qn.1 qn.2 fun y => { y with dl := lo28 start + (y.dl - lo28 x.freezeStart) }
  let s := s.each (s.threadsOfSlice i) fun s t => s.thawThread start t
  let caps := x.captured.zipIdx.filter fun c => if c.1.cls = 0 then x.rpWaves else x.rpOther
  let s := s.each caps fun s c => s.represent c.2 c.1 e start
  let s := s.modSlice i fun x =>
    { x with state := 1, thawAt := none, thawFirst := false, captured := [], capWords := 0, capLost := false, capBad := false,
             saveable := false, saved := false, limited := false }
  s.slcEnd 0

/-- The slice waits for the resume epoch e. -/
def Slice.thaws (x : Slice) (loaded : Bool) (e : Epoch) : Bool :=
  (decide (x.state = 4) || (decide (x.state = 5) && loaded)) && (x.thawFirst || decide (x.thawAt = some (lo28 e)))
/-- What the start of epoch e does to slices (R376, R377, R381, R374). -/
def State.sliceEpoch (s : State) (e : Epoch) (start : Tick) : State :=
  let s := s.each (List.range 64) fun s i => s.modSlice i fun x => { x with pick := s.pickQuad i }
  let s := s.each (List.range 64) fun s i =>
    if s.sliceState i = 2 ∧ (s.slice i).freezeAt = some (lo28 e) then s.freeze i e start else s
  let loaded := (s.slcCmd.map (·.loaded)).getD false
  s.each (List.range 64) fun s i => if (s.slice i).thaws loaded e then s.thaw i e start else s

/-- The slice will thaw at T: with RUN 0 the first epoch to run. -/
def State.thawSet (s : State) (i : Nat) (t : Pair) : State :=
  s.modSlice i fun x => { x with thawAt := some t, thawFirst := !s.run }
/-- THAW (R381). -/
def State.slcThaw (s : State) (i : Nat) (v : Pair) : State :=
  let t := s.reg (slcOff 8)
  if s.epochLate t then s.slcEnd 6
  else (s.modSlice i fun x => { x with rpWaves := bit v 10, rpOther := bit v 11 }).thawSet i t

/-! ## Save and restore: R387 to R389 -/

/-- The capture is closed: a zero word ends its records (Table 14.7), and packets are discarded from now on. SLC's requests for the
lines of the Afterimage wait at their channels. -/
def State.closeCapture (s : State) (i : Nat) : State :=
  let s := s.captureDue true i
  let x := s.slice i
  let s := if x.capWords < 36 * x.capLines then s.capPut i x.capWords [0] else s
  let s := (s.modSlice i fun x => { x with saved := true }).captureShut i
  if (s.extentsOf i).any fun x => (s.extent x).moving.isSome then s else s.askImage true (s.imageWrites i)
/-- SAVE_COMPLETE: once no extent of the slice moves, the Afterimage is written (R387): what has not been visited now
(notes/assumptions/9.md), while no rank's owed refreshes come first (R343). The fatal path has stopped it (R453). -/
def State.saveComplete (s : State) : State :=
  match s.slcCmd with
  | some c =>
    let i := c.slice.toNat
    if c.op ≠ 8 ∨ ((s.extentsOf i).any fun x => (s.extent x).moving.isSome) ∨ s.noFlush = false ∨ 3 ≤ s.fatal then s
    else
      let t := s.dropHolder .image
      if (s.slice i).imgLines < 3 + (s.slice i).capLines + s.imageNeed i then t.slcEnd 9
      else if (s.slice i).capBad then t.slcEnd 7 2
      else match s.saveImage i with
        | (none, s) => (s.dropHolder .image).slcEnd 0
        | (some k, s) => (s.dropHolder .image).slcEnd 7 k
  | none => s
def execSaveComplete (s : State) : Out := .next s.saveComplete

/-- Base and length of the image that RESTORE names. -/
def State.imageBase (s : State) : Nat := s.fld ⟨slcOff 0xC, 27, 0⟩ + 2 ^ 28 * s.fld ⟨slcOff 0x10, 7, 0⟩
def State.imageLen (s : State) : Nat := s.fld ⟨slcOff 0x14, 27, 0⟩
/-- The image that RESTORE names. -/
def State.imageArea (s : State) : Except Nat Image :=
  s.readImage s.imageBase s.imageLen
/-- RESTORE has read its image: the checks of R388; then the slots are claimed (R389). -/
def State.restoreChecks (s : State) (c : SlcCmd) : State :=
  match s.imageArea with
  | .error k => s.slcEnd 7 k
  | .ok m => match s.mismatch c.slice.toNat m with
    | some k => s.slcEnd 8 k
    | none =>
      let c := { c with checked := true }
      (({ s with slcCmd := some c } : State).claim m (some c.slice)).restoreTake c m
/-- The RESTORE in progress goes on: its image is checked once its lines have been read, or `now`, and what has become free is
taken. -/
def State.restoreGo (s : State) (now : Bool) : State :=
  match s.slcCmd with
  | some c =>
    if c.op ≠ 9 ∨ c.loaded then s
    else if c.checked then match s.imageArea with
      | .ok m => s.restoreTake c m
      | .error _ => s
    else
      let ls := s.imageReads s.imageBase s.imageLen
      if now ∧ s.noFlush then ((s.openImage ls).dropHolder .image).restoreChecks c
      else if s.visited .image ls then (s.dropHolder .image).restoreChecks c
      else s.askImage false ls
  | none => s
/-- RESTORE (R388, R389). -/
def State.slcRestore (s : State) (i : Nat) (v : Pair) : State :=
  (s.modSlice i fun x => { x with rpWaves := bit v 10, rpOther := bit v 11 }).restoreGo false
/-- RESTORE_LOAD_DONE: nothing is waited for and the slice is loaded; it thaws at start(T), unless T is late
(notes/assumptions/14.md). -/
def State.restoreLoadDone (s : State) : State :=
  let s := if s.fatal < 3 then s.restoreGo true else s
  match s.slcCmd, s.imageArea with
  | some c, .ok m =>
    if c.op ≠ 9 ∨ c.loaded ∨ c.checked = false ∨ (s.restoreWait c m).isSome ∨ s.noFlush = false ∨ 3 ≤ s.fatal then s
    else if s.epochLate (s.reg (slcOff 8)) then (s.restoreRelease c m).slcEnd 6
    else ({ s.loadImage c m with slcCmd := some { c with loaded := true } } : State).thawSet c.slice.toNat (s.reg (slcOff 8))
  | _, _ => s
def execRestoreLoadDone (s : State) : Out := .next s.restoreLoadDone
/-- RESTORE_LIMIT: RESTORE has waited RESTORE_LIMIT ms: BUSY, and what it claimed and took is released (R389). -/
def State.restoreLimit (s : State) : State :=
  let s := s.restoreGo false
  match s.slcCmd, s.imageArea with
  | some c, .ok m =>
    if c.op = 9 ∧ c.loaded = false ∧ c.checked ∧ c.since.toNat + 400000 * s.fld ⟨slcOff 0x1C, 19, 10⟩ ≤ s.tick.toNat then
      match s.restoreWait c m with
      | some d => (s.restoreRelease c m).slcEnd 10 d
      | none => s
    else s
  | _, _ => s
def execRestoreLimit (s : State) : Out := .next s.restoreLimit

/-! ## Reset and destruction: R390, R391 -/

/-- Slots of the slice that are not RUNNING are cancelled; their number. -/
def State.cancelSlots (s : State) (i : Nat) : Nat × State :=
  let l := (List.range 4).flatMap fun q => ((s.dspQ q).slots.filter fun x =>
    decide (x.2.slice.toNat = i) && decide (x.2.st ≠ .free) && decide (x.2.st ≠ .running)).map fun x => (q, x.1, x.2.pkt)
  (l.length, s.each l fun s x =>
    let s := s.freeSlot x.1 x.2.1 2
    match x.2.2 with
    | some k => s.endPkt k
    | none => s)
/-- Live threads of the slice are killed; their number. -/
def State.killThreads (s : State) (i : Nat) : Nat × State :=
  let l := (s.threadsOfSlice i).filter fun t => (s.thread t).live
  (l.length, s.each l fun s t => if (s.thread t).live then s.kill 8 t else s)
/-- Outputs of the slice that have not been released are discarded. -/
def State.dropOutputs (s : State) (i : Nat) : State :=
  s.each ((s.eouts.filter fun o => decide (o.2.slice.toNat = i) && !o.2.released && !o.2.expect).map (·.1)) State.outputGone

/-- RESET and the first part of DESTROY (R390); `st` is 6 or 7. -/
def State.resetSlice (s : State) (i st : Nat) : State :=
  let s := s.modSlice i fun x =>
    { x with state := BitVec.ofNat 4 st, freezeAt := none, thawAt := none, thawFirst := false, captured := [], capWords := 0,
             capLost := false, capBad := false, saveable := false, saved := false, limited := false }
  let s := s.breakOwned fun o => decide (s.ownerSlice o = i)
  let s := s.captureShut i
  let (killed, s) := s.killThreads i
  let (cancelled, s) := s.cancelSlots i
  let s := s.dropOutputs i
  let s := if h : i < 64 then s.hstReset ⟨i, h⟩ else s
  let s := (s.each (s.chansOf i) State.chanDiscard).each (s.ringsOf i) State.ringStop
  s.modSlice i fun x => { x with killed := killed, cancelled := cancelled }

/-- The four conditions of R391. -/
def State.resetDone (s : State) (i : Nat) : Bool :=
  (s.threadsOfSlice i).all (fun t => !(s.thread t).live) && s.dramQuiet i && s.copQuiet i && s.hstQuiet i &&
    s.eouts.all fun o => decide (o.2.slice.toNat ≠ i) || o.2.mirror

/-- Everything that DESTROY releases once the extents are wiped (Table 14.4); a core with a thread that does not wait at TASK stays until it
is idle (R194). -/
def State.releaseSlice (s : State) (i : Nat) : State :=
  let s := s.each ((s.coresOf i).filter s.coreWaits) State.spareCore
  let s := s.each (s.chansOf i) fun s c => s.setFld ⟨lumCfg c, 6, 0⟩ 0
  let s := s.each (s.ringsOf i) fun s r => s.setFld ⟨ringReg r 0, 8, 0⟩ (s.fld ⟨ringReg r 0, 8, 0⟩ % 8 / 2 * 2)
  let s := s.each (List.range 8) fun s c => ((s.setReg (slcShare i c) 0).setReg (slcImem i c) 0).setReg (slcIbase i c) 0
  let s := s.each (List.range 4) fun s j => s.setReg (slcReg i (0x10 + 4 * j)) 0
  let b : Nat := i % 28
  let s := s.each (List.range 32) fun s p => s.setFld ⟨prsPort p (4 + 4 * (i / 28)), b, b⟩ 0
  let s := s.each (List.range 16) fun s g => s.setFld ⟨atmOff (0x104 + 0x10 * g + 4 * (i / 28)), b, b⟩ 0
  let s := (s.setFld ⟨memGlob (0x4 + 4 * (i / 28)), b, b⟩ 0).setFld ⟨memGlob (0x10 + 4 * (i / 28)), b, b⟩ 0
  s.modSlice i fun _ => {}

/-- DESTROY goes on with its next extent, or ends. -/
def State.destroyNext (s : State) (c : SlcCmd) : List Nat → State
  | [] => (s.releaseSlice c.slice.toNat).slcEnd 0
  | x :: xs => ({ s with slcCmd := some { c with ext := x, rest := xs } } : State).startWipes

/-- RESET_COMPLETE (R391). -/
def State.resetComplete (s : State) (i : Nat) : State :=
  let x := s.slice i
  match s.slcCmd with
  | some c =>
    if (s.sliceState i ≠ 6 ∧ s.sliceState i ≠ 7) ∨ x.destroying ∨ c.slice.toNat ≠ i ∨ s.resetDone i = false then s
    else
      let s := s.err { src := 10, code := 2, cls := 1, slice := some i, info := [x.killed, x.cancelled] }
      if s.sliceState i = 6 then (s.setSliceState i 1).slcEnd 0
      else (s.modSlice i fun x => { x with destroying := true }).destroyNext c (s.extentsOf i)
  | none => s
def execResetComplete (sl : Fin 64) (s : State) : Out := .next (s.resetComplete sl.val)

/-! ## Wipes end: R358, R367 -/

/-- The extent is free: no owner, no chunks. -/
def State.freeExtent (s : State) (x : Nat) : State := ({ s.wipeExt x 0 with exts := SMap.del x s.exts } : State).moveAll
/-- The extent belongs to its new owner, wiped. -/
def State.takeExtent (s : State) (x i : Nat) (p : BitVec 3 × BitVec 12) : State :=
  (s.wipeExt x i).modExtent x fun e => { e with valid := true, owner := BitVec.ofNat 6 i, group := p.1, pbase := p.2, moving := none }

/-- The extent whose wipe waits for the end of its move is moved, and wiped. -/
def State.wipeReady (s : State) : State :=
  let x := match s.wipe, s.slcCmd with
    | some (.extent x _), _ => some x
    | none, some c => if c.op = 4 ∨ c.op = 2 then some c.ext else none
    | _, _ => none
  match x with
  | some x => if (s.extent x).moving.isSome then (s.moveRest x).startWipes else s
  | none => s
/-- WIPE_END: the channels wipe what is left, and the wipes of trainings end with it: not while a rank's owed refreshes come first (R343),
nor once the fatal path has stopped the wipes (R453). The wipe that software began ends, else the one of SLC's command. An extent
granted while the shares changed moves (R330). -/
def State.wipeEndOp (s : State) : State :=
  if s.noFlush = false ∨ 3 ≤ s.fatal then s else
  let s := s.wipeReady
  let s := s.each (List.range 16) State.wipeRest
  match s.wipe, s.slcCmd with
  | some w, _ =>
    let s : State := match w with
      | .all => s.each (s.exts.map fun x => x.1) fun s x => s.retag x 0
      | .extent x o => s.retag x o.toNat
    (({ s with wipe := none } : State).setReg wipeStatus (BitVec.ofNat 28 (100 * 8))).startWipes
  | none, some c =>
    if c.op = 3 then ((s.takeExtent c.ext c.slice.toNat (c.place.getD (0, 0))).slcEnd 0).moveAll
    else if c.op = 4 then (s.freeExtent c.ext).slcEnd 0
    else if c.op = 2 ∧ (s.slice c.slice.toNat).destroying then (s.freeExtent c.ext).destroyNext c c.rest
    else s
  | none, none => s
def execWipeEnd (s : State) : Out := .next s.wipeEndOp

/-! ## Commands: Table 14.4 -/

/-- Bits of CMD that an operation uses. -/
def slcFields (op : Nat) : Pair := match op with
  | 1 => bits 9 0 ||| bits 24 24
  | 3 => bits 9 0 ||| bits 23 12
  | 4 => bits 9 0 ||| bits 23 12
  | 7 => bits 11 0
  | 9 => bits 11 0
  | _ => bits 9 0
/-- The slice's state lets the operation run. -/
def slcFrom (op st : Nat) (saved : Bool) : Bool := match op with
  | 1 => decide (st = 0)
  | 2 => decide (st = 1) || decide (st = 2) || decide (st = 4) || decide (st = 5)
  | 3 => decide (st = 1) || decide (st = 5)
  | 4 => decide (st = 1)
  | 5 => decide (st = 1)
  | 6 => decide (st = 2)
  | 7 => decide (st = 4) && !saved
  | 8 => decide (st = 4)
  | 9 => decide (st = 5)
  | _ => decide (1 ≤ st) && decide (st ≤ 4)

/-- A command that has passed RSVD, RANGE and STATE. -/
def State.slcRun (s : State) (op i x : Nat) (v : Pair) : State :=
  let start (c : SlcCmd) (s : State) : State := { s with slcCmd := some c }
  let c : SlcCmd := { op := BitVec.ofNat 4 op, slice := BitVec.ofNat 6 i, ext := x, rest := [], since := s.tick }
  match op with
  | 1 => s.slcCreate i (bit v 24)
  | 2 => start c (s.resetSlice i 7)
  | 3 =>
    if (s.extent x).valid then s.slcEnd 5 x
    else match s.pickPlace (s.wantGroup i) with
      | (none, s) => s.slcEnd 9
      | (some p, s) => (start { c with place := some p } s).startWipes
  | 4 => if (s.extent x).valid ∧ (s.extent x).owner.toNat = i then (start c s).startWipes else s.slcEnd 5 x
  | 5 => s.slcArm i
  | 6 => (s.modSlice i fun y => { y with state := 1, freezeAt := none }).slcEnd 0
  | 7 => (start c s).slcThaw i v
  | 8 => if (s.slice i).saveable then start c (s.closeCapture i) else s.slcEnd 11
  | 9 => (start c s).slcRestore i v
  | _ => start c (s.resetSlice i 6)

/-- A write of SLC.CMD (R366, R367). -/
def State.slcCmdWrite (s : State) (v : Pair) : State :=
  if s.slcBusy then s.setFld ⟨slcStatus, 5, 5⟩ 1
  else
    let s := (s.setReg (slcOff 0) (v &&& bits 24 0)).setFld ⟨slcStatus, 4, 4⟩ 1
    let op := ext v 3 0
    let i := ext v 9 4
    let x := ext v 23 12
    let ranged := decide (op = 3) || decide (op = 4)
    if op = 0 ∨ 11 ≤ op ∨ v &&& ~~~(slcFields op) ≠ 0 then s.slcEnd 1
    else if (i = 0 ∨ i = 63) ∧ ranged = false then s.slcEnd 3
    else if (ranged = false ∨ (i ≠ 0 ∧ i ≠ 63)) ∧ slcFrom op (s.sliceState i) (s.slice i).saved = false then s.slcEnd 2
    else if ranged ∧ s.extents ≤ x then s.slcEnd 3
    else s.slcRun op i x v
/-- A row of the table: a write of SLC.CMD with its OP. -/
def State.slcRow (s : State) (op : Nat) (v : Pair) : State :=
  s.when (decide (ext v 3 0 = op)) fun s => s.regRow (slcOff 0) v fun s => s.slcCmdWrite v

def execCreate (v : Pair) (s : State) : Out := .next (s.slcRow 1 v)
def execDestroy (v : Pair) (s : State) : Out := .next (s.slcRow 2 v)
def execGrantExt (v : Pair) (s : State) : Out := .next (s.slcRow 3 v)
def execReturnExt (v : Pair) (s : State) : Out := .next (s.slcRow 4 v)
def execArm (v : Pair) (s : State) : Out := .next (s.slcRow 5 v)
def execDisarm (v : Pair) (s : State) : Out := .next (s.slcRow 6 v)
def execThaw (v : Pair) (s : State) : Out := .next (s.slcRow 7 v)
def execSave (v : Pair) (s : State) : Out := .next (s.slcRow 8 v)
def execRestore (v : Pair) (s : State) : Out := .next (s.slcRow 9 v)
def execReset (v : Pair) (s : State) : Out := .next (s.slcRow 10 v)

/-! ## SHARE, IMEM, IBASE and PASID: R362 to R364, R372 -/

/-- Cores of cluster c that the shares of all slices but i take. -/
def State.otherCores (s : State) (i c : Nat) : Nat :=
  (((List.range 64).filter fun j => decide (j ≠ i)).map fun j => s.shareCores j c).sum
/-- A write of SHARE that would break R362 or R363. -/
def State.shareBad (s : State) (i c : Nat) (v : Pair) : Bool :=
  decide (16 < s.otherCores i c + ext v 4 0) ||
    (decide (i = 0) && decide (ext v 4 0 = 0) && decide (s.shareCores 0 (if c % 2 = 0 then c + 1 else c - 1) = 0))
/-- A write of SHARE (R362 to R364, R373, R379). -/
def State.shareWrite (s : State) (i c : Nat) (v : Pair) : State :=
  let v := v &&& bits 21 0
  let st := s.sliceState i
  let same := decide (ext v 21 5 = s.fld ⟨slcShare i c, 21, 5⟩)
  if s.shareBad i c v then s.slcCfgErr
  else if st = 0 then s.setReg (slcShare i c) v
  else if (st = 1 ∨ st = 2) ∧ same then ((s.setReg (slcShare i c) v).grantCores i c 16).moveExtents i
  else s.slcCfgErr
/-- A write of IMEM or IBASE (R364): only while the slice is FREE. -/
def State.allotWrite (s : State) (i o : Nat) (v : Pair) : State :=
  if s.sliceState i = 0 then s.setReg o (v &&& (regInfo o).rw) else s.slcCfgErr
/-- A write of PASID (R372): one value binds to one slice. -/
def State.pasidWrite (s : State) (i o : Nat) (v : Pair) : State :=
  if bit v 20 ∧ ((List.range 64).any fun j => decide (j ≠ i) && s.pasidBound j (ext v 19 0)) then s.slcCfgErr
  else s.setReg o (v &&& bits 20 0)
def execShareWrite (sl : Fin 64) (c : Fin 8) (v : Pair) (s : State) : Out :=
  .next (s.regRow (slcShare sl c) v fun s => s.shareWrite sl c v)

/-! ## STALL: R262 to R264, R393 -/

/-- The table in force has a phase that raises an event (R262). -/
def State.phaseEvents (s : State) : Bool := s.run && (List.range 16).any fun j => phValid (s.phaseA j) && phEvent (s.phaseA j)
/-- The thread is BLOCKED on CHR or WFE with nothing that counts as an armed timer. -/
def State.stalledThread (s : State) (t : Nat) : Bool :=
  let x := s.thread t
  decide (x.st = .blocked) && (decide (x.blk = .chr) || decide (x.blk = .wfe)) &&
    !(s.phaseEvents && ((decide (x.blk = .chr) && decide (chOf x.bw = 0x103)) || (decide (x.blk = .wfe) && bit x.bw 20)))
/-- Nothing on the way to a blocked thread: its message, event, reply or completion can be taken already. -/
def State.nothingDue (s : State) (t : Nat) : Bool :=
  let x := s.thread t
  !x.replyDue && (decide (x.blk ≠ .wfe) || decide (x.evr &&& (x.bw.extractLsb' 13 8 : BitVec 8) = 0)) &&
    (match (if x.blk = .chr then chanIdx (clusterOf t) (chOf x.bw) else none) with
      | some c => decide ((s.chan c).msgs = []) || decide ((s.chan c).rest ≠ [])
      | none => true)
/-- A fetched CHAN entry is on its way to a channel of slice i (R262). -/
def State.chanEntryDue (s : State) (i : Nat) : Bool :=
  s.qps.any fun x => x.2.entry.any fun e => decide (entKind e.entry = 4) && e.status.isNone && s.chanValid (entChanOf e.entry) &&
    decide (s.chanSlice (entChanOf e.entry) = i)
/-- The slice is stalled (R262). -/
def State.stalled (s : State) (i : Nat) : Bool :=
  let live := (s.threadsOfSlice i).filter fun t => (s.thread t).live
  decide (live ≠ []) && live.all (fun t => s.stalledThread t && s.nothingDue t) &&
    ((s.threadsOfSlice i).all fun t => (s.thread t).timer.isNone) && !s.chanEntryDue i &&
    ((s.chansOf i).all fun c => (s.chan c).writers.all fun w => decide (w.pos < 1024)) &&
    (s.dcmds.all fun d => !s.assigned d.1 i) && s.copQuiet i &&
    ((List.range 4).all fun q => (s.dspQ q).slots.all fun x =>
      !(decide (x.2.slice.toNat = i) && (decide (x.2.st = .ready) || decide (x.2.st = .held)))) && !s.fnPending i

/-- The test of a CCLK: a run of stalled CCLK counts from the first behind one that was not (R262 to R264). -/
def State.stallTest (s : State) (i : Nat) : State :=
  if (s.threads.any fun x => x.2.live && s.assigned x.1 i) ∧ s.stalled i then
    s.modSlice i fun x => { x with stallRun := if x.stallShut then 0 else x.stallRun + 1 }
  else s.modSlice i fun x => { x with stallRun := 0, stallShut := false }

/-- STALL: 8,192 consecutive CCLK of a stalled slice have passed (R263, R393); a supervisor that runs a handler does not
receive it (R206). The slice is tested again once the condition has failed (R264). -/
def State.stall (s : State) (i : Nat) : State :=
  if (s.sliceState i = 1 ∨ s.sliceState i = 2) ∧ 8192 ≤ (s.slice i).stallRun ∧ s.stalled i then
    match s.supervisor i with
    | some t =>
      let s := s.modSlice i fun x => { x with stallRun := 0, stallShut := true }
      let s := ((s.raiseSlc (slcOff 0x30) i).fnEvent i 1).err { src := 10, code := 1, cls := 1, slice := some i, info := [t] }
      if (s.thread t).exc then s else (s.unwait t).excEnter t 0xF 0 (s.thread t).pc false
    | none => s
  else s
def execStall (sl : Fin 64) (s : State) : Out := .next (s.stall sl.val)

end Sys2Proof.Machine
end

