-- ==== Sys2Proof/Machine/Resets.lean ====
section
/-! DEFINITION. Resets.lean: what a power domain loses (spec/16 R414, R420, Tables 16.2, 16.3), and what POR_N and
SYS_RESET_N leave (spec/16 R423, R425; spec/18 R455; spec/19 R464; notes/assumptions/16.md). -/

namespace Sys2Proof.Machine

/-! ## Power domains -/

/-- Word address `a` is core scratch of quadrant q, in its wave buffer, or in the shared memory of its clusters. -/
def scratchIn (q a : Nat) : Bool := decide (scratchBase (32 * q) ≤ a) && decide (a < scratchBase (32 * q + 32))
def waveIn (q a : Nat) : Bool := decide (waveBase q ≤ a) && decide (a < waveBase (q + 1))
def sharedIn (q a : Nat) : Bool :=
  decide (0x3FE00000000 + 2 * q * 0x1000000 ≤ a) && decide (a < 0x3FE00000000 + (2 * q + 2) * 0x1000000)
/-- Key of an instruction of quadrant q in `imem`. -/
def imemIn (q k : Nat) : Bool := decide (k / 131072 = q)

/-- COP unit registers of quadrant q (Table 10.9). -/
def unitRegIn (q o : Nat) : Bool := decide (0x1800000 + 0x8000 * q ≤ o) && decide (o < 0x1800000 + 0x8000 * (q + 1))

/-- What a QUAD domain loses in RETAIN and OFF alike (Table 16.3): core scratch, register files, wave buffer,
coprocessor units, and what stands in queues. -/
def State.loseQuad (s : State) (q : Nat) : State :=
  { s with
    csr := s.csr.filter fun x => !unitRegIn q x.1
    mem := s.mem.filter fun x => !scratchIn q x.1 && !waveIn q x.1
    poison := s.poison.filter fun x => !scratchIn q x.1 && !waveIn q x.1
    threads := s.threads.filter fun x => !decide (x.1 / 256 = q)
    chans := s.chans.filter fun x => !decide (x.1 / 128 = q)
    units := s.units.filter fun x => !decide (x.1 / 8 = q)
    dsp := SMap.del q s.dsp
    prs := SMap.modify {} s.prs q fun x => { x with buckets := [] }
    fwd := SMap.modify {} s.fwd q fun x => { ({} : Fwd) with tab := x.tab } }

/-- What a QUAD domain loses in OFF beside: registers, rules, steps, forwarding table, instruction and shared memories. -/
def State.loseQuadOff (s : State) (q : Nat) : State :=
  let s := s.loseQuad q
  { s with
    csr := s.csr.filter fun x => !decide (domOfReg x.1 = 3 + q)
    mem := s.mem.filter fun x => !sharedIn q x.1
    poison := s.poison.filter fun x => !sharedIn q x.1 && !(decide (2 ^ 42 ≤ x.1) && imemIn q (x.1 - 2 ^ 42))
    imem := s.imem.filter fun x => !imemIn q x.1
    prs := SMap.del q s.prs
    fwd := SMap.del q s.fwd }

/-- A LINK domain in RETAIN: retry buffers and link state go, counters stay; ports restart at DISABLED. -/
def State.loseLink (s : State) (q : Nat) : State :=
  s.each (List.range 8) fun s j =>
    (s.portDisable (8 * q + j)).modPort (8 * q + j) fun x => { ({} : Port) with cnt := x.cnt, hi := x.hi }

/-- A LINK domain in OFF. -/
def State.loseLinkOff (s : State) (q : Nat) : State :=
  let s := s.loseLink q
  { s with csr := s.csr.filter (fun x => !decide (domOfReg x.1 = 7 + q)), ports := s.ports.filter fun x => !decide (x.1 / 8 = q) }

/-- Channels of MEM domain q. -/
def memChans (q : Nat) : List Nat := (List.range 4).map (· + 4 * q)

/-- A channel enters self-refresh: each rank issues every owed REF first (R344). -/
def State.enterSr (s : State) (k : Nat) : State :=
  let s := s.catchUp k false
  if s.chState k = 3 then s.setChState k 5 else s

/-- A MEM domain in SR. -/
def State.loseMem (s : State) (q : Nat) : State := s.each (memChans q) fun s k => (s.enterSr k).loseCensus k
/-- A MEM domain as from OFF: registers, Shadow tables and training results go; the DRAM lines are in the modules. -/
def State.loseMemOff (s : State) (q : Nat) : State :=
  { s with csr := s.csr.filter (fun x => !decide (domOfReg x.1 = 11 + q))
           dchans := s.dchans.filter fun x => !decide (x.1 / 4 = q) }

/-- What domain d loses as it enters a state of Table 16.2: 2 RETAIN, 3 OFF, 4 SR; IDLE loses nothing. -/
def State.loseDomain (s : State) (d target : Nat) : State :=
  if target ≤ 1 then s
  else if 11 ≤ d then s.loseMem (d - 11)
  else if 7 ≤ d then (if target = 3 then s.loseLinkOff (d - 7) else s.loseLink (d - 7))
  else if 3 ≤ d then (if target = 3 then s.loseQuadOff (d - 3) else s.loseQuad (d - 3))
  else s
/-- Domain d as it is after waking from OFF (R420). -/
def State.resetDomain (s : State) (d : Nat) : State :=
  if 11 ≤ d then s.loseMemOff (d - 11)
  else if 7 ≤ d then s.loseLinkOff (d - 7)
  else if 3 ≤ d then s.loseQuadOff (d - 3)
  else s

/-! ## The device: R425, R455, R464 -/

/-- Bits of the register at `o` that SYS_RESET_N leaves: GEN.STRAPS (R35), TRAIN_CTL.KEEP (R359), the wake records and
REFUSE (R425), the error log and the fatal record (R455, Table 18.7). -/
def sysKeeps (o : Nat) : Pair :=
  let all : Pair := bits 27 0
  if o = 0x14 then all
  else if 0x2000000 ≤ o ∧ o < 0x2400000 ∧ o % 0x40000 = 0xC then 2
  else if 0x2C001C0 ≤ o ∧ o < 0x2C001FC then bits 15 0
  else if o = 0x2C00200 ∨ o = 0x2C00204 ∨ o = 0x2C00208 then all
  else if o = 0x3400000 then bits 11 11
  else if o = 0x3400008 ∨ o = 0x340000C ∨ o = 0x3400010 ∨ o = 0x3400014 then all
  else if 0x3400040 ≤ o ∧ o ≤ 0x3400050 then all
  else if 0x3401000 ≤ o ∧ o < 0x3403000 then all
  else 0

/-- The CSR store after SYS_RESET_N. -/
def sysCsr : SMap Pair → SMap Pair
  | [] => []
  | (o, v) :: m =>
    let w := (v &&& sysKeeps o) ||| ((regInfo o).reset &&& ~~~ sysKeeps o)
    if w = (regInfo o).reset then sysCsr m else (o, w) :: sysCsr m

/-- What a reset input leaves of the pins. -/
def Pins.afterReset (p : Pins) : Pins := { porLow := p.porLow, sysLow := p.sysLow, perstLow := p.perstLow }

/-- POR_N clears everything but the fuses (R426, R464). -/
def State.porReset (s : State) : State :=
  { State.reset with pending := s.pending, free := s.free, nextId := s.nextId, out := s.out,
                     boot := { otp := s.boot.otp }, pins := s.pins.afterReset }

/-- SYS_RESET_N keeps the fuses, the items of R425 and R455, GEN.STRAPS, KEEP, and what stands in the DRAM modules (R454). -/
def State.sysReset (s : State) : State :=
  State.tidyLines
    { State.reset with pending := s.pending, free := s.free, nextId := s.nextId, out := s.out,
                       uclk := s.uclk, thermalAt := s.thermalAt, csr := sysCsr s.csr, lines := s.lines, errSeq := s.errSeq,
                       savedExts := s.savedExts, boot := { otp := s.boot.otp }, pins := s.pins.afterReset }

end Sys2Proof.Machine
end

