-- ==== Sys2Proof/Machine/Fatal.lean ====
section
/-! DEFINITION. Fatal.lean: the commands of the error log, the watchdog, the fatal sequencer (spec/18 R447, R451 to
R455), on-chip memory errors (R450), and the loss of a reference clock (spec/19 R468). -/

namespace Sys2Proof.Machine

def errPost : Nat := 0x3400018
def errInfo' (k : Nat) : Nat := 0x3400020 + 4 * k
def errWdog : Nat := 0x3400030
def fatalRec (k : Nat) : Nat := 0x3400040 + 4 * k

/-! ## The log: R447, R451 -/

/-- A write of a read count: ignored unless it lies between the old value and WR modulo 512 (R447). -/
def State.readCount (s : State) (o : Nat) (v : Pair) : State :=
  let old := s.fld ⟨o, 8, 0⟩
  if (ext v 8 0 + 512 - old) % 512 ≤ (s.fld ⟨errWr, 8, 0⟩ + 512 - old) % 512 then s.setFld ⟨o, 8, 0⟩ (ext v 8 0) else s
/-- HOST_RD_WRITE. -/
def execHostRdWrite (v : Pair) (s : State) : Out := .next (s.regRow errHostRd v fun s => s.readCount errHostRd v)
/-- UMB_RD_WRITE, by Umbra. -/
def execUmbRdWrite (v : Pair) (s : State) : Out := .next (s.umbraRow errUmbRd v fun s => s.readCount errUmbRd v)

/-- A write of ERR.POST by Umbra (R451): GO writes a FIRMWARE record unless SEVERITY is 3. -/
def State.post (s : State) (v : Pair) : State :=
  let s := s.setReg errPost (v &&& bits 16 0)
  if bit v 17 ∧ ext v 1 0 ≠ 3 then
    s.err { src := 12, code := 4, cls := ext v 1 0, unit := ext v 16 9,
            slice := if bit v 8 then some (ext v 7 2) else none, mkind := 5,
            info := (List.range 4).map fun k => (s.reg (errInfo' k)).toNat }
  else s
def execPost (v : Pair) (s : State) : Out := .next (s.umbraRow errPost v fun s => s.post v)

/-! ## The fatal sequencer: R452, R453 -/

/-- A HALT flit of the fatal path (R453). -/
def fatalHalt (f : Flit) : Bool := decide (ftype f = 4) && decide (ckind f = 4) && decide (ext (fword f 1) 4 0 = 16)
/-- Step 2 of Table 18.6 goes on: a port whose HALT flit has left is recorded, one whose link has gone down sends none; HALT_SENT once no
port is awaited. -/
def State.haltStep (s : State) : State :=
  if s.fatal ≠ 1 then s
  else
    let left (p : Fin 32) : Bool := !s.linkUp p || !((s.port p).txq.any fatalHalt)
    let s := s.each (s.halts.filter left) fun s p =>
      if s.linkUp p then s.setFld ⟨fatalRec (3 + p.val / 16), p.val % 16, p.val % 16⟩ 1 else s
    let s : State := { s with halts := s.halts.filter fun p => !left p }
    if s.halts = [] then { s.setFld ⟨fatalRec 0, 6, 6⟩ 1 with fatal := 2 } else s
/-- Step 1 of Table 18.6, on the first fatal event; a HALT flit with CAUSE 0x10 goes to the front of every up Rinek port, whose packets
stop. -/
def State.fatalStart (s : State) (cause : Nat) : State :=
  if s.fatal ≠ 0 ∨ s.inReset then s
  else
    let ports : List (Fin 32) := (List.finRange 32).filter fun p => s.linkUp p && !s.isEth p
    let rec0 := cause % 32 + 32
    let s := ((s.setReg (fatalRec 0) (BitVec.ofNat 28 rec0)).setReg (fatalRec 1) (lo28 s.tick)).setReg (fatalRec 2) (lo28 s.epc.epoch)
    let s := (s.setFld ⟨errStatus, 11, 11⟩ 1).setGen 5
    let s : State := State.tidyLines { s with fatal := 1, savedExts := s.exts, pins := { s.pins with fatalN := true } }
    let s := s.err { src := 12, code := cause, cls := 3,
                     info := [rec0, (s.reg (fatalRec 1)).toNat, (s.reg (fatalRec 2)).toNat] }
    let s := s.each ports fun s p => s.modPort p fun x => { x with txq := [flitHalt 16 s.epc.epoch], feed := [] }
    State.haltStep { ((s.setReg (fatalRec 3) 0).setReg (fatalRec 4) 0) with halts := ports }

/-- FATAL_REQUEST: Umbra writes FATAL_CTL.GO. -/
def execFatalRequest (s : State) : Out := .next (s.umbraRow (errWdog + 4) 1 fun s => s.fatalStart 0x13)
/-- UMBRA_DOUBLE_FAULT. -/
def execUmbraDoubleFault (s : State) : Out := .next (s.fatalStart 0x11)

/-- WDOG.PERIOD in ms; 0 acts as 1 (Table 18.7). -/
def State.wdogPeriod (s : State) : Nat := max 1 (s.fld ⟨errWdog, 9, 0⟩)
/-- A write of ERR.WDOG by Umbra: PERIOD and LOCK while unlocked, and KICK (R452). -/
def State.wdogWrite (s : State) (v : Pair) : State :=
  let s := if s.fld ⟨errWdog, 11, 11⟩ = 1 then s else s.setReg errWdog (v &&& (bits 9 0 ||| bits 11 11))
  if bit v 10 then { s with boot := { s.boot with kickAt := s.uclk } } else s
/-- KICK restarts the watchdog period. -/
def State.kick (s : State) : State := { s with boot := { s.boot with kickAt := s.uclk } }
/-- KICK, by firmware or by the boot ROM. -/
def execKick (s : State) : Out := .next (s.when (!s.inReset && s.regAwake errWdog) State.kick)
/-- WDOG: PERIOD ms of 200,000 UCLK each have passed since the last KICK (R452). -/
def execWdog (s : State) : Out :=
  .next (s.when (decide (s.boot.kickAt + 200000 * s.wdogPeriod ≤ s.uclk)) fun s => s.fatalStart 0x10)

/-- FATAL_SR_COMPLETE: steps 3 and 4 of Table 18.6. `trained` has a bit per channel still in training whose training had
passed. -/
def State.fatalSr (s : State) (trained : BitVec 16) : State :=
  let s := s.haltStep
  if s.fatal ≠ 2 then s
  else
    let chs := (List.range 16).filter fun k =>
      s.chServes k || decide (s.chState k = 5) || (decide (s.chState k = 1) && trained.getLsbD k)
    let s := s.each chs fun s k => (s.enterSr k).setChState k 5
    let s := s.each ((List.range 16).filter fun k => decide (s.chState k = 1)) fun s k => s.setChState k 0
    let s := (if s.wipe.isSome then s.setFld ⟨wipeStatus, 0, 0⟩ 0 else s).each (List.range 16) State.dropWipe
    let m := chs.foldl (fun m k => m + 2 ^ k) 0
    let s := ((s.setFld ⟨fatalRec 0, 24, 9⟩ m).setFld ⟨fatalRec 0, 7, 7⟩ 1).setFld ⟨fatalRec 0, 8, 8⟩ 1
    ({ s with fatal := 4, wipe := none } : State).emit .errFatal
def execFatalSrComplete (trained : BitVec 16) (s : State) : Out := .next (s.fatalSr trained)

/-! ## On-chip memory errors: R450 -/

/-- Slice whose share of cluster c's shared memory holds word `off`, and whose instruction allotment holds `a`; slice 0
where none does. -/
def State.sharedOwner (s : State) (c off : Nat) : Nat := ((List.range 63).find? fun i => s.inAllot i c off).getD 0
def State.imemOwner (s : State) (c a : Nat) : Nat :=
  ((List.range 63).find? fun i => decide (s.fld ⟨slcImem i c, 7, 0⟩ * 256 ≤ a) &&
    decide (a < (s.fld ⟨slcImem i c, 7, 0⟩ + s.fld ⟨slcImem i c, 16, 8⟩) * 256)).getD 0
/-- Slice whose packet or output holds wave-buffer word `a`. -/
def State.waveOwner (s : State) (a : Nat) : Nat := ((List.range 63).find? fun i => s.waveOpen i a).getD 0

/-- Source, instance and entry index of an SRAM item (Table 18.3); the spec names no numbering of instances and entries:
they are the item's own numbers (notes/assumptions/17.md). -/
def State.sramAt (s : State) : Sram → Nat × Nat × Nat
  | .lumenWord a => match s.region a.toNat with
    | .scratch n => (6, n, a.toNat % 0x10000)
    | .wave q => (5, q, a.toNat % 0x10000000)
    | .shared c off => (6, c, off)
    | _ => (6, 0, 0)
  | .imem c a => (6, c.val, a.toNat)
  | .waveFlit k => (5, ((s.pkt? k).map fun p => p.port.val / 8).getD 0, k)
  | .rule q b i => (3, q.val, i.val + 4096 * b2n b)
  | .prsStep q i => (3, q.val, i.val)
  | .format q i => (3, q.val, i.val)
  | .etype q i => (3, q.val, i.val)
  | .portset q i => (3, q.val, i.val)
  | .fwdEntry q p => (4, q.val, p.toNat)
  | .slot q i => (5, q.val, i.val)
  | .chanQueue ch => (6, ch.val / 64, ch.val % 64)
  | .semaphore i => (8, i.val / 256, i.val % 256)
  | .retryBuffer p => (2, p.val, 0)
  | .umbra => (12, 0, 0)
  | .retention d => (12, d.val, 0)
  | .outFlit o => (5, ((s.eout? o).map fun e => e.port.val / 8).getD 0, o)
  | .other src inst idx => (src.val, inst.toNat, idx.toNat)

/-- Slice of an item whose class is SLICE; none for DEVICE. -/
def State.sramSlice (s : State) : Sram → Option Nat
  | .lumenWord a => match s.region a.toNat with
    | .scratch n => some (((s.core n).slice.map (·.toNat)).getD 0)
    | .wave _ => some (s.waveOwner a.toNat)
    | .shared c off => some (s.sharedOwner c off)
    | _ => some 0
  | .imem c a => some (s.imemOwner c.val a.toNat)
  | .waveFlit k => some (((s.pkt? k).bind fun p => p.slice.map (·.toNat)).getD 0)
  | .outFlit o => some (((s.eout? o).map fun e => e.slice.toNat).getD 0)
  | _ => none

/-- What an uncorrectable entry does to its item (R450): an SRAM that the rule does not list loses nothing that it states. A step that reads as invalid has no stated effect: it reads as a
free value. -/
def State.sramLose (s : State) : Sram → State
  | .lumenWord a => { s with poison := SMap.set false s.poison a.toNat true }
  | .imem c a => { s with poison := SMap.set false s.poison (imemPoison c.val a.toNat) true }
  | .waveFlit k => s.discardPkt k
  | .rule q b i => s.modPrs q.val fun x => { x with rules := SMap.del (4096 * b2n b + i.val) x.rules }
  | .prsStep q i =>
    let (v, s) := s.freshVal
    s.modPrs q.val fun x => { x with steps := SMap.set 0 x.steps i.val (v.setWidth 56) }
  | .format q i => s.setFld ⟨prsOff q.val (0x200 + 4 * i.val), 27, 27⟩ 0
  | .etype q i => s.setFld ⟨prsOff q.val (0x240 + 4 * i.val), 27, 27⟩ 0
  | .portset q i => (s.setReg (prsOff q.val (0x800 + 8 * i.val)) 0).setReg (prsOff q.val (0x804 + 8 * i.val)) 0
  | .fwdEntry q p => s.modFwd q.val fun x => { x with tab := SMap.del p.toNat x.tab }
  | .slot q i =>
    if (s.slot q.val i.val).st = .free then s
    else
      let s := match (s.slot q.val i.val).st, (s.slot q.val i.val).pkt with
        | .running, _ => s
        | _, some k => s.discardPkt k
        | _, none => s
      if (s.slot q.val i.val).st = .free then s else (s.freeSlot q.val i.val 3).count (dspCnt q.val 4)
  | .chanQueue ch =>
    if (s.chan ch.val).msgs = [] then s
    else (s.modChan ch.val fun c => { c with msgs := c.msgs.tail }).count lumDiscard
  | .semaphore i => s.breakSem i.val 1
  | .retryBuffer p => if s.lstate p.val = 6 ∧ ¬ s.isEth p.val then s.enterRetrain p else s
  | .umbra => s.fatalStart 0x12
  | .outFlit o => s.outputGone o
  | .other _ _ _ => s
  | .retention d => { s with power := { s.power with badRet := d.val :: s.power.badRet.filter (· ≠ d.val) } }

/-- SRAM_ERROR: a correctable error is corrected and counted; an uncorrectable one costs the item and is recorded, but in
Umbra SRAM, where the fatal record stands for it. -/
def State.sramError (s : State) (item : Sram) (ue : Bool) : State :=
  let (src, inst, idx) := s.sramAt item
  if ue = false then s.err { src := src, code := 0x3E, cls := 0, unit := inst, info := [idx] }
  else if item = .umbra then s.fatalStart 0x12
  else
    let sl := s.sramSlice item
    (s.sramLose item).err { src := src, code := 0x3F, cls := if sl.isSome then 1 else 2, unit := inst, slice := sl, info := [idx] }
def execSramError (item : Sram) (ue : Bool) (s : State) : Out := .next (s.sramError item ue)

/-! ## Lost clocks: R468 -/

/-- REFCLK_LN_LOSS: every port of the quadrant that trains or is up loses transmit lock and returns to DETECT (R97). -/
def execRefclkLnLoss (q : Fin 4) (s : State) : Out :=
  .next (s.each ((List.range 8).map (· + 8 * q.val)) fun s p =>
    if s.lstate p = 0 ∨ s.lstate p = 8 then s else s.enterDetect p)
/-- REFCLK_SYS_LOSS: CCLK stops. -/
def execRefclkSysLoss (s : State) : Out := .next { s with pins := { s.pins with cclkLost := true } }

end Sys2Proof.Machine
end

