-- ==== Sys2Proof/Machine/Pwr.lean ====
section
/-! DEFINITION. Pwr.lean: the power controller (spec/16): requests and refusers, the end of an entry, Glints, the wake
timer, the thermal sample. The end of a wake and the wake limit are in Machine/Wake.lean. -/

namespace Sys2Proof.Machine

def pwrStatus : Nat := pwrOff 8
def domReg (d : Nat) : Nat := pwrOff (0x100 + 4 * d)

/-! ## Refusers: R416, Tables 16.4, 16.5 -/

/-- State t is allowed for domain d (Table 16.1). -/
def domAllows (d t : Nat) : Bool :=
  if d = 0 then decide (t = 0)
  else if d ≤ 2 then decide (t ≤ 1)
  else if d ≤ 6 then decide (t ≤ 3)
  else if d ≤ 10 then decide (t = 0) || decide (t = 2) || decide (t = 3)
  else if d ≤ 14 then decide (t = 0) || decide (t = 4)
  else false

/-- Any port of quadrant q has EN 1. -/
def State.portsEnabled (s : State) (q : Nat) : Bool :=
  (List.range 8).any fun j => decide (s.fld ⟨lnk (8 * q + j) 0, 0, 0⟩ = 1)
/-- The wave buffer of quadrant q holds a flit. -/
def State.waveHolds (s : State) (q : Nat) : Bool := s.waveUsed.any fun u => decide (0 < u.2) && waveIn q u.1

/-- Table 16.5 for a QUAD domain. -/
def State.quadInUse (s : State) (q : Nat) : Bool :=
  s.portsEnabled q ||
  ((List.range 32).any fun k => match (s.core (32 * q + k)).slice with
    | some i => decide (i ≠ 0)
    | none => false) ||
  ((threadsOfQuad q).any fun t => (s.thread t).live) ||
  ((s.dspQ q).slots.any fun x => decide (x.2.st ≠ SState.free)) ||
  ((List.range 8).any fun u => (List.range 4).any fun k =>
    (s.ctx (8 * q + u) k).holder.isSome || (s.ctx (8 * q + u) k).releasing) ||
  s.waveHolds q

/-- An extent move copies from or to group q. -/
def Extent.moves (e : Extent) (q : Nat) : Bool :=
  e.moving.isSome && (decide (e.group.toNat = q) || decide (4 ≤ e.group.toNat) || decide (e.toGroup.toNat = q) || decide (4 ≤ e.toGroup.toNat))

/-- Table 16.5. -/
def State.domInUse (s : State) (d : Nat) : Bool :=
  if d = 2 then functions.any fun f => !SMap.get false s.d3 f.val
  else if 3 ≤ d ∧ d ≤ 6 then s.quadInUse (d - 3)
  else if 7 ≤ d ∧ d ≤ 10 then s.portsEnabled (d - 7)
  else if 11 ≤ d then ((memChans (d - 11)).any fun k => (s.dchan k).wiping.isSome) || (s.exts.any fun x => x.2.moves (d - 11)) || (memChans (d - 11)).any s.censusOn
  else false

/-- A link of quadrant q trains (states DETECT to CONFIRM and RETRAIN). -/
def State.linkTrains (s : State) (q : Nat) : Bool :=
  (List.range 8).any fun j =>
    decide (1 ≤ s.lstate (8 * q + j)) && decide (s.lstate (8 * q + j) ≤ 7) && decide (s.lstate (8 * q + j) ≠ 6)
/-- A training that refuses the entry of domain d. -/
def State.domTrains (s : State) (d : Nat) : Bool :=
  if 3 ≤ d ∧ d ≤ 6 then s.linkTrains (d - 3)
  else if 7 ≤ d ∧ d ≤ 10 then s.linkTrains (d - 7)
  else if 11 ≤ d then (memChans (d - 11)).any fun k => decide (s.chState k = 1)
  else false

/-- A register access is stalled on a path through domain d. -/
def Stalled.uses (x : Stalled) (d : Nat) : Bool :=
  decide (x.domain = d) || (decide (d = 1) && decide (x.domain ≠ 0) && decide (x.domain ≠ 2))
/-- An access of thread t that has not been answered uses domain d. -/
def State.threadUses (s : State) (d t : Nat) (x : Thread) : Bool :=
  (x.await.any fun w => w.ans.isNone && w.cpm.isNone && s.pathUses d t w.addr.toNat) ||
    x.stores.any fun p => p.ans.isNone && s.pathUses d t p.addr.toNat
/-- The pointer-mode command that unit n runs for a context uses domain d. -/
def State.unitUses (s : State) (d n : Nat) : Bool := (List.range 4).any fun k => match s.nextCmd n k with
  | some c => c.ptr && (s.cmdTouch (n % 4) c (s.ctx n k)).any (s.pathUses d c.thread)
  | none => false
/-- The entry that a queue pair runs uses domain d. -/
def State.entryUses (s : State) (d : Nat) (x : QpState) : Bool := x.entry.any fun e =>
  e.status.isNone && (s.entryDoms e).contains d
/-- An access to domain d is in progress or stalled (Table 16.4). -/
def State.domBusy (s : State) (d : Nat) : Bool :=
  (s.power.stalled.any fun x => x.uses d) || (s.threads.any fun x => s.threadUses d x.1 x.2) ||
    (s.units.any fun u => s.unitUses d u.1) || (s.qps.any fun x => s.entryUses d x.2) ||
    (decide (11 ≤ d) && (memChans (d - 11)).any fun k => !((s.dchan k).reqs.isEmpty && (s.dchan k).wq.isEmpty && (s.dchan k).visits.isEmpty))

/-- DEPEND (Table 16.4). -/
def State.domDepends (s : State) (d : Nat) : Bool :=
  if d = 1 then (List.range 12).any fun k => decide (s.dom (k + 3) = 0)
  else if 3 ≤ d ∧ d ≤ 6 then decide (s.dom (d + 4) = 0)
  else false

/-- The lowest refuser code that holds for an entry of domain d, or 0. -/
def State.refuser (s : State) (d : Nat) : Nat :=
  if (s.reg (pwrOff (0x180 + 4 * d)) &&& s.reg (pwrOff (0x140 + 4 * d))) ≠ 0 then 1
  else if s.domBusy d then 2
  else if s.gen = 3 ∧ (d = 1 ∨ d = 2 ∨ 11 ≤ d) then 3
  else if s.domDepends d then 4
  else if s.domInUse d then 5
  else if s.domTrains d then 6
  else 0

/-! ## Requests: R415, R416, R423 -/

def State.pwrCode (s : State) (c : Nat) : State := s.setFld ⟨pwrStatus, 3, 2⟩ c

/-- An entry request of domain d to state t. A wake of the domain that is pending cancels it (R423). -/
def State.pwrEntry (s : State) (d t : Nat) : State :=
  let r := s.refuser d
  if r ≠ 0 then
    ((((s.bumpFld ⟨pwrOff (0x1C0 + 4 * d), 15, 0⟩ 1).setFld ⟨pwrOff (0x1C0 + 4 * d), 18, 16⟩ r).setFld
      ⟨pwrStatus, 6, 4⟩ r)).pwrCode 1
  else if s.waking d then s.pwrCode 0
  else
    let s := ((s.setFld ⟨domReg d, 3, 3⟩ 1).setFld ⟨pwrStatus, 0, 0⟩ 1).pwrCode 0
    { s with power := { s.power with entering := some (d, BitVec.ofNat 3 t) } }

/-- A wake request (R415, R423): the Glint source REQUEST, as enabled (R419). A wake record has no master for it (R421). -/
def State.pwrWake (s : State) (d : Nat) : State := (s.pwrCode 0).fireGlint 11 d 0 false

/-- A write of PWR_REQ (R415). -/
def State.pwrReqWrite (s : State) (m : Master) (v : Pair) : State :=
  if s.fld ⟨pwrOff 0, 0, 0⟩ = 1 ∧ m ≠ .umbra then s
  else if s.fld ⟨pwrStatus, 0, 0⟩ = 1 then s.setFld ⟨pwrStatus, 1, 1⟩ 1
  else
    let s := s.setReg (pwrOff 4) (v &&& bits 6 0)
    let d := ext v 3 0
    if bit v 7 = false then s
    else if ext v 27 8 ≠ 0 ∨ domAllows d (ext v 6 4) = false then s.pwrCode 2
    else if ext v 6 4 = 0 then s.pwrWake d
    else s.pwrEntry d (ext v 6 4)

/-- The master may write PWR_REQ (R415): Umbra is no PCIe master, so only the others need HST (R454, R457); a thread must be in
system mode. -/
def State.pwrOpen (s : State) : Master → Bool
  | .umbra => !s.boot.stopped
  | .host => s.writable (pwrOff 4)
  | .thread t => !s.boot.stopped && decide (s.fatal = 0) && s.system t
/-- A PWR_REQ row. -/
def State.pwrRow (s : State) (m : Master) (f : State → State) : State :=
  if s.inReset ∨ s.pwrOpen m = false then s else f s
/-- POWER_ENTRY: a target other than ON. -/
def execPowerEntry (m : Master) (v : Pair) (s : State) : Out :=
  .next (s.pwrRow m fun s => s.when (decide (ext v 6 4 ≠ 0)) fun s => s.pwrReqWrite m v)
/-- POWER_WAKE: target ON. -/
def execPowerWake (m : Master) (v : Pair) (s : State) : Out :=
  .next (s.pwrRow m fun s => s.when (decide (ext v 6 4 = 0)) fun s => s.pwrReqWrite m v)

/-- RET_STATUS.USED: no rule gives the size of an item, so a change of the retention store leaves a free value (notes/assumptions/4.md). -/
def State.retUsed (s : State) : State :=
  let (v, s) := s.freshVal
  s.setFld ⟨pwrOff 0x230, 15, 0⟩ (v.toNat % 2 ^ 16)

/-! ## Glints: R419, R421 -/

/-- Sources that an event outside the commands of the table fires: LINK-DETECT for a LINK domain that is not ON, BEACON,
SIDEBAND, MAILBOX, RECOVERY. -/
def State.glintOpen (s : State) (src d : Nat) : Bool := match src with
  | 5 => decide (7 ≤ d) && decide (d ≤ 10) && decide (s.dom d ≠ 0)
  | 6 => true
  | 9 => true
  | 10 => true
  | 13 => decide (3 ≤ d)
  | _ => false
/-- GLINT. -/
def execGlint (src : Fin 14) (d : Fin 15) (s : State) : Out :=
  .next (s.when (s.glintOpen src.val d.val) fun s => s.fireGlint src.val d.val 0 false)

/-- A write of WAKE_TIMER starts it: 200 UCLK are 1 µs. -/
def State.timerWrite (s : State) (v : Pair) : State :=
  let s := s.setReg (pwrOff 0x210) (v &&& bits 23 0)
  { s with power := { s.power with timerAt := s.uclk + 200 * ext v 19 0 } }
/-- WAKE_TIMER as it reads: US counts what is left, rounded up (DEDUCED, notes/assumptions/18.md). -/
def State.timerView (s : State) : Pair :=
  (s.reg (pwrOff 0x210) &&& bits 23 20) |||
    BitVec.ofNat 28 (if s.fld ⟨pwrOff 0x210, 19, 0⟩ = 0 then 0 else (s.power.timerAt - s.uclk + 199) / 200)
/-- WAKE_TIMER: the time of UMB.WAKE_TIMER has passed; 0 is off. -/
def State.wakeTimer (s : State) : State :=
  if s.fld ⟨pwrOff 0x210, 19, 0⟩ = 0 ∨ 15 ≤ s.fld ⟨pwrOff 0x210, 23, 20⟩ ∨ s.uclk < s.power.timerAt then s
  else (s.setFld ⟨pwrOff 0x210, 19, 0⟩ 0).fireGlint 7 (s.fld ⟨pwrOff 0x210, 23, 20⟩) 0 false
def execWakeTimer (s : State) : Out := .next s.wakeTimer

/-- A write of GLINT_TEST (R421): GO fires the source, with TEST 1 in its record. -/
def State.glintTest (s : State) (v : Pair) : State :=
  let s := s.setReg (pwrOff 0x214) (v &&& bits 7 0)
  if bit v 8 ∧ 3 ≤ ext v 3 0 ∧ ext v 3 0 ≤ 13 ∧ ext v 7 4 < 15 then s.fireGlint (ext v 3 0) (ext v 7 4) 0 true else s
def execGlintTest (v : Pair) (s : State) : Out := .next (s.regRow (pwrOff 0x214) v fun s => s.glintTest v)

/-- THERMAL_SAMPLE every 1 ms, 200,000 UCLK (R422, Table 18.5): TEMP; THERMAL as TEMP reaches WARN; LEVEL 7 at 105 °C; the fatal path at 115 °C. -/
def State.thermal (s : State) (t : Nat) : State :=
  let o := pwrOff 0x224
  let warn := s.fld ⟨o, 15, 8⟩
  let fires := decide (s.fld ⟨o, 7, 0⟩ < warn) && decide (warn ≤ t)
  let s := s.setFld ⟨o, 7, 0⟩ t
  let s := if 105 ≤ t then (s.setFld ⟨pwrOff 0x220, 2, 0⟩ 7).setFld ⟨o, 16, 16⟩ 1 else s
  let s := if fires then
      (s.err { src := 12, code := 3, cls := 2, info := [(s.reg o).toNat] }).fireGlint 8 1 0 false
    else s
  if 115 ≤ t then s.fatalStart 0x14 else s
def execThermalSample (temp : BitVec 8) (s : State) : Out :=
  .next (s.when (!s.inReset) fun s => s.strobe .thermal 200000 s.uclk fun s => s.thermal temp.toNat)

end Sys2Proof.Machine
end

