-- ==== Sys2Proof/Machine/Secure.lean ====
section
/-! DEFINITION. Secure.lean: boot, images, identity, measurement and life cycle (spec/17), the mailbox, and the reset
inputs (spec/19 R464, R465). -/

namespace Sys2Proof.Machine

def secOff (o : Nat) : Nat := 0x2E00000 + o
def bootStatus : Nat := secOff 4
def mboxStatus : Nat := secOff 0x2C

/-! ## Fuses: R426, R440, R442 -/

def Otp.key (o : Otp) (i : Nat) : BitVec 256 := SMap.get 0 o.keys i
/-- A slot is valid when it is programmed. -/
def Otp.keyValid (o : Otp) (i : Nat) : Bool := decide (o.key i ≠ 0)
def Otp.anyValid (o : Otp) : Bool := (List.range 4).any o.keyValid
/-- A slot that verifies: valid and not revoked. -/
def Otp.keyGood (o : Otp) (i : Nat) : Bool := o.keyValid i && !o.revoked.getLsbD i

def State.lc (s : State) : Nat := s.boot.otp.lc
def State.modOtp (s : State) (f : Otp → Otp) : State := { s with boot := { s.boot with otp := f s.boot.otp } }

/-- LC as the fuses give it (Table 17.8). -/
def State.lcReg (s : State) : Pair :=
  let o := s.boot.otp
  let m (f : Nat → Bool) : Nat := (List.range 4).foldl (fun a i => a + 2 ^ i * b2n (f i)) 0
  (s.reg (secOff 0) &&& bits 22 20) |||
    BitVec.ofNat 28 (o.lc + 8 * b2n o.wipeOwed + 16 * b2n o.sigReq + 2 ^ 5 * m o.keyValid + 2 ^ 9 * m o.revoked.getLsbD + 2 ^ 13 * o.svn.toNat)

/-- The identity seed of a state (R438). -/
def Otp.idSeed (o : Otp) : BitVec 256 :=
  BitVec.ofNat 256 (leNat (shake256 ([0x49#8, 0x44#8, BitVec.ofNat 8 o.lc] ++ leOctets 32 o.uds.toNat) 32))
/-- IDPK_DIGEST, as octets; zero in BLANK, which has no identity. -/
def State.idDigest (s : State) : List Octet := match s.boot.seed with
  | some x => shake256 (Config.mldsaPublicKey x) 32
  | none => leOctets 32 0

/-! ## Images: R427 to R430 -/

/-- n octets of a list from octet i on, as a number. -/
def ole (o : List Octet) (i n : Nat) : Nat := leNat ((o.drop i).take n)
def allZero (o : List Octet) (i n : Nat) : Bool := ((o.drop i).take n).all fun x => decide (x = 0)

/-- A directory entry. -/
structure DirEntry where
  kind : Nat
  off : Nat
  len : Nat
  deriving DecidableEq, Repr

/-- The directory of the flash (R427); one that fails a check holds no entries. -/
def directory (f : List Octet) : List DirEntry :=
  let n := ole f 4 1
  let ent (e : Nat) : List Octet := (f.drop (16 + 16 * e)).take 16
  let crc := ~~~ crcBits polyEth (BitVec.ofNat 32 (2 ^ 32 - 1)) (octetBits (f.take 12 ++ (f.drop 16).take (16 * n)))
  if ole f 0 4 = 0x5A7D1440 ∧ 1 ≤ n ∧ n ≤ 16 ∧ allZero f 5 7 ∧ ole f 12 4 = crc.toNat ∧
      ((List.range n).all fun e => allZero (ent e) 1 3 && allZero (ent e) 12 4) then
    (List.range n).map fun e => { kind := ole (ent e) 0 1, off := ole (ent e) 4 4, len := ole (ent e) 8 4 }
  else []
def DirEntry.image (e : DirEntry) (f : List Octet) : List Octet := (f.drop e.off).take e.len

def imKind (im : List Octet) : Nat := ole im 6 1
def imSlot (im : List Octet) : Nat := ole im 7 1
def imSvn (im : List Octet) : Nat := ole im 8 2
def imLen (im : List Octet) : Nat := ole im 12 4
def imLoad (im : List Octet) : Nat := ole im 16 4
def imEntry (im : List Octet) : Nat := ole im 20 4
def imSigned (im : List Octet) : Bool := decide (imSlot im ≠ 0xFF)
def imPub (im : List Octet) : List Octet := if imSigned im then (im.drop 64).take 1952 else []
def imBodyAt (im : List Octet) : Nat := if imSigned im then 64 + 1952 else 64
def imBody (im : List Octet) : List Octet := (im.drop (imBodyAt im)).take (imLen im)
def imSig (im : List Octet) : List Octet := (im.drop (imBodyAt im + imLen im)).take 3309
/-- Octets of the whole image. -/
def imSize (im : List Octet) : Nat := imBodyAt im + imLen im + (if imSigned im then 3309 else 0)
/-- The digest D (R429). -/
def imDigest (im : List Octet) : List Octet := shake256 (im.take 64 ++ imPub im ++ imBody im) 64

/-- The kinds that an image is used as (Table 17.3 KIND): 1 UMBRA, 2 LUMEN into an allotment of n instructions, 3 CONFIG,
4 TOKEN. -/
inductive ImageUse where
  | umbra | lumen (n : Nat) | config | token
  deriving DecidableEq, Repr
def ImageUse.kind : ImageUse → Nat
  | .umbra => 1
  | .lumen _ => 2
  | .config => 3
  | .token => 4
/-- A signature is required (R430). -/
def State.sigNeeded (s : State) : ImageUse → Bool
  | .lumen _ => decide (s.lc = 2) && s.boot.otp.sigReq
  | _ => true
/-- SLOT and KEY are skipped (R430). -/
def State.keyless (s : State) (u : ImageUse) : Bool :=
  decide (s.lc = 0) && !s.boot.otp.anyValid && (decide (u = .umbra) || decide (u = .config))

/-- FORMAT of Table 17.3. -/
def formatBad (im : List Octet) : Bool :=
  decide (ole im 4 2 ≠ 1) || decide (2 ≤ ole im 10 2) || !allZero im 28 36 ||
    (decide (imKind im ≠ 1) && decide (imKind im ≠ 2) && !allZero im 16 8)
/-- LENGTH of Table 17.3. -/
def lengthBad (u : ImageUse) (im : List Octet) : Bool :=
  decide (imLen im = 0) || decide (2 ^ 22 < imLen im) || decide (im.length < imSize im) || (match u with
    | .lumen n => decide (imLen im ≠ 4 * imEntry im) || decide (n < imLoad im + imEntry im)
    | .umbra => decide (393216 < imLoad im + imLen im)
    | _ => false)
/-- TARGET of Table 17.3. -/
def State.targetBad (s : State) (im : List Octet) : Bool :=
  !allZero (imBody im) 2 14 || decide ((imBody im).drop 16 ≠ s.idDigest)

/-- The checks of Table 17.3 in order: the CAUSE of the first that fails, or 0. -/
def State.imageCause (s : State) (u : ImageUse) (im : List Octet) : Nat :=
  let o := s.boot.otp
  if ole im 0 4 ≠ 0x14405A70 then 1
  else if formatBad im then 2
  else if imKind im ≠ u.kind then 3
  else if ole im 24 4 ≠ 0 ∧ ole im 24 4 ≠ 0x5A71440 then 4
  else if lengthBad u im then 5
  else if imSigned im = false ∧ s.sigNeeded u then 6
  else if imSigned im ∧ s.keyless u = false ∧ (4 ≤ imSlot im ∨ o.keyGood (imSlot im) = false) then 7
  else if imSigned im ∧ s.keyless u = false ∧ leNat (shake256 (imPub im) 32) ≠ (o.key (imSlot im)).toNat then 8
  else if imSvn im < o.svn.toNat then 9
  else if ole im 10 2 = 1 ∧ s.lc = 2 then 10
  else if imSigned im ∧ Config.mldsaVerify (imPub im) (imDigest im) (imSig im) = false then 11
  else if u = .token ∧ s.targetBad im then 12
  else 0

/-! ## LUMEN images: R435 -/

/-- Instructions of cluster c that slice i has. -/
def State.imemAllot (s : State) (i c : Nat) : Nat := s.fld ⟨slcImem i c, 16, 8⟩ * 256
/-- Write the instructions of a body from instruction address a of cluster c on. -/
def State.loadInstrs (s : State) (c a : Nat) (body : List Octet) : Nat → State
  | 0 => s
  | n + 1 =>
    ({ s with imem := SMap.set 0 s.imem (imemKey c a) (BitVec.ofNat 28 (ole body 0 4)),
              poison := SMap.set false s.poison (imemPoison c a) false } : State).loadInstrs c (a + 1) (body.drop 4) n
/-- The cause of an image against the allotments of slice i in some clusters: that of the first that fails. -/
def State.lumenCause (s : State) (i : Nat) (cs : List Nat) (im : List Octet) : Nat :=
  (((if cs = [] then [2 ^ 32] else cs.map fun c => s.imemAllot i c).map fun n => s.imageCause (.lumen n) im).find?
    fun k => decide (k ≠ 0)).getD 0
/-- Load an accepted LUMEN image for slice i into some clusters, and measure it. -/
def State.loadLumen (s : State) (i : Nat) (cs : List Nat) (im : List Octet) : State :=
  let s := s.each cs fun s c => s.loadInstrs c (s.fld ⟨slcImem i c, 7, 0⟩ * 256 + imLoad im) (imBody im) (imEntry im)
  let k := if i = 0 then 2 else 64 + i
  let s := s.extendMeas k (imDigest im)
  if imSigned im then s else s.markUnsigned k

/-! ## Boot: R431, R432, R443, R457, R469 -/

/-- The boot ROM waits for an image. -/
def State.booting (s : State) : Bool := !s.inReset && !s.boot.running && !s.boot.stopped && decide (s.fatal = 0)

/-- Try the UMBRA entries in directory order: each rejection writes BOOT_STATUS. The entry that passes, whether it is the
first, and its image. -/
def State.tryUmbra (s : State) (f : List Octet) : List (Nat × DirEntry) → Bool → Option (Nat × Bool × List Octet) × State
  | [], _ => (none, s)
  | (n, e) :: es, first =>
    if e.kind ≠ 1 then s.tryUmbra f es first
    else
      let c := s.imageCause .umbra (e.image f)
      if c = 0 then (some (n, first, e.image f), s)
      else ((s.setFld ⟨bootStatus, 3, 0⟩ c).setFld ⟨bootStatus, 7, 4⟩ n).tryUmbra f es false
def State.tryBoot (s : State) (f : List Octet) : Option (Nat × Bool × List Octet) × State :=
  s.tryUmbra f ((directory f).zipIdx.map fun x => (x.2, x.1)) true

/-- Boot stops (R432, R457): ALERT_N, the SPI pins released. -/
def State.bootHalt (s : State) : State :=
  { s.setFld ⟨errStatus, 10, 10⟩ 1 with boot := { s.boot with stopped := true }, pins := { s.pins with spiOff := true } }

/-- What firmware does at step 8 of Table 17.4 with the first CONFIG entry and the LUMEN entries of the flash. The clusters that
firmware loads, and what an accepted CONFIG says of ports and of the link wait, are free choices (notes/assumptions/16.md). -/
def State.bootLoad (s : State) (f : List Octet) : State :=
  let s := match (directory f).find? fun e => decide (e.kind = 3) with
    | some e =>
      if s.imageCause .config (e.image f) = 0 then
        let (m, s) := (s.extendMeas 1 (imDigest (e.image f))).choose (2 ^ 32)
        let (w, s) := s.freshVal
        { s with boot := { s.boot with links := (List.range 32).filter fun p => m.testBit p, linkUntil := s.uclk + w.toNat } }
      else s
    | none => s
  s.each ((directory f).filter fun e => decide (e.kind = 2)) fun s e =>
    let (m, s) := s.choose 256
    let cs := (List.range 8).filter fun c => m.testBit c
    if s.lumenCause 0 cs (e.image f) = 0 then s.loadLumen 0 cs (e.image f) else s

/-- FIRMWARE_START: steps 5 to 8 of Table 17.4. -/
def State.firmwareStart (s : State) (f : List Octet) : State :=
  match s.tryBoot f with
  | (some (n, first, im), s') =>
    if s.booting = false then s
    else
      let keyless := s'.keyless .umbra
      let s := s'.extendMeas 0 (imDigest im)
      let s := (s.setFld ⟨bootStatus, 8, 8⟩ (b2n (!first))).setFld ⟨bootStatus, 12, 9⟩ n
      let s := (s.setFld ⟨secOff 0, 21, 20⟩ (if keyless then 0 else imSlot im)).setFld ⟨secOff 0, 22, 22⟩ (b2n keyless)
      let s := (s.setGen 1).setFld ⟨0x100054, 1, 1⟩ 1
      ({ s with boot := { s.boot with running := true, fwSvn := BitVec.ofNat 7 (min (imSvn im) 64) } } : State).bootLoad f
  | (none, _) => s
def execFirmwareStart (flash : List Octet) (s : State) : Out := .next (s.firmwareStart flash)

/-- BOOT_STOP: no UMBRA entry passes (R432). -/
def State.bootStop (s : State) (f : List Octet) : State :=
  match s.tryBoot f with
  | (none, s') => if s.booting then s'.bootHalt else s
  | (some _, _) => s
def execBootStop (flash : List Octet) (s : State) : Out := .next (s.bootStop flash)

/-- Boot begins (Table 17.4, steps 1 to 4): the watchdog's period, the identity seed (none in BLANK and SCRAPPED, Table 17.5), and in SCRAPPED the owed wipe of the
on-chip SRAMs, which the reset has already cleared, and the end (R443). The RECOVERY strap stops boot at once. -/
def State.bootBegin (s : State) : State :=
  let o := s.boot.otp
  let s : State := { s with boot := { s.boot with
    kickAt := s.uclk, seed := if o.lc = 0 ∨ o.lc = 4 then none else some o.idSeed,
    otp := if o.lc = 4 then o.blowWiped else o, stopped := decide (o.lc = 4) } }
  if s.boot.stopped = false ∧ s.fld ⟨0x14, 1, 0⟩ = 1 then s.bootHalt else s

/-! ## Reset inputs: R421, R464, R465 -/

/-- The wake record of a SYS_RESET_N release (R421). -/
def State.sysRecord (s : State) : State := s.wakeRecord 2 0 0 false (decide (s.fld ⟨fatalRec 0, 5, 5⟩ = 1))

/-- POR_ASSERT, VAON_LOW. -/
def State.porAssert (s : State) : State := { s.porReset with pins := { s.pins.afterReset with porLow := true } }
def execPorAssert (s : State) : Out := .next s.porAssert
/-- VAON_LOW acts as POR_N (R463). -/
def execVaonLow (s : State) : Out := .next s.porAssert
/-- POR_RELEASE: the straps are sampled; boot begins unless SYS_RESET_N is low. The wake record of POR is the reset value of
LAST_WAKE (Table 16.7). -/
def State.porRelease (s : State) (straps : BitVec 8) : State :=
  if s.pins.porLow = false then s
  else
    let s := ({ s.porReset with pins := { s.pins.afterReset with porLow := false } } : State).setReg 0x14 (straps.setWidth 28)
    if s.pins.sysLow then s else s.bootBegin
def execPorRelease (straps : BitVec 8) (s : State) : Out := .next (s.porRelease straps)
/-- SYS_RESET_ASSERT; while POR_N is low the reset acts as POR_N (R465). -/
def State.sysAssert (s : State) : State :=
  if s.pins.porLow then { s with pins := { s.pins with sysLow := true } }
  else { s.sysReset with pins := { s.pins.afterReset with sysLow := true } }
def execSysResetAssert (s : State) : Out := .next s.sysAssert
/-- SYS_RESET_RELEASE: no effect on boot until POR_N is released (R465). -/
def State.sysRelease (s : State) : State :=
  if s.pins.sysLow = false then s
  else if s.pins.porLow then { s with pins := { s.pins with sysLow := false } }
  else ({ s.sysReset with pins := { s.pins.afterReset with sysLow := false } } : State).sysRecord.bootBegin
def execSysResetRelease (s : State) : Out := .next s.sysRelease
/-- The device resets itself as by SYS_RESET_N (R442). -/
def State.selfReset (s : State) : State := s.sysReset.sysRecord.bootBegin

/-! ## Life cycle, keys, SVN: R433, R434, R441, R442 -/

def State.secCode (s : State) (refused : Bool) : State := s.setFld ⟨secOff 0x18, 1, 0⟩ (b2n refused)

/-- R441 accepts the transition to code t. -/
def State.lcAllowed (s : State) (t : Nat) : Bool :=
  decide (s.gen ≠ 3) && (match s.lc, t with
    | 0, 1 => s.boot.otp.anyValid
    | 0, 2 => s.boot.otp.anyValid
    | 1, 2 => true
    | 1, 3 => true
    | 2, 3 => s.boot.tokenRma
    | 4, _ => false
    | _, 4 => true
    | _, _ => false)
/-- An accepted transition (R442). -/
def State.lcGo (s : State) (t : Nat) (uds : BitVec 256) : State :=
  ((s.secCode false).modOtp fun o =>
    { o with uds := if o.lc = 0 then uds else o.uds, started := o.started ||| BitVec.ofNat 4 (2 ^ (t - 1)) }).selfReset
/-- A write of LC_REQ by Umbra; `uds` is what the entropy source draws. -/
def State.lcReq (s : State) (v : Pair) (uds : BitVec 256) : State :=
  let s := s.setReg (secOff 8) (v &&& bits 2 0)
  if bit v 3 = false then s
  else if s.lcAllowed (ext v 2 0) then s.lcGo (ext v 2 0) uds else s.secCode true
def execLcReq (v : Pair) (uds : BitVec 256) (s : State) : Out := .next (s.when s.umbraActs fun s => s.lcReq v uds)

/-- R434 refuses to revoke slot i. -/
def State.revokeRefused (s : State) (i : Nat) : Bool :=
  !((List.range 4).any fun k => decide (k ≠ i) && s.boot.otp.keyGood k) ||
    (decide (s.lc = 2) && !s.boot.tokenRevoke.any fun x => decide (x.1 = i) && decide (x.2 ≠ i))
def State.revokeKey (s : State) (i : Nat) : State :=
  if s.revokeRefused i then s.secCode true
  else (s.secCode false).modOtp fun o => { o with revoked := o.revoked ||| BitVec.ofNat 4 (2 ^ i) }
/-- REVOKE. -/
def State.revokeWrite (s : State) (v : Pair) : State :=
  let s := s.setReg (secOff 0xC) (v &&& bits 1 0)
  if bit v 2 then s.revokeKey (ext v 1 0) else s
def execRevoke (v : Pair) (s : State) : Out := .next (s.when s.umbraActs fun s => s.revokeWrite v)

/-- SVN_SET (R433). -/
def State.svnSet (s : State) (v : Pair) : State :=
  let s := s.setReg (secOff 0x10) (v &&& bits 6 0)
  let n := ext v 6 0
  if bit v 7 = false then s
  else if n < s.boot.otp.svn.toNat ∨ s.boot.fwSvn.toNat < n then s.secCode true
  else (s.secCode false).modOtp fun o => { o with svn := BitVec.ofNat 7 n }
def execSvnSet (v : Pair) (s : State) : Out := .next (s.when s.umbraActs fun s => s.svnSet v)

/-- The staging value of MEAS_DATA. -/
def State.staged512 (s : State) : BitVec 512 :=
  BitVec.ofNat 512 ((List.range 19).foldl (fun a i => a + (SMap.get 0 s.boot.staging i).toNat * 2 ^ (28 * i)) 0)
/-- KEY_PROG (R434). -/
def State.keyProg (s : State) (v : Pair) : State :=
  let s := s.setReg (secOff 0x14) (v &&& bits 1 0)
  let i := ext v 1 0
  if bit v 2 = false then s
  else if s.lc ≠ 0 ∨ s.boot.otp.keyValid i then s.secCode true
  else
    let d := s.staged512.extractLsb' 0 256
    (s.secCode false).modOtp fun o => { o with keys := SMap.set 0 o.keys i d }
def execKeyProg (v : Pair) (s : State) : Out := .next (s.when s.umbraActs fun s => s.keyProg v)

/-- MEAS_CTL: SEL by any master; EXTEND by Umbra for SEL 3 to 7 (R436). -/
def State.measCtl (s : State) (umbra : Bool) (v : Pair) : State :=
  let s := s.setReg (secOff 0x80) (v &&& bits 6 0)
  let k := ext v 6 0
  if umbra ∧ bit v 7 ∧ 3 ≤ k ∧ k ≤ 7 then s.extendMeas k (leOctets 64 s.staged512.toNat) else s
/-- EXTEND, by Umbra. -/
def execExtend (v : Pair) (s : State) : Out := .next (s.when s.umbraActs fun s => s.measCtl true v)

/-! ## The mailbox: R435, R439 -/

def mboxOp : Fld := ⟨secOff 0x20, 3, 0⟩
def mboxSlice : Fld := ⟨secOff 0x20, 9, 4⟩
def mboxClusters : Fld := ⟨secOff 0x20, 17, 10⟩
def mboxValid : Fld := ⟨secOff 0x20, 18, 18⟩
def State.mboxBusy (s : State) : Bool := decide (s.fld ⟨mboxStatus, 4, 4⟩ = 1)
def State.mboxArea (s : State) : Nat := s.fld ⟨secOff 0x24, 27, 0⟩ + 2 ^ 28 * s.fld ⟨secOff 0x28, 7, 0⟩

/-- The operation in progress has ended so; MAILBOX_COMPLETE reports it. -/
def State.mboxEnd (s : State) (code detail : Nat) (res : Nat := 0) : State :=
  { s with boot := { s.boot with mbox := some (BitVec.ofNat 4 code, BitVec.ofNat 4 detail, BitVec.ofNat 28 res) } }

/-- MBOX_CMD breaks R11 or R153: a reserved OP or bit, or a field that the operation does not use. -/
def mboxRsvd (v : Pair) : Bool :=
  decide (ext v 27 19 ≠ 0) || (match ext v 3 0 with
    | 1 => bit v 18
    | 2 => decide (ext v 17 10 ≠ 0)
    | 3 => bit v 18 || decide (ext v 17 10 ≠ 0)
    | 4 => bit v 18 || decide (ext v 17 10 ≠ 0)
    | _ => true)

/-- A write of MBOX_CMD (R435): ignored while BUSY; one that breaks R11 or R153 ends with RSVD. A host write is a Glint of source
MAILBOX. -/
def State.mboxWrite (s : State) (host : Bool) (v : Pair) : State :=
  let s := if host then s.fireAll 10 else s
  if s.mboxBusy then s.setFld ⟨mboxStatus, 5, 5⟩ 1
  else
    let s := (s.setReg (secOff 0x20) (v &&& bits 18 0)).setFld ⟨mboxStatus, 4, 4⟩ 1
    let s : State := { s with boot := { s.boot with mbox := none } }
    if mboxRsvd v then s.mboxEnd 1 0 else s

/-- Umbra's requests of the mailbox. -/
def asUmbra : Requester := { slice := 0, octet := true, port := 7, mkind := 5, held := some .umbra }
/-- A line of the area: slice 0, kind 0b10 or 0b00. -/
def State.areaLine (s : State) (l : Nat) : Bool :=
  (s.place l).isSome && decide ((s.line l).slice = 0) && (decide ((s.line l).kind = 0) || decide ((s.line l).kind = 2))
def lineOctets (d : BitVec 504) : List Octet := (List.range 63).map fun j => d.extractLsb' (8 * j) 8
/-- Read n lines of the area; none where one is not the area's. -/
def State.areaRead (s : State) (l : Nat) : Nat → Option (List Octet) × State
  | 0 => (some [], s)
  | n + 1 =>
    if s.areaLine l = false then (none, s)
    else match s.lineRead asUmbra l with
      | (.ok d, s) => match s.areaRead (l + 1) n with
        | (some r, s) => (some (lineOctets d ++ r), s)
        | (none, s) => (none, s)
      | (.fault _, s) => (none, s)
/-- Write octets over lines of the area, 63 to a line. -/
def State.areaWrite (s : State) (l : Nat) : List (List Octet) → State
  | [] => s
  | c :: cs => ((s.lineWrite asUmbra l .part fun _ => BitVec.ofNat 504 (leNat c)).2).areaWrite (l + 1) cs
/-- n lines of the area as octets. -/
def State.areaOctets (s : State) (n : Nat) : List Octet := (List.range n).flatMap fun j => lineOctets (s.line (s.mboxArea + j)).data
/-- An image of which the octets `h` have been read, at most 4 MiB and what surrounds it; the rest reads as zeros. -/
def imFull (h : List Octet) : List Octet :=
  let n := min (imSize h) (2 ^ 22 + 5325)
  (h ++ List.replicate (n - h.length) 0).take n
/-- A check rejects the image by what has been read of it: MAGIC to SLOT by the header, KEY to DEBUG by PUBKEY as well (R429). -/
def earlyCause (chk : List Octet → Nat) (h : List Octet) : Bool :=
  decide (0 < chk (imFull h)) && decide (chk (imFull h) ≤ if imSigned h ∧ h.length < 2016 then 7 else 10)
/-- Lines of the image in the area that are read: those of its header, then those of PUBKEY, then all of it, each unless a check has
rejected it before (R429). -/
def State.imageCount (s : State) (chk : List Octet → Nat) : Nat :=
  let seen (n : Nat) : Bool := s.visited .umbra (((List.range n).map (· + s.mboxArea)).takeWhile s.areaLine)
  let h := s.areaOctets 2
  if seen 2 = false ∨ earlyCause chk h then 2
  else
    let k := if imSigned h then 32 else 2
    if seen k = false ∨ earlyCause chk (s.areaOctets k) then k else max k (((imFull h).length + 62) / 63)
/-- The image in the area, as far as it is read. -/
def State.areaImage (s : State) (chk : List Octet → Nat) : Option (List Octet) × State :=
  let (r, t) := s.areaRead s.mboxArea (s.imageCount chk)
  (r.map imFull, t)

/-- Run `f` once lines of the area have been visited, up to one that is not the area's; until then Umbra's requests wait at their
channels (R336). -/
def State.areaServed (s : State) (wr : Bool) (ls : List Nat) (f : State → State) : State :=
  s.served .umbra [{ r := asUmbra, wr := wr, lines := ls.takeWhile s.areaLine }] f
/-- The lines of the image. -/
def State.imageLines (s : State) (chk : List Octet → Nat) : List Nat := (List.range (s.imageCount chk)).map (· + s.mboxArea)

/-- The engine runs operation `op` on the device as it is; an operation that is not in progress does nothing. -/
def State.mboxRun (s : State) (op : Nat) (f : State → State) : State :=
  if s.mboxBusy ∧ s.boot.mbox.isNone ∧ s.fld mboxOp = op then f s else s

/-- LOAD (Table 17.6): its refusals, then the image. -/
def State.mboxLoad (s : State) : State :=
  let i := s.fld mboxSlice
  let cs := (List.range 8).filter fun c => (s.fld mboxClusters).testBit c
  if i ≠ 0 ∧ s.sliceState i ≠ 1 ∧ s.sliceState i ≠ 5 then s.mboxEnd 3 0
  else if i ≠ 0 ∧ ((s.threadsOfSlice i).any fun t => cs.contains (clusterOf t) && (s.thread t).live) then s.mboxEnd 5 0
  else s.areaServed false (s.imageLines (s.lumenCause i cs)) fun s => match s.areaImage (s.lumenCause i cs) with
    | (none, s) => s.mboxEnd 4 0
    | (some im, s) =>
      let c := s.lumenCause i cs im
      if c ≠ 0 then s.mboxEnd 2 c else (s.loadLumen i cs im).mboxEnd 0 0 (imEntry im)
def execLoad (s : State) : Out := .next (s.mboxRun 1 State.mboxLoad)

/-- Octets 0 to 703 of the report (Table 17.7). -/
def State.report (s : State) (nonce : List Octet) : List Octet :=
  let v := decide (s.fld mboxValid = 1)
  let i := s.fld mboxSlice
  let k := if i = 0 then 2 else 64 + i
  let uns := SMap.get false s.boot.unsignedMark (if v then k else 2)
  let rst := v && SMap.get false s.boot.restoredMark k
  leOctets 4 0x1440A77E ++ leOctets 2 1 ++ leOctets 1 s.lc ++ leOctets 1 (s.fld ⟨secOff 0, 21, 20⟩) ++ leOctets 4 0x5A71440 ++
    leOctets 1 (s.fld ⟨4, 7, 0⟩) ++ leOctets 1 s.boot.otp.svn.toNat ++ leOctets 1 (if v then i else 0xFF) ++
    leOctets 1 (b2n v + 2 * b2n uns + 4 * b2n rst + 8 * s.fld ⟨bootStatus, 8, 8⟩ + 16 * s.fld ⟨secOff 0, 22, 22⟩) ++
    leOctets 7 s.tick.toNat ++ leOctets 1 0 ++ leOctets 8 0 ++ s.idDigest ++
    ((List.range 8).flatMap fun j => leOctets 64 (s.meas j).toNat) ++ leOctets 64 (if v then (s.meas (64 + i)).toNat else 0) ++ nonce
/-- Octets as lines of 63. -/
def octetLines (o : List Octet) : List (List Octet) := chunks 63 ((o.length + 62) / 63) o

/-- ATTEST (R439); `rnd` is the randomness of the hedged signature. -/
def State.mboxAttest (s : State) (rnd : BitVec 256) : State :=
  match s.boot.seed with
  | none => s.mboxEnd 3 0
  | some seed =>
    if s.fld mboxValid = 1 ∧ 62 < s.fld mboxSlice then s.mboxEnd 1 0
    else s.areaServed true ((List.range 64).map (· + s.mboxArea)) fun s => match s.areaRead s.mboxArea 64 with
      | (none, s) => s.mboxEnd 4 0
      | (some a, s) =>
        let r := s.report (a.take 64)
        match Config.mldsaSign seed (shake256 r 64) rnd with
        | none => s.mboxEnd 6 0
        | some sig => (s.areaWrite s.mboxArea (octetLines (r ++ (sig ++ List.replicate 3309 0).take 3309 ++ List.replicate 19 0))).mboxEnd 0 0 4013
def execAttest (rnd : BitVec 256) (s : State) : Out := .next (s.mboxRun 2 fun s => s.mboxAttest rnd)

/-- Check the TOKEN in the area: its ACTION, octet 1 and signing slot. -/
def State.token (s : State) : Except (Nat × Nat) (Nat × Nat × Nat) × State :=
  match s.areaImage (s.imageCause .token) with
  | (none, s) => (.error (4, 0), s)
  | (some im, s) =>
    let c := s.imageCause .token im
    if c ≠ 0 then (.error (2, c), s) else (.ok (ole (imBody im) 0 1, ole (imBody im) 1 1, imSlot im), s)

/-- A TOKEN has passed R429: ACTION 1 RMA, or 2 REVOKE of a slot with the signing slot (R434, R441). -/
def State.passToken (s : State) (act slot sgn : Nat) : State :=
  { s with boot := { s.boot with tokenRma := s.boot.tokenRma || decide (act = 1),
                                 tokenRevoke := s.boot.tokenRevoke ++ (if act = 2 then [(slot, sgn)] else []) } }
/-- LC (Table 17.6): a TOKEN is read where the transition needs one; an accepted transition resets the device. -/
def State.mboxLc (s : State) : State :=
  let t := s.fld mboxSlice % 8
  let go (s : State) : State :=
    if s.lcAllowed t then
      let (a, s) := s.freshVal
      let (b, s) := s.freshVal
      let (c, s) := s.freshVal
      let (d, s) := s.freshVal
      s.lcGo t (a ++ b ++ c ++ d)
    else (s.secCode true).mboxEnd 7 0
  if s.lc = 2 ∧ t = 3 ∧ s.boot.tokenRma = false then
    s.areaServed false (s.imageLines (s.imageCause .token)) fun s => match s.token with
    | (.error e, s) => s.mboxEnd e.1 e.2
    | (.ok (act, slot, sgn), s) => go (s.passToken act slot sgn)
  else go s
def execMboxLc (s : State) : Out := .next (s.mboxRun 3 State.mboxLc)

/-- REVOKE (Table 17.6). -/
def State.mboxRevoke (s : State) : State :=
  let i := s.fld mboxSlice % 4
  let go (s : State) : State := (s.revokeKey i).mboxEnd (if s.revokeRefused i then 7 else 0) 0
  if s.lc = 2 ∧ ¬ s.boot.tokenRevoke.any (fun x => decide (x.1 = i) && decide (x.2 ≠ i)) then
    s.areaServed false (s.imageLines (s.imageCause .token)) fun s => match s.token with
    | (.error e, s) => s.mboxEnd e.1 e.2
    | (.ok (act, slot, sgn), s) => go (s.passToken act slot sgn)
  else go s
def execMboxRevoke (s : State) : Out := .next (s.mboxRun 4 State.mboxRevoke)

/-- MAILBOX_COMPLETE: CODE, DETAIL, RESULT, BUSY 0 and PF vector 28 (R435). -/
def State.mailboxComplete (s : State) : State :=
  match s.boot.mbox with
  | none => s
  | some (code, detail, res) =>
    let s := (((s.setFld ⟨mboxStatus, 3, 0⟩ code.toNat).setFld ⟨mboxStatus, 9, 6⟩ detail.toNat).setFld ⟨mboxStatus, 4, 4⟩ 0).setReg
      (secOff 0x30) res
    ({ s with boot := { s.boot with mbox := none } } : State).msix 0 28
def execMailboxComplete (s : State) : Out := .next s.mailboxComplete

end Sys2Proof.Machine
end

