-- ==== Sys2Proof/Machine/EpochStart.lean ====
section
/-! DEFINITION. EpochStart.lean: the start of an epoch and of a phase (spec/02 R41, R42, R46, R47, R60 to R62; spec/09
R259), with what other blocks do then. -/

namespace Sys2Proof.Machine

/-- The ARRIVAL checks of a port that its received LAST waves have not yet settled (R62). -/
def State.openArrivals (s : State) (p : Nat) : List (Epoch × Tick) :=
  (s.eport p).arrDl.filter fun x => !(s.lastIn p x.1 x.2).any (·.ok)
/-- Records of a port that can still matter: of the last epoch and later, of a wave with an output that has not left, or of an
epoch whose ARRIVAL check is open. -/
def State.pruneRecs (s : State) (e : Epoch) : State :=
  let live (r : Epoch) : Bool := decide (e.toNat ≤ r.toNat + 1) || (s.eouts.any fun o => decide (o.2.kind = .wave) && decide (o.2.epoch = r)) ||
    s.pkts.any fun k => k.2.counted && decide (k.2.epoch = r)
  s.modEpc fun c => { c with ports := c.ports.foldl (fun m x =>
    let arr := s.openArrivals x.1
    SMap.set {} m x.1 { x.2 with recs := x.2.recs.filter fun r => live r.epoch || arr.any fun y => decide (y.1 = r.epoch),
                                 used := x.2.used.filter fun u => live u.1, arrDl := arr }) [] }

/-- EPC.PORT_CFG.SCHED and CLOSE of a port. -/
def State.sched (s : State) (p : Nat) : Bool := decide (s.fld ⟨epcPort p 0, 0, 0⟩ = 1)
def State.closePhase (s : State) (p : Nat) : Nat := s.fld ⟨epcPort p 0, 4, 1⟩

/-- The LAST wave that a SCHED port sends in epoch e, and the one it must receive (R61, R62). -/
def State.schedEpoch (s : State) (e : Epoch) (start : Tick) : State :=
  s.each ((List.range 32).filter s.sched) fun s p =>
    let close := tadd start (s.endA (s.closePhase p))
    s.modEPort p fun x => { x with lastDl := x.lastDl ++ [(e, tsub close (s.budget p + s.ser p 1), false)],
                                   arrDl := x.arrDl ++ [(e, tsub close 1)] }

/-- The schedule of the running epoch, kept for waves stamped before the next start (R40). -/
def State.thisEpoch (s : State) : Option PrevEpoch :=
  if s.epc.begun then
    some { epoch := s.epc.epoch, start := s.epc.start, period := s.period, table := (List.range 16).map s.phaseA }
  else none

/-- A FOLLOW_PORT device starts no epoch while the link delay of its UPPORT is not valid (R52, R53). -/
def State.mayStart (s : State) : Bool := decide (s.role ≠ 3) || decide (s.fld ⟨epcPort s.upport 8, 27, 27⟩ = 1)

/-- EPOCH_START: the oldest accepted epoch starts at its start tick, unless R52 forbids it. A pending table and a pending rule swap
of that epoch apply first (R46, R126); a table whose apply epoch a follower has missed (R50) stays pending (DESIGN CHOICE,
notes/assumptions/18.md). -/
def State.epochStart (s : State) : State :=
  match s.epc.gos with
  | (n, t) :: rest =>
    if s.run = false ∨ s.epc.stopped ∨ s.tick.toNat < t.toNat then s
    else if s.mayStart = false then s.modEpc fun e => { e with gos := rest }
    else
      let s := s.modEpc fun e => { e with gos := rest, prev := s.thisEpoch, epoch := n, start := t, live := true, begun := true, phase := none }
      let s := if s.tablePending ∧ s.applyEpoch = (lo28 n).toNat then s.applyTable else s
      let s := s.bankApply (lo28 n)
      let s := if s.gen = 2 then s.setGen 3 else s
      (((s.pruneRecs n).schedEpoch n t).sliceEpoch n t).ringEpochs n
  | [] => s
def execEpochStart (s : State) : Out := .next s.epochStart

/-- CH value of the PHASE channel (Table 9.2). -/
def chPhase : Nat := 0x103
/-- The phase channel's word (R259). -/
def phaseWord (i kind : Nat) (e : Epoch) : Word := word (i + 16 * (kind % 4) + 64 * (e.toNat % 256))

/-- A phase event (R259): every thread waiting on PHASE receives the word, and event bit 7 of every live thread is set. -/
def State.phaseEvent (s : State) (i : Nat) : State :=
  let w := phaseWord i (phKind (s.phaseA i)) s.epc.epoch
  let live := s.threads.map (·.1)
  let s := s.each (live.filter fun t => (s.thread t).waitsOn chPhase) fun s t => s.modThread t fun x => x.deliver w
  s.setEvent live 7

/-- PHASE_START: phase i begins at its START (R47); the phases of an epoch begin in order. -/
def State.phaseStart (s : State) (i : Nat) : State :=
  if s.epc.live = false ∨ s.run = false ∨ phValid (s.phaseA i) = false ∨ i ≠ (s.epc.phase.map (· + 1)).getD 0 ∨
      s.tick.toNat < s.epc.start.toNat + phStart (s.phaseA i) then s
  else
    let s := s.modEpc fun e => { e with phase := some i }
    let s := if phEvent (s.phaseA i) then s.phaseEvent i else s
    s.ringMarks i
def execPhaseStart (i : Fin 16) (s : State) : Out := .next (s.phaseStart i.val)

end Sys2Proof.Machine
end

