-- ==== Sys2Proof/Machine/Csr.lean ====
section
/-! DEFINITION. Csr.lean: reads and writes of registers (spec/00 R7 to R10): what a read returns for the fields that the
device computes, what a write does beyond setting bits, and the rows of the table that are reads and writes of any
register. A row of the table that is one particular write calls the same operation as the write here. -/

namespace Sys2Proof.Machine

/-! ## Reads: the fields that a block computes -/

/-- EPC (Table 2.5). PHASE_NOW reads 0 while no epoch runs: armed before the first start, and after the stop (DESIGN CHOICE,
notes/assumptions/18.md). -/
def State.viewEpc (s : State) (o : Nat) : Option Pair :=
  if o = 0x100010 then some s.epc.tickHi
  else if o = 0x100018 then some s.epc.epochHi
  else if o = 0x10001C then
    some (if s.epc.live then
      let i := s.epc.phase.getD 0
      BitVec.ofNat 28 (i + 16 * phKind (s.phaseA i) + 256 * ((s.tick - s.epc.start).toNat % 2 ^ 15))
    else 0)
  else none

/-- LNK: the latched upper half of a counter (R103); `r` is relative to the port. -/
def State.viewLnk (s : State) (p r : Nat) : Option Pair :=
  if 0x100 ≤ r ∧ r < 0x1B0 ∧ r % 8 = 4 then some (SMap.get 0 (s.port p).hi ((r - 0x100) / 8)) else none

/-- PRS.BANK_STATUS (Table 4.8); `r` is relative to the quadrant. -/
def State.viewPrs (s : State) (q r : Nat) : Option Pair :=
  if r = 8 then
    some (s.reg (prsOff q 8) ||| BitVec.ofNat 28 (2 ^ 5 * (s.inflight q false % 512) + 2 ^ 14 * (s.inflight q true % 512)))
  else none

/-- FWD (Table 5.6). -/
def State.viewFwd (s : State) (q r : Nat) : Option Pair :=
  let f := s.fwdQ q
  let key := keyRegs ((f.events.head?.map (·.key)).getD 0)
  if r = 0x30 then
    let n := (f.tab.filter fun x => x.2.valid).length
    let st := (f.tab.filter fun x => x.2.valid && decide (stashBase ≤ x.1)).length
    some (s.reg (fwdOff q 0x30) ||| BitVec.ofNat 28 (n + 2 ^ 19 * st + 2 ^ 23 * b2n f.walk))
  else if r = 0x40 then some key.1
  else if r = 0x44 then some key.2.1
  else if r = 0x48 then some key.2.2
  else if r = 0x50 then some (s.reg (fwdOff q 0x50) ||| BitVec.ofNat 28 f.events.length)
  else if 0x100 ≤ r ∧ r < 0x140 ∧ r % 8 = 4 then some (BitVec.ofNat 28 (min 65535 (s.fwdLearned q (8 * q + (r - 0x100) / 8))))
  else none

/-- DSP (Table 6.9). -/
def State.viewDsp (s : State) (q r : Nat) : Option Pair :=
  let used := ((s.dspQ q).slots.filter fun x => decide (x.2.st ≠ .free)).length
  let x := s.slot q (s.fld ⟨dspOff q 0x40, 11, 0⟩)
  if r = 4 then some (BitVec.ofNat 28 (4096 - used + 2 ^ 13 * s.slotsIn q .ready))
  else if r = 0x14 then
    some (BitVec.ofNat 28 ((threadsOfQuad q).filter fun t => decide ((s.thread t).st = .waitTask)).length)
  else if r = 0x44 then
    some (BitVec.ofNat 28 (x.st.code + 8 * x.last.toNat + 2 ^ 5 * x.gen.toNat + 2 ^ 7 * x.slice.toNat + 2 ^ 13 * x.count.toNat
      + 2 ^ 19 * x.src.toNat))
  else if r = 0x48 then some x.dl
  else if 0x100 ≤ r ∧ r < 0x300 ∧ r % 8 = 4 then
    let i := (r - 0x104) / 8
    some (BitVec.ofNat 28 (s.slotsUsed q i + 2 ^ 13 * s.slotsNonpkt q i))
  else none

/-- LUM (Table 9.8). -/
def State.viewLum (s : State) (o : Nat) : Option Pair :=
  let t := s.dbgThread
  let x := s.thread t
  if o = dbgStatus then
    some (s.reg dbgStatus ||| BitVec.ofNat 28 (x.st.code + 8 * x.blk.code + 2 ^ 7 * x.staged.length + 2 ^ 18 * b2n x.child
      + 2 ^ 19 * s.sliceOf t))
  else if o = dbgCtl then some 0
  else if o = 0x140010C then some (BitVec.ofNat 28 (x.pc.toNat + 2 ^ 16 * x.d + 2 ^ 22 * b2n x.exc))
  else if o = 0x1400110 then some (if x.staged = [] then 0 else x.stagedCh.setWidth 28)
  else if 0x1401000 ≤ o ∧ o < 0x1401800 then
    let n := (o - 0x1401000) / 4
    let c := s.chan n
    some (s.reg o ||| BitVec.ofNat 28 (2 ^ 8 * c.level + 2 ^ 15 * c.queued.length + 2 ^ 22 * b2n c.holder.isSome))
  else none

/-- COP units and trace rings (Tables 10.10, 11.5). -/
def State.viewCop (s : State) (o : Nat) : Option Pair :=
  let n := (o - 0x1800000) / 0x1000
  let r := o % 0x1000
  if 0x1A00000 ≤ o ∧ o < 0x1A10000 ∧ o % 0x100 = 0x14 then some (s.ringRead ((o - 0x1A00000) / 0x100) 0x14)
  else if 32 ≤ n ∨ n % 4 = 3 then none
  else if r = 0 then
    let u := s.unit n
    let busy := (List.range 4).foldl (fun a k => a + 2 ^ k * b2n (decide (0 < u.outstanding k))) 0
    some (BitVec.ofNat 28 (16 - u.cmds.length + 2 ^ 5 * u.waiters.length + 2 ^ 13 * busy))
  else if 0x10 ≤ r ∧ r < 0x20 then
    let k := (r - 0x10) / 4
    let c := s.ctx n k
    let th := match c.holder with
      | some t => t.val
      | none => if c.releasing then c.last.toNat else 0
    let sl := if c.holder.isSome ∨ c.releasing then s.sliceOf th else 0
    some (BitVec.ofNat 28 (th + 2 ^ 10 * sl + 2 ^ 16 * b2n c.holder.isSome + 2 ^ 17 * b2n c.releasing
      + 2 ^ 18 * (s.unit n).outstanding k + 2 ^ 23 * c.sponge.toNat))
  else none

/-- ATM (Table 12.5). -/
def State.viewAtm (s : State) (o : Nat) : Option Pair :=
  let x := s.sem (s.fld ⟨atmOff 4, 11, 0⟩)
  if o = atmOff 0 then some (BitVec.ofNat 28 (s.sems.filter fun y => y.2.held).length)
  else if o = atmOff 8 then some (BitVec.ofNat 28 (b2n x.held + 2 * b2n x.broken + 4 * x.owner.toNat))
  else if o = atmOff 0xC then some (x.left.setWidth 28)
  else none

/-- MEM (Table 13.10); `r` is relative to the channel's copy. -/
def State.viewMem (s : State) (k r : Nat) : Option Pair :=
  let sel := s.reg (memReg k 0x4C)
  let e := SMap.find? (s.shadow k (bankKey (ext sel 11 11) (ext sel 10 9) (ext sel 8 4))).census (ext sel 3 0)
  let line := (e.map fun x => x.2.2).getD 0
  if r = 0x50 then some (BitVec.ofNat 28 line)
  else if r = 0x54 then some (BitVec.ofNat 28 (line / 2 ^ 28))
  else if r = 0x58 then
    some (match e with
      | some x => BitVec.ofNat 28 (x.2.1 + 2 ^ 24)
      | none => 0)
  else if k = 0 ∧ r = 0x3F02C then
    let x := s.extent (s.fld ⟨memGlob 0x28, 11, 0⟩)
    some (BitVec.ofNat 28 (x.owner.toNat + 2 ^ 6 * b2n x.valid + 2 ^ 7 * x.group.toNat + 2 ^ 10 * x.pbase.toNat
      + 2 ^ 22 * b2n x.moving.isSome))
  else none

/-- SLC (Table 14.10): registers of a slice; `r` is relative to them. -/
def State.viewSlc (s : State) (i r : Nat) : Option Pair :=
  let x := s.slice i
  if r = 0 then
    some (BitVec.ofNat 28 (x.state.toNat + 16 * b2n x.saveable + 32 * b2n x.capLost + 64 * min x.captured.length 16383))
  else if 0x40 ≤ r ∧ r < 0xC0 ∧ r % 0x10 = 0xC then some (s.placeReg i ((r - 0x40) / 0x10))
  else none

/-- Bits of the eight queue pairs of a function. -/
def qpMask (fn : Nat) (f : Qp → Bool) : Nat :=
  if h : fn < 64 then (qpsOf ⟨fn, h⟩).foldl (fun a q => a + 2 ^ q.qp.val * b2n (f q)) 0 else 0
/-- HST.FN_INFO (Table 15.9); an FLR ends at once. -/
def State.fnInfo (s : State) : Pair :=
  let fn := s.fld ⟨hstOff 8, 5, 0⟩
  BitVec.ofNat 28 (qpMask fn s.qpEn + 2 ^ 8 * qpMask fn s.dbPending + 2 ^ 17 * b2n (SMap.get false s.d3 fn))

/-- UMB security (Table 17.8). -/
def State.viewSec (s : State) (o : Nat) : Option Pair :=
  let r := o - 0x2E00000
  let bitsOf (n i : Nat) : Pair := BitVec.ofNat 28 (n / 2 ^ (28 * i))
  if r = 0 then some s.lcReg
  else if 0x40 ≤ r ∧ r < 0x68 then some (bitsOf (leNat s.idDigest) ((r - 0x40) / 4))
  else if 0x100 ≤ r ∧ r < 0x14C then some (bitsOf (s.meas (s.fld ⟨secOff 0x80, 6, 0⟩)).toNat ((r - 0x100) / 4))
  else none

/-- What a register reads as: the fields that the device computes, else what the store holds. -/
def State.view (s : State) (o : Nat) : Pair :=
  (if o % 4 ≠ 0 then some 0
   else if o < 0x100000 then none
   else if o < 0x400000 then s.viewEpc o
   else if o < 0x800000 then s.viewLnk ((o - 0x400000) / 0x100000 * 8 + o % 0x100000 / 0x10000) (o % 0x10000 + if o % 0x100000 < 0x80000 then 0 else 0x10000)
   else if o < 0xC00000 then s.viewPrs ((o - 0x800000) / 0x100000) (o % 0x100000)
   else if o < 0x1000000 then s.viewFwd ((o - 0xC00000) / 0x100000) (o % 0x100000)
   else if o < 0x1400000 then s.viewDsp ((o - 0x1000000) / 0x100000) (o % 0x100000)
   else if o < 0x1800000 then s.viewLum o
   else if o < 0x1C00000 then s.viewCop o
   else if o < 0x2000000 then s.viewAtm o
   else if o < 0x2400000 then s.viewMem ((o - 0x2000000) / 0x40000) (o % 0x40000)
   else if 0x2401000 ≤ o ∧ o < 0x2405000 then s.viewSlc ((o - 0x2401000) / 0x100) (o % 0x100)
   else if o = hstOff 0xC then some s.fnInfo
   else if o = pwrOff 0x210 then some s.timerView
   else if 0x2E00000 ≤ o ∧ o < 0x3000000 then s.viewSec o
   else if o = errStatus then some (s.reg errStatus ||| BitVec.ofNat 28 s.errUnread)
   else none).getD (s.reg o)

/-! ## Reads with an effect -/

/-- EPC.TICK_LO: bits [27:0] of the tick counter; TICK_HI latches the rest (R40). -/
def State.tickLo (s : State) : Pair × State := (lo28 s.tick, s.modEpc fun e => { e with tickHi := hi28 s.tick })
/-- EPC.EPOCH_LO; EPOCH_HI latches the rest. -/
def State.epochLo (s : State) : Pair × State :=
  (lo28 s.epc.epoch, s.modEpc fun e => { e with epochHi := hi28 s.epc.epoch })
/-- LO of counter m of a port; HI latches the rest (R103). -/
def State.cntLo (s : State) (p m : Nat) : Pair × State :=
  let c := SMap.get 0 (s.port p).cnt m
  (lo28 c, s.modPort p fun x => { x with hi := SMap.set 0 x.hi m (hi28 c) })

/-- The operation window at a byte offset: operation and semaphore (Table 12.2). -/
def semAt (o : Nat) : Option (SemOp × Fin 4096) :=
  if 0x1C10000 ≤ o ∧ o < 0x1C20000 ∧ o % 4 = 0 then
    some (semOpOf ((o - 0x1C10000) / 0x4000), ⟨o / 4 % 4096, Nat.mod_lt _ (by decide)⟩)
  else none
/-- A read of an operation window: Umbra's operation waits at its group, the host reads zero (R317, R318); a thread's is a
pair load, whose request stands in the thread. -/
def State.semWindow (s : State) (m : Master) (x : SemOp × Fin 4096) : Pair × State :=
  (0, if m = .umbra then { s with umbraSem := some x } else s)

/-- The read of a register by master m (Table 0.5): a read returns the RC fields and clears them; an event that adds to
one of them in the same cycle, `ev`, is not in what the read returns and stays (R10). -/
def State.readReg (s : State) (m : Master) (o : Nat) (ev : Pair) : Pair × State :=
  let lnkPort := (o - 0x400000) / 0x100000 * 8 + o % 0x100000 / 0x10000
  if o = 0x10000C then s.tickLo
  else if o = 0x100014 then s.epochLo
  else if 0x400000 ≤ o ∧ o < 0x800000 ∧ o % 0x100000 < 0x80000 ∧ 0x100 ≤ o % 0x10000 ∧ o % 0x10000 < 0x1B0 ∧ o % 8 = 0 then
    s.cntLo lnkPort ((o % 0x10000 - 0x100) / 8)
  else if 0xC00000 ≤ o ∧ o < 0x1000000 ∧ o % 0x100000 = 0x4C then s.evtInfoRead ((o - 0xC00000) / 0x100000)
  else if o = 0x1400114 then s.dbgRead
  else match semAt o with
    | some x => s.semWindow m x
    | none =>
      let i := regInfo o
      let v := s.view o
      (v, if i.rc = 0 then s else s.setReg o ((s.reg o &&& ~~~i.rc) ||| (ev &&& i.rc)))

/-! ## Writes -/

/-- The write of a register by its access codes (Table 0.5): RW bits are set, RWL bits while the block is unlocked, a 1
clears a W1C bit unless an event sets it in the same cycle (R10), every other bit ignores the write; `allow` masks
the bits that this write may set. -/
def State.maskWrite (s : State) (o : Nat) (allow v ev : Pair) : State :=
  let i := regInfo o
  let l := lockBit o
  let m := (i.rw ||| (if s.fld ⟨l.1, l.2, l.2⟩ = 1 then 0 else i.rwl)) &&& allow
  let old := s.reg o
  s.setReg o ((v &&& m) ||| (old &&& ~~~(m ||| i.w1c)) ||| (((old &&& ~~~v) ||| (ev &&& i.w1c)) &&& i.w1c))
def State.plainWrite (s : State) (o : Nat) (v ev : Pair) : State := s.maskWrite o (bits 27 0) v ev

/-- EPC.CTL: RUN, then HALT (R42, R65, R70). -/
def State.writeCtl (s : State) (v : Pair) : State :=
  let s := if bit v 0 then s.runArm else s.runStop
  if bit v 1 then s.ctlHalt else s
/-- EPOCH_LO and EPOCH_HI, only while RUN is 0; the written half of the counter is also what HI reads as. -/
def State.writeEpoch (s : State) (hi : Bool) (v : Pair) : State :=
  if s.run then s
  else s.modEpc fun e =>
    if hi then { e with epoch := v ++ lo28 e.epoch, epochHi := v } else { e with epoch := hi28 e.epoch ++ v }
/-- EPC (R41, R45, R48). -/
def State.writeEpc (s : State) (o : Nat) (v ev : Pair) : State :=
  if o = 0x100000 then s.writeCtl v
  else if o = 0x100014 then s.writeEpoch false v
  else if o = 0x100018 then s.writeEpoch true v
  else if o = 0x100020 then
    let s := s.plainWrite o v ev
    if bit v 0 then s.commit else s
  else if o = 0x100040 then s.maskWrite o (if s.run then bits 7 7 else bits 27 0) v ev
  else s.plainWrite o v ev

/-- LNK.PORT_CTL: the plain fields, MODE, EN, then RETRAIN and CLR_CNT (R72, R94, R96, R103). -/
def State.writePortCtl (s : State) (p : Fin 32) (v ev : Pair) : State :=
  let s := (s.maskWrite (lnk p 0) (bits 13 4) v ev).modeWrite p (ext v 3 1)
  let s := if bit v 0 then s.portEnable p else s.portDisable p
  let s := if bit v 14 then s.retrainCmd p else s
  if bit v 15 then s.clrCnt p else s
/-- MAIN of a transmit equaliser gives way until the sum of the taps is 63 (Table 3.11). -/
def State.tapFit (s : State) (o : Nat) : State :=
  let n := 63 - s.fld ⟨o, 3, 0⟩ - s.fld ⟨o, 14, 10⟩
  if n < s.fld ⟨o, 9, 4⟩ then s.setFld ⟨o, 9, 4⟩ n else s
/-- LNK. -/
def State.writeLnk (s : State) (o : Nat) (v ev : Pair) : State :=
  let p := (o - 0x400000) / 0x100000 * 8 + o % 0x100000 / 0x10000
  if h : o % 0x100000 < 0x80000 ∧ o % 0x10000 = 0 ∧ p < 32 then s.writePortCtl ⟨p, h.2.2⟩ v ev
  else if o % 0x100000 < 0x80000 ∧ 0x20 ≤ o % 0x10000 ∧ o % 0x10000 < 0x30 then (s.plainWrite o v ev).tapFit o
  else s.plainWrite o v ev

/-- PRS; `r` is relative to the quadrant. -/
def State.writePrs (s : State) (q r : Nat) (v ev : Pair) : State :=
  if r = 0 then s.swap q v
  else if r = 0x10 then s.ruleCmd q v
  else if r = 0x108 then s.stepCmd q v
  else if 0xA04 ≤ r ∧ r ≤ 0xA34 ∧ r % 4 = 0 then s.spRateWrite q ((r - 0xA00) / 4) v
  else s.plainWrite (prsOff q r) v ev

/-- FWD (R136, R153). -/
def State.writeFwd (s : State) (q r : Nat) (v ev : Pair) : State :=
  if r = 0 then s.fwdCmd q v
  else if r = 8 ∨ r = 0xC ∨ r = 0x10 ∨ r = 0x14 ∨ r = 0x18 then
    if s.fwdBusy q then s.setFld ⟨fwdOff q 4, 5, 5⟩ 1 else s.plainWrite (fwdOff q r) v ev
  else if r = 0x20 then s.hashSeedWrite q false v
  else if r = 0x24 then s.hashSeedWrite q true v
  else s.plainWrite (fwdOff q r) v ev

/-- DSP. -/
def State.writeDsp (s : State) (q r : Nat) (v ev : Pair) : State :=
  if r = 8 then s.dspCmd q v false
  else if 0x20 ≤ r ∧ r < 0x38 then s.dspIdle q fun s => s.plainWrite (dspOff q r) v ev
  else s.plainWrite (dspOff q r) v ev

/-- LUM (R254, R265, R269). -/
def State.writeLum (s : State) (o : Nat) (v ev : Pair) : State :=
  if o = dbgSel then s.dbgSelWrite v
  else if o = dbgCtl then s.dbgCtlWrite v
  else if o = 0x1400114 then s.dbgWrite v
  else if 0x1401000 ≤ o ∧ o < 0x1401800 ∧ o % 4 = 0 then s.chanCfgWrite ((o - 0x1401000) / 4) v
  else s.plainWrite o v ev

/-- Trace rings (R300, R303): configuration only while the ring is not started. -/
def State.writeRing (s : State) (r k : Nat) (v ev : Pair) : State :=
  if k = 0x38 then s.ringCtl r v
  else if k = 0x10 then s.ringRdWrite r v
  else if (k < 0xC ∨ (0x18 ≤ k ∧ k < 0x38)) ∧ s.ringLive r then s.setFld ⟨ringReg r 0x3C, 3, 3⟩ 1
  else s.plainWrite (ringReg r k) v ev
/-- COP. -/
def State.writeCop (s : State) (o : Nat) (v ev : Pair) : State :=
  if 0x1A00000 ≤ o ∧ o < 0x1A10000 ∧ o % 4 = 0 then s.writeRing ((o - 0x1A00000) / 0x100) (o % 0x100) v ev
  else s.plainWrite o v ev

/-- PORT_CFG of port p of channel k: refused when the RESERVE values would sum to more than 100 (R338). -/
def State.writePortCfg (s : State) (k p : Nat) (v ev : Pair) : State :=
  let others := (((List.range 8).filter fun j => decide (j ≠ p)).map fun j => s.fld ⟨portCfg k j, 20, 14⟩).sum
  if 100 < others + ext v 20 14 then s.memCfgErr k else s.plainWrite (portCfg k p) v ev
/-- CENSUS_CTL (R349, R351). -/
def State.writeCensus (s : State) (k : Nat) (v : Pair) : State :=
  let s := if bit v 0 then s.censusStart k else s
  let s := if bit v 1 then s.censusEnd k else s
  if bit v 2 then s.censusClear k else s
/-- What the module answers to the SPD read that a training makes: given by no register, so free (R327). -/
def State.freeSpd (s : State) : Spd × State :=
  let r := s.freshVal
  let b (i : Nat) : Bool := r.1.getLsbD i
  ({ supported := b 0, fastEnough := b 1, dpc := r.1.extractLsb' 2 2, ranks := r.1.extractLsb' 4 2, die := b 6, rfmReq := b 7,
     drfm := b 8 }, r.2)
/-- MEM (R338, R349, R351, R352, R358). -/
def State.writeMem (s : State) (k r : Nat) (v ev : Pair) : State :=
  if r = 0xC then
    let x := s.freeSpd
    if bit v 0 then x.2.trainStart k v x.1 else s.plainWrite (memReg k r) v ev
  else if 0x20 ≤ r ∧ r < 0x40 ∧ r % 4 = 0 then s.writePortCfg k ((r - 0x20) / 4) v ev
  else if r = 0x44 ∧ s.censusOn k then s.memCfgErr k
  else if r = 0x48 then s.writeCensus k v
  else if k = 0 ∧ r = 0x3F020 then s.wipeCmd v
  else s.plainWrite (memReg k r) v ev

/-- SLC registers of slice i (R362 to R364, R372). -/
def State.writeSlice (s : State) (i r : Nat) (v ev : Pair) : State :=
  if 0x10 ≤ r ∧ r < 0x20 ∧ r % 4 = 0 then s.pasidWrite i (slcReg i r) v
  else if 0x40 ≤ r ∧ r < 0xC0 ∧ r % 0x10 = 0 then s.shareWrite i ((r - 0x40) / 0x10) v
  else if 0x40 ≤ r ∧ r < 0xC0 ∧ (r % 0x10 = 4 ∨ r % 0x10 = 8) then s.allotWrite i (slcReg i r) v
  else s.plainWrite (slcReg i r) v ev
/-- SLC: the host driver of the PF and system-mode threads alone reach its engine (R366). -/
def State.writeSlc (s : State) (m : Master) (o : Nat) (v ev : Pair) : State :=
  if m = .umbra ∧ o ≤ slcOff 0x18 then s
  else if o = slcOff 0 then s.slcCmdWrite v
  else if slcOff 8 ≤ o ∧ o ≤ slcOff 0x18 ∧ s.slcBusy then s.setFld ⟨slcStatus, 5, 5⟩ 1
  else if 0x2401000 ≤ o ∧ o < 0x2405000 then s.writeSlice ((o - 0x2401000) / 0x100) (o % 0x100) v ev
  else s.plainWrite o v ev

/-- 256 bits from the entropy source, which no register gives. -/
def State.entropy256 (s : State) : BitVec 256 × State :=
  let a := s.freshVal
  let b := a.2.freshVal
  let c := b.2.freshVal
  let d := c.2.freshVal
  (d.1 ++ c.1 ++ b.1 ++ a.1, d.2)
/-- UMB security, by Umbra (R433 to R436, R441, R444). -/
def State.writeSecUmbra (s : State) (o : Nat) (v ev : Pair) : State :=
  if o = secOff 8 then
    let x := s.entropy256
    if bit v 3 ∧ s.lcAllowed (ext v 2 0) ∧ s.lc = 0 then x.2.lcReq v x.1 else s.lcReq v 0
  else if o = secOff 0xC then s.revokeWrite v
  else if o = secOff 0x10 then s.svnSet v
  else if o = secOff 0x14 then s.keyProg v
  else if secOff 0x100 ≤ o ∧ o < secOff 0x14C then
    { s with boot := { s.boot with staging := SMap.set 0 s.boot.staging ((o - secOff 0x100) / 4) v } }
  else s.plainWrite o v ev
/-- UMB security: MBOX_CMD, MBOX_LINE, MBOX_STATUS.IGNORED and MEAS_CTL.SEL by any master, the rest by Umbra (R435, R444). -/
def State.writeSec (s : State) (m : Master) (o : Nat) (v ev : Pair) : State :=
  if o = secOff 0x20 then s.mboxWrite (decide (m = .host)) v
  else if o = secOff 0x24 ∨ o = secOff 0x28 then
    let s := if m = .host then s.fireAll 10 else s
    if s.mboxBusy then s.setFld ⟨mboxStatus, 5, 5⟩ 1 else s.plainWrite o v ev
  else if o = mboxStatus then s.plainWrite o v ev
  else if o = secOff 0x80 then s.measCtl (decide (m = .umbra)) v
  else if m = .umbra then s.writeSecUmbra o v ev else s

/-- UMB power (R415, R419, R421). -/
def State.writePwr (s : State) (m : Master) (o : Nat) (v ev : Pair) : State :=
  if o = pwrOff 4 then s.pwrReqWrite m v
  else if o = pwrOff 0x210 then s.timerWrite v
  else if o = pwrOff 0x214 then s.glintTest v
  else s.plainWrite o v ev

/-- ERR: UMB_RD, POST, POST_INFO, WDOG and FATAL_CTL by Umbra alone (R447, R451 to R453, R458). -/
def State.writeErr (s : State) (m : Master) (o : Nat) (v ev : Pair) : State :=
  if o = errHostRd then s.readCount errHostRd v
  else if errUmbRd ≤ o ∧ o ≤ 0x3400034 ∧ o ≠ errLost then
    if m ≠ .umbra then s
    else if o = errUmbRd then s.readCount errUmbRd v
    else if o = errPost then s.post v
    else if o = errWdog then s.wdogWrite v
    else if o = 0x3400034 then (if bit v 0 then s.fatalStart 0x13 else s)
    else s.plainWrite o v ev
  else s.plainWrite o v ev

/-- The write of a register by master m, with the events `ev` of the same cycle. -/
def State.writeReg (s : State) (m : Master) (o : Nat) (v ev : Pair) : State :=
  if o % 4 ≠ 0 then s
  else if o < 0x100000 then s.plainWrite o v ev
  else if o < 0x400000 then s.writeEpc o v ev
  else if o < 0x800000 then s.writeLnk o v ev
  else if o < 0xC00000 then s.writePrs ((o - 0x800000) / 0x100000) (o % 0x100000) v ev
  else if o < 0x1000000 then s.writeFwd ((o - 0xC00000) / 0x100000) (o % 0x100000) v ev
  else if o < 0x1400000 then s.writeDsp ((o - 0x1000000) / 0x100000) (o % 0x100000) v ev
  else if o < 0x1800000 then s.writeLum o v ev
  else if o < 0x1C00000 then s.writeCop o v ev
  else if o < 0x2000000 then (if o = atmOff 0x10 then s.force v else s.plainWrite o v ev)
  else if o < 0x2400000 then s.writeMem ((o - 0x2000000) / 0x40000) (o % 0x40000) v ev
  else if o < 0x2800000 then s.writeSlc m o v ev
  else if o < 0x2C00000 then s.plainWrite o v ev
  else if o < 0x2E00000 then s.writePwr m o v ev
  else if o < 0x3000000 then s.writeSec m o v ev
  else if 0x3400000 ≤ o ∧ o < 0x3800000 then s.writeErr m o v ev
  else s

/-! ## Function pages: R396, R399, R400, R406, Table 15.2 -/

/-- Where `vectors` keeps dword 0 to 2 of an MSI-X table entry. -/
def vectorKey (fn o : Nat) : Nat := 96 * fn + 3 * ((o - 0x8000) / 16) + o % 16 / 4
/-- What a register of a function page reads as; a page has 64 KiB. -/
def State.readPage (s : State) (fn o : Nat) : BitVec 32 :=
  let x := s.slice fn
  let held := decide (ext (s.pageReg fn o) 1 0 = 1) && decide (3 ≤ x.state.toNat) && decide (x.state.toNat ≤ 5)
  if o % 4 ≠ 0 ∨ 0x10000 ≤ o then 0
  else if 0x8000 ≤ o ∧ o < 0x8200 ∧ o % 16 ≠ 12 then SMap.get 0 s.vectors (vectorKey fn o)
  else if o < 0x200 ∧ o % 0x40 = 0x20 then ((if held then s.pageReg fn o ||| 3 else s.pageReg fn o)).setWidth 32
  else if o = 0x2000 then BitVec.ofNat 32 (if fn = 0 then 1 else x.state.toNat + 16 * b2n x.saveable)
  else if o = 0x2008 then (s.reg 0).setWidth 32
  else if o = 0x200C then (s.reg 4).setWidth 32
  else if 0x2010 ≤ o ∧ o < 0x2020 then (s.reg (0x1400000 + (o - 0x2010))).setWidth 32
  else if 0x8000 ≤ o ∧ o < 0x8200 ∧ o % 16 = 12 then
    BitVec.ofNat 32 (b2n (!SMap.get false s.unmasked (fn * 32 + (o - 0x8000) / 16)))
  else if o = 0x9000 then
    BitVec.ofNat 32 ((List.range 32).foldl (fun a i => a + 2 ^ i * b2n (SMap.get false s.pba (fn * 32 + i))) 0)
  else (s.pageReg fn o).setWidth 32

/-- A plain write of a page register. -/
def State.plainPage (s : State) (fn o : Nat) (v ev : Pair) : State :=
  let i := pageInfo o
  let old := s.pageReg fn o
  s.setPageReg fn o ((v &&& i.rw) ||| (old &&& ~~~(i.rw ||| i.w1c)) ||| (((old &&& ~~~v) ||| (ev &&& i.w1c)) &&& i.w1c))

/-- A write of a register of queue pair q; `r` is relative to its registers. -/
def State.writeQp (s : State) (q : Qp) (r : Nat) (v ev : Pair) : State :=
  let o := qpPage q.qp r
  if r = 0 then
    if bit v 0 then s.qpEnable q v
    else if s.qpEn q then s.qpStop q
    else s.setPageReg q.fn o (v &&& bits 12 1)
  else if r < 0x20 ∧ s.qpEn q then s.qpErr q 3
  else s.plainPage q.fn o v ev
/-- A doorbell. -/
def State.writeBell (s : State) (q : Qp) (r : Nat) (v : Pair) : State :=
  if r = 0 then s.sqTailWrite q v else if r = 4 then s.cqHeadWrite q v else if r = 8 then s.rqHeadWrite q v else s

/-- The write of a register of a function page: bits [31:28] count in the MSI-X table alone (R7, R396). -/
def State.writePage (s : State) (fn : Fin 64) (o : Nat) (w : BitVec 32) (ev : Pair) : State :=
  let v : Pair := w.setWidth 28
  if o % 4 ≠ 0 ∨ 0x10000 ≤ o then s
  else if 0x8000 ≤ o ∧ o < 0x8200 ∧ o % 16 ≠ 12 then { s with vectors := SMap.set 0 s.vectors (vectorKey fn o) w }
  else if h : o < 0x200 then s.writeQp { fn := fn, qp := ⟨o / 0x40, by omega⟩ } (o % 0x40) v ev
  else if h : 0x1000 ≤ o ∧ o < 0x1080 then s.writeBell { fn := fn, qp := ⟨(o - 0x1000) / 0x10, by omega⟩ } (o % 0x10) v
  else if 0x8000 ≤ o ∧ o < 0x8200 ∧ o % 16 = 12 then s.msixMask fn ((o - 0x8000) / 16) (bit v 0)
  else s.plainPage fn o v ev

/-! ## Accesses: R7 to R10, R33, R418 -/

/-- The master's accesses reach registers now: the host through HST (R454, R457, R466), a thread through the CSR window in
system mode (R33), and Umbra, whose firmware runs on neither side of a reset nor once boot has stopped (R432, R443). -/
def State.reaches (s : State) (m : Master) (wr : Bool) (o : Nat) : Bool := match m with
  | .host => if wr then s.writable o else s.answered o
  | .thread t => !s.inReset && !s.boot.stopped && s.system t && decide (s.fatal = 0)
  | .umbra => !s.inReset && !s.boot.stopped

/-- A function page is reached by the host alone, as `pageRow` says. -/
def State.pageOpen (s : State) (fn : Fin 64) : Bool :=
  decide (s.fatal < 4) && !s.boot.stopped && !s.inReset && !s.pins.perstLow && s.fnExists fn

/-- A read of a page waits for the HOST domain (R418); `wide` of 64 bits. -/
def State.stallPage (s : State) (fn : Fin 64) (o : Nat) (wide : Bool) : State :=
  let s := s.domAccess 3 2 (0x1000#14 + BitVec.ofNat 14 (8 * fn.val))
  { s with power := { s.power with stalled := s.power.stalled ++
      [{ domain := 2, m := .host, sp := .page fn, wr := false, off := BitVec.ofNat 26 o, v := 0, wide := wide }] } }

/-! ## Configuration space: R395, R412, R477 -/

/-- PCIe Vendor ID, Device IDs of the PF and the VFs, class code, and the JTAG IDCODE (R395, R477). -/
def vendorId : Nat := 0x1F7A
def deviceId (fn : Nat) : Nat := if fn = 0 then 0x1440 else 0x1441
def classCode : Nat := 0x120000
def jtagIdcode : BitVec 32 := 0x11440A67
/-- The host reaches the configuration space of the function. -/
def State.cfgOpen (s : State) (fn : Fin 64) : Bool := !s.inReset && !s.pins.perstLow && s.fnExists fn && s.domOn 2
/-- Where the SR-IOV capability stands, among the extended capabilities. -/
def sriovCap : Nat := 0x100 + 4 * (Config.sriovAt % 0x3B0)
/-- A read of configuration space: the IDs, the class and the revision, and SR-IOV's TotalVFs, offset, stride, VF Enable and NumVFs at
their places of PCIe Base 5.0 (PRESUMED, notes/assumptions/13.md); every other dword is a free value. -/
def State.cfgRead (s : State) (fn : Fin 64) (o : Nat) : State :=
  let v := sriovCap
  let ans (n : Nat) : State := { s with readData := BitVec.ofNat 64 n }
  if o = 0 then ans (vendorId + 2 ^ 16 * deviceId fn.val)
  else if o = 8 then ans (s.fld ⟨4, 7, 0⟩ + 2 ^ 8 * classCode)
  else if fn.val = 0 ∧ o = v + 8 then ans (s.fld ⟨hstOff 4, 7, 7⟩)
  else if fn.val = 0 ∧ o = v + 0xC then ans (62 + 2 ^ 16 * 62)
  else if fn.val = 0 ∧ o = v + 0x10 then ans (s.fld ⟨hstOff 4, 6, 0⟩)
  else if fn.val = 0 ∧ o = v + 0x14 then ans (1 + 2 ^ 16)
  else { s.freshVal.2 with readData := (s.freshVal.1.setWidth 32).setWidth 64 }
/-- A write of configuration space: VF Enable and NumVFs of the PF (R395, R409). -/
def State.cfgWrite (s : State) (fn : Fin 64) (o : Nat) (w : BitVec 32) : State :=
  let on := decide (s.fld ⟨hstOff 4, 7, 7⟩ = 1)
  if fn.val ≠ 0 then s
  else if o = sriovCap + 8 then
    if w.getLsbD 0 then s.setFld ⟨hstOff 4, 7, 7⟩ 1 else if on then s.vfsClear else s
  else if o = sriovCap + 0x10 ∧ on = false then s.setFld ⟨hstOff 4, 6, 0⟩ (min (ext w 15 0) 62)
  else s

/-- A write access (R418): it waits for its domain. -/
def State.accWrite (s : State) (m : Master) (sp : Space) (o : Nat) (v : BitVec 32) (ev : Pair) : State := match sp with
  | .bar0 =>
    if s.reaches m true o = false then s
    else if s.regAwake o then s.writeReg m o (v.setWidth 28) ev else s.stallAcc m true o v
  | .page fn => if m = .host then s.pageRow fn o v fun s => s.writePage fn o v ev else s
  | .cfg fn => if m = .host ∧ s.cfgOpen fn then s.cfgWrite fn o v else s

/-- A read access: what it returns stands in `readData`. -/
def State.accRead (s : State) (m : Master) (sp : Space) (o : Nat) (ev : Pair) : State := match sp with
  | .bar0 =>
    if s.reaches m false o = false then { s with readData := 0 }
    else if s.regAwake o then
      let r := s.readReg m o ev
      { r.2 with readData := r.1.setWidth 64 }
    else s.stallAcc m false o 0
  | .page fn =>
    if m ≠ .host ∨ s.pageOpen fn = false then { s with readData := 0 }
    else if s.domOn 2 then { s with readData := (s.readPage fn o).setWidth 64 }
    else s.stallPage fn o false
  | .cfg fn =>
    if m = .host ∧ s.cfgOpen fn then s.cfgRead fn o else { s with readData := 0 }

/-- CSR_WRITE. -/
def execCsrWrite (m : Master) (sp : Space) (off : Off) (v : BitVec 32) (ev : Pair) (s : State) : Out :=
  .next (s.accWrite m sp off.toNat v ev)
/-- RC_READ, and the read of any other register. -/
def execRcRead (m : Master) (sp : Space) (off : Off) (ev : Pair) (s : State) : Out := .next (s.accRead m sp off.toNat ev)
/-- TICK_LO_READ by the host. -/
def execTickLoRead (s : State) : Out := .next (s.readRow 0x10000C State.tickLo)
/-- EPOCH_LO_READ by the host. -/
def execEpochLoRead (s : State) : Out := .next (s.readRow 0x100014 State.epochLo)
/-- COUNTER_LO_READ of counter m of a port by the host. -/
def execCounterLoRead (p : Fin 32) (n : Fin 22) (s : State) : Out :=
  .next (s.readRow (lnk p (0x100 + 8 * n)) fun s => s.cntLo p n)
/-- FORCE (R321). -/
def execForce (v : Pair) (s : State) : Out := .next (s.regRow (atmOff 0x10) v fun s => s.force v)

/-- The MSI-X table and PBA of a page take aligned accesses of 32 and 64 bits (R396). -/
def msixSizeOk (sp : Space) (o size : Nat) : Bool := match sp with
  | .page _ => (decide (0x8000 ≤ o) && decide (o < 0x8200) || decide (0x9000 ≤ o) && decide (o < 0x9008)) &&
      (decide (size = 4) && decide (o % 4 = 0) || decide (size = 8) && decide (o % 8 = 0))
  | _ => false
/-- A read of 64 bits of the MSI-X table or PBA of a page; it waits whole for its domain. -/
def State.wideRead (s : State) (sp : Space) (o : Nat) : State :=
  let lo := s.accRead .host sp o 0
  let hi := lo.accRead .host sp (o + 4) 0
  match sp with
  | .page fn => if s.domOn 2 ∨ s.pageOpen fn = false then { hi with readData := lo.readData ||| hi.readData <<< 32 } else s.stallPage fn o true
  | _ => hi
/-- An aligned 64-bit access to the MSI-X table or PBA of a page acts on both dwords (R396). -/
def State.wideAccess (s : State) (wr : Bool) (sp : Space) (o : Nat) (v : BitVec 64) : State :=
  if wr then (s.accWrite .host sp o (v.setWidth 32) 0).accWrite .host sp (o + 4) (v.extractLsb' 32 32) 0 else s.wideRead sp o
/-- The link carries the access to its register space. -/
def State.linked (s : State) (sp : Space) : Bool := !s.inReset && !s.pins.perstLow && (match sp with
  | .bar0 => true
  | .page fn => s.fnExists fn
  | .cfg fn => s.fnExists fn)
/-- CSR_BAD_ACCESS: a host access of a size other than 32 bits, or at an offset that is no multiple of 4: no effect, a read
returns zeros, and ERR logs CSR-SIZE of slice 0 (R7, Table 18.3); what R396 allows is performed. Configuration space has its own
accesses, of which those of a dword alone do something here. -/
def State.badAccess (s : State) (wr : Bool) (sp : Space) (o size : Nat) (v : BitVec 64) : State :=
  let zero (s : State) : State := if wr then s else { s with readData := 0 }
  if size = 4 ∧ o % 4 = 0 then s
  else if s.linked sp = false then zero s
  else if msixSizeOk sp o size then s.wideAccess wr sp o v
  else match sp with
    | .cfg _ => zero s
    | _ => (zero s).err { src := 11, code := 1, cls := 1, slice := some 0, info := [o] }
def execCsrBadAccess (wr : Bool) (sp : Space) (off : Off) (x : Access) (s : State) : Out :=
  .next (s.badAccess wr sp off.toNat x.size x.v)

end Sys2Proof.Machine
end

