-- ==== Sys2Proof/Machine/LumMem.lean ====
section
/-! DEFINITION. LumMem.lean: Lumen loads, stores and CAS (spec/07 R193, R203; spec/08 R217, R226, R242; spec/12 R309 to
R312): their issue, their service at the target, and their answers. -/

namespace Sys2Proof.Machine

/-! ## Service at the target -/

/-- Give the awaited access of thread t its answer. -/
def State.setAns (s : State) (t : Nat) (a : Answer) : State :=
  s.modThread t fun x => { x with await := x.await.map fun w => { w with ans := some a } }
/-- Give store `id` of thread t its answer. -/
def State.setStoreAns (s : State) (t id : Nat) (a : Answer) : State :=
  s.modThread t fun x => { x with stores := x.stores.map fun p => if p.id = id then { p with ans := some a } else p }

/-- A DRAM request of thread t goes to the channel of its line (R336); a line without storage answers UNMAPPED (R328). -/
def State.askDram (s : State) (t : Fin 1024) (l : Nat) (op : LineOp) (reply : Reply) : State :=
  let r : DReq := { line := l, op := op, slice := BitVec.ofNat 6 (s.sliceOf t), port := if s.waveTask t then 0 else 2,
                    mkind := 1, mid := t.val, dl := s.reqDl t, arr := 0, reply := reply }
  match s.place l with
  | none => s.answerReq r (.fault 6)
  | some (k, _) => s.modDchan k fun d => { d with reqs := d.reqs ++ [{ r with arr := s.mclk k s.tick.toNat }] }

/-- The wave buffer closes a word to a job-mode access that reaches it (R32). -/
def State.waveShut (s : State) (t a : Nat) (pair : Bool) : Bool := match s.region a with
  | .wave _ => !s.system t && !(s.waveOpen (s.sliceOf t) a && (!pair || s.waveOpen (s.sliceOf t) (a + 1)))
  | _ => false

/-- The word or pair at an on-chip address of thread t's. -/
def State.cellGet (s : State) (t a : Nat) (pair : Bool) : Pair :=
  if pair then pairOf (s.getWord (cellOf t a)) (s.getWord (cellOf t a + 1)) else (s.getWord (cellOf t a)).setWidth 28
def State.cellPut (s : State) (t a : Nat) (pair : Bool) (v : Pair) : State :=
  if pair then (s.putWord (cellOf t a) (loW v)).putWord (cellOf t a + 1) (hiW v) else s.putWord (cellOf t a) (loW v)
def State.cellPoison (s : State) (t a : Nat) (pair : Bool) : Bool :=
  s.poisoned (cellOf t a) || (pair && s.poisoned (cellOf t a + 1))

/-- An on-chip memory serves a load or a CAS (R309). -/
def State.cellServe (s : State) (t : Nat) (w : Await) : State :=
  let a := w.addr.toNat
  let v := s.cellGet t a w.pair
  if s.waveShut t a w.pair then s.setAns t (.fault 4)
  else if s.cellPoison t a w.pair then s.setAns t (.fault 8)
  else match w.cas with
    | none => s.setAns t (.value v)
    | some (old, new) =>
      if v = old then (s.cellPut t a true new).setAns t (.cas v true) else s.setAns t (.cas v false)

/-- The load or CAS that thread t waits for reaches its target, or stalls before a domain that is not ON (R418). -/
def State.serveAwait (s : State) (t : Fin 1024) : State :=
  match (s.thread t).await with
  | none => s
  | some w =>
    match s.asleepAt t w.addr.toNat with
    | some (src, d) => s.domAccess src d (word t)
    | none =>
      match s.region w.addr.toNat with
      | .dram l i => match w.cas with
        | some (old, new) => s.askDram t l (.cas i old new) (.cas t)
        | none => s.askDram t l .read (.load t i w.pair)
      | .csr o => if (semAt o).isSome then s
        else
          let r := s.readReg (.thread t) o 0
          r.2.setAns t (.value r.1)
      | _ => s.cellServe t w

/-- Store p of thread t reaches its target (R203, R32), or stalls before a domain that is not ON (R418). -/
def State.serveStore (s : State) (t : Fin 1024) (p : PStore) : State :=
  let a := p.addr.toNat
  match s.asleepAt t a with
  | some (src, d) => s.domAccess src d (word t)
  | none =>
    match s.region a with
    | .dram l i => s.askDram t l (.write i p.pair p.val) (.store t p.id)
    | .csr o => (s.writeReg (.thread t) o p.val 0).setStoreAns t p.id (.value 0)
    | _ => if s.waveShut t a p.pair then s.setStoreAns t p.id (.fault 4) else (s.cellPut t a p.pair p.val).setStoreAns t p.id (.value 0)

/-! ## Issue: R193, R217, R226, R242 -/

/-- Write the post-increment register. -/
def Thread.bumpAfter (x : Thread) : Option (Nat × Word) → Thread
  | some (r, v) => x.setR r v
  | none => x

/-- A pair load of an operation window (R318) waits for the thread's stores. -/
def State.semWaits (s : State) (t a : Nat) : Bool := match s.region a with
  | .csr o => (semAt o).isSome && !s.storesDone t
  | _ => false

/-- Issue a load: its exceptions are precise, and the thread waits for the response. -/
def State.load (s : State) (t : Fin 1024) (dst : Nat) (pair : Bool) (a : WAddr) (after : Option (Nat × Word)) : State :=
  match s.accFault t a.toNat pair false with
  | some c => s.exc t c a
  | none =>
    if s.semWaits t a.toNat then s
    else (s.modThread t fun x => { x with await := some { dst := dst, pair := pair, addr := a, after := after } }).serveAwait t

/-- A store goes out: posted, and the instruction completes. -/
def State.postStore (s : State) (t : Fin 1024) (pair : Bool) (a : WAddr) (v : Pair) (after : Option (Nat × Word)) : State :=
  let p : PStore := { id := s.nextId, addr := a, pair := pair, val := v }
  (s.newId.2.modThread t fun x => ({ x with await := none, stores := x.stores ++ [p] }.bumpAfter after).complete).serveStore t p

/-- The store stalls at issue: its target is on chip and sleeps, so that a WAKE-TIMEOUT is precise (R203, R418). -/
def State.storeStalls (s : State) (t a : Nat) : Bool := match s.region a with
  | .dram _ _ => false
  | _ => (s.asleepAt t a).isSome

/-- Issue a store; with 16 outstanding it waits (R217). -/
def State.store (s : State) (t : Fin 1024) (pair : Bool) (a : WAddr) (v : Pair) (after : Option (Nat × Word)) : State :=
  match s.accFault t a.toNat pair true with
  | some c => s.exc t c a
  | none =>
    if 16 ≤ (s.thread t).stores.length then s
    else if s.storeStalls t a.toNat then
      (s.modThread t fun x =>
        { x with await := some { dst := 0, pair := pair, addr := a, after := after, st := some v } }).serveAwait t
    else s.postStore t pair a v after

/-- Effective address of LD, ST, LDP and STP: bank and displacement (R193). -/
def dispAddr (w : Pair) (x : Thread) : WAddr := addrOf (x.bank (ext w 16 14)) (dispOff (x.r (ext w 13 9)) (w.extractLsb' 0 9))
/-- Effective address of LSPI and CAS: bank and register. -/
def regAddr (w : Pair) (x : Thread) : WAddr := addrOf (x.bank (ext w 16 14)) (x.r (ext w 13 9))
/-- Post-increment of LSPI by `n` words. -/
def bumpOf (w : Pair) (x : Thread) (n : Nat) : Option (Nat × Word) := some (ext w 13 9, x.r (ext w 13 9) + word n)

/-- LD (R226). -/
def execLd (t : Fin 1024) (s : State) : Out :=
  .next (s.lum t.val 0x14 0 fun s w => s.load t (ext w 21 17) false (dispAddr w (s.thread t)) none)
/-- ST. -/
def execSt (t : Fin 1024) (s : State) : Out :=
  .next (s.lum t.val 0x15 0 fun s w =>
    s.store t false (dispAddr w (s.thread t)) (((s.thread t).r (ext w 21 17)).setWidth 28) none)
/-- LDP. -/
def execLdp (t : Fin 1024) (s : State) : Out :=
  .next (s.lum t.val 0x16 0 fun s w => s.load t (ext w 21 17) true (dispAddr w (s.thread t)) none)
/-- STP. -/
def execStp (t : Fin 1024) (s : State) : Out :=
  .next (s.lum t.val 0x17 0 fun s w => s.store t true (dispAddr w (s.thread t)) ((s.thread t).rp (ext w 21 17)) none)

/-- LSPI: KIND 0 LD, 1 ST, 2 LDP, 3 STP, with post-increment (R193, R226). -/
def State.lspi (s : State) (t : Fin 1024) (w : Pair) : State :=
  let x := s.thread t
  let a := regAddr w x
  match ext w 8 7 with
  | 0 => s.load t (ext w 21 17) false a (bumpOf w x 1)
  | 1 => s.store t false a ((x.r (ext w 21 17)).setWidth 28) (bumpOf w x 1)
  | 2 => s.load t (ext w 21 17) true a (bumpOf w x 2)
  | _ => s.store t true a (x.rp (ext w 21 17)) (bumpOf w x 2)
/-- LSPI. -/
def execLspi (t : Fin 1024) (s : State) : Out := .next (s.lum t.val 0x18 0 fun s w => s.lspi t w)

/-- What CAS raises at issue: a pair load's exceptions, and UNMAPPED in the CSR window (R242, R311). -/
def State.casFault (s : State) (t a : Nat) : Option Nat :=
  (s.accFault t a true false).orElse fun _ => match s.region a with
    | .csr _ => some 6
    | _ => none
/-- CAS, once every earlier store is answered. -/
def State.cas (s : State) (t : Fin 1024) (w : Pair) : State :=
  let x := s.thread t
  let a := regAddr w x
  match s.casFault t a.toNat with
  | some c => s.exc t c a
  | none =>
    (s.modThread t fun x =>
      { x with await := some { dst := ext w 21 17, pair := true, addr := a, cas := some (x.rp (ext w 21 17), x.rp (ext w 8 4)) } }).serveAwait t
/-- CAS (R242). -/
def execCas (t : Fin 1024) (s : State) : Out :=
  .next (s.lum t.val 0x30 0 fun s w => if s.storesDone t.val then s.cas t w else s)

/-! ## Responses: R202, R203, R217 -/

/-- The awaited access takes its effect on the thread, and the instruction completes (R217, R242). -/
def Thread.accept (x : Thread) (w : Await) (a : Answer) : Thread :=
  let y := match a with
    | .value v => if w.pair then x.setRp w.dst v else x.setR w.dst (loW v)
    | .cas o ok => { x.setRp w.dst o with z := ok }
    | .fault _ => x
  ({ y with await := none }.bumpAfter w.after).complete

/-- The answer that has come for an awaited access; a CPM read has it once the context's earlier commands have run. -/
def State.answerOf (s : State) (t : Nat) (w : Await) : Option Answer := match w.cpm with
  | some (u, i) => (s.cpmAnswer t u.val i.toNat).map Answer.value
  | none => w.ans

/-- LOAD_RESPONSE. -/
def State.respond (s : State) (t : Nat) : State :=
  let x := s.thread t
  match x.await with
  | none => s
  | some w =>
    match s.answerOf t w with
    | none => s
    | some (.fault c) =>
      if x.stores.any PStore.arrived then (s.modThread t fun x => { x with await := none }).takeStores t
      else s.exc t c.toNat w.addr
    | some a => (s.modThread t fun x => x.accept w a).takeStores t
/-- LOAD_RESPONSE: the response to the load, CAS or CPM read that thread t waits for (R217). -/
def execLoadResponse (t : Fin 1024) (s : State) : Out := .next (s.respond t.val)

/-- STORE_ANSWER for the i-th outstanding store of thread t (R203). -/
def State.storeAnswer (s : State) (t i : Nat) : State :=
  let x := s.thread t
  match x.stores[i]? with
  | none => s
  | some p =>
    let drop (s : State) : State := s.modThread t fun x => { x with stores := x.stores.filter fun y => decide (y.id ≠ p.id) }
    match p.ans with
    | none => s
    | some (.fault _) =>
      if x.st = .faulted then drop s
      else
        let s := s.modThread t fun x => { x with stores := x.stores.map fun y => if y.id = p.id then { y with arrived := true } else y }
        if x.await.isSome ∨ x.st = .blocked then s else s.takeStores t
    | some _ => drop s
/-- STORE_ANSWER (R203). -/
def execStoreAnswer (t : Fin 1024) (i : Fin 16) (s : State) : Out := .next (s.storeAnswer t.val i.val)

end Sys2Proof.Machine
end

