-- ==== Sys2Proof/Machine/Wake.lean ====
section
/-! DEFINITION. Wake.lean: the end of a wake, what then proceeds, and the wake limit (spec/16 R418, R420). -/

namespace Sys2Proof.Machine

/-! ## DOMAIN_WAKE_COMPLETE: R418, R420 -/

/-- A restore that failed its CRC: the domain is as after OFF, RET_STATUS and ERR have it (R420). -/
def State.retFail (s : State) (d : Nat) : State :=
  (((s.resetDomain d).setFld ⟨pwrOff 0x230, 16, 16⟩ 1).setFld ⟨pwrOff 0x230, 20, 17⟩ d).err { src := 12, code := 2, cls := 2, unit := d }

/-- Perform the stalled register accesses whose path is now ON, in the order of their arrival. -/
def State.runStalled (s : State) : State :=
  s.each s.power.stalled fun s x =>
    let on : Bool := match x.sp with
      | .bar0 => s.regAwake x.off.toNat
      | _ => s.domOn 2
    if on then
      let s : State := { s with power := { s.power with stalled := s.power.stalled.erase x } }
      if x.wr then s.accWrite x.m x.sp x.off.toNat x.v 0 else if x.wide then s.wideRead x.sp x.off.toNat else s.accRead x.m x.sp x.off.toNat 0
    else s

/-- An access of thread t that has not been served and whose path is ON. -/
def State.wakesAt (s : State) (t : Nat) (a : WAddr) : Bool := (s.asleepAt t a.toNat).isNone

/-- Serve the accesses of thread t that stalled and whose path is now ON: stores first, in order; a store that had stalled
at its issue is posted. -/
def State.wakeThread (s : State) (t : Fin 1024) : State :=
  let waits := (s.thread t).stores.filter fun p => p.ans.isNone && s.wakesAt t p.addr && !(memQueued s t p.id)
  let s := s.each waits fun s p => s.serveStore t p
  match (s.thread t).await with
  | some w =>
    if w.ans.isSome ∨ w.cpm.isSome ∨ s.wakesAt t w.addr = false ∨ loadQueued s t then s
    else match w.st with
      | some v => s.postStore t w.pair w.addr v w.after
      | none => s.serveAwait t
  | none => s
where
  memQueued (s : State) (t : Fin 1024) (id : Nat) : Bool := s.dchans.any fun k => k.2.reqs.any fun r => decide (r.reply = .store t id)
  loadQueued (s : State) (t : Fin 1024) : Bool := s.dchans.any fun k => k.2.reqs.any fun r => match r.reply with
    | .load u _ _ => decide (u = t)
    | .cas u => decide (u = t)
    | _ => false

/-- The drift tracking of channel k runs once before the first read (R354, R414): what it finds is a free value for each rank. -/
def State.trackDrift (s : State) (k : Nat) : State :=
  s.each (List.range (2 ^ s.rankLog k)) fun s rk =>
    let (v, s) := s.freshVal
    s.modDchan k fun d => { d with drift := SMap.set 0 d.drift rk (v.setWidth 8 : BitVec 8).toInt }
/-- Threads in order. -/
def allThreads : List (Fin 1024) := List.finRange 1024

/-- The wake of domain d ends (R418, R420). `crcOk`: the retained items passed their CRC. -/
def State.wakeComplete (s : State) (d : Nat) (crcOk : Bool) : State :=
  if s.waking d = false then s
  else
    let kept := decide (s.dom d = 2) || decide (s.dom d = 4)
    let s := if kept ∧ (crcOk = false ∨ s.power.badRet.contains d) then s.retFail d else s
    let s := if kept then s.retUsed else s
    let s := (s.setFld ⟨domReg d, 4, 4⟩ 0).setFld ⟨domReg d, 2, 0⟩ 0
    let s : State := { s with power := { s.power with waking := s.power.waking.filter fun x => !decide (x.1 = d)
                                                      badRet := s.power.badRet.filter fun x => !decide (x = d) } }
    let s := if 11 ≤ d then s.each (memChans (d - 11)) fun s k => if s.chState k = 5 then (s.setChState k 3).trackDrift k else s else s
    s.runStalled.each allThreads State.wakeThread
/-- DOMAIN_WAKE_COMPLETE. -/
def execDomainWakeComplete (d : Fin 15) (crcOk : Bool) (s : State) : Out := .next (s.wakeComplete d.val crcOk)

/-! ## WAKE_TIMEOUT: R418 -/

/-- The gather of thread t waits for domain d at an address. -/
def State.gatherWaits (s : State) (d : Nat) (t : Nat) : Option Nat :=
  let x := s.thread t
  if x.st = .run ∧ x.gathered then
    match s.heldSlot t with
    | some (q, n) => match (s.gatherAll t ((s.slot q n).pkt.bind s.pkt?) (doneOuts x (s.slot q n).ports)).1 with
      | .asleep _ d' a => if d' = d then some a else none
      | _ => none
    | none => none
  else none

/-- The accesses of thread t that wait for domain d. -/
def State.threadWaits (s : State) (d : Nat) (t : Fin 1024) : List Waiter :=
  let on (a : WAddr) : Bool := decide ((s.asleepAt t a.toNat).map (·.2) = some d)
  let x := s.thread t
  (match x.await with
    | some w => if w.ans.isNone ∧ w.cpm.isNone ∧ on w.addr then [.load t] else []
    | none => []) ++
  (x.stores.filter fun p => p.ans.isNone && on p.addr).map (fun p => Waiter.store t p.id) ++
  (match s.gatherWaits d t with
    | some a => [.gather t a]
    | none => [])

/-- The pointer-mode commands of unit n that wait for domain d. -/
def State.unitWaits (s : State) (d n : Nat) : List Waiter :=
  (List.range 4).filterMap fun k =>
    match s.nextCmd n k with
    | some c =>
      let as := s.cmdTouch (n % 4) c (s.ctx n k)
      if c.ptr ∧ (s.asleepIn c.thread as).map (·.2) = some d then some (.cmd n k c (s.asleepAddr c.thread as)) else none
    | none => none

/-- Dispatcher messages that wait for domain d (R417), and what waits at its channels: lines of rings and Umbra's area. -/
def State.dispWaits (s : State) (d : Nat) : List Waiter :=
  ((s.dcmds.map (·.1)).eraseDups.filter fun t => decide (s.msgAsleep t = some d)).map Waiter.disp
def State.chanWaits (s : State) (d : Nat) : List Waiter :=
  if d < 11 ∨ (s.domOn d ∧ s.domOn 1) then []
  else ((memChans (d - 11)).flatMap fun k => (s.dchan k).reqs.filterMap fun r => match r.reply with
    | .ring r run i => some (Waiter.ring r run i)
    | .op .umbra => some Waiter.umbra
    | _ => none).eraseDups
/-- Everything that waits for domain d. -/
def State.domWaiters (s : State) (d : Nat) : List Waiter :=
  (s.power.stalled.filter fun x => decide (x.domain = d)).map Waiter.acc ++
  allThreads.flatMap (s.threadWaits d) ++
  (s.units.map (·.1)).flatMap (s.unitWaits d) ++
  (((List.range 512).map qpNum).filter (s.entryWaits d)).map Waiter.entry ++ s.dispWaits d ++ s.chanWaits d

/-- The master of what waits (Table 12.1): the PF or VF of a page access; a coprocessor or a ring has none, and `fv` is a free value. -/
def Waiter.master (fv : Word) : Waiter → Word
  | .acc x => match x.sp with
    | .page fn => 0x1000#14 + BitVec.ofNat 14 (8 * fn.val)
    | _ => masterWord x.m
  | .load t => BitVec.ofNat 14 t.val
  | .store t _ => BitVec.ofNat 14 t.val
  | .gather t _ => BitVec.ofNat 14 t.val
  | .disp t => BitVec.ofNat 14 t.val
  | .entry q => ownerOf (.queue q.fn q.qp)
  | .umbra => 0x2000#14
  | .cmd _ _ _ _ => fv
  | .ring _ _ _ => fv
/-- DOMAIN_ENTRY_COMPLETE (R414, R418, R420): the domain is in its state; an access that arrived meanwhile wakes it. -/
def State.entryComplete (s : State) (d : Nat) : State :=
  match s.power.entering with
  | some (d', t) =>
    if d' ≠ d then s
    else
      let s := s.loseDomain d t.toNat
      let s := if t = 2 ∨ t = 4 then s.retUsed else s
      let s := ((s.setFld ⟨domReg d, 2, 0⟩ t.toNat).setFld ⟨domReg d, 3, 3⟩ 0).setFld ⟨pwrStatus, 0, 0⟩ 0
      let s : State := { s with power := { s.power with entering := none } }
      let p := s.reg (pwrOff (0x180 + 4 * d))
      let src := if bit p 3 then 3 else 4
      if bit p 3 ∨ bit p 4 then match s.domWaiters d with
        | w :: _ => s.freshVal.2.beginWake src d (w.master (s.freshVal.1.setWidth 14)) false
        | [] => s.beginWake src d 0 (s.power.tests.contains (src, d))
      else s
  | none => s
def execDomainEntryComplete (d : Fin 15) (s : State) : Out := .next (s.entryComplete d.val)


/-- A waiting access ends with WAKE-TIMEOUT (R418). What a dispatcher message, a ring and the mailbox make of it is the model's choice:
a reply whose code is a free value, a failed line, and CODE 4 (notes/assumptions/16.md). -/
def State.endWaiter (s : State) : Waiter → State
  | .acc x =>
    let s : State := { s with power := { s.power with stalled := s.power.stalled.erase x } }
    if x.wr = false ∧ x.m = .host then s.emit .completerAbort else s
  | .load t => s.setAns t (.fault 9)
  | .store t id => s.setStoreAns t id (.fault 9)
  | .cmd n _ c a => ((s.dropHolder (.cmd n c.tag)).cmdEnd n c (memEnd 9 a)).cpmsDue n
  | .entry q => s.entryTimeout q
  | .gather t a => ((s.dropHolder (.gather t)).modThread t fun x => { x with gathered := false, gath := [] }).exc t 9 (BitVec.ofNat 42 a)
  | .disp t => s.freshVal.2.threadReply t { code := ext s.freshVal.1 3 0, quad := quadOf t }
  | .ring r run i => (s.each (List.range 16) fun s k => if (s.dchan k).reqs.any fun q => decide (q.reply = .ring r run i) then
      s.modDchan k fun d => { d with reqs := d.reqs.filter fun q => decide (q.reply ≠ .ring r run i) } else s).ringAnswer r run i false
  | .umbra => (s.dropHolder .umbra).mboxEnd 4 0

/-- The tick at which the wake limit of a waiting access passes; none before the clock that follows its arrival. -/
def State.limitOf (s : State) (w : Waiter) : Option Nat := (s.power.limits.find? fun x => decide (x.1 = w)).map (·.2)
/-- Accesses that wait for domain d and whose wake limit has passed. -/
def State.lateWaiters (s : State) (d : Nat) : List Waiter :=
  (s.domWaiters d).filter fun w => match s.limitOf w with
    | some n => decide (n ≤ s.tick.toNat)
    | none => false
/-- At a clock the wake limit of each access that has begun to wait is noted: it runs from the access's arrival (R418). -/
def State.noteLimits (s : State) : State :=
  let ds := (List.range 15).filter fun d => !s.domOn d
  if ds = [] ∧ s.power.limits = [] then s
  else
    let ws := if ds = [] then [] else (List.range 15).flatMap fun d =>
      (s.domWaiters d).map fun w => (w, (s.limitOf w).getD (s.tick.toNat + s.wakeLimit d))
    { s with power := { s.power with limits := ws } }

/-- WAKE_TIMEOUT (R418): the wake limit of an access that waits for domain d has passed; the wake goes on. -/
def State.wakeTimeout (s : State) (d : Nat) : State :=
  match s.pick (s.lateWaiters d) with
  | (none, s) => s
  | (some x, s) =>
    (((s.endWaiter x).setFld ⟨pwrOff 0x228, 3, 0⟩ d).bumpFld ⟨pwrOff 0x228, 19, 4⟩ 1).err { src := 12, code := 1, cls := 2, unit := d }
def execWakeTimeout (d : Fin 15) (s : State) : Out := .next (s.wakeTimeout d.val)

end Sys2Proof.Machine
end

