-- ==== Sys2Proof/Machine/Clock.lean ====
section
/-! DEFINITION. Clock.lean: what an idle step does: one cycle of CCLK (notes/assumptions/2.md). -/

namespace Sys2Proof.Machine

/-- What falls due with a CCLK: in each quadrant that is clocked a dispatcher command ends (R169), a waiting request is counted (R166)
and a flush scans its next bucket (R157); each slice is tested for a stall (R263), and what waits for its capture (R378) or for a RESTORE
(R389) goes on. -/
def State.clockWork (s : State) : State :=
  let s := s.each ((List.range 4).filter fun q => s.clocked (3 + q)) fun s q =>
    let s := (s.dspCmdEnd q).flushStep q
    if s.reqWaits q then s.count (dspCnt q 9) else s
  let s := s.each (List.range 64) State.stallTest
  (s.each ((s.slices.filter fun x => x.2.capQueue ≠ []).map (·.1)) (State.captureDue · false)).restoreGo false
/-- One period of CCLK: the wake limits of new accesses are noted, the clocks advance, boot may end (Table 17.4, step 10), HALT flits of
the fatal path have left (R453), and what falls due is done unless CCLK is lost (R468). -/
def State.clock (s : State) : State :=
  let s := s.noteLimits.cycle.bootReady.haltStep
  if s.pins.cclkLost then s else s.clockWork

end Sys2Proof.Machine
end

