-- ==== Sys2Proof/Machine/Sem.lean ====
section
/-! DEFINITION. Sem.lean: semaphore operations as they are served (spec/12 R317 to R323). The operation of a thread is its pair
load of an operation window, that of a queue pair its SEM entry, and that of Umbra its read of a window; each waits at the
group of its semaphore until the rotation reaches it. -/

namespace Sys2Proof.Machine

/-- An operation that waits: its master, and what it asks. -/
abbrev SemReq := SemMaster × SemOp × Fin 4096

/-- Requester number (R323). -/
def semReqNo : SemMaster → Nat
  | .thread t => t.val
  | .queue sl qp => 1024 + 8 * sl.val + qp.val
  | .umbra => 1536

/-- The operation that a thread's load waits for. -/
def State.semOfThread (s : State) (t : Nat) (x : Thread) : Option SemReq :=
  match x.await with
  | some w => match s.region w.addr.toNat with
    | .csr o => if w.ans.isNone ∧ w.st.isNone ∧ (s.asleepAt t w.addr.toNat).isNone then
        (semAt o).map fun y => (.thread ⟨t % 1024, Nat.mod_lt _ (by decide)⟩, y) else none
    | _ => none
  | none => none
/-- The operation of a SEM entry that has reached the ATM (R402). -/
def semOfEntry (k : Nat) (x : QpState) : Option SemReq :=
  match x.entry with
  | some e =>
    if entKind e.entry = 5 ∧ e.sent ∧ e.status.isNone then
      some (.queue ⟨k / 8 % 64, Nat.mod_lt _ (by decide)⟩ ⟨k % 8, Nat.mod_lt _ (by decide)⟩, semOpOf (ext e.entry 77 76),
        ⟨ext e.entry 75 64 % 4096, Nat.mod_lt _ (by decide)⟩)
    else none
  | none => none
/-- Every operation that waits. -/
def State.semReqs (s : State) : List SemReq :=
  s.threads.filterMap (fun x => s.semOfThread x.1 x.2) ++ s.qps.filterMap (fun x => semOfEntry x.1 x.2) ++
    (s.umbraSem.map fun x => (SemMaster.umbra, x)).toList

/-- The operation that group g serves: the first in requester number from a pointer that advances every CCLK (R323). -/
def State.semPick (s : State) (g : Nat) : Option SemReq :=
  let ptr := s.pointer (60 + g) 1537
  let dist (r : SemReq) : Nat := (semReqNo r.1 + 1537 - ptr) % 1537
  (s.semReqs.filter fun r => decide (r.2.2.val / 256 = g)).foldl (fun (b : Option SemReq) r => match b with
    | none => some r
    | some b => if dist r < dist b then some r else some b) none

/-- Group g has executed its operation of this CCLK (R323). -/
def State.semServed (s : State) (g : Nat) : Bool := decide (s.semDone.1 = s.cclk) && s.semDone.2.contains g
/-- Groups `l` execute no further operation in this CCLK. -/
def State.semClose (s : State) (l : List Nat) : State :=
  { s with semDone := (s.cclk, if s.semDone.1 = s.cclk then l ++ s.semDone.2 else l) }

/-- The operation is performed, and its result word goes to the requester (R318, R319). -/
def State.semServe (s : State) (r : SemReq) : State :=
  let x := (s.semClose [r.2.2.val / 256]).semOp r.2.1 r.1 r.2.2
  match r.1 with
  | .thread t => x.2.setAns t (.value x.1)
  | .queue sl qp => x.2.completeEntry ⟨sl, qp⟩ 0 x.1 0
  | .umbra => { x.2 with umbraSem := none, readData := x.1.setWidth 64 }

/-- An operation of a master is served, when it waits and its group serves it, one in a CCLK. -/
def State.semRow (s : State) (op : SemOp) (m : SemMaster) (i : Fin 4096) : State :=
  s.when (!s.semServed (i.val / 256) && decide (s.semPick (i.val / 256) = some (m, op, i))) fun s => s.semServe (m, op, i)

/-- ACQUIRE (R319). -/
def execAcquire (m : SemMaster) (i : Fin 4096) (s : State) : Out := .next (s.semRow .acquire m i)
/-- RELEASE (R319). -/
def execSemRelease (m : SemMaster) (i : Fin 4096) (s : State) : Out := .next (s.semRow .release m i)
/-- RENEW (R319). -/
def execRenew (m : SemMaster) (i : Fin 4096) (s : State) : Out := .next (s.semRow .renew m i)
/-- QUERY (R319). -/
def execQuery (m : SemMaster) (i : Fin 4096) (s : State) : Out := .next (s.semRow .query m i)

/-- ENTRY_SEM: the operation of the entry reaches its group, which serves it when its turn has come (R402, R323). -/
def State.entrySem (s : State) (q : Qp) (x : Fetched) : State :=
  let s := s.modQp (qpNo q) fun y => { y with entry := some { x with sent := true } }
  match semOfEntry (qpNo q) (s.qp (qpNo q)) with
  | some r => s.semRow r.2.1 r.1 r.2.2
  | none => s
def execEntrySem (qp : Qp) (s : State) : Out := .next (s.runEntry qp [5] fun s x => s.entrySem qp x)

/-- Each group with operations waiting that has served none in this CCLK serves one; then the CCLK is over for every group. -/
def State.semGroups (s : State) : State :=
  let s := s.each (List.range 16) fun s g => if s.semServed g then s else match s.semPick g with
    | some r => s.semServe r
    | none => s
  { s with semDone := (s.cclk, List.range 16) }
/-- A 1 µs strobe: behind the operations of its CCLK, every held semaphore with LEFT above 0 loses 1 µs, and breaks at 0
(R320, R323). -/
def State.leaseStrobe (s : State) : State :=
  let s := s.semGroups
  s.each s.leased fun s i => s.leaseTick i
/-- LEASE_STROBE: every 400 ticks of the CCLK copy of the counter (R25), while BASE is clocked (R414). -/
def execLeaseStrobe (s : State) : Out :=
  .next (s.when (s.clocked 1) fun s => s.strobe .lease 400 s.copy.toNat State.leaseStrobe)

end Sys2Proof.Machine
end

