-- ==== Sys2Proof/Machine/Dispatch.lean ====
section
/-! DEFINITION. Dispatch.lean: one arm per command of the table; each arm calls the command's meaning. -/

namespace Sys2Proof.Machine

/-- What a command does to everything but the queue. -/
def exec (i : Instr) (s : State) : Host.Outcome State Fault Refusal :=
  match i with
  | .csrWrite m sp off v ev => Sys2Proof.Machine.execCsrWrite m sp off v ev s
  | .rcRead m sp off ev => Sys2Proof.Machine.execRcRead m sp off ev s
  | .csrBadAccess wr sp off x => Sys2Proof.Machine.execCsrBadAccess wr sp off x s
  | .tickLoRead => Sys2Proof.Machine.execTickLoRead s
  | .epochLoRead => Sys2Proof.Machine.execEpochLoRead s
  | .counterLoRead p n => Sys2Proof.Machine.execCounterLoRead p n s
  | .runArm => Sys2Proof.Machine.execRunArm s
  | .runStop => Sys2Proof.Machine.execRunStop s
  | .ctlHalt => Sys2Proof.Machine.execCtlHalt s
  | .commit => Sys2Proof.Machine.execCommit s
  | .epochStart => Sys2Proof.Machine.execEpochStart s
  | .phaseStart ph => Sys2Proof.Machine.execPhaseStart ph s
  | .goDecision => Sys2Proof.Machine.execGoDecision s
  | .announceSend => Sys2Proof.Machine.execAnnounceSend s
  | .pinPulseSend => Sys2Proof.Machine.execPinPulseSend s
  | .announceReceive p stop n remain a => Sys2Proof.Machine.execAnnounceReceive p stop n remain a s
  | .beaconPulseReceive edge width => Sys2Proof.Machine.execBeaconPulseReceive edge width s
  | .announceTimeout => Sys2Proof.Machine.execAnnounceTimeout s
  | .delayReqSend p => Sys2Proof.Machine.execDelayReqSend p s
  | .delayReqReceive p tag a => Sys2Proof.Machine.execDelayReqReceive p tag a s
  | .delayRspReceive p tag residence t4 => Sys2Proof.Machine.execDelayRspReceive p tag residence t4 s
  | .delayMeasurementDrop p => Sys2Proof.Machine.execDelayMeasurementDrop p s
  | .refLost => Sys2Proof.Machine.execRefLost s
  | .waveArrival p => Sys2Proof.Machine.execWaveArrival p s
  | .deadline o => Sys2Proof.Machine.execDeadline o s
  | .taskLate q slot => Sys2Proof.Machine.execTaskLate q slot s
  | .lastLate p => Sys2Proof.Machine.execLastLate p s
  | .arrival p => Sys2Proof.Machine.execArrival p s
  | .haltFlitReceive p cause e => Sys2Proof.Machine.execHaltFlitReceive p cause e s
  | .epochStop => Sys2Proof.Machine.execEpochStop s
  | .outputRelease o => Sys2Proof.Machine.execOutputRelease o s
  | .egressStart p => Sys2Proof.Machine.execEgressStart p s
  | .lastWaveSend p => Sys2Proof.Machine.execLastWaveSend p s
  | .nonwaveEgress p => Sys2Proof.Machine.execNonwaveEgress p s
  | .portEnable p => Sys2Proof.Machine.execPortEnable p s
  | .portDisable p => Sys2Proof.Machine.execPortDisable p s
  | .modeWrite p mode => Sys2Proof.Machine.execModeWrite p mode s
  | .retrain p => Sys2Proof.Machine.execRetrain p s
  | .clrCnt p => Sys2Proof.Machine.execClrCnt p s
  | .signalDetect p => Sys2Proof.Machine.execSignalDetect p s
  | .eqComplete p => Sys2Proof.Machine.execEqComplete p s
  | .tsReceive p lane ts => Sys2Proof.Machine.execTsReceive p lane ts s
  | .trainingTimeout p => Sys2Proof.Machine.execTrainingTimeout p s
  | .lossOfSignal p => Sys2Proof.Machine.execLossOfSignal p s
  | .flitTransmit p => Sys2Proof.Machine.execFlitTransmit p s
  | .flitReceive p l0 l1 l2 l3 => Sys2Proof.Machine.execFlitReceive p l0 l1 l2 l3 s
  | .checkFlitReceive p lo hi => Sys2Proof.Machine.execCheckFlitReceive p lo hi s
  | .replayTimeout p => Sys2Proof.Machine.execReplayTimeout p s
  | .ethFrameReceive p octets corr uncorr => Sys2Proof.Machine.execEthFrameReceive p octets corr uncorr s
  | .contextTake q => Sys2Proof.Machine.execContextTake q s
  | .passStart k => Sys2Proof.Machine.execPassStart k s
  | .prsEnd k => Sys2Proof.Machine.execPrsEnd k s
  | .prsExtract k => Sys2Proof.Machine.execPrsExtract k s
  | .prsMatch k => Sys2Proof.Machine.execPrsMatch k s
  | .prsAdvance k => Sys2Proof.Machine.execPrsAdvance k s
  | .prsSet k => Sys2Proof.Machine.execPrsSet k s
  | .prsEtype k => Sys2Proof.Machine.execPrsEtype k s
  | .prsIpv4 k => Sys2Proof.Machine.execPrsIpv4 k s
  | .prsIpv6 k => Sys2Proof.Machine.execPrsIpv6 k s
  | .prsStop k => Sys2Proof.Machine.execPrsStop k s
  | .ruleMatch k => Sys2Proof.Machine.execRuleMatch k s
  | .forwardLookup k => Sys2Proof.Machine.execForwardLookup k s
  | .resultRelease p => Sys2Proof.Machine.execResultRelease p s
  | .bucketRefill => Sys2Proof.Machine.execBucketRefill s
  | .swap q v => Sys2Proof.Machine.execSwap q v s
  | .bankDrained q bank => Sys2Proof.Machine.execBankDrained q bank s
  | .ruleRead q v => Sys2Proof.Machine.execRuleRead q v s
  | .ruleWrite q v => Sys2Proof.Machine.execRuleWrite q v s
  | .ruleInvalidate q v => Sys2Proof.Machine.execRuleInvalidate q v s
  | .stepRead q v => Sys2Proof.Machine.execStepRead q v s
  | .stepWrite q v => Sys2Proof.Machine.execStepWrite q v s
  | .spRateWrite q k v => Sys2Proof.Machine.execSpRateWrite q k v s
  | .learnInsert q => Sys2Proof.Machine.execLearnInsert q s
  | .search q v => Sys2Proof.Machine.execSearch q v s
  | .next q v => Sys2Proof.Machine.execNext q v s
  | .insert q v => Sys2Proof.Machine.execInsert q v s
  | .delete q v => Sys2Proof.Machine.execDelete q v s
  | .flushPort q v => Sys2Proof.Machine.execFlushPort q v s
  | .fwdCmdEnd q => Sys2Proof.Machine.execFwdCmdEnd q s
  | .hashSeedWrite q hi v => Sys2Proof.Machine.execHashSeedWrite q hi v s
  | .ageingStrobe => Sys2Proof.Machine.execAgeingStrobe s
  | .ageingVisit q b hit => Sys2Proof.Machine.execAgeingVisit q b hit s
  | .evtInfoRead q => Sys2Proof.Machine.execEvtInfoRead q s
  | .flushOnDown p => Sys2Proof.Machine.execFlushOnDown p s
  | .submit src => Sys2Proof.Machine.execSubmit src s
  | .release src => Sys2Proof.Machine.execRelease src s
  | .cancel c => Sys2Proof.Machine.execCancel c s
  | .slotAllocation q => Sys2Proof.Machine.execSlotAllocation q s
  | .dispatch q => Sys2Proof.Machine.execDispatch q s
  | .deadlineClamp q slot => Sys2Proof.Machine.execDeadlineClamp q slot s
  | .add t => Sys2Proof.Machine.execAdd t s
  | .addc t => Sys2Proof.Machine.execAddc t s
  | .sub t => Sys2Proof.Machine.execSub t s
  | .subc t => Sys2Proof.Machine.execSubc t s
  | .and t => Sys2Proof.Machine.execAnd t s
  | .or t => Sys2Proof.Machine.execOr t s
  | .xor t => Sys2Proof.Machine.execXor t s
  | .andn t => Sys2Proof.Machine.execAndn t s
  | .shl t => Sys2Proof.Machine.execShl t s
  | .shr t => Sys2Proof.Machine.execShr t s
  | .sar t => Sys2Proof.Machine.execSar t s
  | .rol t => Sys2Proof.Machine.execRol t s
  | .cmp t => Sys2Proof.Machine.execCmp t s
  | .tst t => Sys2Proof.Machine.execTst t s
  | .mov t => Sys2Proof.Machine.execMov t s
  | .addp t => Sys2Proof.Machine.execAddp t s
  | .subp t => Sys2Proof.Machine.execSubp t s
  | .andp t => Sys2Proof.Machine.execAndp t s
  | .orp t => Sys2Proof.Machine.execOrp t s
  | .xorp t => Sys2Proof.Machine.execXorp t s
  | .shlp t => Sys2Proof.Machine.execShlp t s
  | .shrp t => Sys2Proof.Machine.execShrp t s
  | .sarp t => Sys2Proof.Machine.execSarp t s
  | .rolp t => Sys2Proof.Machine.execRolp t s
  | .cmpp t => Sys2Proof.Machine.execCmpp t s
  | .movp t => Sys2Proof.Machine.execMovp t s
  | .nop t => Sys2Proof.Machine.execNop t s
  | .addi t => Sys2Proof.Machine.execAddi t s
  | .andi t => Sys2Proof.Machine.execAndi t s
  | .ori t => Sys2Proof.Machine.execOri t s
  | .xori t => Sys2Proof.Machine.execXori t s
  | .cmpi t => Sys2Proof.Machine.execCmpi t s
  | .shi t => Sys2Proof.Machine.execShi t s
  | .movi t => Sys2Proof.Machine.execMovi t s
  | .mul t => Sys2Proof.Machine.execMul t s
  | .bfx t => Sys2Proof.Machine.execBfx t s
  | .bfi t => Sys2Proof.Machine.execBfi t s
  | .clz t => Sys2Proof.Machine.execClz t s
  | .perm t => Sys2Proof.Machine.execPerm t s
  | .wire t => Sys2Proof.Machine.execWire t s
  | .wand t => Sys2Proof.Machine.execWand t s
  | .wor t => Sys2Proof.Machine.execWor t s
  | .and4 t => Sys2Proof.Machine.execAnd4 t s
  | .or4 t => Sys2Proof.Machine.execOr4 t s
  | .xor4 t => Sys2Proof.Machine.execXor4 t s
  | .not4 t => Sys2Proof.Machine.execNot4 t s
  | .to2 t => Sys2Proof.Machine.execTo2 t s
  | .from2 t => Sys2Proof.Machine.execFrom2 t s
  | .ld t => Sys2Proof.Machine.execLd t s
  | .st t => Sys2Proof.Machine.execSt t s
  | .ldp t => Sys2Proof.Machine.execLdp t s
  | .stp t => Sys2Proof.Machine.execStp t s
  | .lspi t => Sys2Proof.Machine.execLspi t s
  | .loadResponse t => Sys2Proof.Machine.execLoadResponse t s
  | .storeAnswer t n => Sys2Proof.Machine.execStoreAnswer t n s
  | .mtb t => Sys2Proof.Machine.execMtb t s
  | .mfb t => Sys2Proof.Machine.execMfb t s
  | .bcc t => Sys2Proof.Machine.execBcc t s
  | .bra t => Sys2Proof.Machine.execBra t s
  | .call t => Sys2Proof.Machine.execCall t s
  | .jr t => Sys2Proof.Machine.execJr t s
  | .callr t => Sys2Proof.Machine.execCallr t s
  | .ret t => Sys2Proof.Machine.execRet t s
  | .eret t => Sys2Proof.Machine.execEret t s
  | .loop t => Sys2Proof.Machine.execLoop t s
  | .rep t => Sys2Proof.Machine.execRep t s
  | .task t => Sys2Proof.Machine.execTask t s
  | .done t => Sys2Proof.Machine.execDone t s
  | .gather t => Sys2Proof.Machine.execGather t s
  | .out t => Sys2Proof.Machine.execOut t s
  | .fork t lost squashed => Sys2Proof.Machine.execFork t lost squashed s
  | .join t => Sys2Proof.Machine.execJoin t s
  | .joinWake t => Sys2Proof.Machine.execJoinWake t s
  | .chr t => Sys2Proof.Machine.execChr t s
  | .chw t => Sys2Proof.Machine.execChw t s
  | .chc t => Sys2Proof.Machine.execChc t s
  | .channelAccept ch => Sys2Proof.Machine.execChannelAccept ch s
  | .messageTake ch => Sys2Proof.Machine.execMessageTake ch s
  | .hostMessageAccept qp => Sys2Proof.Machine.execHostMessageAccept qp s
  | .wfe t => Sys2Proof.Machine.execWfe t s
  | .wfeWake t => Sys2Proof.Machine.execWfeWake t s
  | .sev t => Sys2Proof.Machine.execSev t s
  | .cpl t => Sys2Proof.Machine.execCpl t s
  | .contextGrant c u => Sys2Proof.Machine.execContextGrant c u s
  | .cpu t => Sys2Proof.Machine.execCpu t s
  | .contextRelease c u k => Sys2Proof.Machine.execContextRelease c u k s
  | .cpq t squashed => Sys2Proof.Machine.execCpq t squashed s
  | .cpm t squashed => Sys2Proof.Machine.execCpm t squashed s
  | .cps t => Sys2Proof.Machine.execCps t s
  | .copCompletion c u => Sys2Proof.Machine.execCopCompletion c u s
  | .cas t => Sys2Proof.Machine.execCas t s
  | .rdf t => Sys2Proof.Machine.execRdf t s
  | .mfs t => Sys2Proof.Machine.execMfs t s
  | .mts t => Sys2Proof.Machine.execMts t s
  | .timerExpiry t => Sys2Proof.Machine.execTimerExpiry t s
  | .stall sl => Sys2Proof.Machine.execStall sl s
  | .halt t => Sys2Proof.Machine.execHalt t s
  | .resume t => Sys2Proof.Machine.execResume t s
  | .kill t => Sys2Proof.Machine.execKill t s
  | .step t => Sys2Proof.Machine.execStep t s
  | .dbgDataAccess wr v => Sys2Proof.Machine.execDbgDataAccess wr v s
  | .chanCfgWrite ch v => Sys2Proof.Machine.execChanCfgWrite ch v s
  | .chanClear ch => Sys2Proof.Machine.execChanClear ch s
  | .enc c k => Sys2Proof.Machine.execEnc c k s
  | .dec c k => Sys2Proof.Machine.execDec c k s
  | .vwire c k => Sys2Proof.Machine.execVwire c k s
  | .vwand c k => Sys2Proof.Machine.execVwand c k s
  | .vwor c k => Sys2Proof.Machine.execVwor c k s
  | .vand4 c k => Sys2Proof.Machine.execVand4 c k s
  | .vor4 c k => Sys2Proof.Machine.execVor4 c k s
  | .vxor4 c k => Sys2Proof.Machine.execVxor4 c k s
  | .vnot4 c k => Sys2Proof.Machine.execVnot4 c k s
  | .vto2 c k => Sys2Proof.Machine.execVto2 c k s
  | .vfrom2 c k => Sys2Proof.Machine.execVfrom2 c k s
  | .xcount c k => Sys2Proof.Machine.execXcount c k s
  | .xevMatch c k => Sys2Proof.Machine.execXevMatch c k s
  | .wirek c k => Sys2Proof.Machine.execWirek c k s
  | .sinit c k => Sys2Proof.Machine.execSinit c k s
  | .absorb c k => Sys2Proof.Machine.execAbsorb c k s
  | .final c k => Sys2Proof.Machine.execFinal c k s
  | .squeeze c k => Sys2Proof.Machine.execSqueeze c k s
  | .crc c k => Sys2Proof.Machine.execCrc c k s
  | .ringStart r => Sys2Proof.Machine.execRingStart r s
  | .ringStop r => Sys2Proof.Machine.execRingStop r s
  | .ringTrig x => Sys2Proof.Machine.execRingTrig x s
  | .ringFlush r => Sys2Proof.Machine.execRingFlush r s
  | .ringRdWrite r v => Sys2Proof.Machine.execRingRdWrite r v s
  | .recordAppend src => Sys2Proof.Machine.execRecordAppend src s
  | .acquire m n => Sys2Proof.Machine.execAcquire m n s
  | .semRelease m n => Sys2Proof.Machine.execSemRelease m n s
  | .renew m n => Sys2Proof.Machine.execRenew m n s
  | .query m n => Sys2Proof.Machine.execQuery m n s
  | .leaseStrobe => Sys2Proof.Machine.execLeaseStrobe s
  | .force v => Sys2Proof.Machine.execForce v s
  | .dramAccess k sc ecc => Sys2Proof.Machine.execDramAccess k sc ecc s
  | .refreshDue k sc rk => Sys2Proof.Machine.execRefreshDue k sc rk s
  | .owedRefresh k sc rk => Sys2Proof.Machine.execOwedRefresh k sc rk s
  | .tempReading k t0 t1 => Sys2Proof.Machine.execTempReading k t0 t1 s
  | .sweepEnd k sc rk bank => Sys2Proof.Machine.execSweepEnd k sc rk bank s
  | .shadowClear k sc rk => Sys2Proof.Machine.execShadowClear k sc rk s
  | .writeTimingCheck k rk osc => Sys2Proof.Machine.execWriteTimingCheck k rk osc s
  | .censusStart k => Sys2Proof.Machine.execCensusStart k s
  | .censusStop k => Sys2Proof.Machine.execCensusStop k s
  | .censusClear k => Sys2Proof.Machine.execCensusClear k s
  | .censusWindowEnd k => Sys2Proof.Machine.execCensusWindowEnd k s
  | .trainStart k v spd => Sys2Proof.Machine.execTrainStart k v spd s
  | .trainEnd k o => Sys2Proof.Machine.execTrainEnd k o s
  | .wipeAll v => Sys2Proof.Machine.execWipeAll v s
  | .wipeExtent v => Sys2Proof.Machine.execWipeExtent v s
  | .wipeEnd => Sys2Proof.Machine.execWipeEnd s
  | .scrub k ecc => Sys2Proof.Machine.execScrub k ecc s
  | .extentMoveEnd x => Sys2Proof.Machine.execExtentMoveEnd x s
  | .create v => Sys2Proof.Machine.execCreate v s
  | .destroy v => Sys2Proof.Machine.execDestroy v s
  | .grantExt v => Sys2Proof.Machine.execGrantExt v s
  | .returnExt v => Sys2Proof.Machine.execReturnExt v s
  | .arm v => Sys2Proof.Machine.execArm v s
  | .disarm v => Sys2Proof.Machine.execDisarm v s
  | .thaw v => Sys2Proof.Machine.execThaw v s
  | .save v => Sys2Proof.Machine.execSave v s
  | .saveComplete => Sys2Proof.Machine.execSaveComplete s
  | .restore v => Sys2Proof.Machine.execRestore v s
  | .restoreLoadDone => Sys2Proof.Machine.execRestoreLoadDone s
  | .restoreLimit => Sys2Proof.Machine.execRestoreLimit s
  | .reset v => Sys2Proof.Machine.execReset v s
  | .resetComplete sl => Sys2Proof.Machine.execResetComplete sl s
  | .freezeComplete sl => Sys2Proof.Machine.execFreezeComplete sl s
  | .freezeLimit sl => Sys2Proof.Machine.execFreezeLimit sl s
  | .shareWrite sl c v => Sys2Proof.Machine.execShareWrite sl c v s
  | .coreIdle core => Sys2Proof.Machine.execCoreIdle core s
  | .sqTail qp v => Sys2Proof.Machine.execSqTail qp v s
  | .cqHead qp v => Sys2Proof.Machine.execCqHead qp v s
  | .rqHead qp v => Sys2Proof.Machine.execRqHead qp v s
  | .qpEnable qp v => Sys2Proof.Machine.execQpEnable qp v s
  | .qpStop qp => Sys2Proof.Machine.execQpStop qp s
  | .entryFetch entry => Sys2Proof.Machine.execEntryFetch entry s
  | .entryNop qp => Sys2Proof.Machine.execEntryNop qp s
  | .entryTask qp => Sys2Proof.Machine.execEntryTask qp s
  | .dmaWr qp data => Sys2Proof.Machine.execDmaWr qp data s
  | .dmaRd qp => Sys2Proof.Machine.execDmaRd qp s
  | .dmaComplete qp => Sys2Proof.Machine.execDmaComplete qp s
  | .entryChan qp => Sys2Proof.Machine.execEntryChan qp s
  | .entrySem qp => Sys2Proof.Machine.execEntrySem qp s
  | .entryCas qp => Sys2Proof.Machine.execEntryCas qp s
  | .msixUnmask fn v => Sys2Proof.Machine.execMsixUnmask fn v s
  | .flr fn => Sys2Proof.Machine.execFlr fn s
  | .vfEnableClear => Sys2Proof.Machine.execVfEnableClear s
  | .perst => Sys2Proof.Machine.execPerst s
  | .powerEntry m v => Sys2Proof.Machine.execPowerEntry m v s
  | .powerWake m v => Sys2Proof.Machine.execPowerWake m v s
  | .domainEntryComplete d => Sys2Proof.Machine.execDomainEntryComplete d s
  | .domainWakeComplete d crcOk => Sys2Proof.Machine.execDomainWakeComplete d crcOk s
  | .wakeTimeout d => Sys2Proof.Machine.execWakeTimeout d s
  | .glint src d => Sys2Proof.Machine.execGlint src d s
  | .wakeTimer => Sys2Proof.Machine.execWakeTimer s
  | .glintTest v => Sys2Proof.Machine.execGlintTest v s
  | .thermalSample temp => Sys2Proof.Machine.execThermalSample temp s
  | .porAssert => Sys2Proof.Machine.execPorAssert s
  | .porRelease straps => Sys2Proof.Machine.execPorRelease straps s
  | .sysResetAssert => Sys2Proof.Machine.execSysResetAssert s
  | .sysResetRelease => Sys2Proof.Machine.execSysResetRelease s
  | .vaonLow => Sys2Proof.Machine.execVaonLow s
  | .firmwareStart flash => Sys2Proof.Machine.execFirmwareStart flash s
  | .bootStop flash => Sys2Proof.Machine.execBootStop flash s
  | .load => Sys2Proof.Machine.execLoad s
  | .attest rnd => Sys2Proof.Machine.execAttest rnd s
  | .mboxLc => Sys2Proof.Machine.execMboxLc s
  | .mboxRevoke => Sys2Proof.Machine.execMboxRevoke s
  | .mailboxComplete => Sys2Proof.Machine.execMailboxComplete s
  | .lcReq v uds => Sys2Proof.Machine.execLcReq v uds s
  | .revoke v => Sys2Proof.Machine.execRevoke v s
  | .svnSet v => Sys2Proof.Machine.execSvnSet v s
  | .keyProg v => Sys2Proof.Machine.execKeyProg v s
  | .extend v => Sys2Proof.Machine.execExtend v s
  | .hostRdWrite v => Sys2Proof.Machine.execHostRdWrite v s
  | .umbRdWrite v => Sys2Proof.Machine.execUmbRdWrite v s
  | .post v => Sys2Proof.Machine.execPost v s
  | .kick => Sys2Proof.Machine.execKick s
  | .wdog => Sys2Proof.Machine.execWdog s
  | .fatalRequest => Sys2Proof.Machine.execFatalRequest s
  | .umbraDoubleFault => Sys2Proof.Machine.execUmbraDoubleFault s
  | .fatalSrComplete trained => Sys2Proof.Machine.execFatalSrComplete trained s
  | .sramError item ue => Sys2Proof.Machine.execSramError item ue s
  | .refclkLnLoss q => Sys2Proof.Machine.execRefclkLnLoss q s
  | .refclkSysLoss => Sys2Proof.Machine.execRefclkSysLoss s
  | .illOp t => Sys2Proof.Machine.execIllOp t s
  | .ethLinkTraining p up => Sys2Proof.Machine.execEthLinkTraining p up s
  | .perstRelease => Sys2Proof.Machine.execPerstRelease s
  | .d3hot fn on => Sys2Proof.Machine.execD3hot fn on s

end Sys2Proof.Machine
end

