-- ==== Sys2Proof/Safety.lean ====
section
/-! DEFINITION. Safety.lean: what counts as a safe run: the sparse stores stay in their canonical form, so that equal machines
are equal data, and a blown fuse stays blown (R426). -/

namespace Sys2Proof.Machine

/-- The register stores are in canonical form: offsets rising, no listed register at its reset value. -/
def State.csrWf (s : State) : Bool := SMap.wf (fun o => (regInfo o).reset) s.csr
def State.pageWf (s : State) : Bool := SMap.wf (fun k => (pageInfo (k % 0x10000)).reset) s.page

/-- The memories on chip are in canonical form: core scratch, shared memory and wave buffers by word, instruction memory by
instruction, and the marks of uncorrectable errors. -/
def State.memWf (s : State) : Bool :=
  SMap.wf (fun _ => 0) s.mem && SMap.wf (fun _ => 0) s.imem && SMap.wf (fun _ => false) s.poison

/-- The MSI-X vectors are in canonical form. -/
def State.msixWf (s : State) : Bool := SMap.wf (fun _ => false) s.unmasked && SMap.wf (fun _ => false) s.pba && SMap.wf (fun _ => 0) s.vectors

/-- What stands behind the registers is in canonical form: threads, ports, tables of a quadrant, channels, coprocessors, rings,
semaphores, DRAM channels, extents, slices, cores, queue pairs, functions in D3hot. -/
def State.unitsWf (s : State) : Bool :=
  SMap.wf (fun _ => {}) s.threads && SMap.wf (fun _ => {}) s.ports && SMap.wf (fun _ => {}) s.prs &&
    SMap.wf (fun _ => {}) s.fwd && SMap.wf (fun _ => {}) s.dsp && SMap.wf (fun _ => {}) s.chans &&
    SMap.wf (fun _ => {}) s.units && SMap.wf (fun _ => {}) s.rings && SMap.wf (fun _ => {}) s.sems &&
    SMap.wf (fun _ => {}) s.dchans && SMap.wf (fun _ => {}) s.exts && SMap.wf (fun _ => {}) s.savedExts &&
    SMap.wf (fun _ => {}) s.qps && SMap.wf sliceReset s.slices && SMap.wf coreReset s.cores && SMap.wf (fun _ => false) s.d3

/-- DRAM lines are in canonical form, none listed that holds what it holds after its wipe; packets and outputs, of which each that there
is is listed, by rising key. -/
def State.listsWf (s : State) : Bool :=
  SMap.rises s.lines && (s.lines.all fun x => decide (x.2 ≠ s.wiped x.1)) && SMap.rises s.pkts && SMap.rises s.eouts

/-! The stores inside a store are in canonical form; those whose listing is itself the state (bucket levels, Shadow and census entries,
results of training) are listed by rising key. -/

def Thread.wf (x : Thread) : Bool := SMap.wf (fun _ => 0) x.regs && SMap.wf (fun _ => 0) x.banks && SMap.wf (fun _ => {}) x.outs
def Port.wf (x : Port) : Bool :=
  SMap.wf (fun _ => {}) x.lanes && SMap.wf (fun _ => 0) x.prbs && SMap.wf (fun _ => 0) x.cnt && SMap.wf (fun _ => 0) x.hi
def Rule.wf (x : Rule) : Bool := SMap.wf (fun _ => 0) x.vals && SMap.wf (fun _ => 0) x.msks
def Prs.wf (x : Prs) : Bool :=
  SMap.wf (fun _ => 0) x.steps && SMap.wf (fun _ => {}) x.rules && (x.rules.all fun r => r.2.wf) && SMap.rises x.buckets
def Dsp.wf (x : Dsp) : Bool := SMap.wf (fun _ => {}) x.slots && SMap.wf (fun _ => []) x.reqs
def CopUnit.wf (x : CopUnit) : Bool := SMap.wf (fun _ => {}) x.ctxs && x.ctxs.all fun c => SMap.wf (fun _ => 0) c.2.uregs
def DChan.wf (x : DChan) : Bool :=
  SMap.rises x.eyes && SMap.wf (fun _ => 0) x.refs && SMap.wf (fun _ => false) x.flush && SMap.wf (fun _ => 0) x.drift &&
    SMap.wf (fun _ => {}) x.shadow && x.shadow.all fun t => SMap.rises t.2.rows && SMap.rises t.2.census
def Boot.wf (x : Boot) : Bool :=
  SMap.wf (fun _ => 0) x.otp.keys && SMap.wf (fun _ => 0) x.meas && SMap.wf (fun _ => false) x.unsignedMark &&
    SMap.wf (fun _ => false) x.restoredMark && SMap.wf (fun _ => 0) x.staging
def State.innerWf (s : State) : Bool :=
  (s.threads.all fun x => x.2.wf) && (s.ports.all fun x => x.2.wf) && SMap.wf (fun _ => {}) s.epc.ports && (s.prs.all fun x => x.2.wf) &&
    (s.fwd.all fun x => SMap.wf (fun _ => {}) x.2.tab) && (s.dsp.all fun x => x.2.wf) && (s.units.all fun x => x.2.wf) &&
    (s.dchans.all fun x => x.2.wf) && (s.pkts.all fun x => SMap.wf (fun _ => 0) x.2.key) && s.boot.wf

/-- Every store of the machine is in canonical form. -/
structure State.Canon (s : State) : Prop where
  csr : s.csrWf = true
  page : s.pageWf = true
  mem : s.memWf = true
  msix : s.msixWf = true
  units : s.unitsWf = true
  lists : s.listsWf = true
  inner : s.innerWf = true

/-- No fuse of `a` that is blown is unblown in `b`, the security version has not gone down, a programmed key slot and, once the
device has left BLANK, its UDS are what they were (R426, R433, R434, R442). -/
def Otp.kept (a b : Otp) : Prop :=
  (∀ i, a.started.getLsbD i → b.started.getLsbD i) ∧ (∀ i, a.wiped.getLsbD i → b.wiped.getLsbD i) ∧
    (∀ i, a.revoked.getLsbD i → b.revoked.getLsbD i) ∧ (a.sigReq → b.sigReq) ∧ a.svn.toNat ≤ b.svn.toNat ∧
    (∀ i, SMap.get 0 a.keys i ≠ 0 → SMap.get 0 b.keys i = SMap.get 0 a.keys i) ∧ (a.started ≠ 0 → b.uds = a.uds)

end Sys2Proof.Machine
end

