-- ==== Sys2Proof/Certificates/Slice0/Obligations.lean ====
section
/-! DEFINITION. Obligations.lean: the statements for the provers, in the terms of `exec` and of the state. -/

set_option maxRecDepth 4096

open Sys2Proof Sys2Proof.Machine

namespace Sys2Proof.Spec

/-! ## Vocabulary of the Lumen statements -/

/-- Thread t issues the instruction word w, whose major opcode is op and whose minor code is m: the thread is ready, its fetch raises
nothing, the word is defined and no field of it raises ILL-FIELD (R196, R203, R213, R244). -/
structure Issues (s : State) (t op m : Nat) (w : Pair) : Prop where
  word : s.issue t op m = some w
  fields : fieldsOk w = true

/-- Register fields of a word: RD or REG, RA, RB. -/
abbrev rD (w : Pair) : Nat := ext w 21 17
abbrev rA (w : Pair) : Nat := ext w 16 12
abbrev rB (w : Pair) : Nat := ext w 11 7

/-- The instruction completes with the thread's registers and flags changed by f; nothing else of the machine changes. -/
def completes (s : State) (t : Nat) (f : Thread → Thread) : State := s.modThread t fun x => (f x).complete

/-- Z and N of a result of n bits: zero, and the top bit (R197). -/
def znOf {n : Nat} (x : Thread) (r : BitVec n) : Thread := { x with z := decide (r.toNat = 0), n := decide (2 ^ (n - 1) ≤ r.toNat) }
/-- The integer fits n bits signed. -/
def fits (n : Nat) (i : Int) : Bool := decide (-(2 ^ (n - 1) : Nat) ≤ i) && decide (i < (2 ^ (n - 1) : Nat))
/-- Flags of a + b + c: C is the carry out, V says that the signed sum does not fit (R197). -/
def addFlags {n : Nat} (x : Thread) (a b : BitVec n) (c : Nat) : Thread :=
  { znOf x (BitVec.ofNat n (a.toNat + b.toNat + c)) with
    c := decide (2 ^ n ≤ a.toNat + b.toNat + c), v := !fits n (a.toInt + b.toInt + c) }
/-- Flags of a − b − c: C is the borrow, V says that the signed difference does not fit (R197). -/
def subFlags {n : Nat} (x : Thread) (a b : BitVec n) (c : Nat) : Thread :=
  { znOf x (BitVec.ofInt n (a.toNat - b.toNat - c)) with
    c := decide (a.toNat < b.toNat + c), v := !fits n (a.toInt - b.toInt - c) }

/-- IMM of 12 bits, signed and unsigned. -/
def immS (w : Pair) : Word := (w.extractLsb' 0 12 : BitVec 12).signExtend 14
def immU (w : Pair) : Word := (w.extractLsb' 0 12 : BitVec 12).setWidth 14

/-- Bit i of a vector as R219 writes it. -/
def bitOf {n : Nat} (a : BitVec n) (i : Nat) : Bool := decide (a.toNat / 2 ^ i % 2 = 1)
/-- Result of a shift by k at width n: kind 0 SHL, 1 SHR, 2 SAR, 3 ROL (R219). -/
def shiftVal {n : Nat} (kind : Fin 4) (a : BitVec n) (k : Nat) : BitVec n :=
  match kind with
  | 0 => BitVec.ofNat n (a.toNat * 2 ^ k)
  | 1 => BitVec.ofNat n (a.toNat / 2 ^ k)
  | 2 => BitVec.ofInt n (a.toInt / 2 ^ k)
  | 3 => BitVec.ofNat n (a.toNat * 2 ^ (k % n) + a.toNat / 2 ^ (n - k % n))
/-- Carry of a shift by k (R219). -/
def shiftC {n : Nat} (kind : Fin 4) (a : BitVec n) (k : Nat) : Bool :=
  match kind with
  | 0 => decide (1 ≤ k ∧ k ≤ n) && bitOf a (n - k)
  | 1 => decide (1 ≤ k ∧ k ≤ n) && bitOf a (k - 1)
  | 2 => bitOf a (min k n - 1)
  | 3 => bitOf (shiftVal 3 a k) 0
/-- Flags of a shift: Z and N of the result, C the last bit out; with k = 0, C keeps its value. -/
def shiftFlags {n : Nat} (x : Thread) (kind : Fin 4) (a : BitVec n) (k : Nat) : Thread :=
  { znOf x (shiftVal kind a k) with c := if k = 0 then x.c else shiftC kind a k }

/-- Dibit i of a word (R4). -/
def dib (a : Word) (i : Nat) : BitVec 2 := a.extractLsb' (2 * i) 2
/-- Z and X are the dibit values 2 and 3. -/
def unk (d : BitVec 2) : Bool := decide (d = 2) || decide (d = 3)
/-- Table 8.8, Table 8.7: rows a, columns b in the order 0, 1, Z, X. -/
def wireTab (a b : BitVec 2) : BitVec 2 :=
  match a, b with
  | 0, 0 => 0 | 0, 1 => 3 | 0, 2 => 0 | 0, 3 => 3
  | 1, 0 => 3 | 1, 1 => 1 | 1, 2 => 1 | 1, 3 => 3
  | 2, 0 => 0 | 2, 1 => 1 | 2, 2 => 2 | 2, 3 => 3
  | 3, 0 => 3 | 3, 1 => 3 | 3, 2 => 3 | 3, 3 => 3
def and4Tab (a b : BitVec 2) : BitVec 2 := if a = 0 ∨ b = 0 then 0 else if a = 1 ∧ b = 1 then 1 else 3
def or4Tab (a b : BitVec 2) : BitVec 2 := if a = 1 ∨ b = 1 then 1 else if a = 0 ∧ b = 0 then 0 else 3
def wandTab (a b : BitVec 2) : BitVec 2 := if a = 2 then b else if b = 2 then a else and4Tab a b
def worTab (a b : BitVec 2) : BitVec 2 := if a = 2 then b else if b = 2 then a else or4Tab a b
def xor4Tab (a b : BitVec 2) : BitVec 2 := if unk a ∨ unk b then 3 else a ^^^ b
def not4Tab (a : BitVec 2) : BitVec 2 := if unk a then 3 else a ^^^ 1
/-- A dibit of value Z or X among the seven. -/
def anyUnk (a : Word) : Bool := (List.range 7).any fun i => unk (dib a i)

/-- The result r of a RES instruction goes to RD; Z is that of r, U is u, and u also sets TSTAT.US (R197, R225). -/
def resDone (s : State) (t : Nat) (w : Pair) (r : Word) (u : Bool) : State :=
  completes s t fun x => { x with z := decide (r.toNat = 0), u := u, us := x.us || u }.setR (rD w) r
/-- A RES instruction of two operands: each result dibit is f of the operands' dibits, and U says that one of them is Z or X. -/
def resTwo (s : State) (t : Nat) (w : Pair) (f : BitVec 2 → BitVec 2 → BitVec 2) (o : Out) : Prop :=
  ∃ r : Word, o = .next (resDone s t w r (anyUnk ((s.thread t).r (rA w)) || anyUnk ((s.thread t).r (rB w)))) ∧
    ∀ i, i < 7 → dib r i = f (dib ((s.thread t).r (rA w)) i) (dib ((s.thread t).r (rB w)) i)

/-- The views of RDF (Tables 7.8 to 7.10). -/
def rdfView (s : State) (t i : Nat) : Pair :=
  if i < 4 then s.reg (0x1400000 + 4 * i)
  else if i = 4 then BitVec.ofNat 28 (t % 8 + t * 2 ^ 3 + t / 8 * 2 ^ 13 + t / 128 * 2 ^ 20 + t / 256 * 2 ^ 23)
  else if i = 5 then BitVec.ofNat 28 (s.sliceOf t + (if s.system t then 0 else 2 ^ 6)
    + (if s.supervisor (s.sliceOf t) = some t then 2 ^ 7 else 0))
  else BitVec.ofNat 28 ((s.thread t).d + (s.thread t).spilled * 2 ^ 6)

/-- n as a pair of which only k bits count. -/
def bitsOf (l : List (Bool × Nat)) : Pair := BitVec.ofNat 28 ((l.map fun p => if p.1 then 2 ^ p.2 else 0).sum)
/-- Special register n of Table 7.6, numbers 0 to 16 (Table 7.5). -/
def srView (s : State) (t n : Nat) : Pair :=
  let x := s.thread t
  match n with
  | 0 => bitsOf [(x.z, 0), (x.n, 1), (x.c, 2), (x.v, 3), (x.u, 4)]
  | 1 => bitsOf [(x.us, 0), (x.lsusp, 1), (x.exc, 2), (!s.system t, 3)]
  | 2 => BitVec.ofNat 28 x.ecause.toNat
  | 3 => BitVec.ofNat 28 x.epcx.toNat
  | 4 => BitVec.ofNat 28 (x.einfo.toNat % 2 ^ 28)
  | 5 => BitVec.ofNat 28 (x.einfo.toNat / 2 ^ 28)
  | 6 => BitVec.ofNat 28 x.esFlags.toNat ||| bitsOf [(x.esUs, 5), (x.esLsusp, 6), (x.esRepv, 7), (x.esImp, 8)]
      ||| BitVec.ofNat 28 (x.edepth.toNat * 2 ^ 9)
  | 7 => BitVec.ofNat 28 x.erep.toNat
  | 8 => BitVec.ofNat 28 x.l0.start.toNat
  | 9 => BitVec.ofNat 28 x.l1.start.toNat
  | 10 => BitVec.ofNat 28 x.l2.start.toNat
  | 11 => BitVec.ofNat 28 x.l0.last.toNat
  | 12 => BitVec.ofNat 28 x.l1.last.toNat
  | 13 => BitVec.ofNat 28 x.l2.last.toNat
  | 14 => BitVec.ofNat 28 x.l0.count.toNat
  | 15 => BitVec.ofNat 28 x.l1.count.toNat
  | _ => BitVec.ofNat 28 x.l2.count.toNat
/-- Thread x after a write of v to special register n (Table 7.6); the read-only ones ignore it. -/
def srWrite (x : Thread) (n : Nat) (v : Pair) : Thread :=
  let a : BitVec 16 := v.extractLsb' 0 16
  match n with
  | 0 => { x with z := bitOf v 0, n := bitOf v 1, c := bitOf v 2, v := bitOf v 3, u := bitOf v 4, us := x.us || bitOf v 4 }
  | 1 => { x with us := bitOf v 0, lsusp := bitOf v 1 }
  | 3 => { x with epcx := a }
  | 6 => { x with esFlags := v.extractLsb' 0 5, esUs := bitOf v 5, esLsusp := bitOf v 6, esRepv := bitOf v 7 }
  | 7 => { x with erep := v.extractLsb' 0 14 }
  | 8 => { x with l0 := { x.l0 with start := a } }
  | 9 => { x with l1 := { x.l1 with start := a } }
  | 10 => { x with l2 := { x.l2 with start := a } }
  | 11 => { x with l0 := { x.l0 with last := a } }
  | 12 => { x with l1 := { x.l1 with last := a } }
  | 13 => { x with l2 := { x.l2 with last := a } }
  | 14 => { x with l0 := { x.l0 with count := a } }
  | 15 => { x with l1 := { x.l1 with count := a } }
  | 16 => { x with l2 := { x.l2 with count := a } }
  | _ => x
/-- Frame of XREG n, and the word of it: XREG0 to 7 are frame EDEPTH, XREG8 to 15 the group after it (R204). -/
abbrev xFrame (x : Thread) (n : Nat) : Nat := x.edepth.toNat + n / 8

end Sys2Proof.Spec
open Sys2Proof.Spec

/-- R187: a window holds 24 registers of their own: a write to one of them changes no other, and banks are apart. -/
def Sys2Proof.Spec.RegisterWriteChangesOneRegister : Prop :=
  ∀ (x : Thread) (n m b : Nat) (v : Word), n < 24 → m < 24 →
    (x.setR n v).r m = (if m = n then v else x.r m) ∧ (x.setR n v).bank b = x.bank b ∧
    (n % 2 = 0 → ∀ p : Pair, (x.setRp n p).rp n = p ∧
      (m ≠ n → m ≠ n + 1 → (x.setRp n p).r m = x.r m) ∧ (x.setRp n p).bank b = x.bank b)

/-- R197, R218, R220: additions and subtractions of words and pairs. -/
def Sys2Proof.Spec.AddAndSubtractWriteResultAndFlags : Prop :=
  ∀ (t : Fin 1024) (s : State) (w : Pair),
    (Issues s t 1 0 w → exec (.add t) s = .next (completes s t fun x =>
      (addFlags x (x.r (rA w)) (x.r (rB w)) 0).setR (rD w) (BitVec.ofNat 14 ((x.r (rA w)).toNat + (x.r (rB w)).toNat)))) ∧
    (Issues s t 1 1 w → exec (.addc t) s = .next (completes s t fun x =>
      (addFlags x (x.r (rA w)) (x.r (rB w)) (b2n x.c)).setR (rD w)
        (BitVec.ofNat 14 ((x.r (rA w)).toNat + (x.r (rB w)).toNat + b2n x.c)))) ∧
    (Issues s t 1 2 w → exec (.sub t) s = .next (completes s t fun x =>
      (subFlags x (x.r (rA w)) (x.r (rB w)) 0).setR (rD w) (BitVec.ofInt 14 ((x.r (rA w)).toNat - (x.r (rB w)).toNat)))) ∧
    (Issues s t 1 3 w → exec (.subc t) s = .next (completes s t fun x =>
      (subFlags x (x.r (rA w)) (x.r (rB w)) (b2n x.c)).setR (rD w)
        (BitVec.ofInt 14 ((x.r (rA w)).toNat - (x.r (rB w)).toNat - b2n x.c)))) ∧
    (Issues s t 1 12 w → exec (.cmp t) s = .next (completes s t fun x => subFlags x (x.r (rA w)) (x.r (rB w)) 0)) ∧
    (Issues s t 2 0 w → exec (.addp t) s = .next (completes s t fun x =>
      (addFlags x (x.rp (rA w)) (x.rp (rB w)) 0).setRp (rD w)
        (BitVec.ofNat 28 ((x.rp (rA w)).toNat + (x.rp (rB w)).toNat)))) ∧
    (Issues s t 2 2 w → exec (.subp t) s = .next (completes s t fun x =>
      (subFlags x (x.rp (rA w)) (x.rp (rB w)) 0).setRp (rD w)
        (BitVec.ofInt 28 ((x.rp (rA w)).toNat - (x.rp (rB w)).toNat)))) ∧
    (Issues s t 2 12 w → exec (.cmpp t) s = .next (completes s t fun x => subFlags x (x.rp (rA w)) (x.rp (rB w)) 0)) ∧
    (Issues s t 4 0 w → exec (.addi t) s = .next (completes s t fun x =>
      (addFlags x (x.r (rA w)) (immS w) 0).setR (rD w) (BitVec.ofNat 14 ((x.r (rA w)).toNat + (immS w).toNat)))) ∧
    (Issues s t 8 0 w → exec (.cmpi t) s = .next (completes s t fun x => subFlags x (x.r (rA w)) (immS w) 0))

/-- R218, R220: logic and TST write Z and N of their result and no other flag. -/
def Sys2Proof.Spec.LogicWritesResultAndZN : Prop :=
  ∀ (t : Fin 1024) (s : State) (w : Pair),
    (Issues s t 1 4 w → exec (.and t) s = .next (completes s t fun x =>
      (znOf x (x.r (rA w) &&& x.r (rB w))).setR (rD w) (x.r (rA w) &&& x.r (rB w)))) ∧
    (Issues s t 1 5 w → exec (.or t) s = .next (completes s t fun x =>
      (znOf x (x.r (rA w) ||| x.r (rB w))).setR (rD w) (x.r (rA w) ||| x.r (rB w)))) ∧
    (Issues s t 1 6 w → exec (.xor t) s = .next (completes s t fun x =>
      (znOf x (x.r (rA w) ^^^ x.r (rB w))).setR (rD w) (x.r (rA w) ^^^ x.r (rB w)))) ∧
    (Issues s t 1 7 w → exec (.andn t) s = .next (completes s t fun x =>
      (znOf x (x.r (rA w) &&& ~~~x.r (rB w))).setR (rD w) (x.r (rA w) &&& ~~~x.r (rB w)))) ∧
    (Issues s t 1 13 w → exec (.tst t) s = .next (completes s t fun x => znOf x (x.r (rA w) &&& x.r (rB w)))) ∧
    (Issues s t 2 4 w → exec (.andp t) s = .next (completes s t fun x =>
      (znOf x (x.rp (rA w) &&& x.rp (rB w))).setRp (rD w) (x.rp (rA w) &&& x.rp (rB w)))) ∧
    (Issues s t 2 5 w → exec (.orp t) s = .next (completes s t fun x =>
      (znOf x (x.rp (rA w) ||| x.rp (rB w))).setRp (rD w) (x.rp (rA w) ||| x.rp (rB w)))) ∧
    (Issues s t 2 6 w → exec (.xorp t) s = .next (completes s t fun x =>
      (znOf x (x.rp (rA w) ^^^ x.rp (rB w))).setRp (rD w) (x.rp (rA w) ^^^ x.rp (rB w)))) ∧
    (Issues s t 5 0 w → exec (.andi t) s = .next (completes s t fun x =>
      (znOf x (x.r (rA w) &&& immU w)).setR (rD w) (x.r (rA w) &&& immU w))) ∧
    (Issues s t 6 0 w → exec (.ori t) s = .next (completes s t fun x =>
      (znOf x (x.r (rA w) ||| immU w)).setR (rD w) (x.r (rA w) ||| immU w))) ∧
    (Issues s t 7 0 w → exec (.xori t) s = .next (completes s t fun x =>
      (znOf x (x.r (rA w) ^^^ immU w)).setR (rD w) (x.r (rA w) ^^^ immU w)))

/-- R219, R220: shifts by rb[4:0], and SHI by N on words and pairs. -/
def Obligations.ShiftsWriteResultAndZNC : Prop :=
  ∀ (t : Fin 1024) (s : State) (w : Pair),
    let word (k : Fin 4) := completes s t fun x =>
      (shiftFlags x k (x.r (rA w)) ((x.r (rB w)).toNat % 32)).setR (rD w) (shiftVal k (x.r (rA w)) ((x.r (rB w)).toNat % 32))
    let pair (k : Fin 4) := completes s t fun x =>
      (shiftFlags x k (x.rp (rA w)) ((x.rp (rB w)).toNat % 32)).setRp (rD w) (shiftVal k (x.rp (rA w)) ((x.rp (rB w)).toNat % 32))
    (Issues s t 1 8 w → exec (.shl t) s = .next (word 0)) ∧ (Issues s t 1 9 w → exec (.shr t) s = .next (word 1)) ∧
    (Issues s t 1 10 w → exec (.sar t) s = .next (word 2)) ∧ (Issues s t 1 11 w → exec (.rol t) s = .next (word 3)) ∧
    (Issues s t 2 8 w → exec (.shlp t) s = .next (pair 0)) ∧ (Issues s t 2 9 w → exec (.shrp t) s = .next (pair 1)) ∧
    (Issues s t 2 10 w → exec (.sarp t) s = .next (pair 2)) ∧ (Issues s t 2 11 w → exec (.rolp t) s = .next (pair 3)) ∧
    (Issues s t 9 0 w → ∀ k : Fin 4,
      (ext w 11 9 = k.val → exec (.shi t) s = .next (completes s t fun x =>
        (shiftFlags x k (x.r (rA w)) (ext w 8 4)).setR (rD w) (shiftVal k (x.r (rA w)) (ext w 8 4)))) ∧
      (ext w 11 9 = k.val + 4 → exec (.shi t) s = .next (completes s t fun x =>
        (shiftFlags x k (x.rp (rA w)) (ext w 8 4)).setRp (rD w) (shiftVal k (x.rp (rA w)) (ext w 8 4)))))

/-- R12, R218, R221, R227: the moves between registers, banks and constants write one destination and no flag. -/
def Sys2Proof.Spec.MovesWriteOneDestination : Prop :=
  ∀ (t : Fin 1024) (s : State) (w : Pair),
    (Issues s t 3 0 w → exec (.nop t) s = .next (completes s t id)) ∧
    (Issues s t 1 14 w → exec (.mov t) s = .next (completes s t fun x => x.setR (rD w) (x.r (rA w)))) ∧
    (Issues s t 2 14 w → exec (.movp t) s = .next (completes s t fun x =>
      (x.setR (rD w) (x.r (rA w))).setR (rD w + 1) (x.r (rA w + 1)))) ∧
    (Issues s t 10 0 w → exec (.movi t) s = .next (completes s t fun x => x.setR (rD w) (BitVec.ofNat 14 (ext w 16 3)))) ∧
    (Issues s t 0x19 0 w → exec (.mtb t) s = .next (completes s t fun x =>
      x.setBank (ext w 21 19) (BitVec.ofNat 28 ((x.r (rA w)).toNat + (x.r (rA w + 1)).toNat * 2 ^ 14)))) ∧
    (Issues s t 0x1A 0 w → exec (.mfb t) s = .next (completes s t fun x =>
      (x.setR (rD w) (BitVec.ofNat 14 ((x.bank (ext w 16 14)).toNat))).setR (rD w + 1)
        (BitVec.ofNat 14 ((x.bank (ext w 16 14)).toNat / 2 ^ 14))))

/-- R222 to R224: product, bit fields, leading zeros and the dibit permutation. -/
def Sys2Proof.Spec.MultiplyAndBitFieldsWriteResult : Prop :=
  ∀ (t : Fin 1024) (s : State) (w : Pair),
    let mask : Word := BitVec.ofNat 14 (2 ^ (ext w 7 4 + 1) - 1)
    (Issues s t 11 0 w → exec (.mul t) s = .next (completes s t fun x =>
      let p : Int := if bitOf w 6 then (x.r (rA w)).toInt * (x.r (rB w)).toInt else ((x.r (rA w)).toNat * (x.r (rB w)).toNat : Nat)
      (znOf x (BitVec.ofInt 28 p)).setRp (rD w) (BitVec.ofInt 28 p))) ∧
    (Issues s t 12 0 w → exec (.bfx t) s = .next (completes s t fun x =>
      let r := (x.r (rA w) >>> ext w 11 8) &&& mask
      let r := if bitOf w 3 ∧ bitOf r (ext w 7 4) then r ||| ~~~mask else r
      (znOf x r).setR (rD w) r)) ∧
    (Issues s t 13 0 w → exec (.bfi t) s = .next (completes s t fun x =>
      x.setR (rD w) ((x.r (rD w) &&& ~~~(mask <<< ext w 11 8)) ||| ((x.r (rA w) &&& mask) <<< ext w 11 8)))) ∧
    (Issues s t 14 0 w → exec (.clz t) s = .next (completes s t fun x =>
      let a := if bitOf w 11 then (x.rp (rA w)).toNat else (x.r (rA w)).toNat
      let k := (if bitOf w 11 then 28 else 14) - (if a = 0 then 0 else Nat.log2 a + 1)
      { x with z := decide (k = 0) }.setR (rD w) (BitVec.ofNat 14 k))) ∧
    (Issues s t 15 0 w → ∃ r : Word, exec (.perm t) s = .next (completes s t fun x => x.setR (rD w) r) ∧
      ∀ i, i < 7 → dib r i =
        let sel := ((s.thread t).rp (rB w)).toNat / 2 ^ (3 * i) % 8
        if sel = 7 then 3 else dib ((s.thread t).r (rA w)) sel)

/-- (a) R12, R218, R221, R227: the moves between registers, banks and constants write one destination and no flag. (b) R222 to
R224: product, bit fields, leading zeros and the dibit permutation. -/
def Obligations.MovesProductsAndBitFields : Prop :=
  Sys2Proof.Spec.MovesWriteOneDestination ∧
  Sys2Proof.Spec.MultiplyAndBitFieldsWriteResult

/-- R4, R197, R225: each RES function, dibit by dibit, with Z and U. -/
def Sys2Proof.Spec.FourStateFunctionsFollowTheirTables : Prop :=
  ∀ (t : Fin 1024) (s : State) (w : Pair),
    let a := (s.thread t).r (rA w)
    (Issues s t 16 0 w → resTwo s t w wireTab (exec (.wire t) s)) ∧ (Issues s t 16 1 w → resTwo s t w wandTab (exec (.wand t) s)) ∧
    (Issues s t 16 2 w → resTwo s t w worTab (exec (.wor t) s)) ∧ (Issues s t 16 3 w → resTwo s t w and4Tab (exec (.and4 t) s)) ∧
    (Issues s t 16 4 w → resTwo s t w or4Tab (exec (.or4 t) s)) ∧ (Issues s t 16 5 w → resTwo s t w xor4Tab (exec (.xor4 t) s)) ∧
    (Issues s t 16 6 w → ∃ r : Word, exec (.not4 t) s = .next (resDone s t w r (anyUnk a)) ∧
      ∀ i, i < 7 → dib r i = not4Tab (dib a i)) ∧
    (Issues s t 16 7 w → ∃ r : Word, exec (.to2 t) s = .next (resDone s t w r (anyUnk a)) ∧
      ∀ i, i < 14 → bitOf r i = (decide (i < 7) && decide (dib a i = 1))) ∧
    (Issues s t 16 8 w → ∃ r : Word, exec (.from2 t) s = .next (resDone s t w r false) ∧
      ∀ i, i < 7 → dib r i = if bitOf a i then 1 else 0)

/-- (a) R197, R218, R220: additions and subtractions of words and pairs. (b) R218, R220: logic and TST write Z and N of their
result and no other flag. (c) R4, R197, R225: each RES function, dibit by dibit, with Z and U. -/
def Obligations.ArithmeticLogicAndFourState : Prop :=
  Sys2Proof.Spec.AddAndSubtractWriteResultAndFlags ∧
  Sys2Proof.Spec.LogicWritesResultAndZN ∧
  Sys2Proof.Spec.FourStateFunctionsFollowTheirTables

/-- R200, R204, R210: RDF reads a view; MFS and MTS read and write a special register, an XREG in its register or its save slot; an
XREG outside a handler raises ILL-COMBO. -/
def Sys2Proof.Spec.SpecialRegistersAreReadAndWritten : Prop :=
  ∀ (t : Fin 1024) (s : State) (w : Pair),
    let x := s.thread t
    let n := ext w 16 11
    let k := n - 32
    s.Canon →
    (Issues s t 0x31 0 w → exec (.rdf t) s = .next (completes s t fun x => x.setRp (rD w) (rdfView s t (ext w 16 13)))) ∧
    (Issues s t 0x32 0 w →
      (n < 32 → exec (.mfs t) s = .next (completes s t fun x => x.setRp (rD w) (srView s t n))) ∧
      (32 ≤ n → x.exc = true → exec (.mfs t) s = .next (completes s t fun x => x.setRp (rD w)
        (BitVec.ofNat 28 (if xFrame x k < x.spilled then (s.getWord (saveAddr t (xFrame x k) (k % 8))).toNat
          else (SMap.get 0 x.regs (groupKey (xFrame x k % 11) (k % 8))).toNat)))) ∧
      (32 ≤ n → x.exc = false → exec (.mfs t) s = .next (s.excEnter t 3 (w.setWidth 42) x.pc false))) ∧
    (Issues s t 0x33 0 w →
      (n < 32 → exec (.mts t) s = .next (completes s t fun x => srWrite x n (x.rp (rD w)))) ∧
      (32 ≤ n → x.exc = true → xFrame x k < x.spilled →
        exec (.mts t) s = .next (completes (s.putWord (saveAddr t (xFrame x k) (k % 8)) (x.r (rD w))) t id)) ∧
      (32 ≤ n → x.exc = true → x.spilled ≤ xFrame x k → exec (.mts t) s = .next (completes s t fun x =>
        { x with regs := SMap.set 0 x.regs (groupKey (xFrame x k % 11) (k % 8)) (x.r (rD w)) })) ∧
      (32 ≤ n → x.exc = false → exec (.mts t) s = .next (s.excEnter t 3 (w.setWidth 42) x.pc false)))

/-- (a) R187: a window holds 24 registers of their own: a write to one of them changes no other, and banks are apart. (b) R200,
R204, R210: RDF reads a view; MFS and MTS read and write a special register, an XREG in its register or its save slot; an XREG
outside a handler raises ILL-COMBO. -/
def Obligations.RegistersAndSpecialRegisters : Prop :=
  Sys2Proof.Spec.RegisterWriteChangesOneRegister ∧
  Sys2Proof.Spec.SpecialRegistersAreReadAndWritten

namespace Sys2Proof.Spec

/-! ## Control -/

/-- The thread transfers control to pc (R207): the loop levels do not act. -/
def jumps (s : State) (t : Nat) (pc : BitVec 16) : State := s.modThread t fun x => x.jump pc
/-- A precise exception of the instruction w at the pc, whose EINFO is its 28 bits. -/
def trapsWith (s : State) (t cause : Nat) (w : Pair) : State := s.excEnter t cause (w.setWidth 42) (s.thread t).pc false
/-- A precise exception with a number as EINFO. -/
def trapsAt (s : State) (t cause info : Nat) : State := s.excEnter t cause (BitVec.ofNat 42 info) (s.thread t).pc false

/-- Table 7.4: the even codes; an odd code is the even one below it, negated. -/
def condHolds (x : Thread) (c : Nat) : Bool :=
  let even := match c / 2 with
    | 0 => x.z | 1 => x.c | 2 => x.c || x.z | 3 => x.n != x.v | 4 => x.z || (x.n != x.v) | 5 => x.n | 6 => x.v | _ => x.u
  if c % 2 = 1 then !even else even

/-- Flags as bits, in FLAGS order. -/
def flagBits (x : Thread) : Nat := b2n x.z + 2 * b2n x.n + 4 * b2n x.c + 8 * b2n x.v + 16 * b2n x.u

/-- Word i of the group that frame f occupies in the register file. -/
def frameReg (x : Thread) (f i : Nat) : Word := SMap.get 0 x.regs (8 + 8 * (f % 11) + i)
/-- The thread state in which the loop test happens: a repetition is over and the thread runs. -/
def done1 (x : Thread) : Thread := { x with rep := none, st := .run, blk := .none }
/-- Loop level acts at the pc (R207). -/
def acts (x : Thread) (l : Loop) : Bool := decide (l.count ≠ 0) && decide (l.last = x.pc)

/-- Instructions that may not follow REP (R209): LOOP, MTS of a loop register, a transfer of control, TASK, DONE or REP. -/
def repBars (w : Pair) : Bool :=
  [0x1C, 0x1D, 0x1E, 0x1F, 0x20, 0x21, 0x22, 0x23, 0x24, 0x25, 0x2F].contains (ext w 27 22) ||
    (decide (ext w 27 22 = 0x33) && decide (8 ≤ ext w 16 11 ∧ ext w 16 11 ≤ 16))

end Sys2Proof.Spec

/-- R207, R208: what follows the completion of an instruction that transfers no control: the next repetition, the loop-back of the
highest level that acts, or the next address. -/
def Sys2Proof.Spec.CompletionCountsRepetitionsAndLoops : Prop :=
  ∀ (s : State) (t : Nat), let x := s.thread t
    let y := (s.complete t).thread t
    x.stepping = false → x.frz = false →
    (∀ n : Word, x.rep = some n → 1 < n.toNat → y = { x with rep := some (n - 1), st := .run, blk := .none }) ∧
    ((∀ n : Word, x.rep = some n → n.toNat ≤ 1) →
      let one (l : Loop) : Bool := decide (l.count = 1)
      let out (l : Loop) : Loop := { l with count := 0 }
      let back (l : Loop) : Loop := { l with count := l.count - 1 }
      (x.lsusp = true → y = { done1 x with pc := x.pc + 1 }) ∧
      (x.lsusp = false →
        (acts x x.l2 = true → one x.l2 = false → y = { done1 x with l2 := back x.l2, pc := x.l2.start }) ∧
        ((acts x x.l2 = false ∨ one x.l2 = true) →
          let l2 := if acts x x.l2 then out x.l2 else x.l2
          (acts x x.l1 = true → one x.l1 = false → y = { done1 x with l2 := l2, l1 := back x.l1, pc := x.l1.start }) ∧
          ((acts x x.l1 = false ∨ one x.l1 = true) →
            let l1 := if acts x x.l1 then out x.l1 else x.l1
            (acts x x.l0 = true → one x.l0 = false →
              y = { done1 x with l2 := l2, l1 := l1, l0 := back x.l0, pc := x.l0.start }) ∧
            ((acts x x.l0 = false ∨ one x.l0 = true) →
              y = { done1 x with l2 := l2, l1 := l1, l0 := if acts x x.l0 then out x.l0 else x.l0, pc := x.pc + 1 })))))

/-- R198, R228: conditional and unconditional branches, and JR. -/
def Sys2Proof.Spec.BranchesGoToTheirTargets : Prop :=
  ∀ (t : Fin 1024) (s : State) (w : Pair),
    let x := s.thread t
    let target := BitVec.ofNat 16 (ext w 15 0)
    (Issues s t 0x1C 0 w → exec (.bcc t) s = .next (if condHolds x (ext w 21 18) then jumps s t target else completes s t id)) ∧
    (Issues s t 0x1D 0 w → exec (.bra t) s = .next (jumps s t target)) ∧
    (Issues s t 0x1F 0 w → exec (.jr t) s = .next (jumps s t (BitVec.ofNat 16 (x.rp (rA w)).toNat)))

/-- R188 to R190: CALL and CALLR link in w14:w15, advance the window and spill the oldest frame when the register file is full; at
depth 39 or above they raise FRAME-LIMIT. -/
def Sys2Proof.Spec.CallsLinkAndAdvanceTheWindow : Prop :=
  ∀ (t : Fin 1024) (s : State) (w : Pair) (c : Instr) (target : BitVec 16),
    let x := s.thread t
    (Issues s t 0x1E 0 w ∧ c = .call t ∧ target = BitVec.ofNat 16 (ext w 15 0)) ∨
      (Issues s t 0x1F 1 w ∧ c = .callr t ∧ target = BitVec.ofNat 16 (x.rp (rA w)).toNat) →
    (39 ≤ x.d → exec c s = .next (trapsAt s t 0xB x.d)) ∧
    (x.d < 39 → ∃ s' : State, exec c s = .next s' ∧ s' = { s with threads := s'.threads, mem := s'.mem, poison := s'.poison } ∧
      let y := s'.thread t
      let spills := x.spilled + 9 = x.d
      y.pc = target ∧ y.d = x.d + 1 ∧ y.rp 14 = BitVec.ofNat 28 ((x.pc.toNat + 1) % 2 ^ 16) ∧
      (∀ i, i < 6 → y.r (8 + i) = x.r (16 + i)) ∧ (∀ i, i < 8 → y.r i = x.r i) ∧
      y.banks = x.banks ∧ flagBits y = flagBits x ∧
      y.spilled = (if spills then x.spilled + 1 else x.spilled) ∧
      (spills → ∀ i, i < 8 → s'.getWord (saveAddr t (x.d - 9) i) = frameReg x (x.d - 9) i) ∧
      (∀ a, (spills → ∀ i, i < 8 → a ≠ saveAddr t (x.d - 9) i) → s'.getWord a = s.getWord a) ∧
      ∀ u, u ≠ t.val → s'.thread u = s.thread u)

/-- R188, R189: RET goes to the address in w6:w7 and moves the window back, filling a frame from its save slot; FRAME-BASE at depth
0 and at the base of a handler. -/
def Sys2Proof.Spec.RetMovesTheWindowBack : Prop :=
  ∀ (t : Fin 1024) (s : State) (w : Pair), Issues s t 0x20 0 w →
    let x := s.thread t
    let base := x.d = 0 ∨ (x.exc = true ∧ x.d ≤ x.edepth.toNat + 2)
    (base → exec (.ret t) s = .next (trapsAt s t 0xC x.d)) ∧
    (¬base → ∃ s' : State, exec (.ret t) s = .next s' ∧ s' = { s with threads := s'.threads } ∧
      let y := s'.thread t
      y.pc = BitVec.ofNat 16 ((x.r 14).toNat + (x.r 15).toNat * 2 ^ 14) ∧ y.d + 1 = x.d ∧
      (∀ i, i < 8 → y.r (16 + i) = x.r (8 + i)) ∧ (∀ i, i < 8 → y.r i = x.r i) ∧
      (∀ i, i < 8 → y.r (8 + i) = if x.spilled = x.d then s.getWord (saveAddr t (x.d - 1) i) else frameReg x (x.d - 1) i) ∧
      y.spilled = (if x.spilled = x.d then x.d - 1 else x.spilled) ∧
      y.banks = x.banks ∧ flagBits y = flagBits x ∧ ∀ u, u ≠ t.val → s'.thread u = s.thread u)

/-- R203, R205, R208: ERET ends a handler; outside one, or at another depth, it raises ILL-COMBO; it waits for earlier stores. -/
def Sys2Proof.Spec.EretRestoresTheInterruptedContext : Prop :=
  ∀ (t : Fin 1024) (s : State) (w : Pair), Issues s t 0x21 0 w →
    let x := s.thread t
    (x.stores ≠ [] → exec (.eret t) s = .next s) ∧
    (x.stores = [] → (x.exc = false ∨ x.d ≠ x.edepth.toNat + 2) → exec (.eret t) s = .next (trapsWith s t 3 w)) ∧
    (x.stores = [] → x.exc = true → x.d = x.edepth.toNat + 2 →
      ∃ s' : State, exec (.eret t) s = .next s' ∧ s' = { s with threads := s'.threads } ∧
      let y := s'.thread t
      flagBits y = x.esFlags.toNat ∧ y.us = x.esUs ∧ y.lsusp = x.esLsusp ∧ y.exc = false ∧ y.d = x.edepth.toNat ∧
      (x.esRepv = false → y.rep = none ∧ y.pc = x.epcx) ∧
      (x.esRepv = true → x.erep ≠ 0 → y.rep = some x.erep ∧ y.pc = x.epcx) ∧
      (x.esRepv = true → x.erep = 0 → y.rep = none ∧ y.pc = x.epcx + 1) ∧
      (∀ i, i < 8 → y.r i = x.r i) ∧
      (∀ i, i < 8 → y.r (8 + i) = if x.spilled = x.d ∨ x.spilled + 1 = x.d then s.getWord (saveAddr t (x.d - 2) i)
        else frameReg x (x.d - 2) i) ∧
      (∀ i, i < 8 → y.r (16 + i) = if x.spilled = x.d then s.getWord (saveAddr t (x.d - 1) i) else frameReg x (x.d - 1) i) ∧
      y.banks = x.banks ∧ ∀ u, u ≠ t.val → s'.thread u = s.thread u)

/-- (a) R198, R228: conditional and unconditional branches, and JR. (b) R188 to R190: CALL and CALLR link in w14:w15, advance
the window and spill the oldest frame when the register file is full; at depth 39 or above they raise FRAME-LIMIT. (c) R188,
R189: RET goes to the address in w6:w7 and moves the window back, filling a frame from its save slot; FRAME-BASE at depth 0 and
at the base of a handler. (d) R203, R205, R208: ERET ends a handler; outside one, or at another depth, it raises ILL-COMBO; it
waits for earlier stores. -/
def Obligations.BranchesCallsAndReturns : Prop :=
  Sys2Proof.Spec.BranchesGoToTheirTargets ∧
  Sys2Proof.Spec.CallsLinkAndAdvanceTheWindow ∧
  Sys2Proof.Spec.RetMovesTheWindowBack ∧
  Sys2Proof.Spec.EretRestoresTheInterruptedContext

/-- R208, R209, R229, R230: LOOP sets its level or jumps past the body; REP checks the instruction that follows, and repeats or skips
it. -/
def Sys2Proof.Spec.LoopAndRepSetUpRepetition : Prop :=
  ∀ (t : Fin 1024) (s : State) (w : Pair), s.Canon →
    let x := s.thread t
    (Issues s t 0x22 0 w →
      let count : BitVec 16 := BitVec.ofNat 16 (if bitOf w 19 then ext w 18 9 else (x.r (ext w 18 14)).toNat)
      let last : BitVec 16 := x.pc + BitVec.ofNat 16 (ext w 8 0 + 1)
      let lp : Loop := { start := x.pc + 1, last := last, count := count }
      let put (y : Thread) : Thread := match ext w 21 20 with
        | 0 => { y with l0 := lp }
        | 1 => { y with l1 := lp }
        | _ => { y with l2 := lp }
      (count ≠ 0 → exec (.loop t) s = .next (completes s t put)) ∧
      (count = 0 → exec (.loop t) s = .next (s.modThread t fun y => (put y).jump (last + 1)))) ∧
    (Issues s t 0x23 0 w →
      let c := clusterOf t
      let na : BitVec 16 := x.pc + 1
      let nw := s.instrAt c na.toNat
      let seen := s.fetchOpenAt t na.toNat = true ∧ s.poisoned (imemPoison c na.toNat) = false
      let count : Word := if bitOf w 21 then BitVec.ofNat 14 (ext w 20 7) else x.r (ext w 20 16)
      let ends := acts x x.l0 = true ∨ acts x x.l1 = true ∨ acts x x.l2 = true
      (seen → defined nw = false → exec (.rep t) s = .next (trapsWith s t 1 nw)) ∧
      (seen → defined nw = true → fieldsOk nw = false → exec (.rep t) s = .next (trapsWith s t 2 nw)) ∧
      (seen → defined nw = true → fieldsOk nw = true → (repBars nw = true ∨ ends) → exec (.rep t) s = .next (trapsWith s t 3 w)) ∧
      (¬seen → ends → exec (.rep t) s = .next (trapsWith s t 3 w)) ∧
      ((seen → defined nw = true ∧ fieldsOk nw = true ∧ repBars nw = false) → ¬ends →
        (count ≠ 0 → exec (.rep t) s = .next (s.modThread t fun y => { y with rep := some count, pc := na })) ∧
        (count = 0 → exec (.rep t) s = .next (s.modThread t fun y => (y.after na).stepDone))))

/-- (a) R207, R208: what follows the completion of an instruction that transfers no control: the next repetition, the loop-back
of the highest level that acts, or the next address. (b) R208, R209, R229, R230: LOOP sets its level or jumps past the body; REP
checks the instruction that follows, and repeats or skips it. -/
def Obligations.RepetitionsAndLoops : Prop :=
  Sys2Proof.Spec.CompletionCountsRepetitionsAndLoops ∧
  Sys2Proof.Spec.LoopAndRepSetUpRepetition

/-- R202, R204: what taking an exception does, on a thread that runs no handler. -/
def Sys2Proof.Spec.ExceptionEntrySavesTheContext : Prop :=
  ∀ (t : Fin 1024) (s : State) (cause : Nat) (info : BitVec 42) (pc : BitVec 16) (imp : Bool),
    let x := s.thread t
    let s' := s.excEnter t cause info pc imp
    let y := s'.thread t
    cause < 64 → x.exc = false →
    y.ecause.toNat = cause ∧ y.einfo = info ∧ y.epcx = pc ∧ y.esFlags.toNat = flagBits x ∧ y.esUs = x.us ∧
    y.esLsusp = x.lsusp ∧ y.esRepv = x.rep.isSome ∧ (∀ n : Word, x.rep = some n → y.erep = n) ∧ y.esImp = imp ∧
    y.edepth.toNat = x.d % 64 ∧ y.exc = true ∧ y.lsusp = true ∧ y.rep = none ∧ y.await = none ∧ y.d = x.d + 2 ∧
    y.pc = s.ibase (s.sliceOf t) (clusterOf t) - 32 + BitVec.ofNat 16 cause ∧
    flagBits y = flagBits x ∧ y.regs = x.regs ∧ y.banks = x.banks ∧ y.l0 = x.l0 ∧ y.l1 = x.l1 ∧ y.l2 = x.l2 ∧
    y.spilled = x.spilled + (if x.spilled + 9 = x.d then 2 else if x.spilled + 8 = x.d then 1 else 0) ∧
    (∀ f i, x.spilled ≤ f → f < y.spilled → i < 8 → s'.getWord (saveAddr t f i) = frameReg x f i) ∧
    (∀ a, (∀ f i, x.spilled ≤ f → f < y.spilled → i < 8 → a ≠ saveAddr t f i) → s'.getWord a = s.getWord a) ∧
    s' = { s with threads := s'.threads, mem := s'.mem, poison := s'.poison } ∧ ∀ u, u ≠ t.val → s'.thread u = s.thread u

/-- R12, R196, R206, R213: an instruction that cannot be decoded or fetched raises its exception; inside a handler it is a double
fault, which leaves the thread FAULTED with its task and sets FN_EVENT.FAULT of the function. -/
def Sys2Proof.Spec.UndefinedInstructionTrapsAndDoubleFaults : Prop :=
  ∀ (t : Fin 1024) (s : State), s.canIssue t = true →
    let x := s.thread t
    let bad := s.poisoned (imemPoison (clusterOf t) x.pc.toNat)
    let w := s.instrAt (clusterOf t) x.pc.toNat
    let raise (cause : Nat) (info : BitVec 42) : Prop := exec (.illOp t) s = .next (s.excEnter t cause info x.pc false) ∧
      (x.exc = true → ∃ s' : State, exec (.illOp t) s = .next s' ∧
        s'.thread t = { x with st := .faulted, blk := .none, await := none, rep := none, stepping := false } ∧
        bit (s'.pageReg (s.sliceOf t) 0x2004) 2 = true ∧ s'.mem = s.mem ∧ ∀ u, u ≠ t.val → s'.thread u = s.thread u)
    (s.fetchOpen t = false → raise 4 (x.pc.setWidth 42)) ∧
    (s.fetchOpen t = true → bad = true → raise 8 (x.pc.setWidth 42)) ∧
    (s.fetchOpen t = true → bad = false → defined w = false → raise 1 (w.setWidth 42))

namespace Sys2Proof.Spec

/-! ## Memory accesses of threads -/

/-- Table 1.6: the populated words of the core scratch region, the wave buffers, cluster shared memory, the CSR window, and the
own-core window. -/
def inScratch (a : Nat) : Bool := decide (0x3FC00000000 ≤ a ∧ a < 0x3FC00800000 ∧ a % 0x10000 < 0x4000)
def inWave (a : Nat) : Bool := decide (0x3FD00000000 ≤ a ∧ a < 0x3FD40000000 ∧ a % 0x10000000 < 0x400000)
def inShared (a : Nat) : Bool := decide (0x3FE00000000 ≤ a ∧ a < 0x3FE08000000 ∧ a % 0x1000000 < 0x40000)
def inCsr (a : Nat) : Bool := decide (0x3FF00000000 ≤ a ∧ a < 0x3FF02000000)
def inAlias (a : Nat) : Bool := decide (0x3FFFFFFC000 ≤ a)
/-- The strides of the regions that only system mode reaches, holes and all. -/
def inStrides (a : Nat) : Bool := decide ((0x3FC00000000 ≤ a ∧ a < 0x3FC00800000) ∨ (0x3FD00000000 ≤ a ∧ a < 0x3FD40000000) ∨
  (0x3FE00000000 ≤ a ∧ a < 0x3FE08000000) ∨ (0x3FF00000000 ≤ a ∧ a < 0x3FF02000000))
/-- DRAM_TOP (R31). -/
def top (s : State) : Nat := ext (s.reg 0x8) 12 0 * 2 ^ 24 * 36
/-- Address a is populated. -/
def populated (s : State) (a : Nat) : Bool := decide (a < top s) || inScratch a || inWave a || inShared a || inCsr a || inAlias a
/-- The word lies in the shared memory that slice i has in the cluster of the address (R364). -/
def inMyShare (s : State) (i a : Nat) : Bool :=
  let r := s.reg (slcShare i ((a - 0x3FE00000000) / 0x1000000))
  decide (ext r 12 5 * 1024 ≤ a % 0x1000000 ∧ a % 0x1000000 < (ext r 12 5 + ext r 21 13) * 1024)
/-- Job mode does not open the word to slice i (R32); `late`: a store, whose wave-buffer check comes when it arrives. -/
def closed (s : State) (i a : Nat) (late : Bool) : Bool :=
  decide (top s ≤ a) && inStrides a && !(inShared a && inMyShare s i a) && !(inWave a && (late || s.waveOpen i a))

/-- Offset of a displacement access: wR + disp modulo 2^14 (R193). -/
def dispSum (r : Word) (w : Pair) : Nat :=
  (((r.toNat : Int) + (if ext w 8 0 < 256 then (ext w 8 0 : Int) else ext w 8 0 - 512)) % 2 ^ 14).toNat
/-- The access of a word: whether it is of a pair, its address, its post-increment (R193, R226), and its register. -/
structure Acc where
  pair : Bool
  addr : WAddr
  after : Option (Nat × Word)
  deriving DecidableEq
/-- (bB << 14) | offset. -/
def bankAt (x : Thread) (w : Pair) (off : Nat) : WAddr := BitVec.ofNat 42 ((x.bank (ext w 16 14)).toNat * 2 ^ 14 + off)
/-- Post-increment of wR by n. -/
def bump (x : Thread) (w : Pair) (n : Nat) : Option (Nat × Word) :=
  some (ext w 13 9, BitVec.ofNat 14 ((x.r (ext w 13 9)).toNat + n))
/-- The load or store form that word w is, and the command that issues it. -/
def IssuesAcc (s : State) (t : Fin 1024) (wr : Bool) (w : Pair) (c : Instr) (f : Acc) : Prop :=
  let x := s.thread t
  let disp := bankAt x w (dispSum (x.r (ext w 13 9)) w)
  let reg := bankAt x w (x.r (ext w 13 9)).toNat
  (Issues s t (if wr then 0x15 else 0x14) 0 w ∧ c = (if wr then .st t else .ld t) ∧ f = ⟨false, disp, none⟩) ∨
  (Issues s t (if wr then 0x17 else 0x16) 0 w ∧ c = (if wr then .stp t else .ldp t) ∧ f = ⟨true, disp, none⟩) ∨
  (Issues s t 0x18 0 w ∧ c = .lspi t ∧ ext w 8 7 = (if wr then 1 else 0) ∧ f = ⟨false, reg, bump x w 1⟩) ∨
  (Issues s t 0x18 0 w ∧ c = .lspi t ∧ ext w 8 7 = (if wr then 3 else 2) ∧ f = ⟨true, reg, bump x w 2⟩)

/-- The wave buffer is open to slice i at word a, and at the next word for a pair (R32). -/
def wavePart (s : State) (i a : Nat) (pair : Bool) : Bool := s.waveOpen i a && (!pair || s.waveOpen i (a + 1))
/-- The access is to an on-chip memory that is awake and reached by the thread. -/
def onChip (s : State) (t : Nat) (a : Nat) (pair : Bool) : Prop :=
  top s ≤ a ∧ (inScratch a = true ∨ inWave a = true ∨ inShared a = true ∨ inAlias a = true) ∧ s.asleepAt t a = none ∧
    (s.system t = true ∨ inWave a = false ∨ wavePart s (s.sliceOf t) a pair = true)
/-- Where an on-chip word is kept: the window is the scratch of the own core (R32). -/
def cellAt (t a : Nat) : Nat := if inAlias a then 0x3FC00000000 + t / 8 * 0x10000 + (a - 0x3FFFFFFC000) else a
/-- Value of the word or pair at an on-chip address. -/
def cellVal (s : State) (t a : Nat) (pair : Bool) : Pair :=
  BitVec.ofNat 28 ((s.getWord (cellAt t a)).toNat + (if pair then (s.getWord (cellAt t a + 1)).toNat * 2 ^ 14 else 0))
/-- A word of the access is marked by an uncorrectable error. -/
def cellBad (s : State) (t a : Nat) (pair : Bool) : Bool :=
  s.poisoned (cellAt t a) || (pair && s.poisoned (cellAt t a + 1))
/-- Thread t waits for the access w. -/
def awaits (s : State) (t : Nat) (w : Await) : State := s.modThread t fun x => { x with await := some w }
/-- The destination of a load or CAS read. -/
def loaded (x : Thread) (w : Await) (v : Pair) : Thread :=
  let y := if w.pair then x.setRp w.dst v else x.setR w.dst (BitVec.ofNat 14 v.toNat)
  let y : Thread := { y with await := none }
  match w.after with
  | some (r, b) => y.setR r b
  | none => y

end Sys2Proof.Spec

/-- R31 to R33, R193, R202: the exception that an access raises before it reaches its target. -/
def Sys2Proof.Spec.AccessRightsFollowTheAddressMap : Prop :=
  ∀ (s : State) (t a : Nat) (pair wr : Bool), a < 2 ^ 42 → top s ≤ 0x30000000000 →
    let i := s.sliceOf t
    let shut := s.system t = false ∧ (closed s i a wr = true ∨ (pair = true ∧ a % 2 = 0 ∧ closed s i (a + 1) wr = true))
    let odd := pair = true ∧ a % 2 = 1
    (shut → s.accFault t a pair wr = some 4) ∧
    (¬shut → odd → s.accFault t a pair wr = some 5) ∧
    (¬shut → ¬odd → (populated s a = false ∨ (inCsr a = true ∧ pair = false)) → s.accFault t a pair wr = some 6) ∧
    (¬shut → ¬odd → populated s a = true → (inCsr a = false ∨ pair = true) → s.accFault t a pair wr = none)

/-- R193, R202, R226, R309: a load or a CAS forms its address; what the address forbids traps with the address as EINFO; an on-chip
access is served with the value at its target, a DRAM access is queued at the channel of its line, and the thread waits. -/
def Sys2Proof.Spec.LoadsAndCasReachTheirTarget : Prop :=
  ∀ (t : Fin 1024) (s : State) (w : Pair) (c : Instr) (f : Acc) (k : Option (Pair × Pair)), s.Canon →
    let x := s.thread t
    (k = none ∧ IssuesAcc s t false w c f) ∨
      (Issues s t 0x30 0 w ∧ c = .cas t ∧ x.stores = [] ∧ f = ⟨true, bankAt x w (x.r (ext w 13 9)).toNat, none⟩ ∧
        k = some (x.rp (rD w), x.rp (ext w 8 4))) →
    let a := f.addr.toNat
    let aw : Await := { dst := rD w, pair := f.pair, addr := f.addr, after := f.after, cas := k }
    (∀ e, s.accFault t a f.pair false = some e → exec c s = .next (s.excEnter t e f.addr x.pc false)) ∧
    (s.accFault t a f.pair false = none → onChip s t a f.pair →
      (cellBad s t a f.pair = true → exec c s = .next (awaits s t { aw with ans := some (.fault 8) })) ∧
      (cellBad s t a f.pair = false → k = none →
        exec c s = .next (awaits s t { aw with ans := some (.value (cellVal s t a f.pair)) })) ∧
      (cellBad s t a f.pair = false → ∀ old new, k = some (old, new) →
        (cellVal s t a true ≠ old → exec c s = .next (awaits s t { aw with ans := some (.cas (cellVal s t a true) false) })) ∧
        (cellVal s t a true = old → ∃ s' : State, exec c s = .next s' ∧
          s'.thread t = { x with await := some { aw with ans := some (.cas old true) } } ∧
          s' = { s with threads := s'.threads, mem := s'.mem, poison := s'.poison } ∧
          cellVal s' t a true = new ∧ (∀ u, u ≠ t.val → s'.thread u = s.thread u) ∧
          ∀ b, b ≠ cellAt t a → b ≠ cellAt t a + 1 → s'.getWord b = s.getWord b))) ∧
    (s.accFault t a f.pair false = none → a < top s → ∀ ch m, s.place (a / 36) = some (ch, m) → s.asleepAt t a = none →
      ∃ s' : State, exec c s = .next s' ∧ s'.thread t = { x with await := some aw } ∧
        s' = { s with threads := s'.threads, dchans := s'.dchans } ∧
        ∃ r : DReq, (s'.dchan ch).reqs = (s.dchan ch).reqs ++ [r] ∧ r.line = a / 36 ∧ r.slice.toNat = s.sliceOf t % 64 ∧
          (k = none → r.op = .read ∧ r.reply = .load t (a % 36) f.pair) ∧
          ∀ old new, k = some (old, new) → r.op = .cas (a % 36) old new ∧ r.reply = .cas t) ∧
    (c = .cas t → s.accFault t a f.pair false = none → inCsr a = true → top s ≤ a →
      exec c s = .next (s.excEnter t 6 f.addr x.pc false))

/-- (a) R31 to R33, R193, R202: the exception that an access raises before it reaches its target. (b) R193, R202, R226, R309: a
load or a CAS forms its address; what the address forbids traps with the address as EINFO; an on-chip access is served with the
value at its target, a DRAM access is queued at the channel of its line, and the thread waits. -/
def Obligations.AccessesReachTheirTarget : Prop :=
  Sys2Proof.Spec.AccessRightsFollowTheAddressMap ∧
  Sys2Proof.Spec.LoadsAndCasReachTheirTarget

/-- R203, R217, R242: the response completes the instruction that waited for it, or raises its fault; a store whose fault has arrived
meanwhile is taken then, imprecisely, with the next instruction or the faulting access as EPCX. CAS waits for earlier stores. -/
def Sys2Proof.Spec.ResponseCompletesTheAccess : Prop :=
  ∀ (t : Fin 1024) (s : State) (w : Await) (a : Answer),
    let x := s.thread t
    x.st = .run → x.await = some w → w.cpm = none → w.ans = some a →
    let after (y : State) (p : PStore) (e : BitVec 6) : State :=
      (y.modThread t fun z => { z with stores := z.stores.filter fun q => decide (q.id ≠ p.id) }).excEnter t e.toNat p.addr
        (y.thread t).pc true
    (∀ v, a = .value v →
      let y := completes s t fun x => loaded x w v
      (x.stores.filter PStore.arrived = [] → exec (.loadResponse t) s = .next y) ∧
      (∀ p e, x.stores.filter PStore.arrived = [p] → p.ans = some (.fault e) → (y.thread t).st = .run →
        exec (.loadResponse t) s = .next (after y p e))) ∧
    (∀ v ok, a = .cas v ok → w.pair = true → x.stores.filter PStore.arrived = [] →
      exec (.loadResponse t) s = .next (completes s t fun x => { loaded x w v with z := ok })) ∧
    (∀ e, a = .fault e →
      (x.stores.filter PStore.arrived = [] → exec (.loadResponse t) s = .next (s.excEnter t e.toNat w.addr x.pc false)) ∧
      (∀ p g, x.stores.filter PStore.arrived = [p] → p.ans = some (.fault g) →
        exec (.loadResponse t) s = .next (after (s.modThread t fun x => { x with await := none }) p g)))

/-- R193, R203, R217, R226: a store forms its address, traps on what the address forbids, and else is posted: an on-chip store
changes the words at its address alone; a DRAM store is queued; with 16 outstanding it waits. -/
def Sys2Proof.Spec.StoresArePosted : Prop :=
  ∀ (t : Fin 1024) (s : State) (w : Pair) (c : Instr) (f : Acc), IssuesAcc s t true w c f → s.Canon →
    let x := s.thread t
    let a := f.addr.toNat
    let v : Pair := if f.pair then x.rp (rD w) else BitVec.ofNat 28 (x.r (rD w)).toNat
    let p : PStore := { id := s.nextId, addr := f.addr, pair := f.pair, val := v }
    let y := (let x : Thread := { x with await := none, stores := x.stores ++ [p] }
      match f.after with
      | some (r, b) => x.setR r b
      | none => x).complete
    let answered (z : Thread) (an : Answer) : Thread :=
      { z with stores := z.stores.map fun q => if q.id = s.nextId then { q with ans := some an } else q }
    (∀ e, s.accFault t a f.pair true = some e → exec c s = .next (s.excEnter t e f.addr x.pc false)) ∧
    (s.accFault t a f.pair true = none → 16 ≤ x.stores.length → exec c s = .next s) ∧
    (s.accFault t a f.pair true = none → x.stores.length < 16 → onChip s t a f.pair →
      ∃ s' : State, exec c s = .next s' ∧ s'.thread t = answered y (.value 0) ∧
        s' = { s with threads := s'.threads, mem := s'.mem, poison := s'.poison, nextId := s.nextId + 1 } ∧
        cellVal s' t a f.pair = v ∧ (∀ u, u ≠ t.val → s'.thread u = s.thread u) ∧
        ∀ b, b ≠ cellAt t a → (f.pair = true → b ≠ cellAt t a + 1) → s'.getWord b = s.getWord b) ∧
    (s.accFault t a f.pair true = none → x.stores.length < 16 → top s ≤ a → inWave a = true → s.asleepAt t a = none →
      s.system t = false → wavePart s (s.sliceOf t) a f.pair = false →
      ∃ s' : State, exec c s = .next s' ∧ s'.thread t = answered y (.fault 4) ∧
        s' = { s with threads := s'.threads, nextId := s.nextId + 1 }) ∧
    (s.accFault t a f.pair true = none → x.stores.length < 16 → a < top s → s.asleepAt t a = none →
      ∀ ch m, s.place (a / 36) = some (ch, m) →
      ∃ s' : State, exec c s = .next s' ∧ s'.thread t = y ∧
        s' = { s with threads := s'.threads, dchans := s'.dchans, nextId := s.nextId + 1 } ∧
        ∃ r : DReq, (s'.dchan ch).reqs = (s.dchan ch).reqs ++ [r] ∧ r.line = a / 36 ∧ r.slice.toNat = s.sliceOf t % 64 ∧
          r.op = .write (a % 36) f.pair v ∧ r.reply = .store t s.nextId)

/-- R203: the answer of a store ends it; a fault is taken at once by a thread that can issue, and waits for the response of a load,
with ESTAT.IMPRECISE and the next instruction as EPCX. -/
def Sys2Proof.Spec.StoreAnswerEndsTheStore : Prop :=
  ∀ (t : Fin 1024) (i : Fin 16) (s : State) (p : PStore),
    let x := s.thread t
    x.stores[i.val]? = some p →
    let drop (s : State) : State := s.modThread t fun x => { x with stores := x.stores.filter fun q => decide (q.id ≠ p.id) }
    (∀ v, p.ans = some (.value v) → exec (.storeAnswer t i) s = .next (drop s)) ∧
    (∀ e, p.ans = some (.fault e) →
      let mark : State := s.modThread t fun x =>
        { x with stores := x.stores.map fun q => if q.id = p.id then { q with arrived := true } else q }
      ((x.await.isSome = true ∨ x.st = .blocked) → x.st ≠ .faulted → exec (.storeAnswer t i) s = .next mark) ∧
      (x.await = none → x.st = .run → x.stores.filter (fun q => q.arrived || decide (q.id = p.id)) = [p] →
        exec (.storeAnswer t i) s = .next ((drop mark).excEnter t e.toNat p.addr x.pc true)))

/-- (a) R203, R217, R242: the response completes the instruction that waited for it, or raises its fault; a store whose fault
has arrived meanwhile is taken then, imprecisely, with the next instruction or the faulting access as EPCX. CAS waits for
earlier stores. (b) R193, R203, R217, R226: a store forms its address, traps on what the address forbids, and else is posted: an
on-chip store changes the words at its address alone; a DRAM store is queued; with 16 outstanding it waits. (c) R203: the answer
of a store ends it; a fault is taken at once by a thread that can issue, and waits for the response of a load, with
ESTAT.IMPRECISE and the next instruction as EPCX. -/
def Obligations.StoresAndResponses : Prop :=
  Sys2Proof.Spec.ResponseCompletesTheAccess ∧
  Sys2Proof.Spec.StoresArePosted ∧
  Sys2Proof.Spec.StoreAnswerEndsTheStore

namespace Sys2Proof.Spec

/-! ## Tasks, outputs, channels, events, debug -/

/-- Thread t is the only one that f changes. -/
def onlyThread (s s' : State) (t : Nat) : Prop := s' = { s with threads := s'.threads } ∧ ∀ u, u ≠ t → s'.thread u = s.thread u
/-- Threads of the core of t that wait for a task. -/
def waitersOfCore (s : State) (t : Nat) : List Nat :=
  ((List.range 8).map fun i => 8 * (t / 8) + i).filter fun c => decide ((s.thread c).st = .waitTask)
/-- Thread c is a running child of thread t on its core. -/
def isChild (s : State) (t c : Nat) : Bool :=
  decide (c / 8 = t / 8) && (s.thread c).child && decide ((s.thread c).parent = t) && (s.thread c).live
/-- CHAN-FAULT of instruction w: CH and the reason as EINFO (R248). -/
def chanTrap (s : State) (t ch reason : Nat) : State := trapsAt s t 0xD (ch + 2 ^ 10 * reason)
/-- The cluster channel that CH names for a thread of cluster cl (Table 9.2). -/
def clusterChan (cl ch : Nat) : Option Nat := if ch < 64 then some (64 * cl + ch) else if 0x200 ≤ ch then some (ch - 0x200) else none
/-- The staged message of a thread as a timer delay. -/
def delayOf (x : Thread) : Nat := (x.staged.getD 0 0).toNat + (x.staged.getD 1 0).toNat * 2 ^ 14
/-- The first fault of a channel instruction in the order of R248: none, 0 PRIV, or a reason of Table 9.3. fn: 0 CHR, 1 CHW, 2 CHC. -/
def chanReason (s : State) (t fn ch : Nat) : Option Nat :=
  let x := s.thread t
  let cl := clusterOf t
  let cfg (c : Nat) : Pair := s.reg (0x1401000 + 4 * c)
  let valid := (clusterChan cl ch).map fun c => bitOf (cfg c) 6
  let foreign := (clusterChan cl ch).map fun c => decide (ext (cfg c) 5 0 ≠ s.sliceOf t)
  let other := (clusterChan cl ch).map fun c => decide (c / 64 ≠ cl)
  let same := if (clusterChan cl x.stagedCh.toNat).isSome ∨ (clusterChan cl ch).isSome then
    decide (clusterChan cl x.stagedCh.toNat = clusterChan cl ch) else decide (x.stagedCh.toNat = ch)
  let tests : List (Bool × Nat) :=
    [ (decide (fn ≠ 1) && decide (valid = some true) && decide (foreign = some true) && !s.system t, 0),
      (decide (fn ≠ 0) && !x.staged.isEmpty && !same, 1),
      (decide (fn = 1) && decide (32 ≤ x.staged.length), 2),
      (decide (fn = 2) && x.staged.isEmpty, 3),
      (if fn = 0 then decide (ch = 0x101) || decide (other = some true) else decide (ch = 0x103) || decide (ch = 0x104), 4),
      (decide (fn ≠ 1) && decide (valid = some false), 5),
      (decide (fn = 0) && ((decide (ch = 0x100) && x.reply.isEmpty && !x.replyDue) ||
        (decide (ch = 0x102) && x.timer.isNone && x.timerLeft.isNone && x.timerWord.isNone)), 6),
      (decide (fn = 2) && ((decide (ch = 0x102) && decide (x.staged.length ≠ 2)) || (decide (ch = 0x101) && decide (x.staged.length < 2))), 7),
      (decide (fn = 2) && ((decide (ch = 0x102) && (decide (delayOf x = 0) || decide (2 ^ 27 ≤ delayOf x))) ||
        (decide (ch = 0x101) && decide (8 ≤ (x.staged.headD 0).toNat))), 8) ]
  (tests.find? (·.1)).map (·.2)
/-- Thread t may gather: it waits in DONE for nothing more, or it is past the wait step. -/
def mayGather (s : State) (t : Nat) : Prop :=
  let x := s.thread t
  x.hasTask = true ∧ ((x.st = .blocked ∧ x.blk = .done ∧ (∀ c, isChild s t c = false) ∧ x.stores = []) ∨ (x.st = .run ∧ x.gathered = true))
/-- A task that names no successor. -/
def lastOfAll (x : Slot) : Prop := x.succ0 = none ∧ x.succ1 = none
/-- The thread after the commit of its DONE. -/
def doneThread (x : Thread) : Thread := { x with hasTask := false, outs := [], gathered := false, gath := [] }.jump (x.pc + 1)
/-- The flits fl carry 18 × n words, the header of class c and payload flits behind it; of word 3 without LENGTH. -/
def carries (fl : List Flit) (c n : Nat) (word : Nat → Word) : Prop :=
  fl.length = n ∧ ∀ j, j < n → ext (fl.getD j 0) 255 252 = (if j = 0 then c + 1 else 5) ∧
    ∀ i, i < 18 → if j = 0 ∧ i = 3 then ext (fword (fl.getD 0 0) 3) 13 7 = ext (word 3) 13 7 else fword (fl.getD j 0) i = word (18 * j + i)
/-- A channel instruction of word w that runs: function and CH. -/
abbrev chF (w : Pair) : Nat := ext w 14 5
/-- A host access reaches the register at offset o now: it is written, and its domains are ON. -/
def writesReg (s : State) (o : Nat) : Prop := s.writable o = true ∧ s.regAwake o = true

end Sys2Proof.Spec

/-- R177, R203, R231, R250, R258, R273: TASK with a task held raises TASK-STATE; a child with staged words raises STAGED; otherwise
the thread waits for a task and holds nothing of its work, no coprocessor context either, but staged words and, unless it is a child,
its timer. -/
def Sys2Proof.Spec.TaskEndsTheThreadsWork : Prop :=
  ∀ (t : Fin 1024) (s : State) (w : Pair), Issues s t 0x24 0 w →
    let x := s.thread t
    (x.stores ≠ [] → exec (.task t) s = .next s) ∧
    (x.stores = [] → x.hasTask = true → exec (.task t) s = .next (trapsAt s t 0xA 0)) ∧
    (x.stores = [] → x.hasTask = false → x.child = true → x.staged ≠ [] →
      exec (.task t) s = .next (chanTrap s t x.stagedCh.toNat 9)) ∧
    (x.stores = [] → x.hasTask = false → (x.child = false ∨ x.staged = []) →
      ∃ s' : State, exec (.task t) s = .next s' ∧
        let y := s'.thread t
        y.st = (if x.stepping then .halted else .waitTask) ∧ y.prior = .waitTask ∧ y.hasTask = false ∧ y.child = false ∧
        y.staged = x.staged ∧ y.stagedCh = x.stagedCh ∧ y.outs = [] ∧
        (x.child = true → y.timer = none ∧ y.timerLeft = none ∧ y.timerWord = none) ∧
        (x.child = false → y.timer = x.timer ∧ y.timerLeft = x.timerLeft ∧ y.timerWord = x.timerWord) ∧
        y.reply = [] ∧ y.replyDue = false ∧ y.copq = [] ∧ y.gath = [] ∧
        y.rep = none ∧ (∀ c, ((s'.chan c).holder.map fun h => h.val) ≠ some t.val) ∧
        (∀ u k, u < 3 → k < 4 →
          (∀ j, j < 4 → (s.ctx (4 * (t.val / 128) + u) j).holder = some t → (s.ctx (4 * (t.val / 128) + u) k).holder = some t → j = k) →
          (s'.ctx (4 * (t.val / 128) + u) k).holder ≠ some t) ∧
        (∀ u, u ≠ t.val → s'.thread u = s.thread u) ∧ s'.mem = s.mem ∧ s'.dsp = s.dsp ∧ s'.pkts = s.pkts)

/-- R178, R203, R207, R231, R233, R244: DONE waits for earlier stores and raises TASK-STATE or STAGED; otherwise the thread blocks. GATHER
waits for children and stores. Without outputs it completes the task: the slot is FREE with LAST DONE, its successor is decremented, and
READY at 0 (R173), and the thread goes on at the next instruction without a loop test. -/
def Sys2Proof.Spec.DoneCompletesTheTask : Prop :=
  ∀ (t : Fin 1024) (s : State) (w : Pair),
    let x := s.thread t
    let q := t.val / 256
    let n := x.handle.toNat % 4096
    let y := s.slot q n
    (Issues s t 0x25 0 w → x.stores ≠ [] → exec (.done t) s = .next s) ∧
    (Issues s t 0x25 0 w → x.stores = [] → x.hasTask = false → exec (.done t) s = .next (trapsAt s t 0xA 0)) ∧
    (Issues s t 0x25 0 w → x.stores = [] → x.hasTask = true → (∀ c ∈ x.copq, ext c 11 6 = 0) → x.staged ≠ [] →
      exec (.done t) s = .next (chanTrap s t x.stagedCh.toNat 9)) ∧
    (Issues s t 0x25 0 w → x.stores = [] → x.hasTask = true → (∀ c ∈ x.copq, ext c 11 6 = 0) → x.staged = [] →
      exec (.done t) s = .next (s.modThread t fun x => { x with st := .blocked, blk := .done, bw := w })) ∧
    (x.st = .blocked → x.blk = .done → x.hasTask = true → ((∃ c, isChild s t c = true) ∨ x.stores ≠ []) → exec (.gather t) s = .next s) ∧
    (mayGather s t → (∀ o ∈ x.outs, o.2.valid = false) → (bitOf x.bw 21 = false ∨ y.ports = 0) → x.gath = [] →
      (∀ o ∈ s.eouts, o.2.cross = false) → y.succ1 = none →
      (∀ h, y.succ0 = some h → h.toNat % 4096 ≠ n ∧ (s.slot q (h.toNat % 4096)).st ≠ .free ∧
        (s.slot q (h.toNat % 4096)).gen.toNat = h.toNat / 4096 ∧ (s.slot q (h.toNat % 4096)).slice = y.slice ∧
        (s.slot q (h.toNat % 4096)).count ≠ 0) →
      ∃ s' : State, exec (.gather t) s = .next s' ∧ s'.thread t = doneThread x ∧
        (s'.slot q n).st = .free ∧ (s'.slot q n).last = 1 ∧ (∀ u, u ≠ t.val → s'.thread u = s.thread u) ∧ s'.mem = s.mem ∧
        ∀ m, m ≠ n → s'.slot q m =
          if y.succ0.map (fun h => h.toNat % 4096) = some m then { s.slot q m with
            count := (s.slot q m).count - 1
            st := if (s.slot q m).st = .waiting ∧ (s.slot q m).count = 1 then .ready else (s.slot q m).st }
          else s.slot q m)

/-- R18, R233, R234, R236: with D the task's own message leaves on the port that it was dispatched with, its words as they stand in the wave
buffer and LENGTH as received, and is held for that output; for a port of another quadrant it crosses the flit plane where there is room,
and else later (log 18, R18); the words of a MSG entry are read in full and stand in the wave buffer of the
egress port's quadrant, at a place of the device's choice (R195), while the output waits; without room there the gather waits, RUN (R244). -/
def Sys2Proof.Spec.DoneSendsItsOutputs : Prop :=
  ∀ (t : Fin 1024) (s : State) (p : Fin 32), s.Canon →
    let x := s.thread t
    let q := t.val / 256
    let n := x.handle.toNat % 4096
    let y := s.slot q n
    let i := BitVec.ofNat 6 (s.sliceOf t)
    let ends (s' : State) : Prop := s'.thread t = doneThread x ∧ (s'.slot q n).st = .free ∧ (s'.slot q n).last = 1 ∧ s'.nextId = s.nextId + 1
    mayGather s t → x.gath = [] → lastOfAll y →
    (∀ k pk m, (∀ o ∈ x.outs, o.2.valid = false) → (∀ o ∈ s.eouts, o.2.cross = false) → bitOf x.bw 21 = true →
      y.ports = BitVec.ofNat 32 (2 ^ p.val) → y.pkt = some k → s.pkt? k = some pk → pk.cls = 1 → pk.link = .passed →
      pk.len = 18 * (m + 1) → (∀ o ∈ s.eouts, o.2.expect = true → o.2.len = 0) →
      ∃ (s' : State) (fl : List Flit) (e : EOut), exec (.gather t) s = .next s' ∧ ends s' ∧ s'.eout? s.nextId = some e ∧
        e = { port := p, kind := .msg, flits := fl, slice := i, pkt := some k, released := true, addr := e.addr, len := e.len, cross := e.cross } ∧
        (let room := s.waveRoom (p.val / 8) pk.len = true;
          (p.val / 8 = q ∨ ¬room → e.len = 0 ∧ e.cross = decide (p.val / 8 ≠ q) ∧ s'.mem = s.mem) ∧
          (p.val / 8 ≠ q → room → ∃ o, s.waveFree (p.val / 8) pk.len o = true ∧ e.len = pk.len ∧ e.cross = false ∧
            (let a := waveBase (p.val / 8) + o;
            e.addr.toNat = a ∧ ∀ b, s'.getWord b = if a ≤ b ∧ b < a + pk.len then s.getWord (pk.addr.toNat + (b - a)) else s.getWord b))) ∧
        carries fl 1 (m + 1) (fun j => s.getWord (pk.addr.toNat + j)) ∧ hdrLength (fl.headD 0) = hdrLength (pk.flits.headD 0) ∧
        s'.pkt? k = some { pk with uses := pk.uses + 1, ended := true }) ∧
    (∀ (j : Fin 32) (e : OutEntry) (m : Nat), x.outs = [(j.val, e)] → e.valid = true → e.cls = 1 → e.ports = none → ext e.rs 6 0 = p.val →
      (bitOf x.bw 21 = false ∨ y.ports = 0) → y.pkt = none →
      let at' (b : Nat) : Nat := (e.hdr + BitVec.ofNat 42 b).toNat
      m = ext (s.getWord (cellAt t (at' 3))) 6 0 →
      (∀ b, b < 18 * (m + 1) → (inScratch (at' b) = true ∨ inAlias (at' b) = true) ∧ s.accFault t (at' b) false false = none ∧
        s.asleepAt t (at' b) = none ∧ s.poisoned (cellAt t (at' b)) = false) →
      (s.waveRoom (p.val / 8) (18 * (m + 1)) = false →
        exec (.gather t) s = .next (s.modThread t fun x => { x with st := .run, blk := .none, gathered := true })) ∧
      (s.waveRoom (p.val / 8) (18 * (m + 1)) = true →
        ∃ (s' : State) (fl : List Flit) (o : Nat), exec (.gather t) s = .next s' ∧ ends s' ∧
          s.waveFree (p.val / 8) (18 * (m + 1)) o = true ∧
          let a := waveBase (p.val / 8) + o
          s'.eout? s.nextId = some { port := p, kind := .msg, flits := fl, slice := i, idx := BitVec.ofNat 6 j.val, released := true
                                     addr := BitVec.ofNat 42 a, len := 18 * (m + 1) } ∧
          carries fl 1 (m + 1) (fun b => s.getWord (cellAt t (at' b))) ∧ ext (fword (fl.headD 0) 3) 6 0 = m ∧
          ∀ b, s'.getWord b = if a ≤ b ∧ b < a + 18 * (m + 1) then s.getWord (cellAt t (at' (b - a))) else s.getWord b))

/-- R31, R232, R328: OUT checks its header address, an extent that is not allocated included, and fills the entry of OUT_INDEX, and that entry alone. -/
def Sys2Proof.Spec.OutFillsOneEntry : Prop :=
  ∀ (t : Fin 1024) (s : State) (w : Pair), Issues s t 0x26 0 w →
    let x := s.thread t
    let own := ext w 2 1 = 3
    let h : WAddr := BitVec.ofNat 42 ((x.bank (ext w 16 14)).toNat * 2 ^ 14 + (x.r (ext w 13 9)).toNat)
    let rs := x.r (rD w)
    let key := x.rp (ext w 7 3)
    let gone := h.toNat < top s ∧ (s.extent (h.toNat / 36 / 2 ^ 24)).valid = false
    (∀ e, ¬own → s.accFault t h.toNat false false = some e → exec (.out t) s = .next (s.excEnter t e h x.pc false)) ∧
    (¬own → s.accFault t h.toNat false false = none → gone → exec (.out t) s = .next (s.excEnter t 6 h x.pc false)) ∧
    ((own ∨ (s.accFault t h.toNat false false = none ∧ ¬gone)) →
      let ent : OutEntry :=
        { valid := true, rs := rs, cls := BitVec.ofNat 2 (ext w 2 1), keyed := bitOf w 8, hdr := if ext w 2 1 = 3 then 0 else h,
          xseq := if bitOf w 8 then BitVec.ofNat 16 (ext key 13 0 + ext key 20 19 * 2 ^ 14) else 0,
          inPort := if bitOf w 8 then BitVec.ofNat 5 (ext key 18 14) else 0 }
      ∃ s' : State, exec (.out t) s = .next s' ∧ onlyThread s s' t ∧
        s'.thread t = { x with outs := (s'.thread t).outs }.complete ∧
        ∀ i, SMap.get {} (s'.thread t).outs i = if i = ext rs 12 7 then ent else SMap.get {} x.outs i)

/-- (a) R177, R203, R231, R250, R258, R273: TASK with a task held raises TASK-STATE; a child with staged words raises STAGED;
otherwise the thread waits for a task and holds nothing of its work, no coprocessor context either, but staged words and, unless it is a
child, its timer. (b) R173, R178, R203, R207, R231, R233, R244: DONE waits for earlier stores and raises TASK-STATE or STAGED; otherwise
the thread blocks. GATHER waits for children and stores. Without outputs it completes the task: the slot is FREE with LAST DONE, its
successor is decremented, and READY at 0, and the thread goes on at the next instruction without a loop test. (c) R18, R195, R233, R234, R236,
R244: with D the task's own message leaves on the port that it was dispatched with, its words as they stand in the wave buffer and LENGTH
as received, and is held for that output; for a port of another quadrant it crosses the flit plane where there is room, and else later
(log 18, R18); the words of a MSG entry are read in full and stand in the wave buffer of the egress port's
quadrant, at a place of the device's choice, while the output waits; without room there the gather waits, RUN. That the gather
acts on all its words at once is the model's choice (log 9). (d) R31, R232, R328: OUT checks its header address, an extent that is
not allocated included, and fills the entry of OUT_INDEX, and that entry alone. -/
def Obligations.TasksEndAndOutputsAreStaged : Prop :=
  Sys2Proof.Spec.TaskEndsTheThreadsWork ∧
  Sys2Proof.Spec.DoneCompletesTheTask ∧
  Sys2Proof.Spec.DoneSendsItsOutputs ∧
  Sys2Proof.Spec.OutFillsOneEntry

/-- R237, R238, R246: FORK starts a child on a thread that waits at TASK, or sets Z; JOIN waits for the child, and goes on when it
has executed TASK. -/
def Obligations.ForkAndJoinMakeAndAwaitChildren : Prop :=
  ∀ (t : Fin 1024) (s : State) (w : Pair) (lost squashed : Bool),
    let x := s.thread t
    let fails := completes s t fun x => { x with z := true }
    (Issues s t 0x27 0 w →
      (squashed = true → exec (.fork t lost squashed) s = .next s) ∧
      (squashed = false → (lost = true ∨ waitersOfCore s t = []) → exec (.fork t lost squashed) s = .next fails) ∧
      (squashed = false → lost = false → waitersOfCore s t ≠ [] →
        ∃ (s' : State) (c : Nat), c ∈ waitersOfCore s t ∧ exec (.fork t lost squashed) s = .next s' ∧
          s' = { s with threads := s'.threads, free := s'.free } ∧
          s'.thread t = ({ x with z := false }.setR (rD w) (BitVec.ofNat 14 (c % 8))).complete ∧
          (let y := s'.thread c;
            y.st = .run ∧ y.child = true ∧ y.parent = t.val ∧ y.hasTask = false ∧ y.pc = BitVec.ofNat 16 (ext w 15 0) ∧
            y.d = 0 ∧ y.spilled = 0 ∧ flagBits y = 0 ∧ y.us = false ∧ y.exc = false ∧ y.lsusp = false ∧ y.l0 = {} ∧ y.l1 = {} ∧
            y.l2 = {} ∧ y.evr = 0 ∧ y.rep = none ∧ y.staged = [] ∧ y.outs = [] ∧ y.timer = none ∧ y.banks = x.banks ∧
            (∀ i, i < 8 → y.r i = x.r i ∧ y.r (8 + i) = x.r (16 + i) ∧ y.r (16 + i) = 0)) ∧
          ∀ u, u ≠ t.val → u ≠ c → s'.thread u = s.thread u)) ∧
    (let named (w : Pair) : Nat := 8 * (t.val / 8) + (x.r (rA w)).toNat % 8;
      (Issues s t 0x28 0 w →
        (isChild s t (named w) = false → exec (.join t) s = .next (completes s t id)) ∧
        (isChild s t (named w) = true →
          exec (.join t) s = .next (s.modThread t fun x => { x with st := .blocked, blk := .join, bw := w }))) ∧
      (x.st = .blocked → x.blk = .join →
        (isChild s t (named x.bw) = true → exec (.joinWake t) s = .next s) ∧
        (isChild s t (named x.bw) = false → exec (.joinWake t) s = .next (completes s t id))))

/-- R247 to R250, R254: a channel instruction raises the first of its faults, PRIV with the channel number or CHAN-FAULT; LENGTH and
FORMAT discard the staged message. CHW stages a word. -/
def Sys2Proof.Spec.ChannelFaultsComeInOrder : Prop :=
  ∀ (t : Fin 1024) (s : State) (w : Pair) (fn : Fin 3), Issues s t 0x29 fn.val w → (fn = 2 → (s.thread t).stores = []) →
    let c : Instr := match fn with
      | 0 => .chr t
      | 1 => .chw t
      | 2 => .chc t
    let drop : State := s.modThread t fun x => { x with staged := [], stagedCh := 0 }
    (chanReason s t fn.val (chF w) = some 0 → exec c s = .next (trapsAt s t 4 (chF w))) ∧
    (∀ r, chanReason s t fn.val (chF w) = some r → 1 ≤ r → r ≤ 6 → exec c s = .next (chanTrap s t (chF w) r)) ∧
    (∀ r, chanReason s t fn.val (chF w) = some r → 7 ≤ r → exec c s = .next (chanTrap drop t (chF w) r)) ∧
    (fn = 1 → chanReason s t 1 (chF w) = none → exec (.chw t) s = .next (completes s t fun x =>
      { x with staged := x.staged ++ [x.r (rD w)], stagedCh := if x.staged.isEmpty then BitVec.ofNat 10 (chF w) else x.stagedCh }))

/-- R251, R252, R256, R258, R282, R283: CHR takes a word of its channel or blocks; CHC commits the staged message. -/
def Sys2Proof.Spec.ChannelCommandsAndReads : Prop :=
  ∀ (t : Fin 1024) (s : State) (w : Pair),
    let x := s.thread t
    let ch := chF w
    let blocks (b : Block) : State := s.modThread t fun x => { x with st := .blocked, blk := b, bw := w }
    let takes (v : Word) (f : Thread → Thread) : State := completes s t fun x => (f x).setR (rD w) v
    (Issues s t 0x29 0 w → chanReason s t 0 ch = none →
      (∀ c, clusterChan (clusterOf t) ch = some c →
        (∀ v vs, (s.chan c).rest = v :: vs → (s.chan c).holder = some t →
          exec (.chr t) s = .next (State.modChan (takes v id) c fun k =>
            { k with rest := vs, holder := if vs = [] then none else some t })) ∧
        (∀ v vs ms, (s.chan c).rest = [] → s.readers c = [] → (s.chan c).msgs = (v :: vs) :: ms →
          exec (.chr t) s = .next (State.modChan (takes v id) c fun k =>
            { k with rest := vs, msgs := ms, holder := if vs = [] then none else some t })) ∧
        ((s.chan c).rest = [] → (s.readers c ≠ [] ∨ (s.chan c).msgs = []) → exec (.chr t) s = .next (blocks .chr)) ∧
        ((s.chan c).rest ≠ [] → (s.chan c).holder ≠ some t → exec (.chr t) s = .next (blocks .chr))) ∧
      (ch = 0x100 → (∀ v vs, x.reply = v :: vs → exec (.chr t) s = .next (takes v fun x => { x with reply := vs })) ∧
        (x.reply = [] → exec (.chr t) s = .next (blocks .chr))) ∧
      (ch = 0x102 → (∀ v, x.timerWord = some v → exec (.chr t) s = .next (takes v fun x => { x with timerWord := none })) ∧
        (x.timerWord = none → exec (.chr t) s = .next (blocks .chr))) ∧
      (ch = 0x103 → exec (.chr t) s = .next (blocks .chr)) ∧
      (ch = 0x104 → (x.copq = [] → exec (.chr t) s = .next (blocks .chr)) ∧
        (∀ v vs, s.Canon → x.copq = v :: vs → ext v 11 6 = 0 →
          exec (.chr t) s = .next (takes v fun x => { x with copq := vs })))) ∧
    (Issues s t 0x29 2 w → x.stores ≠ [] → exec (.chc t) s = .next s) ∧
    (Issues s t 0x29 2 w → x.stores = [] → chanReason s t 2 ch = none →
      (∀ c, clusterChan (clusterOf t) ch = some c → exec (.chc t) s = .next (State.modChan (blocks .chc) c fun k =>
        { k with writers := k.writers ++ [{ pos := t.val, qp := none, words := x.staged }] })) ∧
      (ch = 0x101 → exec (.chc t) s = .next (blocks .chc)) ∧
      (ch = 0x100 → exec (.chc t) s = .next { (completes s t fun x =>
          { x with reply := [], replyDue := true, staged := [], stagedCh := 0 }) with dcmds := s.dcmds ++ [(t, x.staged)] }) ∧
      (ch = 0x102 → ∃ s' : State, exec (.chc t) s = .next s' ∧ onlyThread s s' t ∧
        let y := s'.thread t
        y.staged = [] ∧ y.timerWord = none ∧
        (if 3 ≤ s.sliceState (s.sliceOf t) then y.timer = none ∧ y.timerLeft.map BitVec.toNat = some (delayOf x)
         else y.timerLeft = none ∧ y.timer = some (BitVec.ofNat 28 (s.copy.toNat + delayOf x)))))

/-- R251 to R253, R257, R398, R405: a waiting commit is accepted when it fits, and its thread goes on; the oldest message goes to a
waiting reader; a HOST message reaches the receive queue, its entry with LEN, PHASE and the words at the address of the ring's entry. -/
def Sys2Proof.Spec.AcceptanceMovesMessages : Prop :=
  ∀ (s : State) (c : Fin 512),
    (∀ p ws, (s.chan c).writers = [{ pos := p, qp := none, words := ws }] → p < 1024 →
      (64 < (s.chan c).level + ws.length → exec (.channelAccept c) s = .next s) ∧
      ((s.chan c).level + ws.length ≤ 64 →
        exec (.channelAccept c) s = .next (completes (s.modChan c fun k => { k with msgs := k.msgs ++ [ws], writers := [] }) p
          fun x => { x with staged := [] }))) ∧
    ((s.chan c).rest ≠ [] ∨ (s.chan c).msgs = [] ∨ s.readers c = [] → exec (.messageTake c) s = .next s) ∧
    (∀ v vs ms, (s.chan c).rest = [] → (s.chan c).msgs = (v :: vs) :: ms → (∃ t ∈ s.readers c, t < 1024) →
      ∃ t : Fin 1024, t.val ∈ s.readers c ∧ exec (.messageTake c) s =
        .next (completes (s.modChan c fun k => { k with msgs := ms, rest := vs, holder := if vs = [] then none else some t }) t
          fun x => x.setR (ext x.bw 21 17) v)) ∧
    (∀ (q : Qp) (t : Nat), s.rqFree q = true → s.fatal = 0 → s.hostWriters q = [t] → SMap.get false s.d3 q.fn = true →
      exec (.hostMessageAccept q) s = .next ((completes s t fun x => { x with staged := [], stagedCh := 0 }).modQp
        (qpNo q) fun y => { y with rqWait := y.rqWait ++ [(s.thread t).staged.drop 1] })) ∧
    (∀ (q : Qp) (t : Nat), s.rqFree q = true → s.fatal = 0 → s.hostWriters q = [t] → SMap.get false s.d3 q.fn = false →
      ∃ s' : State, exec (.hostMessageAccept q) s = .next s' ∧
        s'.thread t = { s.thread t with staged := [], stagedCh := 0 }.complete ∧ (∀ u, u ≠ t → s'.thread u = s.thread u) ∧
        (s'.qp (qpNo q)).rqWait = [] ∧ (s'.qp (qpNo q)).rqUsed = (s.qp (qpNo q)).rqUsed + (s.qp (qpNo q)).rqWait.length + 1 ∧
        ((s.qp (qpNo q)).rqWait = [] → (s.thread t).staged.length ≤ 32 → ∃ e : BitVec 512,
          Output.rqEntry q
            (BitVec.ofNat 64 (2 ^ 12 * s.qpFld q 0x14 27 0 + 2 ^ 40 * s.qpFld q 0x18 23 0 + 64 * s.qpFld q 0x24 25 14))
            (if s.qpFld q 0x1C 20 20 = 1 then some (BitVec.ofNat 20 (s.qpFld q 0x1C 19 0)) else none) e ∈ s'.out ∧
          ext e 14 0 = (s.thread t).staged.length - 1 ∧ ext e 15 15 = s.qpFld q 0x24 26 26 ∧
          ∀ i, i < 31 → e.toNat / 2 ^ (16 * (i + 1)) % 2 ^ 16 = ((s.thread t).staged.getD (i + 1) 0).toNat) ∧ s'.mem = s.mem)

/-- R258, R260, R261: WFE takes the event bits of its mask or blocks, and wakes when one is set; SEV sets a bit in the live threads of
the slice in the cluster; an expired timer gives its word once. -/
def Obligations.EventsAndTimersWakeThreads : Prop :=
  ∀ (t : Fin 1024) (s : State) (w : Pair),
    let x := s.thread t
    let mask (w : Pair) : BitVec 8 := BitVec.ofNat 8 (ext w 20 13)
    let taken (w : Pair) : State := completes s t fun x =>
      { x with evr := x.evr &&& ~~~mask w }.setR (ext w 12 8) (BitVec.ofNat 14 (x.evr &&& mask w).toNat)
    (Issues s t 0x2A 0 w →
      (x.evr &&& mask w = 0 → exec (.wfe t) s = .next (s.modThread t fun x => { x with st := .blocked, blk := .wfe, bw := w })) ∧
      (x.evr &&& mask w ≠ 0 → exec (.wfe t) s = .next (taken w))) ∧
    (x.st = .blocked → x.blk = .wfe →
      (x.evr &&& mask x.bw = 0 → exec (.wfeWake t) s = .next s) ∧
      (x.evr &&& mask x.bw ≠ 0 → exec (.wfeWake t) s = .next (taken x.bw))) ∧
    (Issues s t 0x2A 1 w → ∃ s' : State, exec (.sev t) s = .next s' ∧ s' = { s with threads := s'.threads } ∧
      let hit (u : Nat) : Bool := decide (u < 1024) && s.assigned u (s.sliceOf t) && decide (u / 128 = t.val / 128) && (s.thread u).live
      let set (u : Nat) : Thread := if hit u then
        { s.thread u with evr := (s.thread u).evr ||| BitVec.ofNat 8 (2 ^ ext w 20 18) } else s.thread u
      s'.thread t = (set t).complete ∧ ∀ u, u ≠ t.val → s'.thread u = set u) ∧
    (∀ e : BitVec 28, x.timer = some e →
      (2 ^ 27 ≤ (BitVec.ofNat 28 s.copy.toNat - e).toNat → exec (.timerExpiry t) s = .next s) ∧
      ((BitVec.ofNat 28 s.copy.toNat - e).toNat < 2 ^ 27 →
        let v : Word := BitVec.ofNat 14 e.toNat
        ((x.st = .blocked ∧ x.blk = .chr ∧ chF x.bw = 0x102) → exec (.timerExpiry t) s = .next (completes s t fun x =>
          { x with timer := none }.setR (ext x.bw 21 17) v)) ∧
        (¬(x.st = .blocked ∧ x.blk = .chr ∧ chF x.bw = 0x102) → exec (.timerExpiry t) s = .next (s.modThread t fun x =>
          { x with timer := none, timerWord := some v })))) ∧
    (x.timer = none → exec (.timerExpiry t) s = .next s)

/-- R206, R263, R264, R393: STALL of a slice that has been stalled for 8,192 CCLK sets its bits in SLC.STALL and FN_EVENT and reaches
the supervisor as an exception, unless the supervisor runs a handler; the run of stalled CCLK then counts only once the condition has
failed. -/
def Sys2Proof.Spec.StallReachesTheSupervisor : Prop :=
  ∀ (i : Fin 64) (s : State),
    let acts := (s.sliceState i = 1 ∨ s.sliceState i = 2) ∧ 8192 ≤ (s.slice i).stallRun ∧ s.stalled i = true
    (¬acts → exec (.stall i) s = .next s) ∧
    (∀ t, acts → s.supervisor i = some t →
      let x := s.thread t
      ∃ s' : State, exec (.stall i) s = .next s' ∧
        let y := s'.thread t
        bitOf (s'.reg (0x2400030 + 4 * (i.val / 28))) (i.val % 28) = true ∧ bitOf (s'.pageReg i 0x2004) 1 = true ∧
        (x.exc = true → y = x) ∧
        (x.exc = false → y.ecause = 0xF ∧ y.epcx = x.pc ∧ y.exc = true ∧ y.d = x.d + 2 ∧
          y.pc = s.ibase (s.sliceOf t) (clusterOf t) - 17) ∧
        (s'.slice i).stallRun = 0 ∧ (s'.slice i).stallShut = true ∧
        ∀ u, u ≠ t → s'.thread u = s.thread u) ∧
    let live := s.threads.any fun x => x.2.live && s.assigned x.1 i
    (live = true → s.stalled i = true → ((s.stallTest i).slice i).stallRun = (if (s.slice i).stallShut then 0 else (s.slice i).stallRun + 1)) ∧
    ((live = false ∨ s.stalled i = false) →
      ((s.stallTest i).slice i).stallRun = 0 ∧ ((s.stallTest i).slice i).stallShut = false)

/-- (a) R202, R204: what taking an exception does, on a thread that runs no handler. (b) R12, R196, R206, R213: an instruction
that cannot be decoded or fetched raises its exception; inside a handler it is a double fault, which leaves the thread FAULTED
with its task and sets FN_EVENT.FAULT of the function. (c) R206, R263, R264, R393: STALL of a slice that has been stalled for
8,192 CCLK sets its bits in SLC.STALL and FN_EVENT and reaches the supervisor as an exception, unless the supervisor runs a handler. -/
def Obligations.ExceptionsDoubleFaultsAndStalls : Prop :=
  Sys2Proof.Spec.ExceptionEntrySavesTheContext ∧
  Sys2Proof.Spec.UndefinedInstructionTrapsAndDoubleFaults ∧
  Sys2Proof.Spec.StallReachesTheSupervisor

/-- R254: a CHAN_CFG write sets SLICE and VALID; one that changes them, or has CLEAR, discards the queue, counted in CNT_DISCARD, and
threads blocked on the channel raise UNOWNED. -/
def Sys2Proof.Spec.ChannelConfigurationDiscards : Prop :=
  ∀ (c : Fin 512) (s : State) (v : Pair) (com : Instr),
    let o := 0x1401000 + 4 * c.val
    let k := s.chan c
    writesReg s o → (com = .chanCfgWrite c v ∨ (com = .chanClear c ∧ v = BitVec.ofNat 28 (ext (s.reg o) 6 0 + 2 ^ 7))) →
    let lost := k.msgs.length + (if k.rest = [] then 0 else 1)
    let count := BitVec.ofNat 28 (min ((s.reg 0x1402000).toNat + lost) (2 ^ 28 - 1))
    (ext (s.reg o) 6 0 = ext v 6 0 → bitOf v 7 = false → ∃ s' : State, exec com s = .next s' ∧ ext (s'.reg o) 6 0 = ext v 6 0 ∧
      s' = { s with csr := s'.csr } ∧ ∀ p, p ≠ o → s'.reg p = s.reg p) ∧
    ((ext (s.reg o) 6 0 ≠ ext v 6 0 ∨ bitOf v 7 = true) → (∀ x ∈ k.writers, x.qp = none ∧ x.pos < 1024) →
      (s.chanWaiters c = [] → ∃ s' : State, exec com s = .next s' ∧ ext (s'.reg o) 6 0 = ext v 6 0 ∧ s'.chan c = {} ∧
        s'.reg 0x1402000 = count ∧ s' = { s with csr := s'.csr, chans := s'.chans } ∧
        (∀ p, p ≠ o → p ≠ 0x1402000 → s'.reg p = s.reg p) ∧ ∀ d, d ≠ c.val → s'.chan d = s.chan d) ∧
      (∀ t, s.chanWaiters c = [t] → (s.thread t).exc = false → ∃ s' : State, exec com s = .next s' ∧
        ext (s'.reg o) 6 0 = ext v 6 0 ∧ s'.chan c = {} ∧ s'.reg 0x1402000 = count ∧
        (s'.thread t).ecause = 0xD ∧ (s'.thread t).epcx = (s.thread t).pc ∧
        (s'.thread t).einfo = BitVec.ofNat 42 (chF (s.thread t).bw + 2 ^ 10 * 5) ∧ (s'.thread t).staged = (s.thread t).staged ∧
        ∀ u, u ≠ t → s'.thread u = s.thread u))

/-- (a) R247 to R250, R254: a channel instruction raises the first of its faults, PRIV with the channel number or CHAN-FAULT;
LENGTH and FORMAT discard the staged message. CHW stages a word. (b) R251, R252, R256, R258, R282, R283: CHR takes a word of its
channel or blocks; CHC commits the staged message. (c) R251 to R253, R257, R398, R405: a waiting commit is accepted when it
fits, and its thread goes on; the oldest message goes to a waiting reader; a HOST message reaches the receive queue, its entry with LEN,
PHASE and the words at the address of the ring's entry. (d) R254: a CHAN_CFG write sets SLICE and VALID; one that changes them, or has CLEAR, discards the queue, counted in CNT_DISCARD, and threads blocked
on the channel raise UNOWNED. -/
def Obligations.ChannelsCarryMessages : Prop :=
  Sys2Proof.Spec.ChannelFaultsComeInOrder ∧
  Sys2Proof.Spec.ChannelCommandsAndReads ∧
  Sys2Proof.Spec.AcceptanceMovesMessages ∧
  Sys2Proof.Spec.ChannelConfigurationDiscards

/-- R265 to R268: HALT, RESUME, STEP and KILL of the selected thread, while the operation is in progress: CODE STATE where Table 9.5
does not allow it, otherwise the effect and CODE OK; another operation or thread is left alone. -/
def Sys2Proof.Spec.DebugControlsThreads : Prop :=
  ∀ (t : Fin 1024) (s : State) (op : Fin 4) (c : Instr),
    c = (match op with
      | 0 => Instr.halt t
      | 1 => .resume t
      | 2 => .kill t
      | 3 => .step t) →
    let x := s.thread t
    let going := bitOf (s.reg 0x1400108) 13 = true ∧ ext (s.reg 0x1400104) 2 0 = op.val + 1 ∧ ext (s.reg 0x1400100) 9 0 = t.val
    let ends (s' : State) (code : Nat) : Prop := bitOf (s'.reg 0x1400108) 13 = false ∧ ext (s'.reg 0x1400108) 16 15 = code
    let allowed := match op with
      | 0 => x.st = .waitTask ∨ x.st = .run ∨ x.st = .blocked
      | 2 => x.st ≠ .waitTask
      | _ => x.st = .halted ∧ x.frz = false
    (¬going → exec c s = .next s) ∧
    (going → ¬allowed → ∃ s' : State, exec c s = .next s' ∧ ends s' 2 ∧ s' = { s with csr := s'.csr } ∧
      ∀ p, p ≠ 0x1400108 → s'.reg p = s.reg p) ∧
    (going → allowed →
      (op = 0 → (x.await = none ∧ x.gathered = false ∧ (x.st = .run → x.rep = none)) → ∃ s' : State, exec c s = .next s' ∧ ends s' 0 ∧
        s'.thread t = { x with st := .halted, prior := if x.st = .waitTask then .waitTask else .run,
                               priorBlk := if x.st = .blocked then x.blk else .none, blk := .none, stepping := false, dbg := true } ∧
        (∀ n, ∀ k ∈ (s'.chan n).writers, k ∈ (s.chan n).writers) ∧ (∀ u, u ≠ t.val → s'.thread u = s.thread u) ∧ s'.mem = s.mem) ∧
      (op = 0 → (x.await ≠ none ∨ x.gathered = true ∨ (x.st = .run ∧ x.rep ≠ none)) → exec c s = .next s) ∧
      (op = 1 → ∃ s' : State, exec c s = .next s' ∧ ends s' 0 ∧ s' = { s with csr := s'.csr, threads := s'.threads } ∧
        s'.thread t = { x with st := x.prior, priorBlk := .none, dbg := false } ∧ ∀ u, u ≠ t.val → s'.thread u = s.thread u) ∧
      (op = 3 → ∃ s' : State, exec c s = .next s' ∧ ends s' 0 ∧ s' = { s with csr := s'.csr, threads := s'.threads } ∧
        s'.thread t = { x with st := x.prior, priorBlk := .none, dbg := false, stepping := true } ∧
        ∀ u, u ≠ t.val → s'.thread u = s.thread u) ∧
      (op = 2 → s.quiet t = false → exec c s = .next s) ∧
      (op = 2 → s.quiet t = true → (∀ u, isChild s t u = false) → ∃ s' : State, exec c s = .next s' ∧ ends s' 0 ∧
        let y := s'.thread t
        y.st = .waitTask ∧ y.hasTask = false ∧ y.child = false ∧ y.staged = [] ∧ y.outs = [] ∧ y.reply = [] ∧ y.timer = none ∧
        y.stores = [] ∧ y.rep = none ∧ (∀ n, ((s'.chan n).holder.map fun h => h.val) ≠ some t.val) ∧
        (∀ n, (s'.sem n).held = true → (s'.sem n).owner ≠ BitVec.ofNat 14 t.val) ∧
        (x.hasTask = true → let q := t.val / 256
          (s'.slot q (x.handle.toNat % 4096)).st = .free ∧ (s'.slot q (x.handle.toNat % 4096)).last = 2) ∧
        (∀ u, u ≠ t.val → s'.thread u = s.thread u) ∧ s'.mem = s.mem))

/-- R269: DBG_DATA reads and writes the item of DBG_SEL.ITEM of a HALTED or FAULTED thread; of another it reads zero, ignores writes
and sets NOT_HALTED. -/
def Sys2Proof.Spec.DebugDataReachesTheSelectedItem : Prop :=
  ∀ (s : State) (v : Pair),
    let t := ext (s.reg 0x1400100) 9 0
    let n := ext (s.reg 0x1400100) 17 10
    let x := s.thread t
    let stopped := x.st = .halted ∨ x.st = .faulted
    let reads (r : Pair) : Prop := exec (.dbgDataAccess false v) s = .next { s with readData := BitVec.ofNat 64 r.toNat }
    let writes (s' : State) : Prop := exec (.dbgDataAccess true v) s = .next s'
    writesReg s 0x1400114 →
    (¬stopped → ∃ s' : State, writes s' ∧ bitOf (s'.reg 0x1400108) 17 = true ∧ s' = { s with csr := s'.csr } ∧
      exec (.dbgDataAccess false v) s = .next { s' with readData := 0 }) ∧
    (stopped →
      (n < 24 → reads (BitVec.ofNat 28 (x.r n).toNat) ∧ writes (s.modThread t fun x => x.setR n (BitVec.ofNat 14 v.toNat))) ∧
      (24 ≤ n → n < 32 → reads (x.bank (n - 24)) ∧ writes (s.modThread t fun x => x.setBank (n - 24) v)) ∧
      (n = 32 → reads (BitVec.ofNat 28 x.pc.toNat) ∧ writes (s.modThread t fun x => { x with pc := BitVec.ofNat 16 v.toNat })) ∧
      (40 ≤ n → n ≤ 56 → reads (srView s t (n - 40)) ∧ writes (s.modThread t fun x => srWrite x (n - 40) v)) ∧
      (64 ≤ n → n ≤ 95 → reads (BitVec.ofNat 28 (x.staged.getD (n - 64) 0).toNat) ∧ writes s) ∧
      ((32 < n ∧ n < 40) ∨ (56 < n ∧ n < 64) ∨ 95 < n → reads 0 ∧ writes s))

/-- (a) R265 to R268: HALT, RESUME, STEP and KILL of the selected thread, while the operation is in progress: CODE STATE where
Table 9.5 does not allow it, otherwise the effect and CODE OK; another operation or thread is left alone. (b) R269: DBG_DATA
reads and writes the item of DBG_SEL.ITEM of a HALTED or FAULTED thread; of another it reads zero, ignores writes and sets
NOT_HALTED. -/
def Obligations.DebugControlsAndReadsThreads : Prop :=
  Sys2Proof.Spec.DebugControlsThreads ∧
  Sys2Proof.Spec.DebugDataReachesTheSelectedItem

namespace Sys2Proof.Spec

/-! ## Coprocessors -/

/-- The counter at o counts n more, saturating (R11). -/
def counts (s s' : State) (o n : Nat) : Prop := s'.reg o = BitVec.ofNat 28 (min ((s.reg o).toNat + n) (2 ^ 28 - 1))
/-- COP register o of unit number n (R290). -/
abbrev copAt (n o : Nat) : Nat := 0x1800000 + 0x1000 * n + o
/-- Unit number of UNIT u for thread t: 4 × cluster + u. -/
abbrev unitAt (t u : Nat) : Nat := 4 * (t / 128) + u
/-- Context k of unit n is free (R273). -/
def ctxFree (s : State) (n k : Nat) : Prop := k < 4 ∧ (s.ctx n k).holder = none ∧ (s.ctx n k).releasing = false
/-- Thread t holds no context of unit n. -/
def holdsNone (s : State) (n t : Nat) : Prop := ∀ k, k < 4 → (s.ctx n k).holder.map Fin.val ≠ some t
/-- Commands of context k that have not completed. -/
def busyCmds (s : State) (n k : Nat) : List Cmd := (s.unit n).cmds.filter fun c => decide (c.ctx.val = k)
/-- Those, and the commands that the release of context k waits for: its holder had them outstanding on the unit (R273). -/
def outCmds (s : State) (n k : Nat) : List Cmd := (s.unit n).cmds.filter fun c => decide (c.ctx.val = k) || c.holds.contains k
/-- Everything but the contexts, waiters and queue of unit n, the threads, the CSRs and the device's choices is as before. -/
def unitOnly (s s' : State) (n : Nat) : Prop :=
  s' = { s with units := s'.units, threads := s'.threads, csr := s'.csr, free := s'.free } ∧ ∀ m, m ≠ n → s'.unit m = s.unit m
/-- Context k of unit n is granted to thread t, counted. -/
def granted (s s' : State) (n k : Nat) (t : Fin 1024) : Prop :=
  (∀ j, s'.ctx n j = if j = k then { holder := some t, last := BitVec.ofNat 10 t.val } else s.ctx n j) ∧
  (s'.unit n).cmds = (s.unit n).cmds ∧ counts s s' (copAt n 0x30) 1 ∧ ∀ o, o ≠ copAt n 0x30 → s'.reg o = s.reg o
/-- A failed completion word of UNIT u. -/
def failed (u : Nat) (c : Word) : Bool := decide (ext c 1 0 = u) && decide (ext c 11 6 ≠ 0)
/-- No failed completion of UNIT u waits for thread t. -/
def noneFailed (s : State) (t u : Nat) : Prop := ∀ c ∈ (s.thread t).copq, failed u c = false

/-- CMD is defined for UNIT u (Tables 10.6 to 10.8). -/
def cmdKnown (u cmd : Nat) : Bool :=
  (match u with
    | 0 => [0, 1]
    | 1 => [0, 1, 2, 3, 4, 5, 6, 7, 8, 9, 10, 11]
    | _ => [0, 1, 2, 3, 16]).contains cmd
/-- The argument breaks no rule of R287 to R289; par is PARAM of the context. -/
def argGood (u cmd : Nat) (ptr : Bool) (arg par : Nat) : Bool :=
  let n := arg % 2 ^ 12 + 1
  let one (b : Nat) : Bool := decide (arg / 2 ^ b % 2 = 1)
  match u with
  | 0 => decide (arg < 2 ^ 14) && (ptr || decide (arg / 2 ^ 5 % 2 ^ 7 = 0 ∧ n ≤ 24)) && (decide (cmd ≠ 1) || !one 13)
  | 1 => decide (arg < if ptr then 2 ^ 12 else 2 ^ 5) && (decide (cmd ≠ 8) || ptr || decide (n ≤ 16)) &&
      (decide (cmd ≠ 11) || decide (par / 2 ^ 4 % 4 ≤ 2 ∧ 2 ≤ par % 2 ^ 4 + 1))
  | _ => if cmd = 0 ∨ cmd = 2 then decide (arg = 0)
      else decide (arg < 2 ^ 14) && (ptr || decide (n ≤ 96)) && (decide (cmd = 16) || !one 13)
/-- COP-FAULT code of the CPQ of word w at its execute, with PARAM as the CPM writes before it leave it (R274, R276, R278). -/
def cpqCode (s : State) (t : Nat) (w : Pair) : Option Nat :=
  let u := ext w 21 20
  let cmd := ext w 19 14
  let ra := (s.thread t).rp (ext w 12 8)
  let arg := if bitOf w 13 then ra.toNat / 2 ^ 14 else ra.toNat
  let par (k : Nat) := (((s.unit (unitAt t u)).cpms.filter fun p => decide (p.ctx.val = k ∧ p.reg.toNat = 57)).map (·.v)).getLast?.getD
    ((s.ctx (unitAt t u) k).ureg 57)
  match (s.unit (unitAt t u)).held t with
  | none => some 0x21
  | some k =>
    if cmdKnown u cmd = false then some 0x22
    else if u = 1 ∧ cmd = 11 ∧ bitOf w 13 = false then some 0x23
    else if argGood u cmd (bitOf w 13) arg (par k).toNat = false then some 0x24
    else none
/-- Commands of context k whose operands have not been read: not run, and with no record waiting for its disposal (R278). -/
def unreadCmds (s : State) (n k : Nat) : List Cmd :=
  (s.unit n).cmds.filter fun c => decide (c.ctx.val = k) && c.done.isNone && !s.offers.any fun o => decide (o.cmd = some (n, c.tag))
/-- Unit registers that a CPM writes, and the bits that it can write (Table 10.1). -/
def uregKeeps (i : Nat) : Nat :=
  if i ≤ 48 ∨ i = 50 ∨ i = 57 then 2 ^ 28
  else if i = 49 ∨ i = 51 then 2 ^ 14
  else if i = 52 then 2 ^ 8
  else if i = 55 ∨ i = 56 then 2 ^ 16
  else 0
/-- The context's unit registers after a CPM write of v to register r (Table 10.1). -/
def cpmWrites (a b : Ctx) (r : Nat) (v : Pair) : Prop :=
  ∀ i, b.ureg i = if i = r ∧ uregKeeps i ≠ 0 then BitVec.ofNat 28 (v.toNat % uregKeeps i) else a.ureg i
/-- Thread t takes COP-FAULT with EINFO info at its pc: its state saved, and the fault counted. -/
def copFaults (s s' : State) (t n info : Nat) : Prop :=
  let x := s.thread t
  let y := s'.thread t
  y.ecause = 0xE ∧ y.einfo = BitVec.ofNat 42 info ∧ y.epcx = x.pc ∧ y.exc = true ∧ y.d = x.d + 2 ∧ y.esImp = false ∧
    counts s s' (copAt n 0x28) 1 ∧ (∀ u, u ≠ t → s'.thread u = s.thread u) ∧ s'.units = s.units

end Sys2Proof.Spec

/-- R272 to R274: CPL completes for a holder, takes a free context of the device's choice, or blocks; CONTEXT_GRANT gives a free
context to a waiting thread; CPU releases, deferred while the thread has commands outstanding on the unit; a released context is
cleared. -/
def Sys2Proof.Spec.ContextsAreGrantedAndReleased : Prop :=
  (∀ (t : Fin 1024) (s : State) (w : Pair),
    let n := unitAt t (ext w 21 20)
    (Issues s t 0x2C 0 w →
      (¬holdsNone s n t → exec (.cpl t) s = .next (completes s t id)) ∧
      (holdsNone s n t → ((s.unit n).waiters ≠ [] ∨ ∀ k, ¬ctxFree s n k) → exec (.cpl t) s =
        .next ((s.modThread t fun x => { x with st := .blocked, blk := .cpl, bw := w }).modUnit n fun u =>
          { u with waiters := u.waiters ++ [t] })) ∧
      (holdsNone s n t → (s.unit n).waiters = [] → (∃ k, ctxFree s n k) →
        ∃ (s' : State) (k : Nat), ctxFree s n k ∧ exec (.cpl t) s = .next s' ∧ granted s s' n k t ∧ unitOnly s s' n ∧
          (s'.unit n).waiters = [] ∧ s'.thread t = (s.thread t).complete ∧ ∀ u, u ≠ t.val → s'.thread u = s.thread u)) ∧
    (Issues s t 0x2C 1 w → noneFailed s t (ext w 21 20) →
      (holdsNone s n t → exec (.cpu t) s = .next (completes s t id)) ∧
      (∀ k, (s.unit n).held t = some k → ∃ s' : State, exec (.cpu t) s = .next s' ∧ unitOnly s s' n ∧ s'.csr = s.csr ∧
        s'.thread t = (s.thread t).complete ∧ (∀ u, u ≠ t.val → s'.thread u = s.thread u) ∧
        (s'.unit n).cmds = ((s.unit n).cmds.map fun c => if c.thread = t then { c with holds := k :: c.holds } else c) ∧
        (s'.unit n).waiters = (s.unit n).waiters ∧ (∀ j, j ≠ k → s'.ctx n j = s.ctx n j) ∧
        s'.ctx n k = if ∀ c ∈ (s.unit n).cmds, c.thread ≠ t then {} else { s.ctx n k with holder := none, releasing := true }))) ∧
  (∀ (c : Fin 8) (u : Fin 3) (k : Fin 4) (s : State),
    let n := 4 * c.val + u.val
    ((s.unit n).waiters = [] ∨ (∀ j, ¬ctxFree s n j) → exec (.contextGrant c u) s = .next s) ∧
    ((s.unit n).waiters ≠ [] → (∃ j, ctxFree s n j) → ∃ (s' : State) (t : Fin 1024) (j : Nat), t ∈ (s.unit n).waiters ∧ ctxFree s n j ∧
      exec (.contextGrant c u) s = .next s' ∧ granted s s' n j t ∧ unitOnly s s' n ∧
      (s'.unit n).waiters = (s.unit n).waiters.filter (fun x => decide (x ≠ t)) ∧
      s'.thread t = (s.thread t).complete ∧ ∀ v, v ≠ t.val → s'.thread v = s.thread v) ∧
    ((s.ctx n k).releasing = false ∨ outCmds s n k ≠ [] → exec (.contextRelease c u k) s = .next s) ∧
    ((s.ctx n k).releasing = true → outCmds s n k = [] → ∃ s' : State, exec (.contextRelease c u k) s = .next s' ∧
      s' = { s with units := s'.units } ∧ s'.ctx n k = {} ∧ (∀ j, j ≠ k.val → s'.ctx n j = s.ctx n j) ∧
      (s'.unit n).cmds = (s.unit n).cmds ∧ ∀ m, m ≠ n → s'.unit m = s.unit m))

/-- R274 to R278, R281, R285: CPQ queues a command with the lowest free tag, or raises its COP-FAULT, or blocks; a squashed one is
counted only. CPM writes a unit register, behind the context's commands that have not read their operands, or asks for one; CPS
branches on the unit's work. -/
def Sys2Proof.Spec.CommandsAreQueuedInOrder : Prop :=
  ∀ (t : Fin 1024) (s : State) (w : Pair),
    let x := s.thread t
    let u := ext w 21 20
    let n := unitAt t u
    let leaves (e : Out) : Prop := ∃ s' : State, e = .next s' ∧ counts s s' (copAt n 0x24) 1 ∧ s' = { s with csr := s'.csr } ∧
      ∀ o, o ≠ copAt n 0x24 → s'.reg o = s.reg o
    (s.squashedWord t 0x2D = none → exec (.cpq t true) s = .next s) ∧ (s.squashedWord t 0x2E = none → exec (.cpm t true) s = .next s) ∧
    (s.squashedWord t 0x2D = some w → (bitOf w 13 = true → x.stores = []) →
      (cpqCode s t w = none → (∃ i, i < 16 ∧ ∀ c ∈ (s.unit n).cmds, c.tag ≠ i) → leaves (exec (.cpq t true) s)) ∧
      (cpqCode s t w ≠ none ∨ (∀ i, i < 16 → ∃ c ∈ (s.unit n).cmds, c.tag = i) → exec (.cpq t true) s = .next s)) ∧
    (s.squashedWord t 0x2E = some w →
      (bitOf w 19 = false → ¬holdsNone s n t → leaves (exec (.cpm t true) s)) ∧
      (bitOf w 19 = true ∨ holdsNone s n t → exec (.cpm t true) s = .next s)) ∧
    (noneFailed s t u →
    (Issues s t 0x2D 0 w → (bitOf w 13 = true → x.stores ≠ [] → exec (.cpq t false) s = .next s) ∧
      ((bitOf w 13 = true → x.stores = []) →
        (∀ e, cpqCode s t w = some e → x.exc = false →
          ∃ s' : State, exec (.cpq t false) s = .next s' ∧ copFaults s s' t n (u + 2 ^ 6 * e)) ∧
        (cpqCode s t w = none → (∀ i, i < 16 → ∃ c ∈ (s.unit n).cmds, c.tag = i) →
          exec (.cpq t false) s = .next (s.modThread t fun x => { x with st := .blocked, blk := .cpq, bw := w })) ∧
        (∀ i k, cpqCode s t w = none → (s.unit n).held t = some k → i < 16 → (∀ c ∈ (s.unit n).cmds, c.tag ≠ i) →
          (∀ j, j < i → ∃ c ∈ (s.unit n).cmds, c.tag = j) →
          ∃ (s' : State) (c : Cmd), exec (.cpq t false) s = .next s' ∧ unitOnly s s' n ∧
            (s'.unit n).cmds = (s.unit n).cmds ++ [c] ∧ (s'.unit n).ctxs = (s.unit n).ctxs ∧ (s'.unit n).cpms = (s.unit n).cpms ∧
            c.tag = i ∧ c.thread = t ∧ c.ctx.val = k ∧ c.cmd.toNat = ext w 19 14 ∧ c.ptr = bitOf w 13 ∧ c.done = none ∧ c.dead = false ∧
            c.bank = x.bank (ext w 7 5) ∧ c.arg = x.rp (ext w 12 8) ∧ c.epoch = s.epc.epoch ∧ counts s s' (copAt n 0x20) 1 ∧
            s'.thread t = (x.setR (ext w 4 0) (BitVec.ofNat 14 i)).complete ∧
            ∀ v, v ≠ t.val → s'.thread v = s.thread v))) ∧
    (Issues s t 0x2E 0 w →
      (holdsNone s n t → x.exc = false → ∃ s' : State, exec (.cpm t false) s = .next s' ∧ copFaults s s' t n (u + 2 ^ 6 * 0x21)) ∧
      (∀ k, (s.unit n).held t = some k →
        (bitOf w 19 = true → ∃ aw : Await, exec (.cpm t false) s = .next (s.modThread t fun x => { x with await := some aw }) ∧
          aw.dst = ext w 18 14 ∧ aw.pair = true ∧ aw.ans = none ∧ aw.after = none ∧ aw.cas = none ∧
          aw.cpm.map (fun q => (q.1.val, q.2.toNat)) = some (u, ext w 13 8)) ∧
        (bitOf w 19 = false → ∃ s' : State, exec (.cpm t false) s = .next s' ∧ unitOnly s s' n ∧ s'.csr = s.csr ∧
          s'.thread t = x.complete ∧ (∀ v, v ≠ t.val → s'.thread v = s.thread v) ∧ (s'.unit n).cmds = (s.unit n).cmds ∧
          (∀ j, j ≠ k → s'.ctx n j = s.ctx n j) ∧
          (unreadCmds s n k = [] → (s'.unit n).cpms = (s.unit n).cpms ∧ cpmWrites (s.ctx n k) (s'.ctx n k) (ext w 13 8) (x.rp (ext w 18 14))) ∧
          (∀ pre c, unreadCmds s n k = pre ++ [c] → s'.ctx n k = s.ctx n k ∧ ∃ p : CpmWrite, (s'.unit n).cpms = (s.unit n).cpms ++ [p] ∧
            p.ctx.val = k ∧ p.tag = c.tag ∧ p.reg.toNat = ext w 13 8 ∧ p.v = x.rp (ext w 18 14))))) ∧
    (Issues s t 0x2F 0 w →
      let busy := (s.unit n).cmds.any fun c => decide (c.thread = t) && !c.dead
      (busy = decide (ext w 19 18 = 0) → exec (.cps t) s = .next (jumps s t (BitVec.ofNat 16 (ext w 15 0)))) ∧
      (busy ≠ decide (ext w 19 18 = 0) → exec (.cps t) s = .next (completes s t id))))

/-- (a) R272 to R274: CPL completes for a holder, takes a free context of the device's choice, or blocks; CONTEXT_GRANT gives a
free context to a waiting thread; CPU releases, deferred while the thread has commands outstanding on the unit; a released context is
cleared. (b) R274 to R278, R281, R285: CPQ queues a command with the lowest free tag, or raises its COP-FAULT, or blocks; a squashed one
is counted only. CPM writes a unit register, behind the context's commands that have not read their operands, or asks for one; CPS
branches on the unit's work. What a squashed CPQ or CPM does beyond its count is the model's reading (log 18, R281), and so is a CPM write
that waits in its unit while its thread goes on (log 9). -/
def Obligations.CoprocessorContextsAndCommands : Prop :=
  Sys2Proof.Spec.ContextsAreGrantedAndReleased ∧
  Sys2Proof.Spec.CommandsAreQueuedInOrder

/-- R282 to R284: a failed completion is raised as COP-FAULT, with the completion as EINFO and QUEUED, at the first instruction that
names its unit, at CHR of COPROC, or at DONE; the instruction has no effect and consumes it. -/
def Sys2Proof.Spec.FailedCompletionsAreRaisedOnce : Prop :=
  ∀ (t : Fin 1024) (s : State) (w : Pair) (pre post : List Word) (c : Word) (com : Instr),
    let x := s.thread t
    let u := ext c 1 0
    x.copq = pre ++ c :: post → ext c 11 6 ≠ 0 → x.exc = false →
    ((∀ d ∈ pre, failed u d = false) ∧ ext w 21 20 = u ∧
        ((Issues s t 0x2C 1 w ∧ com = .cpu t) ∨ (Issues s t 0x2D 0 w ∧ com = .cpq t false ∧ (bitOf w 13 = true → x.stores = [])) ∨
          (Issues s t 0x2E 0 w ∧ com = .cpm t false) ∨ (Issues s t 0x2F 0 w ∧ com = .cps t))) ∨
      (pre = [] ∧ Issues s t 0x29 0 w ∧ chF w = 0x104 ∧ com = .chr t) ∨
      ((∀ d ∈ pre, ext d 11 6 = 0) ∧ Issues s t 0x25 0 w ∧ x.stores = [] ∧ x.hasTask = true ∧ com = .done t) →
    ∃ s' : State, exec com s = .next s' ∧ copFaults s s' t (unitAt t u) (c.toNat % 2 ^ 12 + 2 ^ 12) ∧
      (s'.thread t).copq = pre ++ post

/-- R277, R278, R282: a completion goes to COPROC of the issuing thread, in issue order, with UNIT, TAG, STATUS and U, and frees the tag
for the threads blocked on CPQ; it waits while its channel holds 48 words, and no other thread's completion for it; a thread that waits
in CHR takes it; after TASK or a kill it is discarded. A CPM read answers when the context's commands have run and its CPM writes have taken effect. -/
def Sys2Proof.Spec.CompletionsReachTheirThread : Prop :=
  (∀ (cl : Fin 8) (u : Fin 3) (s : State),
    let n := 4 * cl.val + u.val
    ((∀ c ∈ (s.unit n).cmds, c.done = none) → exec (.copCompletion cl u) s = .next s) ∧
    ∀ (pre post : List Cmd) (c : Cmd) (st : BitVec 6) (z : Bool), s.Canon → (s.unit n).cmds = pre ++ c :: post → c.done = some (st, z) → c.tag < 16 →
      (∀ d ∈ pre, d.thread ≠ c.thread ∧ (d.done = none ∨ (d.dead = false ∧ 48 ≤ (s.thread d.thread).copq.length))) →
      let wd : Word := BitVec.ofNat 14 (u.val + c.tag * 2 ^ 2 + st.toNat * 2 ^ 6 + if z then 2 ^ 12 else 0)
      let woken (v : Nat) : Thread :=
        let y := s.thread v
        if y.st = .blocked ∧ y.blk = .cpq ∧ v / 128 = cl.val ∧ ext y.bw 21 20 = u.val then { y with st := .run, blk := .none } else y
      let x := s.thread c.thread
      let takes := x.st = .blocked ∧ x.blk = .chr ∧ chF x.bw = 0x104
      (c.dead = false → 48 ≤ x.copq.length → (∀ d ∈ post, d.thread = c.thread ∨ d.done = none) → exec (.copCompletion cl u) s = .next s) ∧
      (c.dead = true ∨ x.copq.length < 48 → ∃ s' : State, exec (.copCompletion cl u) s = .next s' ∧
        (s'.unit n).cmds = (s.unit n).cmds.filter (fun d => decide (d.tag ≠ c.tag)) ∧ (s'.unit n).ctxs = (s.unit n).ctxs ∧
        (∀ m, m ≠ n → s'.unit m = s.unit m) ∧
        (c.dead = true ∨ ¬takes ∨ st.toNat = 0 → s'.mem = s.mem) ∧ (∀ v, v ≠ c.thread.val → s'.thread v = woken v) ∧
        (c.dead = true → s'.thread c.thread = woken c.thread) ∧
        (c.dead = true → st.toNat ≠ 0 → counts s s' (copAt (unitAt c.thread u) 0x2C) 1) ∧
        (c.dead = false → ¬takes → s'.thread c.thread = { woken c.thread with copq := x.copq ++ [wd] }) ∧
        (c.dead = false → takes → x.copq = [] → st.toNat = 0 → s'.thread c.thread = (x.setR (ext x.bw 21 17) wd).complete) ∧
        (c.dead = false → takes → x.copq = [] → st.toNat ≠ 0 → x.exc = false →
          (s'.thread c.thread).ecause = 0xE ∧ (s'.thread c.thread).einfo = BitVec.ofNat 42 (wd.toNat % 2 ^ 12 + 2 ^ 12) ∧
          (s'.thread c.thread).epcx = x.pc))) ∧
  (∀ (t : Fin 1024) (s : State) (aw : Await) (u : Fin 3) (i : BitVec 6) (k : Nat),
    let x := s.thread t
    let n := unitAt t u
    x.st = .run → x.await = some aw → aw.cpm = some (u, i) → aw.pair = true → aw.after = none → (s.unit n).held t = some k →
      x.stores.filter PStore.arrived = [] →
      ((∃ c ∈ busyCmds s n k, c.done = none) ∨ (∃ p ∈ (s.unit n).cpms, p.ctx.val = k) → exec (.loadResponse t) s = .next s) ∧
      ((∀ c ∈ busyCmds s n k, c.done.isSome = true) → (∀ p ∈ (s.unit n).cpms, p.ctx.val ≠ k) → exec (.loadResponse t) s = .next (completes s t fun x =>
        { x.setRp aw.dst (if i = 62 then BitVec.ofNat 28 ((outCmds s n k).length % 32 + ext ((s.ctx n k).ureg 62) 10 5 * 2 ^ 5)
            else (s.ctx n k).ureg i.toNat) with await := none })))

/-- (a) R282 to R284: a failed completion is raised as COP-FAULT, with the completion as EINFO and QUEUED, at the first
instruction that names its unit, at CHR of COPROC, or at DONE; the instruction has no effect and consumes it. (b) R277, R278,
R282: a completion goes to COPROC of the issuing thread, in issue order, with UNIT, TAG, STATUS and U, and frees the tag for the
threads blocked on CPQ; it waits while its channel holds 48 words, and no other thread's completion for it; a thread that waits in CHR
takes it; after TASK or a kill it is discarded. That it waits is the model's reading (log 18, R282). A CPM read answers when the context's commands have run and its CPM writes have taken effect. -/
def Obligations.CoprocessorCompletions : Prop :=
  Sys2Proof.Spec.FailedCompletionsAreRaisedOnce ∧
  Sys2Proof.Spec.CompletionsReachTheirThread

namespace Sys2Proof.Spec

/-! ## Coprocessor commands -/

/-- The oldest command of context k of unit n that has not run is c, with CMD code; nothing stops the unit (R278, R418). -/
structure Oldest (s : State) (n k code : Nat) (c : Cmd) : Prop where
  oldest : (s.unit n).cmds.find? (fun c => decide (c.ctx.val = k) && c.done.isNone) = some c
  ring : ∀ o ∈ s.offers, o.cmd ≠ some (n, c.tag)
  code : c.cmd.toNat = code
  up : s.fatal = 0 ∧ s.pins.cclkLost = false ∧ s.domOn (3 + n / 8) = true
  wake : c.ptr = true → s.asleepIn c.thread (s.cmdTouch (n % 4) c (s.ctx n k)) = none
/-- It runs: in pointer mode its channels have served it every DRAM line that it touches (R336), and no CPM write waits. -/
structure Runs (s : State) (n k code : Nat) (c : Cmd) : Prop extends Oldest s n k code c where
  lines : c.ptr = true → ∀ w ∈ s.cmdWants n c (s.ctx n k), s.visited (.cmd n c.tag) w.lines = true
  cpms : (s.unit n).cpms = []
/-- The argument word, and N of it (R276, R287 to R289). -/
def argOf (c : Cmd) : Nat := if c.ptr then c.arg.toNat / 2 ^ 14 else c.arg.toNat
def lenOf (u : Nat) (c : Cmd) : Nat := argOf c % (if c.ptr ∨ u = 2 then 2 ^ 12 else 2 ^ 5) + 1
def argBit (c : Cmd) (i : Nat) : Bool := decide (argOf c / 2 ^ i % 2 = 1)
/-- n addresses from an offset in a bank; offsets wrap in the bank (R279). -/
def span (bank : Pair) (off n : Nat) : List Nat := (List.range n).map fun i => bank.toNat * 2 ^ 14 + (off + i) % 2 ^ 14
def inSpan (c : Cmd) (off n : Nat) : List Nat := span c.bank (c.arg.toNat % 2 ^ 14 + off) n
def auxSpan (x : Ctx) (n : Nat) : List Nat := span (x.ureg 48) ((x.ureg 49).toNat % 2 ^ 14) n
def outSpan (x : Ctx) (n : Nat) : List Nat := span (x.ureg 50) ((x.ureg 51).toNat % 2 ^ 14) n
/-- V word i of a context (R275). -/
def vWord (x : Ctx) (i : Nat) : Word := BitVec.ofNat 14 ((x.ureg (i / 2)).toNat / 2 ^ (14 * (i % 2)))
/-- The m operand words: V words from v on, or, in pointer mode, what reads as the issuing thread answer at `as`; `aux`: the operand at
AUX. -/
def gets (s : State) (n : Nat) (c : Cmd) (aux : Bool) (as : List Nat) (v m : Nat) (ws : List Word) (s' : State) : Prop :=
  if c.ptr then s.readFor c.thread (s.asCmd n c aux) as = (.ok ws, s')
  else ws = ((List.range m).map fun j => vWord (s.ctx n c.ctx.val) (v + j)) ∧ s' = s
/-- The words go to V words from v on, or, in pointer mode, to `as` by writes of the issuing thread. -/
def puts (s : State) (n : Nat) (c : Cmd) (aux : Bool) (as : List Nat) (v : Nat) (ws : List Word) (s' : State) : Prop :=
  if c.ptr then s.writeFor c.thread (s.asCmd n c aux) (as.zip ws) = (none, s')
  else s' = { s with units := s'.units } ∧ (∀ m, m ≠ n → s'.unit m = s.unit m) ∧ (s'.unit n).cmds = (s.unit n).cmds ∧
    (s'.unit n).waiters = (s.unit n).waiters ∧ (s'.unit n).cpms = (s.unit n).cpms ∧ (∀ j, j ≠ c.ctx.val → s'.ctx n j = s.ctx n j) ∧
    s'.ctx n c.ctx.val = { s.ctx n c.ctx.val with uregs := (s'.ctx n c.ctx.val).uregs } ∧
    (∀ i, i < 96 → vWord (s'.ctx n c.ctx.val) i =
      if v ≤ i ∧ i < v + ws.length then ws.getD (i - v) 0 else vWord (s.ctx n c.ctx.val) i) ∧
    ∀ i, 48 ≤ i → (s'.ctx n c.ctx.val).ureg i = (s.ctx n c.ctx.val).ureg i
/-- Command c ends, from state y: STATUS and U are kept for its completion, OLEN and RESULT are written, AOFF and OOFF have advanced by
aux and out in pointer mode, and nothing else of the machine changes but that its visits of DRAM lines end; f is what else it changes of
its context (R278, R279). -/
def ends (y s' : State) (n : Nat) (c : Cmd) (st : Nat) (u : Bool) (res : Option Nat) (olen aux out : Nat) (f : Ctx → Ctx) : Prop :=
  let a := f (y.ctx n c.ctx.val)
  let b := s'.ctx n c.ctx.val
  s' = { y with units := s'.units, free := s'.free, dchans := if c.ptr then (y.dropHolder (.cmd n c.tag)).dchans else y.dchans } ∧
    (∀ m, m ≠ n → s'.unit m = y.unit m) ∧ (s'.unit n).cpms = (y.unit n).cpms ∧
    (s'.unit n).cmds = (y.unit n).cmds.map (fun d => if d.tag = c.tag then { d with done := some (BitVec.ofNat 6 st, u) } else d) ∧
    (s'.unit n).waiters = (y.unit n).waiters ∧ (∀ j, j ≠ c.ctx.val → s'.ctx n j = y.ctx n j) ∧ b = { a with uregs := b.uregs } ∧
    (∀ r, res = some r → b.ureg 53 = BitVec.ofNat 28 r) ∧ b.ureg 54 = BitVec.ofNat 28 olen ∧
    b.ureg 49 = (if c.ptr then BitVec.ofNat 28 (((a.ureg 49).toNat + aux) % 2 ^ 14) else a.ureg 49) ∧
    b.ureg 51 = (if c.ptr then BitVec.ofNat 28 (((a.ureg 51).toNat + out) % 2 ^ 14) else a.ureg 51) ∧
    b.ureg 62 = (if st = 0 then a.ureg 62 else BitVec.ofNat 28 (st * 2 ^ 5)) ∧
    ∀ i, i ≠ 49 → i ≠ 51 → i ≠ 53 → i ≠ 54 → i ≠ 62 → b.ureg i = a.ureg i
/-- Command c stops with ORDER: its STATUS and the fault code of CSTAT, and nothing else (R289, Table 10.1). -/
def stopsOrder (s s' : State) (n : Nat) (c : Cmd) : Prop :=
  s' = { s with units := s'.units, dchans := if c.ptr then (s.dropHolder (.cmd n c.tag)).dchans else s.dchans } ∧
    (∀ m, m ≠ n → s'.unit m = s.unit m) ∧ (s'.unit n).cpms = (s.unit n).cpms ∧ (s'.unit n).waiters = (s.unit n).waiters ∧
    (s'.unit n).cmds = (s.unit n).cmds.map (fun d => if d.tag = c.tag then { d with done := some (0x25, false) } else d) ∧
    (∀ j, j ≠ c.ctx.val → s'.ctx n j = s.ctx n j) ∧
    s'.ctx n c.ctx.val = { s.ctx n c.ctx.val with uregs := (s'.ctx n c.ctx.val).uregs } ∧
    ∀ i, (s'.ctx n c.ctx.val).ureg i = if i = 62 then BitVec.ofNat 28 (0x25 * 2 ^ 5) else (s.ctx n c.ctx.val).ureg i
/-- A matches B: X in B matches anything (R288). -/
def matches4 (a b : Word) : Prop := ∀ j, j < 7 → dib b j = 3 ∨ dib a j = dib b j
/-- Dibits of value v among some words. -/
def countOf (v : BitVec 2) (ws : List Word) : Nat := (ws.flatMap fun w => (List.range 7).filter fun j => decide (dib w j = v)).length
/-- The bits of words, bit 0 first: all 14 of each, or the low 8 (R289). -/
def bitStream (octets : Bool) (ws : List Word) : List Bool :=
  ws.flatMap fun w => (List.range (if octets then 8 else 14)).map fun i => bitOf w i

end Sys2Proof.Spec

/-- R286: the coding of a record is taken back by the decoding, with every code word used, and is at most floor(3N / 2) + 1 words. -/
def Obligations.EchoCodingIsLossless : Prop :=
  ∀ d : List Word, 1 ≤ d.length → d.length ≤ 4096 →
    (encode d).length ≤ 3 * d.length / 2 + 1 ∧
    ∀ tail : List Word, decGo (fun i => (encode d ++ tail)[i]?) d.length (d.length + 1) [] 0 =
      { deltas := d.reverse, used := (encode d).length, read := (encode d).length, ok := true }

/-- R286, R287, R297: ENC writes the code words of new xor reference, with UPD also the new words over the reference; with RING it
offers them as a record to the ring. DEC rebuilds the words from the code words and the reference. -/
def Sys2Proof.Spec.EchoCodesAndDecodesRecords : Prop :=
  ∀ (cl : Fin 8) (k : Fin 4) (s : State) (c : Cmd) (new ref d : List Word) (s1 s2 s3 s4 : State),
    let n := 4 * cl.val
    let x := s.ctx n k.val
    let m := lenOf 0 c
    let upd (y y' : State) : Prop := if argBit c 12 then puts y n c true (auxSpan x m) 24 new y' else y' = y
    d = (new.zip ref).map (fun p => p.1 ^^^ p.2) → new.length = m → ref.length = m → (c.ptr = false → m ≤ 24) →
    (Runs s n k 0 c → gets s n c false (inSpan c 0 m) 0 m new s1 → gets s1 n c true (auxSpan x m) 24 m ref s2 →
      (argBit c 13 = false → puts s2 n c false (outSpan x (encode d).length) 48 (encode d) s3 → upd s3 s4 →
        ∃ s' : State, exec (.enc cl k) s = .next s' ∧
          ends s4 s' n c 0 false (some (d.filter fun w => decide (w ≠ 0)).length) (encode d).length m (encode d).length id) ∧
      (argBit c 13 = true → s.offers.filter (fun o => decide (o.src.val = cl.val)) = [] → upd s2 s4 →
        ∃ (s' : State) (o : Offer), exec (.enc cl k) s = .next s' ∧ s' = { s4 with
            units := s'.units, offers := s4.offers ++ [o], dchans := if c.ptr then (s4.dropHolder (.cmd n c.tag)).dchans else s4.dchans } ∧
          (s'.unit n).cmds = (s4.unit n).cmds ∧ o.cmd = some (n, c.tag) ∧ o.ring.toNat = (x.ureg 52).toNat % 2 ^ 8 ∧
          o.src.val = cl.val ∧ o.rtype = 1 ∧ o.epoch = c.epoch ∧ o.words.head? = some (if ref.all (fun w => decide (w = 0)) then 17 else 1) ∧
          o.change = decide (d.any (fun w => decide (w ≠ 0)) = true) ∧ (∃ h, o.words = h ++ encode d ++ o.words.drop (h.length + (encode d).length)) ∧
          (s'.ctx n k.val).ureg 53 = BitVec.ofNat 28 (d.filter fun w => decide (w ≠ 0)).length ∧
          (s'.ctx n k.val).ureg 54 = 0)) ∧
    (Runs s n k 1 c → argBit c 13 = false →
      (let code (i : Nat) : Option Word := if c.ptr then some (s.peek c.thread ((inSpan c 0 8193).getD i 0))
        else if i < 48 then some (vWord x (48 + i)) else none;
      (∀ i, i < (encode d).length → code i = some ((encode d).getD i 0)) →
      (if c.ptr then ∃ ws, s.readFor c.thread (s.asCmd n c false) (inSpan c 0 (encode d).length) = (.ok ws, s1) else s1 = s) →
      gets s1 n c true (auxSpan x m) 24 m ref s2 → puts s2 n c false (outSpan x m) 0 new s3 → upd s3 s4 →
      ∃ s' : State, exec (.dec cl k) s = .next s' ∧ ends s4 s' n c 0 false (some (encode d).length) m m m id) ∧
      (c.ptr = false → 3 * 2 ^ 12 ≤ (vWord x 48).toNat → ∃ s' : State, exec (.dec cl k) s = .next s' ∧ ends s s' n c 0x26 false (some 0) 0 m 0 id))

/-- R225, R282, R288: each XEV command in both operand modes: its result words dibit by dibit, RESULT, U, OLEN and the offsets. -/
def Obligations.XevCommandsEvaluateFourStateVectors : Prop :=
  ∀ (cl : Fin 8) (k : Fin 4) (s : State) (c : Cmd) (as bs rs : List Word) (s1 s2 s3 : State),
    let n := 4 * cl.val + 1
    let x := s.ctx n k.val
    let m := lenOf 1 c
    let readA := gets s n c false (inSpan c 0 m) 0 m as s1
    let readB := gets s1 n c true (auxSpan x m) 32 m bs s2
    let U := as.any anyUnk
    (∀ fn : Fin 7, Runs s n k fn c → readA → (if fn = 6 then bs = [] ∧ s2 = s1 else readB) → rs.length = m →
      (let tab (a b : BitVec 2) : BitVec 2 := match fn with
        | 0 => wireTab a b
        | 1 => wandTab a b
        | 2 => worTab a b
        | 3 => and4Tab a b
        | 4 => or4Tab a b
        | 5 => xor4Tab a b
        | 6 => not4Tab a;
      ∀ i, i < m → ∀ j, j < 7 → dib (rs.getD i 0) j = tab (dib (as.getD i 0) j) (dib (bs.getD i 0) j)) →
      puts s2 n c false (outSpan x m) 64 rs s3 →
      ∃ s' : State, exec (match fn with
        | 0 => .vwire cl k
        | 1 => .vwand cl k
        | 2 => .vwor cl k
        | 3 => .vand4 cl k
        | 4 => .vor4 cl k
        | 5 => .vxor4 cl k
        | 6 => .vnot4 cl k) s = .next s' ∧ ends s3 s' n c 0 (U || bs.any anyUnk) none m (if fn = 6 then 0 else m) m id) ∧
    (Runs s n k 7 c → readA → rs.length = (m + 1) / 2 →
      (∀ j, j < (m + 1) / 2 → ∀ b, b < 14 → bitOf (rs.getD j 0) b = decide (dib (as.getD (2 * j + b / 7) 0) (b % 7) = 1)) →
      puts s1 n c false (outSpan x ((m + 1) / 2)) 64 rs s3 →
      ∃ s' : State, exec (.vto2 cl k) s = .next s' ∧ ends s3 s' n c 0 U none ((m + 1) / 2) 0 ((m + 1) / 2) id) ∧
    (Runs s n k 8 c → (c.ptr = false → m ≤ 16) → readA → rs.length = 2 * m →
      (∀ i, i < 2 * m → ∀ j, j < 7 → dib (rs.getD i 0) j = if bitOf (as.getD (i / 2) 0) (7 * (i % 2) + j) then 1 else 0) →
      puts s1 n c false (outSpan x (2 * m)) 64 rs s3 →
      ∃ s' : State, exec (.vfrom2 cl k) s = .next s' ∧ ends s3 s' n c 0 false none (2 * m) 0 (2 * m) id) ∧
    (Runs s n k 9 c → readA → ∃ s' : State, exec (.xcount cl k) s = .next s' ∧
      ends s1 s' n c 0 U (some (min (countOf 2 as) 16383 + min (countOf 3 as) 16383 * 2 ^ 14)) 0 0 0 id) ∧
    (∀ r, Runs s n k 10 c → readA → readB → r ≤ m → (∀ i, i < r → matches4 (as.getD i 0) (bs.getD i 0)) →
      (r < m → ¬matches4 (as.getD r 0) (bs.getD r 0)) →
      ∃ s' : State, exec (.xevMatch cl k) s = .next s' ∧ ends s2 s' n c 0 (U || bs.any anyUnk) (some r) 0 m 0 id) ∧
    (let par := (x.ureg 57).toNat;
      let drivers := par % 2 ^ 4 + 1;
      let fn := par / 2 ^ 4 % 4;
      Runs s n k 11 c → c.ptr = true → fn ≤ 2 →
      s.readFor c.thread (s.asCmd n c false) ((List.range drivers).flatMap fun j => inSpan c (j * m) m) = (.ok as, s1) → rs.length = m →
      (∀ i, i < m → ∀ j, j < 7 → dib (rs.getD i 0) j =
        let vs := (List.range drivers).map fun q => dib (as.getD (q * m + i) 0) j
        vs.tail.foldl (fun a b => match fn with
          | 0 => wireTab a b
          | 1 => wandTab a b
          | _ => worTab a b) (vs.headD 0)) →
      puts s1 n c false (outSpan x m) 64 rs s3 →
      ∃ s' : State, exec (.wirek cl k) s = .next s' ∧ ends s3 s' n c 0 U none m 0 m id)

/-- R86, R289: the Sponge states closed, absorbing and squeezing, ORDER out of sequence, and CRC from CRC_HI:CRC_LO; the permutation
itself is FIPS 202 (log entry 11). A CPM write that waits behind a command takes effect at its end (R278). -/
def Obligations.SpongeAbsorbsAndSqueezesInOrder : Prop :=
  ∀ (cl : Fin 8) (k : Fin 4) (s : State) (c : Cmd) (ws : List Word) (s1 : State),
    let n := 4 * cl.val + 2
    let x := s.ctx n k.val
    let m := lenOf 2 c
    let oct := argBit c 12
    let reads := gets s n c false (inSpan c 0 m) 0 m ws s1
    let order (com : Instr) : Prop := (∀ d ∈ (s.unit n).cmds, d.tag = c.tag → d.ctx = c.ctx) → ∃ s' : State, exec com s = .next s' ∧ stopsOrder s s' n c
    (∀ p : CpmWrite, Oldest s n k 0 c → c.ptr = false → (s.unit n).cpms = [p] → p.ctx = k → p.tag = c.tag →
      (∀ d ∈ (s.unit n).cmds, d.tag = c.tag → d = c) → ∃ s' : State, exec (.sinit cl k) s = .next s' ∧ (s'.unit n).cpms = [] ∧
        (uregKeeps p.reg.toNat ≠ 0 → (s'.ctx n k).ureg p.reg.toNat = BitVec.ofNat 28 (p.v.toNat % uregKeeps p.reg.toNat)) ∧
        (s'.ctx n k).sponge = 1) ∧
    (Runs s n k 0 c → ∃ s' : State, exec (.sinit cl k) s = .next s' ∧
      ends s s' n c 0 false none 0 0 0 fun x => { x with keccak := 0, pos := 0, sponge := 1 }) ∧
    (Runs s n k 1 c → x.sponge ≠ 1 → order (.absorb cl k)) ∧
    (Runs s n k 1 c → x.sponge = 1 → reads → ∃ s' : State, exec (.absorb cl k) s = .next s' ∧
      ends s1 s' n c 0 false none 0 0 0 fun x =>
        { x with keccak := (kAbsorb (x.keccak, x.pos) (bitStream oct ws)).1, pos := (kAbsorb (x.keccak, x.pos) (bitStream oct ws)).2 }) ∧
    (Runs s n k 2 c → x.sponge ≠ 1 → order (.final cl k)) ∧
    (Runs s n k 2 c → x.sponge = 1 → ∃ s' : State, exec (.final cl k) s = .next s' ∧
      ends s s' n c 0 false none 0 0 0 fun x => { x with keccak := kFinal (x.keccak, x.pos), pos := 0, sponge := 2 }) ∧
    (Runs s n k 3 c → x.sponge ≠ 2 → order (.squeeze cl k)) ∧
    (let w := if oct then 8 else 14;
      let r := kSqueeze (m * w) (x.keccak, x.pos) [];
      Runs s n k 3 c → x.sponge = 2 → (c.ptr = false → m ≤ 96) → ws.length = m → bitStream oct ws = r.1 → (∀ v ∈ ws, v.toNat < 2 ^ w) →
      puts s n c false (outSpan x m) 0 ws s1 → ∃ s' : State, exec (.squeeze cl k) s = .next s' ∧
        ends s1 s' n c 0 false none m 0 m fun x => { x with keccak := r.2.1, pos := r.2.2 }) ∧
    (Runs s n k 16 c → reads →
      let poly : BitVec 32 := if argBit c 13 then 0x04C11DB7 else 0x1EDC6F41
      let v := (bitStream oct ws).foldl (fun (v : BitVec 32) b => if v.getLsbD 31 != b then (v <<< 1) ^^^ poly else v <<< 1)
        (BitVec.ofNat 32 ((x.ureg 55).toNat % 2 ^ 16 + (x.ureg 56).toNat % 2 ^ 16 * 2 ^ 16))
      ∃ s' : State, exec (.crc cl k) s = .next s' ∧
        ends s1 s' n c 0 false none 0 0 0 fun x =>
          (x.setUreg 55 (BitVec.ofNat 28 (v.toNat % 2 ^ 16))).setUreg 56 (BitVec.ofNat 28 (v.toNat / 2 ^ 16)))

/-- R279, R283: what pointer-mode words at on-chip addresses read and write, and the end of a command whose read faults: its STATUS
is the cause and FADDR the failing address. A command whose DRAM lines have not all been served makes its requests and waits. -/
def Sys2Proof.Spec.PointerAccessesActAsTheThread : Prop :=
  (∀ (s : State) (t : Nat) (r : Requester) (as : List Nat) (ws : List Word),
    (∀ a ∈ as, s.accFault t a false false = none ∧ top s ≤ a) →
    ((∀ a ∈ as, s.poisoned (cellAt t a) = false) → s.readFor t r as = (.ok (as.map fun a => s.getWord (cellAt t a)), s)) ∧
    (as.length = ws.length → (as.map (cellAt t)).Nodup → ∃ s' : State, s.writeFor t r (as.zip ws) = (none, s') ∧
      s' = { s with mem := s'.mem, poison := s'.poison } ∧
      (∀ i, i < as.length → s'.getWord (cellAt t (as.getD i 0)) = ws.getD i 0) ∧
      ∀ b, b ∉ as.map (cellAt t) → s'.getWord b = s.getWord b)) ∧
  (∀ (cl : Fin 8) (k : Fin 4) (s s1 : State) (c : Cmd) (e a : Nat) (u code : Nat) (com : Instr),
    let n := 4 * cl.val + u
    (u = 0 ∧ code = 0 ∧ com = .enc cl k ∧ argBit c 13 = false) ∨ (u = 1 ∧ code = 0 ∧ com = .vwire cl k) ∨ (u = 1 ∧ code = 9 ∧ com = .xcount cl k) ∨
      (u = 2 ∧ code = 16 ∧ com = .crc cl k) →
    Runs s n k code c → c.ptr = true → s.readFor c.thread (s.asCmd n c false) (inSpan c 0 (lenOf u c)) = (.fault e a, s1) → 0 < e →
    ∃ s' : State, exec com s = .next s' ∧
      (s'.unit n).cmds = (s1.unit n).cmds.map (fun d => if d.tag = c.tag then { d with done := some (BitVec.ofNat 6 e, false) } else d) ∧
      (s'.ctx n c.ctx.val).ureg 60 = BitVec.ofNat 28 a ∧ (s'.ctx n c.ctx.val).ureg 61 = BitVec.ofNat 28 (a / 2 ^ 28) ∧
      (s'.ctx n c.ctx.val).ureg 62 = BitVec.ofNat 28 (e * 2 ^ 5) ∧ (s'.ctx n c.ctx.val).ureg 54 = 0 ∧ s'.mem = s1.mem) ∧
  (∀ (cl : Fin 8) (k : Fin 4) (s : State) (c : Cmd) (u code : Nat) (com : Instr),
    let n := 4 * cl.val + u
    (u = 0 ∧ code = 1 ∧ com = .dec cl k) ∨ (u = 1 ∧ code = 0 ∧ com = .vwire cl k) ∨ (u = 1 ∧ code = 9 ∧ com = .xcount cl k) ∨
      (u = 2 ∧ code = 3 ∧ com = .squeeze cl k) →
    Oldest s n k code c → c.ptr = true → (∃ w ∈ s.cmdWants n c (s.ctx n k), s.visited (.cmd n c.tag) w.lines = false) →
    ∃ s' : State, exec com s = .next s' ∧ s' = { s with dchans := s'.dchans } ∧
      ∀ w ∈ s.cmdWants n c (s.ctx n k), ∀ l ∈ w.lines, ∀ kq, s.place l = some kq →
        (s'.dchan kq.1).seen (.cmd n c.tag) l = true ∨ (s'.dchan kq.1).asked (.cmd n c.tag) l = true)

/-- (a) R286, R287, R297: ENC writes the code words of new xor reference, with UPD also the new words over the reference; with
RING it offers them as a record to the ring. DEC rebuilds the words from the code words and the reference. (b) R279, R283: what
pointer-mode words at on-chip addresses read and write, and the end of a command whose read faults: its STATUS is the cause and
FADDR the failing address; a command whose DRAM lines have not all been served makes its requests and waits. That DEC ends with CODE on
a first code word out of range is the model's reading (log 18, R287), and so is the command that acts once all its lines have been
visited (log 9). -/
def Obligations.EchoRecordsAndPointerAccesses : Prop :=
  Sys2Proof.Spec.EchoCodesAndDecodesRecords ∧
  Sys2Proof.Spec.PointerAccessesActAsTheThread

namespace Sys2Proof.Spec

/-! ## Trace rings and semaphores -/

/-- Register of ring r (Table 11.4), and a field of it. -/
abbrev rgAt (r o : Nat) : Nat := 0x1A00000 + 0x100 * r + o
def rgF (s : State) (r o hi lo : Nat) : Nat := ext (s.reg (rgAt r o)) hi lo
/-- STATE: 0 IDLE, 1 RUNNING, 2 FILLING, 3 ARMED, 4 TRIGGERED, 5 DONE, 6 ERROR. -/
def rgState (s : State) (r : Nat) : Nat := rgF s r 0x3C 2 0
/-- Base line of the ring. -/
def rgBase (s : State) (r : Nat) : Nat := rgF s r 4 27 0 + rgF s r 8 7 0 * 2 ^ 28
/-- START is accepted (R300). -/
def rgStarts (s : State) (r : Nat) : Prop :=
  let size := rgF s r 0 14 10
  (rgState s r = 0 ∨ rgState s r ≥ 5) ∧ rgF s r 0 0 0 = 1 ∧ rgF s r 0 2 1 ≤ 2 ∧ 6 ≤ size ∧ size ≤ 26 ∧ rgF s r 0 17 15 ≤ 3 ∧
    rgBase s r % 2 ^ size = 0 ∧ rgBase s r + 2 ^ size ≤ ext (s.reg 0x8) 12 0 * 2 ^ 24
/-- Lines of the ring that are on their way to DRAM, or wait for one before them. -/
def rgSent (s : State) (r : Nat) : Nat := (s.ring r).sent.length
/-- A FULL or SELECT ring can complete n more lines (R298, R299). -/
def rgRoom (s : State) (r n : Nat) : Prop :=
  rgF s r 0 2 1 = 2 ∨ (rgF s r 0xC 26 0 + 2 ^ 27 - rgF s r 0x10 26 0) % 2 ^ 27 + rgSent s r + n ≤ 2 ^ rgF s r 0 14 10
/-- Count of the line that the ring fills, and its DRAM line (R292). -/
def rgNext (s : State) (r : Nat) : Nat := (rgF s r 0xC 26 0 + rgSent s r) % 2 ^ 27
def rgLine (s : State) (r : Nat) : Nat := rgBase s r + rgNext s r % 2 ^ rgF s r 0 14 10
/-- The line being filled waits at channel k on port TRACE with its header, its words and zeros (R292 to R294, R299, R336). -/
def lineSent (s s' : State) (r k : Nat) : Prop :=
  let x := s.ring r
  (s'.ring r).line = [] ∧ (s'.ring r).first = 0 ∧ (s'.ring r).sent = x.sent ++ [false] ∧ (∀ q, q ≠ r → s'.ring q = s.ring q) ∧
    (∀ j, j ≠ k → s'.dchan j = s.dchan j) ∧ s'.lines = s.lines ∧ s'.mem = s.mem ∧
    ∃ (q : DReq) (d : BitVec 504), s'.dchan k = { s.dchan k with reqs := (s.dchan k).reqs ++ [q] } ∧ q.line = rgLine s r ∧
      q.op = .words d ∧ q.port = 1 ∧ q.slice.toNat = rgF s r 0 8 3 ∧ q.reply = .ring r x.run (rgNext s r) ∧
      ∀ i, i < 36 → lineWord d i =
        if i = 0 then BitVec.ofNat 14 (x.first.toNat + rgNext s r / 2 ^ rgF s r 0 14 10 % 2 ^ 8 * 2 ^ 6) else x.line.getD (i - 1) 0
/-- First case of Table 11.3 that applies: 0 refused, 1 filtered, 2 appended. -/
def disposed (s : State) (o : Offer) : Nat :=
  let r := o.ring.toNat
  let mine := decide (o.slice.toNat = rgF s r 0 8 3)
  let st := s.sliceState (rgF s r 0 8 3)
  let k := (s.ring r).line.length + o.words.length
  let lines := k / 35 + (if o.rtype = 3 ∧ k % 35 ≠ 0 then 1 else 0)
  let used := (rgF s r 0xC 26 0 + 2 ^ 27 - rgF s r 0x10 26 0) % 2 ^ 27
  let pair (a : Nat) : WAddr := BitVec.ofNat 42 (rgF s r a 27 0 + rgF s r (a + 4) 13 0 * 2 ^ 28)
  if rgF s r 0 0 0 = 0 ∨ rgState s r = 0 ∨ 5 ≤ rgState s r ∨ (st ≠ 1 ∧ st ≠ 2) then 0
  else if o.rtype = 1 ∧ o.system = false ∧ mine = false then 0
  else if o.rtype = 2 ∧ rgF s r 0 8 3 ≠ 0 ∧ mine = false then 0
  else if rgF s r 0 2 1 ≠ 2 ∧ 0 < lines ∧ 2 ^ rgF s r 0 14 10 < used + rgSent s r + lines then 0
  else if rgF s r 0 2 1 = 1 ∧ o.rtype = 1 ∧ (o.ref ^^^ pair 0x18) &&& pair 0x20 ≠ 0 then 1
  else if rgF s r 0 2 1 = 2 ∧ rgState s r = 4 ∧
      (let d : Pair := BitVec.ofNat 28 o.epoch.toNat - (s.reg (rgAt r 0x40) + BitVec.ofNat 28 (rgF s r 0x28 27 14));
       1 ≤ d.toNat ∧ d.toNat < 2 ^ 27) then 1
  else 2

/-- Vector v of a function is sent, or pends while it is masked (R406). -/
def vectorSent (s s' : State) (fn v : Nat) : Prop :=
  if SMap.get false s.unmasked (fn * 32 + v) then .msix fn v ∈ s'.out.drop s.out.length else SMap.get false s'.pba (fn * 32 + v) = true
/-- Its bit of FN_EVENT is set. -/
def eventSet (s' : State) (fn b : Nat) : Prop := bitOf (s'.pageReg fn 0x2004) b = true
/-- Only source src offers records to ring r. -/
def onlySource (s : State) (src : Fin 14) (r : Nat) : Prop := ∀ p ∈ s.offers, p.ring.toNat = r → p.src = src
/-- The row of an operation: 0 acquire, 1 release, 2 renew, 3 query. -/
def semCom (op : Fin 4) (m : SemMaster) (i : Fin 4096) : Instr := match op with
  | 0 => .acquire m i
  | 1 => .semRelease m i
  | 2 => .renew m i
  | 3 => .query m i
/-- An operation waits at its group, and the group's rotation by requester number reaches it first (R317, R323). -/
def semDue (s : State) (op : Fin 4) (m : SemMaster) (i : Fin 4096) : Prop :=
  let far (r : SemReq) : Nat := ((match r.1 with
    | .thread t => t.val
    | .queue sl q => 1024 + 8 * sl.val + q.val
    | .umbra => 1536) + 1537 - s.pointer (60 + i.val / 256) 1537) % 1537
  (m, semOpOf op, i) ∈ s.semReqs ∧ ∀ r ∈ s.semReqs, r.2.2.val / 256 = i.val / 256 → r = (m, semOpOf op, i) ∨ far (m, semOpOf op, i) < far r
/-- Owner word of a master (Table 12.1), and the slice of its requests (R316). -/
def ownerWord : SemMaster → Word
  | .thread t => BitVec.ofNat 14 t.val
  | .queue sl q => BitVec.ofNat 14 (0x1000 + sl.val * 8 + q.val)
  | .umbra => 0x2000
def masterSlice (s : State) : SemMaster → Nat
  | .thread t => s.sliceOf t
  | .queue sl _ => sl.val
  | .umbra => 0
/-- The right of a slice in group g. -/
def hasRight (s : State) (g i : Nat) : Bool := bitOf (s.reg (0x1C00104 + 0x10 * g + 4 * (i / 28))) (i % 28)
/-- STATUS and the semaphore after an operation: 0 acquire, 1 release, 2 renew, 3 query (R319). -/
def semStep (s : State) (op : Fin 4) (m : SemMaster) (i : Nat) : Nat × Sem :=
  let x := s.sem i
  let mine := x.owner = ownerWord m
  let lease : BitVec 16 := BitVec.ofNat 16 (ext (s.reg (0x1C00100 + 0x10 * (i / 256))) 15 0)
  match op with
  | 0 =>
    if hasRight s (i / 256) (masterSlice s m) = false then (5, x)
    else if x.held = true ∧ mine then (2, x)
    else if x.held = true then (1, x)
    else (0, { held := true, owner := ownerWord m, left := lease, broken := false })
  | 1 =>
    if x.held = true ∧ mine then (0, { x with held := false, left := 0 })
    else if x.held = false ∧ x.broken = true ∧ mine then (4, x)
    else (3, x)
  | 2 =>
    if x.held = true ∧ mine then (0, { x with left := lease })
    else if x.held = false ∧ x.broken = true ∧ mine then (4, x)
    else (3, x)
  | 3 => (0, x)
/-- A semaphore that breaks (R321); LEFT 0 is the model's reading (log entry 7). -/
def broke (x : Sem) : Sem := { x with held := false, broken := true, left := 0 }

end Sys2Proof.Spec

/-- R300, R302, R303: START of a well configured ring clears WR and RD and enters its first state, otherwise CFG_ERR; RING_RD takes a
count between RD and WR, otherwise RD_ERR. -/
def Sys2Proof.Spec.RingsStartAndAreConsumed : Prop :=
  ∀ (r : Fin 256) (s : State) (v : Pair),
    (writesReg s (rgAt r 0x38) →
      (rgStarts s r → ∃ s' : State, exec (.ringStart r) s = .next s' ∧ s' = { s with csr := s'.csr, rings := s'.rings } ∧
        s'.reg (rgAt r 0xC) = 0 ∧ s'.reg (rgAt r 0x10) = 0 ∧ (s'.ring r).line = [] ∧
        rgState s' r = (if rgF s r 0 2 1 ≠ 2 then 1 else if rgF s r 0x28 13 0 = 0 then 3 else 2) ∧
        (∀ q, q ≠ r.val → s'.ring q = s.ring q) ∧
        ∀ o, o ≠ rgAt r 0xC → o ≠ rgAt r 0x10 → o ≠ rgAt r 0x3C → s'.reg o = s.reg o) ∧
      (¬rgStarts s r → ∃ s' : State, exec (.ringStart r) s = .next s' ∧ s' = { s with csr := s'.csr } ∧ rgF s' r 0x3C 3 3 = 1 ∧
        rgState s' r = rgState s r ∧ ∀ o, o ≠ rgAt r 0x3C → s'.reg o = s.reg o)) ∧
    (writesReg s (rgAt r 0x10) →
      let n := ext v 26 0
      let rd := rgF s r 0x10 26 0
      let wr := rgF s r 0xC 26 0
      ((n + 2 ^ 27 - rd) % 2 ^ 27 ≤ (wr + 2 ^ 27 - rd) % 2 ^ 27 → ∃ s' : State, exec (.ringRdWrite r v) s = .next s' ∧
        s' = { s with csr := s'.csr } ∧ rgF s' r 0x10 26 0 = n ∧ ∀ o, o ≠ rgAt r 0x10 → s'.reg o = s.reg o) ∧
      ((wr + 2 ^ 27 - rd) % 2 ^ 27 < (n + 2 ^ 27 - rd) % 2 ^ 27 → ∃ s' : State, exec (.ringRdWrite r v) s = .next s' ∧
        s' = { s with csr := s'.csr } ∧ rgF s' r 0x3C 4 4 = 1 ∧ ∀ o, o ≠ rgAt r 0x3C → s'.reg o = s.reg o))

/-- R291 to R294, R299, R302: FLUSH and STOP complete the line of a started ring: it waits at its channel; a line without storage stops
the ring in ERROR. -/
def Sys2Proof.Spec.RingLinesGoToMemory : Prop :=
  ∀ (r : Fin 256) (s : State) (stop : Bool),
    let com : Instr := if stop then .ringStop r else .ringFlush r
    writesReg s (rgAt r 0x38) → 1 ≤ rgState s r → rgState s r ≤ 4 →
    (rgRoom s r 1 → (s.ring r).line.length < 36 → ∀ k m, s.place (rgLine s r) = some (k, m) → ∃ s' : State, exec com s = .next s' ∧
      lineSent s s' r k ∧ rgState s' r = (if stop then 5 else rgState s r) ∧ rgF s' r 0xC 26 0 = rgF s r 0xC 26 0) ∧
    (rgRoom s r 1 → s.place (rgLine s r) = none → ∃ s' : State, exec com s = .next s' ∧ rgState s' r = 6 ∧
      rgF s' r 0x3C 5 5 = 1 ∧ s'.lines = s.lines ∧ s'.dchans = s.dchans ∧ rgF s' r 0xC 26 0 = rgF s r 0xC 26 0) ∧
    (¬rgRoom s r 1 → ∃ s' : State, exec com s = .next s' ∧ s' = { s with csr := s'.csr } ∧
      rgState s' r = (if stop then 5 else rgState s r) ∧ ∀ o, o ≠ rgAt r 0x3C → s'.reg o = s.reg o)

/-- R297, R298, Table 11.3: the oldest record of a source is refused, filtered or appended, counted, and its Echo command ends with
STATUS RING or 0; an appended record that fills no line stands whole in the line. It waits while a line of the ring is on its way (the
model's choice, log entry 9), and comes behind the records of the sources that precede its source in this CCLK. -/
def Sys2Proof.Spec.RecordsAreRefusedFilteredOrAppended : Prop :=
  ∀ (src : Fin 14) (s : State) (pre post : List Offer) (o : Offer), s.offers = pre ++ o :: post → o.src = src → (∀ p ∈ pre, p.src ≠ src) →
    let r := o.ring.toNat
    let d := disposed s o
    let kind := rgF s r 0 17 15
    let x := s.ring r
    let cmds (s' : State) : Prop := ∀ n, (s'.unit n).cmds = (s.unit n).cmds.map fun c =>
      if o.cmd = some (n, c.tag) then { c with done := some (if d = 0 then 0x27 else 0, false) } else c
    (onlySource s src r → x.sent ≠ [] → exec (.recordAppend src) s = .next s) ∧
    (∀ (b : Fin 14) (o2 : Offer), let far (c : Fin 14) : Nat := (c.val + 14 - s.pointer 5000 14) % 14
      s.offers.filter (fun p => decide (p.ring.toNat = r ∧ p.src ≠ src)) = [o2] → o2.src = b → s.headOffer b = some o2 → far b < far src →
      ∃ s1 : State, exec (.recordAppend b) s = .next s1 ∧ exec (.recordAppend src) s = exec (.recordAppend src) s1) ∧
    (onlySource s src r → x.sent = [] → d ≤ 1 → ∃ s' : State, exec (.recordAppend src) s = .next s' ∧ s' = { s with csr := s'.csr, offers := pre ++ post, units := s'.units } ∧
      counts s s' (rgAt r (if d = 0 then 0x48 else 0x4C)) 1 ∧ cmds s' ∧
      ∀ a, a ≠ rgAt r (if d = 0 then 0x48 else 0x4C) → s'.reg a = s.reg a) ∧
    (onlySource s src r → x.sent = [] → d = 2 → kind = 0 → o.rtype ≠ 3 → x.line.length + o.words.length < 35 →
      ∃ s' : State, exec (.recordAppend src) s = .next s' ∧
        s' = { s with csr := s'.csr, offers := pre ++ post, units := s'.units, rings := s'.rings } ∧
        (s'.ring r).line = x.line ++ o.words ∧
        (s'.ring r).first = (if x.first = 0 then BitVec.ofNat 6 (x.line.length + 1) else x.first) ∧
        counts s s' (rgAt r 0x44) 1 ∧ cmds s' ∧ (∀ q, q ≠ r → s'.ring q = s.ring q) ∧ ∀ a, a ≠ rgAt r 0x44 → s'.reg a = s.reg a)

/-- R301, R302: the first TRIG of a RUNNING or ARMED ring writes TE, appends a TRIGGER record and raises FN_EVENT TRACE, bit 3, with
vector 19 of the slice's function; WINDOW enters TRIGGERED; a later trigger, and one in FILLING, is counted only. -/
def Sys2Proof.Spec.RingsTriggerOnce : Prop :=
  ∀ (r : Fin 256) (same : Bool) (s : State), writesReg s (rgAt r 0x38) →
    (same = true → ∀ p ∈ s.offers, p.ring.toNat ≠ r) →
    (rgF s r 0x3C 6 6 = 1 ∨ rgState s r = 2 → ∃ s' : State, exec (.ringTrig ⟨r, same⟩) s = .next s' ∧ s' = { s with csr := s'.csr } ∧
      counts s s' (rgAt r 0x50) 1 ∧ ∀ a, a ≠ rgAt r 0x50 → s'.reg a = s.reg a) ∧
    (rgF s r 0x3C 6 6 = 0 → (rgState s r = 1 ∨ rgState s r = 3) → rgF s r 0 0 0 = 1 → rgF s r 0 18 18 = 0 →
      (s.sliceState (rgF s r 0 8 3) = 1 ∨ s.sliceState (rgF s r 0 8 3) = 2) → (s.ring r).line.length < 28 →
      ∃ s' : State, exec (.ringTrig ⟨r, same⟩) s = .next s' ∧ s'.reg (rgAt r 0x40) = BitVec.ofNat 28 s.epc.epoch.toNat ∧ rgF s' r 0x3C 6 6 = 1 ∧
        rgState s' r = (if rgState s r = 3 then 4 else 1) ∧ counts s s' (rgAt r 0x44) 1 ∧
        (s'.ring r).line = (s.ring r).line ++ [4, 5, 0, BitVec.ofNat 14 s.epc.epoch.toNat, BitVec.ofNat 14 (s.epc.epoch.toNat / 2 ^ 14),
          BitVec.ofNat 14 s.tick.toNat, BitVec.ofNat 14 (s.tick.toNat / 2 ^ 14)] ∧
        (let i := rgF s r 0 8 3; eventSet s' i 3 ∧ (bitOf (s.pageReg i 0x2004) 3 = false → vectorSent s s' i 19)) ∧
        s'.mem = s.mem ∧ s'.lines = s.lines)
/-- R297, R301: a RAW record appended in the CCLK of a TRIG write gives the trigger its cause and epoch, and the write is counted as
ignored; where no record of the CCLK triggers the ring, the TRIGGER record stands among them as source 13. -/
def Sys2Proof.Spec.RecordCauseWinsOverTrigWrite : Prop :=
  ∀ (r : Fin 256) (s : State) (o : Offer), writesReg s (rgAt r 0x38) → s.offers = [o] → o.ring.toNat = r → o.cmd = none →
    disposed s o = 2 → rgF s r 0x3C 6 6 = 0 → rgF s r 0 18 18 = 0 → (s.ring r).sent = [] → (s.ring r).line.length + o.words.length < 28 →
    (rgF s r 0 17 15 = 0 → o.rtype ≠ 3 → rgState s r = 1 → ∃ s' : State, exec (.ringTrig ⟨r, true⟩) s = .next s' ∧ s'.offers = [] ∧
      s'.reg (rgAt r 0x40) = BitVec.ofNat 28 s.epc.epoch.toNat ∧ rgF s' r 0x3C 6 6 = 1 ∧ s'.reg (rgAt r 0x50) = s.reg (rgAt r 0x50) ∧
      let far (c : Nat) : Nat := (c + 14 - s.pointer 5000 14) % 14
      let trig : List Word := [4, 5, 0, BitVec.ofNat 14 s.epc.epoch.toNat, BitVec.ofNat 14 (s.epc.epoch.toNat / 2 ^ 14),
        BitVec.ofNat 14 s.tick.toNat, BitVec.ofNat 14 (s.tick.toNat / 2 ^ 14)]
      (s'.ring r).line = (s.ring r).line ++ if far o.src < far 13 then o.words ++ trig else trig ++ o.words) ∧
    (rgF s r 0 17 15 = 2 → o.rtype = 2 → (rgState s r = 1 ∨ rgState s r = 3) →
    ∃ s' : State, exec (.ringTrig ⟨r, true⟩) s = .next s' ∧ s'.offers = [] ∧ s'.reg (rgAt r 0x40) = BitVec.ofNat 28 o.epoch.toNat ∧
      rgF s' r 0x3C 6 6 = 1 ∧ counts s s' (rgAt r 0x50) 1 ∧ counts s s' (rgAt r 0x44) 2 ∧
      (s'.ring r).line = (s.ring r).line ++ o.words ++ [4, 5, 2, BitVec.ofNat 14 o.epoch.toNat, BitVec.ofNat 14 (o.epoch.toNat / 2 ^ 14),
        BitVec.ofNat 14 s.tick.toNat, BitVec.ofNat 14 (s.tick.toNat / 2 ^ 14)])

/-- (a) R300, R302, R303: START of a well configured ring clears WR and RD and enters its first state, otherwise CFG_ERR;
RING_RD takes a count between RD and WR, otherwise RD_ERR. (b) R291 to R294, R299, R302: FLUSH and STOP complete the line of a
started ring: it waits at its channel; a line without storage stops the ring in ERROR. (c) R297, R298, Table 11.3: the oldest record of a source is
refused, filtered or appended, counted, and its Echo command ends with STATUS RING or 0; an appended record that fills no line
stands whole in the line; it waits while a line of the ring is on its way (the model's choice, log 9), and comes behind the records of
the sources that precede its source in this CCLK. (d) R301, R302: the first TRIG of a RUNNING or ARMED ring writes TE, appends a TRIGGER
record and raises FN_EVENT TRACE, bit 3, with vector 19 of the slice's function; WINDOW enters TRIGGERED; a later trigger, and one in
FILLING, is counted only. (e) R297, R301: a RAW record appended in the CCLK of a TRIG write gives the trigger its cause and epoch, and
the write is counted as ignored; where no record of the CCLK triggers the ring, the TRIGGER record stands among them as source 13. -/
def Obligations.TraceRingsRecordAndTrigger : Prop :=
  Sys2Proof.Spec.RingsStartAndAreConsumed ∧
  Sys2Proof.Spec.RingLinesGoToMemory ∧
  Sys2Proof.Spec.RecordsAreRefusedFilteredOrAppended ∧
  Sys2Proof.Spec.RingsTriggerOnce ∧
  Sys2Proof.Spec.RecordCauseWinsOverTrigWrite

/-- R25, R315 to R323, R414: ACQUIRE, RELEASE, RENEW and QUERY of a master are served in the rotation of their group, one of a group in a
CCLK: status, result word, counters and the semaphore; a strobe of 400 ticks of the CCLK copy, while BASE is clocked, comes behind the
operations of its CCLK, takes 1 µs from every running lease and breaks those that reach 0; FORCE breaks a held semaphore. LEFT 0 of a
semaphore that breaks is the model's reading (log 7). -/
def Obligations.SemaphoresFollowTheirOperations : Prop :=
  (∀ (m : SemMaster) (i : Fin 4096) (s : State) (op : Fin 4),
    let p := semStep s op m i
    let cnt : Option Nat := if op ≠ 0 then none else
      match p.1 with
      | 0 => some 0x1C00200
      | 1 => some 0x1C00204
      | 5 => some 0x1C00208
      | _ => none
    let r : Pair := BitVec.ofNat 28 (p.1 + (if (s.sem i).broken then 2 ^ 3 else 0) + (if p.2.held then 2 ^ 4 else 0) + p.2.owner.toNat * 2 ^ 5)
    let served (s : State) : Prop := s.semDone.1 = s.cclk ∧ i.val / 256 ∈ s.semDone.2
    (served s → exec (semCom op m i) s = .next s) ∧
    ((∀ a ∈ s.semReqs, ∀ b ∈ s.semReqs, a.1 = b.1 → a = b) → ¬semDue s op m i → exec (semCom op m i) s = .next s) ∧
    (semDue s op m i → ¬served s →
      (∀ sl q, m = .queue sl q → s.qpMode ⟨sl, q⟩ ≠ 2 ∧ (s.qp (8 * sl.val + q.val)).ahead = []) →
      ∃ s' : State, exec (semCom op m i) s = .next s' ∧ served s' ∧ s'.sem i = p.2 ∧ (∀ j, j ≠ i.val → s'.sem j = s.sem j) ∧
      (∀ o, cnt = some o → counts s s' o 1) ∧
      (∀ t, m = .thread t → s' = { s with sems := s'.sems, csr := s'.csr, threads := s'.threads, semDone := s'.semDone } ∧
        s'.thread t = { s.thread t with await := (s.thread t).await.map fun w => { w with ans := some (.value r) } } ∧
        (∀ u, u ≠ t.val → s'.thread u = s.thread u) ∧ ∀ o, cnt ≠ some o → s'.reg o = s.reg o) ∧
      (m = .umbra → s' = { s with sems := s'.sems, csr := s'.csr, umbraSem := none, readData := r.setWidth 64, semDone := s'.semDone } ∧
        ∀ o, cnt ≠ some o → s'.reg o = s.reg o) ∧
      (∀ sl q, m = .queue sl q → (s'.qp (8 * sl.val + q.val)).entry = none ∧ s'.threads = s.threads ∧ s'.readData = s.readData ∧ counts s s' 0x2800010 1))) ∧
  (∀ s : State, s.Canon → (s.clocked 1 = false ∨ s.copy.toNat < s.leaseAt + 400 → exec .leaseStrobe s = .next s) ∧
    (s.clocked 1 = true → s.leaseAt + 400 ≤ s.copy.toNat → s.semReqs = [] → ∃ s' : State, exec .leaseStrobe s = .next s' ∧ (∀ i, s'.sem i =
      let x := s.sem i
      if x.held = true ∧ x.left ≠ 0 then (if x.left = 1 then broke x else { x with left := x.left - 1 }) else x) ∧
      s'.mem = s.mem ∧ s'.threads = s.threads ∧ s'.leaseAt = s.leaseAt + 400) ∧
    (s.clocked 1 = true → s.leaseAt + 400 ≤ s.copy.toNat → ∀ (op : Fin 4) (m : SemMaster) (i : Fin 4096) (s1 : State), s.semReqs = [(m, semOpOf op, i)] →
      exec (semCom op m i) s = .next s1 → s1.semReqs = [] → exec .leaseStrobe s = exec .leaseStrobe s1)) ∧
  (∀ (s : State) (v : Pair), writesReg s 0x1C00010 →
    (bitOf v 12 = false ∨ (s.sem (ext v 11 0)).held = false → exec (.force v) s = .next s) ∧
    (bitOf v 12 = true → (s.sem (ext v 11 0)).held = true → ∃ s' : State, exec (.force v) s = .next s' ∧
      s'.sem (ext v 11 0) = broke (s.sem (ext v 11 0)) ∧ (∀ j, j ≠ ext v 11 0 → s'.sem j = s.sem j) ∧ counts s s' 0x1C0020C 1 ∧
      s'.mem = s.mem ∧ s'.threads = s.threads))

namespace Sys2Proof.Spec

/-! ## Registers -/

/-- Registers whose every bit follows Table 0.5 and nothing else: GEN, EPC.LENGTH and the deadline registers, ATM groups, select and
counters, trace select and window counters, HST counters' block, BOOT and power thresholds are not all of them. -/
def plainAt (o : Nat) : Prop :=
  o % 4 = 0 ∧ (o < 0x100000 ∨ o = 0x100004 ∨ o = 0x100028 ∨ (0x100044 ≤ o ∧ o < 0x10008C) ∨ (0x100100 ≤ o ∧ o < 0x101400) ∨
    (0x1C00100 ≤ o ∧ o < 0x1C00210) ∨ o = 0x1C00004 ∨ (0x2800010 ≤ o ∧ o < 0x2C00000))
/-- A write of v by the access codes of Table 0.5, with the events ev of the same cycle (R10). -/
def codedWrite (s : State) (o : Nat) (v ev : Pair) : Pair :=
  let i := regInfo o
  let open' := bitOf (s.reg (lockBit o).1) (lockBit o).2 = false
  BitVec.ofNat 28 (((List.range 28).map fun b =>
    let old := bitOf (s.reg o) b
    let new := if bitOf i.rw b ∨ (bitOf i.rwl b ∧ open') then bitOf v b
      else if bitOf i.w1c b then (old && !bitOf v b) || bitOf ev b
      else old
    if new then 2 ^ b else 0).sum)
/-- The record of an error, where it is the first of its CCLK (R448 orders the records of one CCLK), stands in the first free log entry
(R447, Table 18.2): SOURCE, CODE, CLASS, UNIT and EINFO. -/
def logged (s s' : State) (src code cls unit info : Nat) : Prop :=
  let n := ext (s.reg 0x3400008) 8 0
  let o := 0x3401000 + 0x20 * (n % 256)
  s.errFree = true → (s.errAt.1 ≠ s.instant ∨ ext (s.reg 0x340000C) 8 0 = n) → ext (s'.reg 0x3400008) 8 0 = (n + 1) % 512 ∧ ext (s'.reg o) 7 0 = unit ∧ ext (s'.reg o) 11 8 = src ∧
    ext (s'.reg o) 17 12 = code ∧ ext (s'.reg o) 26 25 = cls ∧ ext (s'.reg o) 27 27 = 1 ∧
    s'.reg (o + 0x10) = BitVec.ofNat 28 info ∧ s'.reg (o + 8) = BitVec.ofNat 28 s.tick.toNat
/-- The event of a CORRECTED error is new: no record that the host has not consumed has its SOURCE, CODE and UNIT (R449). -/
def inErr (o : Nat) : Prop := 0x3400000 ≤ o ∧ o < 0x3404000

end Sys2Proof.Spec

/-- R7 to R10, R40, R103, R418, Table 0.5: a register access by the host: bits follow their access codes; a read returns the register
and clears RC bits; TICK_HI, EPOCH_HI and a counter's HI are what the LO read latched; an access to a sleeping domain waits; one of a
wrong size has no effect and is logged, where the link is up (R466); a 64-bit access to an MSI-X table entry reaches both dwords, or a
read of it waits whole for HOST (R396); configuration space gives the PCIe IDs (R395, R477); Umbra's writes do not reach SLC's engine
(R366). The place of the IDs and of the revision and class in configuration space is PCIe's (log 13). -/
def Obligations.RegisterAccessesFollowTheirCodes : Prop :=
  ∀ (s : State) (off : Off) (v : BitVec 32) (ev : Pair),
    let o := off.toNat
    (plainAt o → writesReg s o → ∃ s' : State, exec (.csrWrite .host .bar0 off v ev) s = .next s' ∧ s' = { s with csr := s'.csr } ∧
      s'.reg o = codedWrite s o (BitVec.ofNat 28 v.toNat) ev ∧ ∀ p, p ≠ o → s'.reg p = s.reg p) ∧
    (plainAt o → writesReg s o → ∃ s' : State, exec (.rcRead .host .bar0 off ev) s = .next s' ∧
      s' = { s with csr := s'.csr, readData := BitVec.ofNat 64 (s.reg o).toNat } ∧
      (∀ b, b < 28 → bitOf (s'.reg o) b = if bitOf (regInfo o).rc b then bitOf ev b else bitOf (s.reg o) b) ∧
      ∀ p, p ≠ o → s'.reg p = s.reg p) ∧
    (s.writable o = true → s.regAwake o = false → o % 4 = 0 → ∃ s' : State, exec (.csrWrite .host .bar0 off v ev) s = .next s' ∧
      (∃ x, s'.power.stalled = s.power.stalled ++ [x] ∧ x.off = off ∧ x.v = v ∧ x.wr = true ∧ x.m = .host) ∧
      (∀ p, (p < 0x2C00000 ∨ 0x2E00000 ≤ p) → s'.reg p = s.reg p) ∧ s'.mem = s.mem ∧ s'.threads = s.threads) ∧
    (writesReg s 0x10000C → exec .tickLoRead s = .next { s with
      readData := BitVec.ofNat 64 (s.tick.toNat % 2 ^ 28), epc := { s.epc with tickHi := BitVec.ofNat 28 (s.tick.toNat / 2 ^ 28) } }) ∧
    (writesReg s 0x100010 → exec (.rcRead .host .bar0 0x100010 0) s = .next { s with readData := BitVec.ofNat 64 s.epc.tickHi.toNat }) ∧
    (writesReg s 0x100014 → exec .epochLoRead s = .next { s with
      readData := BitVec.ofNat 64 (s.epc.epoch.toNat % 2 ^ 28),
      epc := { s.epc with epochHi := BitVec.ofNat 28 (s.epc.epoch.toNat / 2 ^ 28) } }) ∧
    (∀ (p : Fin 32) (n : Fin 22),
      let a := 0x400000 + p.val / 8 * 0x100000 + p.val % 8 * 0x10000 + 0x100 + 8 * n.val
      let c := SMap.get 0 (s.port p).cnt n
      writesReg s a → ∃ s' : State, exec (.counterLoRead p n) s = .next s' ∧ s' = { s with ports := s'.ports, readData := s'.readData } ∧
        s'.readData = BitVec.ofNat 64 (c.toNat % 2 ^ 28) ∧ SMap.get 0 (s'.port p).hi n = BitVec.ofNat 28 (c.toNat / 2 ^ 28) ∧
        s'.port p = { s.port p with hi := (s'.port p).hi } ∧ ∀ q, q ≠ p.val → s'.port q = s.port q) ∧
    (∀ (wr : Bool) (x : Access), (x.size ≠ 4 ∨ o % 4 ≠ 0) → s.inReset = true ∨ s.pins.perstLow = true →
      exec (.csrBadAccess wr .bar0 off x) s = .next (if wr then s else { s with readData := 0 })) ∧
    (∀ (wr : Bool) (x : Access), s.inReset = false → s.pins.perstLow = false → (x.size ≠ 4 ∨ o % 4 ≠ 0) →
      ∃ s' : State, exec (.csrBadAccess wr .bar0 off x) s = .next s' ∧ logged s s' 11 1 1 0 o ∧ s'.readData = (if wr then s.readData else 0) ∧
        s'.mem = s.mem ∧ s'.threads = s.threads ∧ ∀ p, ¬inErr p → s'.reg p = s.reg p) ∧
    (∀ (fn : Fin 64) (x : Access), s.pageOpen fn = true → s.domOn 2 = true → 0x8000 ≤ o → o < 0x8200 → o % 16 = 0 → x.size = 8 →
      (∃ s' : State, exec (.csrBadAccess true (.page fn) off x) s = .next s' ∧ s' = { s with vectors := s'.vectors } ∧
        s'.readPage fn o = BitVec.ofNat 32 x.v.toNat ∧ s'.readPage fn (o + 4) = BitVec.ofNat 32 (x.v.toNat / 2 ^ 32)) ∧
      exec (.csrBadAccess false (.page fn) off x) s = .next { s with
        readData := BitVec.ofNat 64 ((s.readPage fn o).toNat + (s.readPage fn (o + 4)).toNat * 2 ^ 32) }) ∧
    (∀ (fn : Fin 64) (x : Access), s.pageOpen fn = true → s.domOn 2 = false → 0x8000 ≤ o → o < 0x8200 → o % 8 = 0 → x.size = 8 →
      ∃ s' : State, exec (.csrBadAccess false (.page fn) off x) s = .next s' ∧
        (∃ y, s'.power.stalled = s.power.stalled ++ [y] ∧ y.off = off ∧ y.sp = .page fn ∧ y.wr = false ∧ y.wide = true ∧ y.domain = 2) ∧
        s'.readData = s.readData ∧ s'.mem = s.mem ∧ s'.vectors = s.vectors) ∧
    (∀ fn : Fin 64, s.cfgOpen fn = true →
      (o = 0 → exec (.rcRead .host (.cfg fn) off ev) s =
        .next { s with readData := BitVec.ofNat 64 (0x1F7A + 2 ^ 16 * if fn.val = 0 then 0x1440 else 0x1441) }) ∧
      (o = 8 → exec (.rcRead .host (.cfg fn) off ev) s = .next { s with readData := BitVec.ofNat 64 (ext (s.reg 4) 7 0 + 2 ^ 8 * 0x120000) })) ∧
    (s.inReset = false → s.boot.stopped = false → s.regAwake o = true → 0x2400000 ≤ o → o ≤ 0x2400018 →
      exec (.csrWrite .umbra .bar0 off v ev) s = .next s)

namespace Sys2Proof.Spec

/-! ## Epochs, the Beacon and waves -/

/-- EPC.CTL.RUN. -/
abbrev runs (s : State) : Prop := ext (s.reg 0x100000) 0 0 = 1
/-- EPC has armed or started a run that has not stopped. -/
def going (s : State) : Prop := runs s ∧ s.epc.stopped = false
/-- A run in which an epoch has started, with no overrun declared, and the overrun record empty. -/
def quietRun (s : State) : Prop := going s ∧ s.epc.begun = true ∧ s.epc.overrun = false ∧ ext (s.reg 0x100060) 0 0 = 0
/-- The overrun record holds cause, epoch, tick of detection, deadline and ports of the first overrun (R65, R66, Table 2.8). -/
def declares (s s' : State) (cause : Nat) (e : Epoch) (inP outP : Option Nat) (dl : Pair) : Prop :=
  let r := s'.reg 0x100060
  ext r 0 0 = 1 ∧ ext r 5 1 = cause ∧ ext r 6 6 = ext (s.reg 0x100060) 6 6 ∧
    ext r 19 19 = (if inP.isSome then 1 else 0) ∧ ext r 18 14 = inP.getD 0 ∧
    ext r 25 25 = (if outP.isSome then 1 else 0) ∧ ext r 24 20 = outP.getD 0 ∧
    s'.reg 0x100064 = BitVec.ofNat 28 e.toNat ∧ s'.reg 0x100068 = BitVec.ofNat 28 (e.toNat / 2 ^ 28) ∧
    s'.reg 0x10006C = BitVec.ofNat 28 s.tick.toNat ∧ s'.reg 0x100070 = dl ∧ s'.epc.overrun = true
/-- Entry i of a phase table: 0x100100 the shadow, 0x100140 the table in force (Table 2.1). -/
def phEntry (s : State) (base i : Nat) : Pair := s.reg (base + 4 * i)
def phOk (s : State) (base i : Nat) : Bool := decide (i < 16) && bitOf (phEntry s base i) 27
def phAt (s : State) (base i : Nat) : Nat := ext (phEntry s base i) 14 0
def phaseEnd (s : State) (base per i : Nat) : Nat := if phOk s base (i + 1) then phAt s base (i + 1) else per
/-- The first check of Table 2.2 that the shadow fails, or 0. -/
def commitResult (s : State) : Nat :=
  let b := 0x100100
  let per := ext (s.reg 0x100004) 14 0
  let f (i hi lo : Nat) : Nat := ext (phEntry s b i) hi lo
  let every (p : Nat → Bool) : Bool := (List.range 16).all fun i => !phOk s b i || p i
  if per < 160 ∨ 25600 < per then 1
  else if ¬(phOk s b 0 ∧ phAt s b 0 = 0) ∨
      ¬(every fun i => decide (phAt s b i < per) && (decide (i = 0) || (phOk s b (i - 1) && decide (phAt s b (i - 1) < phAt s b i)))) then 2
  else if ¬(every fun i => decide (phAt s b i + 16 ≤ phaseEnd s b per i)) then 3
  else if ¬(every fun i => decide (i ≤ f i 19 16) && phOk s b (f i 19 16)) then 4
  else if ¬(every fun i => decide (f i 15 15 = 0) || decide (f i 23 20 = 0)) ∨
      (every fun i => decide (f i 15 15 = 0)) then 5
  else if ¬(every fun i => decide (f i 23 20 ≤ 2)) then 6
  else if ¬((List.range 32).all fun p => decide (ext (s.reg (0x101000 + 0x20 * p)) 0 0 = 0) ||
      phOk s b (ext (s.reg (0x101000 + 0x20 * p)) 4 1)) then 7
  else if runs s ∧ 2 ^ 27 ≤ (s.reg 0x100024 - BitVec.ofNat 28 s.epc.epoch.toNat).toNat then 8
  else 0
/-- The shadow table and period are in force (R46). -/
def applied (s s' : State) : Prop :=
  (∀ i, i < 16 → phEntry s' 0x100140 i = phEntry s 0x100100 i) ∧ ext (s'.reg 0x100008) 14 0 = ext (s.reg 0x100004) 14 0 ∧
    ext (s'.reg 0x100020) 1 1 = 0
/-- Only registers of the EPC block change. -/
def onlyEpcRegs (s s' : State) : Prop := ∀ o, o < 0x100000 ∨ 0x102000 ≤ o → s'.reg o = s.reg o
/-- Rinek port p is up (R102). -/
def rinekUp (s : State) (p : Nat) : Prop :=
  let b := 0x400000 + p / 8 * 0x100000 + p % 8 * 0x10000
  ext (s.reg (b + 4)) 4 4 = 1 ∧ ext (s.reg b) 3 1 < 2
/-- A CTRL flit waits to leave port p. -/
def ctrlQueued (s s' : State) (p : Fin 32) (f : Flit) : Prop :=
  ∃ o e, s'.eouts = SMap.put o e s.eouts ∧ e.port = p ∧ e.kind = OKind.ctrl ∧ e.flits = [f] ∧ e.released = true
/-- Fixed transmit latency of port p in ticks, by RATE (R52). -/
def latOf (s : State) (p : Fin 32) : Nat := match ext (s.reg (0x400000 + p.val / 8 * 0x100000 + p.val % 8 * 0x10000)) 5 4 with
  | 0 => 52
  | 1 => 33
  | _ => 26
/-- Port p is set in EPC.BEACON_DOWN. -/
def downSet (s : State) (p : Fin 32) : Bool := bitOf (s.reg (if p.val < 16 then 0x10004C else 0x100050)) (p.val % 16)
/-- Decision lead D (R42). -/
def leadOf (s : State) : Nat := max (ext (s.reg 0x100044) 14 0) (ext (s.reg 0x100048) 11 0)
/-- Role (R48): 0 OFF, 1 MASTER, 2 FOLLOW_PIN, 3 FOLLOW_PORT. -/
def roleOf (s : State) : Nat := ext (s.reg 0x100040) 1 0
/-- GO(n) with start tick t is entered: to be started, announced and, when asked for, pulsed. -/
def entersGo (s s' : State) (n : Epoch) (t : Tick) (pulse : Bool) : Prop :=
  s'.epc = { s.epc with gos := s.epc.gos ++ [(n, t)], anns := s.epc.anns ++ [(false, n, t)],
                        pulses := if pulse then s.epc.pulses ++ [(false, n, t)] else s.epc.pulses }

end Sys2Proof.Spec

/-- R42, R45, R46, R69, R70, Table 2.2: RUN 1 arms when entry 0 is valid and sets NOTABLE otherwise; COMMIT gives the first failed check,
or applies the table, or leaves it pending; the stop ends the run, in a running epoch at start(S) + PERIOD; RUN 0 drops the held waves
and gives READY back. That a failed COMMIT withdraws a pending table is the model's reading (log entry 18). -/
def Sys2Proof.Spec.RunControlAndPhaseTable : Prop :=
  ∀ s : State,
    (writesReg s 0x100000 →
      (runs s → exec .runArm s = .next s) ∧
      (¬runs s → phOk s 0x100140 0 = false → ∃ s' : State, exec .runArm s = .next s' ∧ s' = { s with csr := s'.csr } ∧
        ext (s'.reg 0x100020) 2 2 = 1 ∧ ∀ o, o ≠ 0x100020 → s'.reg o = s.reg o) ∧
      (¬runs s → phOk s 0x100140 0 = true → ∃ s' : State, exec .runArm s = .next s' ∧ s' = { s with csr := s'.csr, epc := s'.epc } ∧
        runs s' ∧ s'.epc.armed = some (s.tick + BitVec.ofNat 56 (leadOf s)) ∧ s'.epc.pulseNo = s.epc.epoch ∧ s'.epc.gos = [] ∧ s'.epc.stop = none ∧ s'.epc.stopped = false ∧
        s'.epc.overrun = false ∧ s'.epc.begun = false ∧ s'.epc.epoch = s.epc.epoch ∧ ∀ o, o ≠ 0x100000 → s'.reg o = s.reg o) ∧
      (¬runs s → exec .runStop s = .next s) ∧
      (runs s → ∃ s' : State, exec .runStop s = .next s' ∧ ¬runs s' ∧ s'.epc.live = false ∧ s'.epc.epoch = s.epc.epoch ∧
        (∀ o ∈ s'.eouts, o.2.kind = OKind.wave → o.2.started = true) ∧ (ext (s.reg 0x100020) 1 1 = 1 → applied s s') ∧
        ext (s'.reg 0xC) 2 0 = (if ext (s.reg 0xC) 2 0 = 3 ∨ ext (s.reg 0xC) 2 0 = 4 then 2 else ext (s.reg 0xC) 2 0) ∧
        s'.threads = s.threads ∧ s'.mem = s.mem)) ∧
    (writesReg s 0x100020 →
      (commitResult s ≠ 0 → ∃ s' : State, exec .commit s = .next s' ∧ s' = { s with csr := s'.csr } ∧
        ext (s'.reg 0x100020) 7 4 = commitResult s ∧ ext (s'.reg 0x100020) 1 1 = 0 ∧ ∀ o, o ≠ 0x100020 → s'.reg o = s.reg o) ∧
      (commitResult s = 0 → runs s → ∃ s' : State, exec .commit s = .next s' ∧ s' = { s with csr := s'.csr } ∧
        ext (s'.reg 0x100020) 7 4 = 0 ∧ ext (s'.reg 0x100020) 1 1 = 1 ∧ ∀ o, o ≠ 0x100020 → s'.reg o = s.reg o) ∧
      (commitResult s = 0 → ¬runs s → ∃ s' : State, exec .commit s = .next s' ∧ s' = { s with csr := s'.csr } ∧ applied s s' ∧
        ext (s'.reg 0x100020) 7 4 = 0 ∧ onlyEpcRegs s s')) ∧
    (∀ (n : Epoch) (t : Tick), s.epc.stop = some (n, t) →
      let at' := (if s.epc.begun = true ∧ n = s.epc.epoch + 1 then s.epc.start + BitVec.ofNat 56 (ext (s.reg 0x100008) 14 0) else t).toNat
      (¬going s ∨ s.epc.gos ≠ [] ∨ s.tick.toNat < at' → exec .epochStop s = .next s) ∧
      (going s → s.epc.gos = [] → at' ≤ s.tick.toNat → ∃ s' : State, exec .epochStop s = .next s' ∧
        s' = { s with csr := s'.csr, epc := { s.epc with stopped := true, live := false } } ∧
        s'.reg 0x100080 = BitVec.ofNat 28 (n - 1).toNat ∧ s'.reg 0x100084 = BitVec.ofNat 28 ((n - 1).toNat / 2 ^ 28) ∧
        (s.epc.begun = false → s'.reg 0x100088 = 0) ∧ ext (s'.reg 0xC) 2 0 = if s.fatal = 0 then 4 else 5))

/-- R46, R47, R52, R53, R61, R62, R259, R301: an accepted epoch starts at its start tick, with a pending table applied, unless its device
follows a port without a valid delay; a phase starts in order at its START. -/
def Sys2Proof.Spec.EpochsAndPhasesStart : Prop :=
  ∀ s : State,
    (∀ (n : Epoch) (t : Tick) (rest : List (Epoch × Tick)), s.epc.gos = (n, t) :: rest →
      (¬going s ∨ s.tick.toNat < t.toNat → exec .epochStart s = .next s) ∧
      let follows := roleOf s = 3 → ext (s.reg (0x101008 + 0x20 * ext (s.reg 0x100040) 6 2)) 27 27 = 1
      (going s → t.toNat ≤ s.tick.toNat → ¬follows → exec .epochStart s = .next { s with epc := { s.epc with gos := rest } }) ∧
      (going s → t.toNat ≤ s.tick.toNat → follows → (∀ i, i < 64 → s.sliceState i ≤ 1) → (∀ r, r < 256 → ext (s.reg (0x1A0003C + 0x100 * r)) 2 0 = 0) →
        ∃ s' : State, exec .epochStart s = .next s' ∧ s'.epc.epoch = n ∧ s'.epc.start = t ∧ s'.epc.live = true ∧ s'.epc.begun = true ∧
          s'.epc.gos = rest ∧ s'.epc.phase = none ∧ s'.threads = s.threads ∧ s'.mem = s.mem ∧
          (ext (s.reg 0x100020) 1 1 = 1 → (s.reg 0x100024).toNat = n.toNat % 2 ^ 28 → applied s s') ∧
          ext (s'.reg 0xC) 2 0 = if ext (s.reg 0xC) 2 0 = 2 then 3 else ext (s.reg 0xC) 2 0)) ∧
    (∀ i : Fin 16,
      let now := s.tick.toNat
      let can := s.epc.live = true ∧ runs s ∧ phOk s 0x100140 i = true ∧ i.val = (match s.epc.phase with
        | some j => j + 1
        | none => 0) ∧ s.epc.start.toNat + phAt s 0x100140 i ≤ now
      (¬can → exec (.phaseStart i) s = .next s) ∧
      (can → (∀ r, r < 256 → ext (s.reg (0x1A0003C + 0x100 * r)) 2 0 = 0) → ∃ s' : State, exec (.phaseStart i) s = .next s' ∧
        s'.epc = { s.epc with phase := some i.val } ∧ s'.csr = s.csr ∧ s'.mem = s.mem ∧
        (bitOf (phEntry s 0x100140 i) 24 = false → s'.threads = s.threads) ∧
        (bitOf (phEntry s 0x100140 i) 24 = true → ∀ t, t < 1024 → (s.thread t).live = true → bitOf (s'.thread t).evr 7 = true)))

/-- (a) R42, R45, R46, R69, R70, Table 2.2: RUN 1 arms when entry 0 is valid and sets NOTABLE otherwise; COMMIT gives the first
failed check, or applies the table, or leaves it pending; the stop ends the run; RUN 0 drops the held waves and gives READY
back. (b) R46, R47, R52, R53, R61, R62, R259, R301: an accepted epoch starts at its start tick, with a pending table applied, unless
its device follows a port without a valid delay; a phase starts in order at its START. -/
def Obligations.RunControlEpochsAndPhases : Prop :=
  Sys2Proof.Spec.RunControlAndPhaseTable ∧
  Sys2Proof.Spec.EpochsAndPhasesStart

/-- R42, R48 to R51, R54: the master decides GO at start(N) less D and STOP after an overrun; announces are queued for the downstream
ports, with REMAIN to be filled in at their insertion, and pulses leave at their lead; a follower accepts GO from its announce or pulse, with
the start tick that R49 or R54 gives. The rounding and the ignored widths of pulses (R54), the epoch whose pulse came too late (R50) and the
announces that are ignored (R49 to R51) are the model's reading (log 18). -/
def Obligations.BeaconDecidesAndFollows : Prop :=
  ∀ s : State,
    (∀ (n : Epoch) (t : Tick), going s → roleOf s = 1 → s.epc.stop = none → ext (s.reg 0x100020) 1 1 = 0 →
      ((s.epc.gos = [] ∧ s.epc.begun = false ∧ n = s.epc.epoch ∧ s.epc.armed = some t) ∨
        (∃ g b, s.epc.gos = b ++ [g] ∧ n = g.1 + 1 ∧ t = g.2 + BitVec.ofNat 56 (ext (s.reg 0x100008) 14 0)) ∨
        (s.epc.gos = [] ∧ s.epc.begun = true ∧ n = s.epc.epoch + 1 ∧ t = s.epc.start + BitVec.ofNat 56 (ext (s.reg 0x100008) 14 0))) →
      (s.tick.toNat + leadOf s < t.toNat → exec .goDecision s = .next s) ∧
      (t.toNat ≤ s.tick.toNat + leadOf s → ∃ s' : State, exec .goDecision s = .next s' ∧ s' = { s with epc := s'.epc } ∧
        (s.epc.overrun = false → entersGo s s' n t true) ∧
        (s.epc.overrun = true → s'.epc.stop = some (n, t) ∧ s'.epc.gos = s.epc.gos ∧ s'.epc.anns = s.epc.anns ++ [(true, n, t)] ∧
          s'.epc.pulses = s.epc.pulses ++ [(true, n, t)]))) ∧
    (roleOf s ≠ 1 ∨ ¬going s ∨ s.epc.stop ≠ none → exec .goDecision s = .next s) ∧
    (∀ (stop : Bool) (n : Epoch) (t : Tick) (rest : List (Bool × Epoch × Tick)), s.epc.anns = (stop, n, t) :: rest → s.fatal = 0 →
      let due (p : Fin 32) := t.toNat ≤ s.tick.toNat + ext (s.reg 0x100044) 14 0 + latOf s p
      (roleOf s = 1 → (∃ p, downSet s p = true ∧ ¬due p) → exec .announceSend s = .next s) ∧
      ((roleOf s = 1 → ∀ p, downSet s p = true → due p) → ∃ s' : State, exec .announceSend s = .next s' ∧
        s'.epc = { s.epc with anns := rest } ∧ s'.csr = s.csr ∧ s'.threads = s.threads ∧
        ∀ p : Fin 32, downSet s p = true → rinekUp s p →
          ∃ o e, s'.eout? o = some e ∧ e.port = p ∧ e.kind = OKind.ctrl ∧ e.dl = t ∧ e.released = true ∧
            e.flits = [flitAnnounce stop n 0])) ∧
    (∀ (stop : Bool) (n : Epoch) (t : Tick) (rest : List (Bool × Epoch × Tick)), s.epc.pulses = (stop, n, t) :: rest → s.fatal = 0 →
      (s.tick.toNat + ext (s.reg 0x100048) 11 0 < t.toNat → exec .pinPulseSend s = .next s) ∧
      (t.toNat ≤ s.tick.toNat + ext (s.reg 0x100048) 11 0 → exec .pinPulseSend s = .next { s with
        epc := { s.epc with pulses := rest }, out := s.out ++ [.pulse (if stop then 24 else 8)] })) ∧
    (∀ (p : Fin 32) (n : Epoch) (remain : Pair) (a : Tick), (s.port p).ctrlIn = [flitAnnounce false n remain] →
      let d := s.reg (0x101008 + 0x20 * p.val)
      let t : Tick := BitVec.ofNat 56 ((a.toNat * 16 + remain.toNat + 8 - ext d 19 0) / 16)
      (roleOf s ≠ 3 ∨ ext (s.reg 0x100040) 6 2 ≠ p.val ∨ ¬going s ∨ ext d 27 27 = 0 → ∃ s' : State,
        exec (.announceReceive p false n remain a) s = .next s' ∧ s' = { s with ports := s'.ports } ∧ (s'.port p).ctrlIn = []) ∧
      (roleOf s = 3 → ext (s.reg 0x100040) 6 2 = p.val → going s → ext d 27 27 = 1 → s.epc.gos = [] → s.epc.stop = none →
        s.epc.begun = false → s.epc.missed = none → ext (s.reg 0x100040) 7 7 = 0 → a.toNat + 16 ≤ t.toNat →
        ∃ s' : State, exec (.announceReceive p false n remain a) s = .next s' ∧ entersGo s s' n t false ∧ ext (s'.reg 0x100054) 0 0 = 1 ∧
          (s'.port p).ctrlIn = [] ∧ s'.threads = s.threads)) ∧
    (∀ (edge : Tick) (w : Nat),
      let t : Tick := BitVec.ofNat 56 ((edge.toNat * 16 + ext (s.reg 0x100048) 11 0 * 16 + 8 - ext (s.reg 0x100048) 27 12) / 16)
      let n := s.epc.pulseNo
      (roleOf s ≠ 2 ∨ ¬going s ∨ s.epc.stop ≠ none ∨ (w ≠ 8 ∧ w ≠ 24) → ∃ s' : State, exec (.beaconPulseReceive edge w) s = .next s' ∧
        s' = { s with csr := s'.csr, power := s'.power } ∧ ∀ o, (o < 0x2C00000 ∨ 0x2E00000 ≤ o) → s'.reg o = s.reg o) ∧
      (roleOf s = 2 → going s → s.epc.stop = none → s.epc.gos = [] → s.epc.begun = false → ext (s.reg 0x100040) 7 7 = 0 →
        (w = 8 → s.epc.missed ≠ some n → ∃ s' : State, exec (.beaconPulseReceive edge w) s = .next s' ∧
          s'.epc = { s.epc with gos := [(n, t)], anns := s.epc.anns ++ [(false, n, t)], pulseNo := n + 1 }) ∧
        (w = 8 → s.epc.missed = some n → ∃ s' : State, exec (.beaconPulseReceive edge w) s = .next s' ∧
          s'.epc = { s.epc with pulseNo := n + 1 }) ∧
        (w = 24 → ∃ s' : State, exec (.beaconPulseReceive edge w) s = .next s' ∧ s'.epc.stop = some (n, t) ∧ s'.epc.gos = [])))

/-- R38, R50, R52, R53, R65 to R67, R93: delay requests, answers and measurements; the overruns BEACON-LATE, REF-LOST, REMOTE and HOST
fill the record, and a later overrun sets MORE and leaves it. The mean of fewer than 16 measurements and its rounding (R52), and what
counts as one tick's overrun (R66), are the model's reading (log 18). -/
def Obligations.LinkDelaysAndOverruns : Prop :=
  ∀ (s : State) (p : Fin 32),
    let lp := s.eport p
    (let asked := rinekUp s p ∧ ((roleOf s = 3 ∧ ext (s.reg 0x100040) 6 2 = p.val) ∨ downSet s p = true) ∧
        ∀ t, lp.reqAt = some t → 6400 ≤ (s.tick - t).toNat;
      (¬asked → exec (.delayReqSend p) s = .next s) ∧
      (asked → ∃ (s' : State) (tag : Word), exec (.delayReqSend p) s = .next s' ∧ ctrlQueued s s' p (flitDelayReq tag) ∧
        (s'.eport p).req = some (tag, none) ∧ (s'.eport p).reqAt = some s.tick ∧ (s'.eport p).meas = lp.meas ∧ s'.csr = s.csr)) ∧
    (∀ (tag : Word) (a : Tick), (s.port p).ctrlIn = [flitDelayReq tag] → ∃ s' : State, exec (.delayReqReceive p tag a) s = .next s' ∧
      ctrlQueued s s' p (flitDelayRsp tag 0) ∧ (∃ o e, s'.eout? o = some e ∧ e.flits = [flitDelayRsp tag 0] ∧ e.dl = a) ∧
      (s'.port p).ctrlIn = [] ∧ s'.csr = s.csr) ∧
    (∀ (tag : Word) (r : Pair) (t1 t4 : Tick), (s.port p).ctrlIn = [flitDelayRsp tag r] → lp.req = some (tag, some t1) →
      1600 < (t4 - t1).toNat → ∃ s' : State, exec (.delayRspReceive p tag r t4) s = .next s' ∧ s' = { s with ports := s'.ports } ∧
        (s'.port p).ctrlIn = []) ∧
    (∀ (tag : Word) (r : Pair) (t1 t4 : Tick), (s.port p).ctrlIn = [flitDelayRsp tag r] → lp.req = some (tag, some t1) →
      (t4 - t1).toNat ≤ 1600 →
      let asym : Int := (BitVec.ofNat 16 (ext (s.reg (0x101000 + 0x20 * p.val)) 27 12)).toInt
      let ms := ((((t4.toNat : Int) - t1.toNat) * 16 - r.toNat + 2 * asym) :: lp.meas).take 16
      ∃ s' : State, exec (.delayRspReceive p tag r t4) s = .next s' ∧ (s'.eport p).meas = ms ∧ (s'.eport p).req = none ∧
        ext (s'.reg (0x101008 + 0x20 * p.val)) 27 27 = (if ms.length = 16 then 1 else 0) ∧
        (ext (s'.reg (0x101008 + 0x20 * p.val)) 19 0 : Int) = ms.sum / (2 * ms.length) % 2 ^ 20 ∧
        ∀ o, o ≠ 0x101008 + 0x20 * p.val → s'.reg o = s.reg o) ∧
    (∀ (tag : Word) (t1 : Tick), lp.req = some (tag, some t1) → t1.toNat < s.tick.toNat →
      ((s.tick - t1).toNat ≤ 1600 → exec (.delayMeasurementDrop p) s = .next s) ∧
      (1600 < (s.tick - t1).toNat → ∃ s' : State, exec (.delayMeasurementDrop p) s = .next s' ∧ s'.eport p = { lp with req := none } ∧
        s'.csr = s.csr ∧ s'.ports = s.ports ∧ ∀ q, q ≠ p.val → s'.eport q = s.eport q)) ∧
    (quietRun s → s.epc.live = true → ∃ s' : State, exec .refLost s = .next s' ∧ ext (s'.reg 0x100054) 1 1 = 0 ∧
      declares s s' 13 s.epc.epoch none none 0 ∧ s'.mem = s.mem) ∧
    (s.epc.live = false → ∃ s' : State, exec .refLost s = .next s' ∧ s' = { s with csr := s'.csr } ∧ ext (s'.reg 0x100054) 1 1 = 0 ∧
      ∀ o, o ≠ 0x100054 → s'.reg o = s.reg o) ∧
    (∀ (cause : BitVec 5) (e : Epoch), (s.port p).ctrlIn = [flitHalt cause.toNat e] → quietRun s →
      ∃ s' : State, exec (.haltFlitReceive p cause e) s = .next s' ∧ declares s s' 14 e (some p.val) none 0 ∧
        s'.reg 0x10007C = BitVec.ofNat 28 cause.toNat ∧ (s'.port p).ctrlIn = []) ∧
    (writesReg s 0x100000 → quietRun s → ∃ s' : State, exec .ctlHalt s = .next s' ∧ declares s s' 15 s.epc.epoch none none 0 ∧
      s'.mem = s.mem ∧ s'.threads = s.threads) ∧
    (writesReg s 0x100000 → going s → s.epc.overrun = true → ext (s.reg 0x100060) 0 0 = 1 → s.epc.ovrAt ≠ some s.tick →
      ∃ s' : State, exec .ctlHalt s = .next s' ∧ ext (s'.reg 0x100060) 6 6 = 1 ∧ ext (s'.reg 0x100060) 5 0 = ext (s.reg 0x100060) 5 0 ∧
        (∀ o, 0x100064 ≤ o → o < 0x100080 → s'.reg o = s.reg o) ∧ s'.eouts = s.eouts) ∧
    (s.epc.gos = [] → s.epc.stop = none → s.epc.missed = none → quietRun s → roleOf s = 3 →
      ext (s.reg 0x100020) 1 1 = 0 →
      let pred := s.epc.start.toNat + ext (s.reg 0x100008) 14 0
      pred + 16 < 2 ^ 56 →
      (s.tick.toNat < pred + 16 → exec .announceTimeout s = .next s) ∧
      (pred + 16 ≤ s.tick.toNat → ∃ s' : State, exec .announceTimeout s = .next s' ∧
        declares s s' 11 (s.epc.epoch + 1) (some (ext (s.reg 0x100040) 6 2)) none 0 ∧ s'.epc.missed = some (s.epc.epoch + 1)))

namespace Sys2Proof.Spec

/-- The oldest wave of port p that has not left its ingress queue is packet k, with its link check open; the packets of the port up to
it stand in the wave buffer. -/
def nextArrival (s : State) (p : Fin 32) (k : Nat) (q : Pkt) : Prop :=
  s.clocked (3 + p.val / 8) = true ∧
  ∃ pre post, s.pkts = pre ++ (k, q) :: post ∧ q.port = p ∧ q.cls = 0 ∧ q.stamped = false ∧ q.gone = false ∧ q.doomed = false ∧
    (∀ x ∈ pre, x.1 < k ∧ (x.2.port ≠ p ∨ x.2.cls ≠ 0 ∨ x.2.stamped = true ∨ x.2.gone = true ∨ x.2.doomed = true)) ∧
    (∀ x ∈ post, k < x.1) ∧ ∀ x ∈ s.pkts, x.2.port = p → x.1 < k → x.2.placed = true
/-- EPOCH of the header of a wave. -/
def waveEpoch (q : Pkt) : Pair := BitVec.ofNat 28 (ext (q.flits.headD 0) 69 56 + ext (q.flits.headD 0) 83 70 * 2 ^ 14)
/-- The wave takes the next place of epoch e on its port, in phase i with START reached and due at `due` (R43, R62, R63). -/
def takesPlace (s s' : State) (p : Fin 32) (k : Nat) (q : Pkt) (e : Epoch) (i : Nat) (due : Tick) : Prop :=
  let h := q.flits.headD 0
  let old := (s.eport p).recs
  ∃ r : WaveRec, (s'.eport p).recs = old ++ [r] ∧ r.epoch = e ∧ r.xseq = BitVec.ofNat 16 (old.filter fun x => decide (x.epoch = e)).length ∧
    r.seq.toNat = ext h 41 28 ∧ r.last = bitOf h 84 ∧ r.arr = s.copy ∧ r.due = due ∧ r.ok = false ∧ r.completed = false ∧
    s'.pkt? k = some { q with stamped := true, counted := true, epoch := e, phase := i, xseq := r.xseq, due := due,
                              discard := !bitOf (phEntry s 0x100140 i) 15,
                              ovr := if bitOf (phEntry s 0x100140 i) 15 then [] else [7] } ∧ s'.csr = s.csr
/-- The wave is discarded, with overrun cause c once its link check passes. -/
def misses (s s' : State) (k : Nat) (q : Pkt) (c : Nat) : Prop :=
  (∃ e, s'.pkt? k = some { q with stamped := true, discard := true, epoch := e, ovr := [c] }) ∧ s'.csr = s.csr ∧ s'.epc = s.epc
/-- The end of phase DUE(i) of the table in force, from a start. -/
def dueFrom (s : State) (start : Tick) (i : Nat) : Tick :=
  start + BitVec.ofNat 56 (phaseEnd s 0x100140 (ext (s.reg 0x100008) 14 0) (ext (phEntry s 0x100140 i) 19 16))
/-- A packet that brings nothing else with its link check: fresh, and not of a wave that EPC counts. -/
def plainWave (q : Pkt) : Prop := q.counted = false ∧ q.ovr = [] ∧ q.gone = false ∧ q.discard = false
/-- How far tick t lies past a 28-bit limit: late in R40's sense from 5 on. -/
def past (s : State) (d : Pair) : Nat := (BitVec.ofNat 28 s.tick.toNat - d).toNat
def isLate (s : State) (d : Pair) : Prop := 5 ≤ past s d ∧ past s d < 2 ^ 27
/-- Order of the outputs of one port: the epoch, re-presented waves first (R382), then the key (R59). -/
def keyBefore (a b : EOut) : Prop :=
  a.epoch.toNat < b.epoch.toNat ∨ (a.epoch = b.epoch ∧ ((a.replay = true ∧ b.replay = false) ∨ (a.replay = b.replay ∧
    (a.xseq.toNat < b.xseq.toNat ∨ (a.xseq = b.xseq ∧ (a.inPort.toNat < b.inPort.toNat ∨ (a.inPort = b.inPort ∧ a.idx.toNat < b.idx.toNat)))))))
/-- A wave output of port p that has still to start. -/
def waveWaits (p : Fin 32) (x : EOut) : Prop := x.port = p ∧ x.kind = .wave ∧ x.bad = false ∧ x.expect = false ∧ x.started = false
/-- Ingress port f feeds egress port p (R58). -/
def fed (s : State) (p f : Fin 32) : Prop := bitOf (s.reg (0x10100C + 0x20 * p.val + if f.val < 16 then 0 else 4)) (f.val % 16) = true
/-- The waves of an epoch on port f that have completed without a gap; with LAST among them the watermark is final (R60). -/
def doneWaves (s : State) (f : Fin 32) (e : Epoch) : List WaveRec :=
  ((s.eport f).recs.filter fun r => decide (r.epoch = e)).takeWhile (·.completed)
def finalMark (s : State) (f : Fin 32) (e : Epoch) : Prop := ∃ r ∈ doneWaves s f e, r.last = true
/-- A re-presented wave of epoch e below capture index n has still to complete its task (R382). -/
def replayOpen (s : State) (e : Epoch) (n : Nat) : Prop :=
  ∃ x ∈ s.pkts, x.2.replay = true ∧ x.2.cls = 0 ∧ x.2.ended = false ∧ x.2.gone = false ∧ x.2.epoch = e ∧ x.2.xseq.toNat < n
/-- Port p can start a packet now. -/
def portReady (s : State) (p : Fin 32) : Prop :=
  rinekUp s p ∧ (s.port p).txq = [] ∧ (s.port p).feed = [] ∧ s.fatal = 0 ∧ s.clocked (3 + p.val / 8) = true
/-- Output i starts on port p with the header h: what the egress queue of 32 flits takes (R27), and what becomes of the output. -/
def startsOn (s s' : State) (p : Fin 32) (i : Nat) (b : EOut) (h : Flit) : Prop :=
  (s'.port p).txq = h :: (b.flits.take 32).tail ∧ (s'.port p).feed = b.flits.drop 32 ∧
    s'.eout? i = (if b.flits.length ≤ 32 then none else some { b with started := true }) ∧
    (b.flits.length ≤ 32 ∨ (s'.port p).feedOut = some i) ∧ (∀ j, j ≠ i → s'.eout? j = s.eout? j) ∧ s'.mem = s.mem ∧
    ∀ k q, b.pkt = some k → s.pkt? k = some q → 1 < q.uses → s'.pkt? k = some { q with uses := if b.flits.length ≤ 32 then q.uses - 1 else q.uses }
/-- h is the header h0, but for the words listed and for SLICE, which job mode sets (R234). -/
def sameHeader (h h0 : Flit) (i : BitVec 6) (but : List Nat) : Prop :=
  ext h 255 252 = ext h0 255 252 ∧ (∀ j, j < 18 → j ∉ 3 :: but → fword h j = fword h0 j) ∧ ext h 49 42 = ext h0 49 42 ∧
    ext h 55 50 = if i = 0 then ext h0 55 50 else i.toNat
/-- The deadlines pending on port p leave room for n flits (R64). -/
def leavesRoom (s : State) (p : Fin 32) (n : Nat) : Prop :=
  s.epc.stopped = true ∨
    ((∀ x ∈ s.eouts, x.2.port = p → x.2.kind = .wave → x.2.bad = false → x.2.started = false → s.copy.toNat + s.ser p n + 16 ≤ x.2.dl.toNat) ∧
      ∀ l ∈ (s.eport p).lastDl, s.copy.toNat + s.ser p n + 16 ≤ l.2.1.toNat)

end Sys2Proof.Spec

/-- R26, R40, R43, R62, R63, R478, R479: the oldest wave of a port that is to leave its ingress queue goes into the wave buffer, is stamped
and taken in the epoch current at the stamp, or in the next one decided as if it arrived at its start, with its XSEQ, phase and due
tick, or discarded; with no epoch decided it is dropped, and counted in IDLE_DROP once its link check has passed (R28). Before the first
start only a wave of N0 is accepted, and any other is EPOCH-MISMATCH, and the XSEQ counts on over places taken back (R63): both are the
model's reading (log 18). -/
def Sys2Proof.Spec.WavesAreJudgedAtArrival : Prop :=
  (∀ (s : State) (p : Fin 32), s.clocked (3 + p.val / 8) = false → exec (.waveArrival p) s = .next s) ∧
  (∀ (s : State) (k : Nat) (q : Pkt), s.pkt? k = some q → q.idle = true → q.stamped = true → plainWave q →
    (s.passPkt k).pkt? k = none ∧ ext ((s.passPkt k).reg 0x10008C) 27 0 = min (ext (s.reg 0x10008C) 27 0 + 1) (2 ^ 28 - 1)) ∧
  ∀ (s : State) (p : Fin 32) (k : Nat) (q : Pkt), nextArrival s p k q →
    let fe := waveEpoch q
    let low (e : Epoch) : Pair := BitVec.ofNat 28 e.toNat
    let cur := s.epc.epoch
    (q.placed = true → q.link = .passed → plainWave q → (¬runs s ∨ (s.epc.begun = false ∧ s.epc.gos = [])) →
      ∃ s' : State, exec (.waveArrival p) s = .next s' ∧ s'.pkt? k = none ∧
        ext (s'.reg 0x10008C) 27 0 = min (ext (s.reg 0x10008C) 27 0 + 1) (2 ^ 28 - 1) ∧ ∀ o, o ≠ 0x10008C → s'.reg o = s.reg o) ∧
    (q.link = .open →
    (q.placed = false → s.allocWave (p.val / 8) q.size = none → exec (.waveArrival p) s = .next s) ∧
    (q.placed = false → runs s → s.epc.begun = false → s.epc.gos = [] → ∀ a s1, s.allocWave (p.val / 8) q.size = some (a, s1) →
      ∃ s' : State, exec (.waveArrival p) s = .next s' ∧ s'.pkt? k = some { q with stamped := true, idle := true, addr := a, len := q.size } ∧
        ∀ i, i < q.words.length → i < q.size → s'.getWord (a.toNat + i) = q.words.getD i 0) ∧
    (q.placed = true → (¬runs s ∨ (s.epc.begun = false ∧ s.epc.gos = [])) → ∃ s' : State, exec (.waveArrival p) s = .next s' ∧
      s'.pkt? k = some { q with stamped := true, idle := true } ∧ s'.csr = s.csr ∧ s'.epc = s.epc) ∧
    (q.placed = true → runs s → s.epc.begun = true → s.epc.start.toNat ≤ s.copy.toNat → (∀ x, s.epc.prev = some x → x.epoch + 1 = cur ∧
        x.start.toNat ≤ s.epc.start.toNat) → (∀ g ∈ s.epc.gos, s.copy.toNat < g.2.toNat) →
      (fe = low cur → phOk s 0x100140 0 = true → phAt s 0x100140 0 = 0 → ∃ (s' : State) (i : Nat), exec (.waveArrival p) s = .next s' ∧
        phOk s 0x100140 i = true ∧ phAt s 0x100140 i ≤ s.copy.toNat - s.epc.start.toNat ∧
        (∀ j, phOk s 0x100140 j = true → phAt s 0x100140 j ≤ s.copy.toNat - s.epc.start.toNat → j ≤ i) ∧
        takesPlace s s' p k q cur i (dueFrom s s.epc.start i)) ∧
      (∀ t rest, s.epc.gos = (cur + 1, t) :: rest → ext (s.reg 0x100020) 1 1 = 0 → fe = low (cur + 1) →
        ∃ s' : State, exec (.waveArrival p) s = .next s' ∧
        takesPlace s s' p k q (cur + 1) 0 (dueFrom s t 0)) ∧
      (fe = low cur - 1 → ∃ s' : State, exec (.waveArrival p) s = .next s' ∧ misses s s' k q 5) ∧
      (fe ≠ low cur → fe ≠ low cur - 1 → (fe = low cur + 1 → s.epc.gos = []) → ∃ s' : State, exec (.waveArrival p) s = .next s' ∧
        misses s s' k q 6)) ∧
    (∀ n t rest, q.placed = true → runs s → s.epc.begun = false → s.epc.prev = none → s.epc.gos = (n, t) :: rest → s.copy.toNat < t.toNat →
        (∀ g ∈ rest, s.copy.toNat < g.2.toNat) → ext (s.reg 0x100020) 1 1 = 0 →
      (fe = low n → ∃ s' : State, exec (.waveArrival p) s = .next s' ∧ takesPlace s s' p k q n 0 (dueFrom s t 0)) ∧
      (fe ≠ low n → ∃ s' : State, exec (.waveArrival p) s = .next s' ∧ misses s s' k q 6)))

/-- R40, R59 to R61, R65: the overruns DEADLINE, TASK-LATE, LAST-LATE and ARRIVAL are declared once TCLK has reached the limit plus
5 ticks, and not before; also those of an event that came after its limit. -/
def Sys2Proof.Spec.MissedDeadlinesAreOverruns : Prop :=
  ∀ s : State, quietRun s → s.epc.live = true →
    (∀ (o : Nat) (e : EOut), s.eout? o = some e → e.kind = OKind.wave → e.late = false → e.bad = false → e.started = false →
      (¬isLate s (BitVec.ofNat 28 e.dl.toNat) → s.epc.lates = [] → exec (.deadline o) s = .next s) ∧
      (isLate s (BitVec.ofNat 28 e.dl.toNat) → ∃ s' : State, exec (.deadline o) s = .next s' ∧
        declares s s' 1 e.epoch (some e.inPort.toNat) (some e.port.val) (BitVec.ofNat 28 e.dl.toNat))) ∧
    (∀ (q : Fin 4) (n : Fin 4096) (k : Nat) (p : Pkt),
      let x := s.slot q n
      x.pkt = some k → s.pkt? k = some p → x.st ≠ .free → x.late = false → p.cls = 0 → (p.counted = true ∨ p.replay = true) →
      (x.ports = 0 ∨ x.src ≠ 0) →
      (¬isLate s x.dl → s.epc.lates = [] → exec (.taskLate q n) s = .next s) ∧
      (isLate s x.dl → ∃ s' : State, exec (.taskLate q n) s = .next s' ∧
        declares s s' 2 p.epoch (some p.port.val) none x.dl ∧ (s'.slot q n).late = true)) ∧
    (∀ (p : Fin 32) (e : Epoch) (dl : Tick) (rest : List (Epoch × Tick × Bool)), (s.eport p).lastDl = (e, dl, false) :: rest →
      (¬isLate s (BitVec.ofNat 28 dl.toNat) → s.epc.lates = [] → exec (.lastLate p) s = .next s) ∧
      (isLate s (BitVec.ofNat 28 dl.toNat) → ∃ s' : State, exec (.lastLate p) s = .next s' ∧
        declares s s' 3 e none (some p.val) (BitVec.ofNat 28 dl.toNat))) ∧
    (∀ (p : Fin 32) (q : Fin 4) (n : Fin 4096) (o : Nat) (x : LateEvent) (com : Instr), s.epc.lates = [x] → isLate s x.ovr.deadline →
      ((com = .deadline o ∧ s.eout? o = none ∧ x.id = o ∧ x.ovr.cause = 1) ∨
        (com = .taskLate q n ∧ (s.slot q n).pkt = none ∧ x.id = 4096 * q.val + n.val ∧ x.ovr.cause = 2) ∨
        (com = .lastLate p ∧ (s.eport p).lastDl = [] ∧ x.id = p.val ∧ x.ovr.cause = 3)) →
      (∀ i, x.ovr.inPort = some i → i < 32) → (∀ i, x.ovr.outPort = some i → i < 32) →
      ∃ s' : State, exec com s = .next s' ∧ s'.epc.lates = [] ∧
        declares s s' x.ovr.cause x.ovr.epoch x.ovr.inPort x.ovr.outPort x.ovr.deadline) ∧
    (∀ (p : Fin 32),
      let inTime (x : Epoch × Tick) : Prop := ∃ r ∈ (s.eport p).recs, r.epoch = x.1 ∧ r.last = true ∧ r.arr.toNat ≤ x.2.toNat
      let fails (x : Epoch × Tick) : Prop := isLate s (BitVec.ofNat 28 x.2.toNat) ∧ ¬inTime x
      ((∀ x ∈ (s.eport p).arrDl, ¬fails x) → exec (.arrival p) s = .next s) ∧
      (∀ pre post x, (s.eport p).arrDl = pre ++ x :: post → (∀ y ∈ pre, ¬fails y) → fails x → ∃ s' : State,
        exec (.arrival p) s = .next s' ∧ (s'.eport p).arrDl = pre ++ post ∧
        declares s s' 4 x.1 (some p.val) none (BitVec.ofNat 28 x.2.toNat)))

/-- (a) R26, R40, R43, R62, R63, R478, R479: the oldest wave of a port that is to leave its ingress queue goes into the wave buffer, is
stamped and taken in its epoch with its XSEQ, phase and due tick, or discarded; with no epoch decided it is dropped, and counted in
IDLE_DROP once its link check has passed (R28). What is accepted before the first start and the XSEQ behind a place taken back (R63) are
the model's reading (log 18). (b) R40, R59 to R61, R65: the overruns DEADLINE, TASK-LATE, LAST-LATE and ARRIVAL are declared once TCLK has reached the
limit plus 5 ticks, and not before; also those of an event that came after its limit. -/
def Obligations.WavesAndTheirDeadlines : Prop :=
  Sys2Proof.Spec.WavesAreJudgedAtArrival ∧
  Sys2Proof.Spec.MissedDeadlinesAreOverruns

/-- R18, R27, R40, R49, R52, R59 to R61, R64, R234, R382, for any outputs that wait: an output is released when its key, the watermarks and
the re-presented waves allow it; the released waves of a port leave in key order with the port's own SEQ and the epoch, through an egress
queue of 32 flits; LAST ends the epoch; the oldest non-wave packet leaves between waves, when it has crossed the flit plane and the
deadlines leave room, and a CTRL flit gets its REMAIN, transmit tick or residence there. The transmit stamp (R40, R52), the master's LEAD × 16
(R49), the due tick of LAST (R61) and what stands before R382's waves are the model's reading (log 18). -/
def Obligations.OutputsLeaveInKeyOrder : Prop :=
  ∀ (s : State) (p : Fin 32), s.Canon →
    let leaves := s.copy.toNat + latOf s p
    let lead := ext (s.reg 0x100044) 14 0
    (∀ (o : Nat) (e : EOut), s.eout? o = some e → waveWaits p e → e.released = false →
      let allowed := s.clocked 1 = true ∧ s.epc.begun = true ∧ e.epoch.toNat ≤ s.epc.epoch.toNat ∧
        (∀ x ∈ s.eouts, x.1 ≠ o → waveWaits p x.2 → x.2.released = false → ¬keyBefore x.2 e) ∧
        (e.replay = true ∨ ∀ f : Fin 32, fed s p f → finalMark s f e.epoch ∨
          (f.val < e.inPort.toNat ∧ e.xseq.toNat + 1 ≤ (doneWaves s f e.epoch).length) ∨
          (e.inPort.toNat ≤ f.val ∧ e.xseq.toNat ≤ (doneWaves s f e.epoch).length)) ∧
        ¬replayOpen s e.epoch (if e.replay = true then e.xseq.toNat else 2 ^ 16)
      (allowed → exec (.outputRelease o) s = .next (s.setEOut o { e with released := true })) ∧
      (¬allowed → exec (.outputRelease o) s = .next s)) ∧
    (∀ (i : Nat) (b : EOut), s.eout? i = some b → waveWaits p b → b.released = true → b.cross = false →
      (∀ x ∈ s.eouts, x.1 ≠ i → waveWaits p x.2 → x.2.released = true → keyBefore b x.2) →
      let earlier := (∃ l ∈ (s.eport p).lastDl, l.1.toNat < b.epoch.toNat) ∨
        (∃ x ∈ s.eouts, waveWaits p x.2 ∧ x.2.released = false ∧ x.2.epoch.toNat < b.epoch.toNat) ∨
        ∃ x ∈ s.pkts, (x.2.counted = true ∨ (x.2.replay = true ∧ x.2.cls = 0)) ∧ x.2.ended = false ∧ x.2.gone = false ∧ fed s p x.2.port ∧
          x.2.epoch.toNat < b.epoch.toNat
      (earlier ∨ ¬going s ∨ s.clocked (3 + p.val / 8) = false → exec (.egressStart p) s = .next s) ∧
      (¬earlier → going s → portReady s p → ∀ h ps, b.flits = h :: ps → (s.copy.toNat ≤ b.dl.toNat ∨ b.late = true) →
        ∃ (s' : State) (h' : Flit), exec (.egressStart p) s = .next s' ∧ startsOn s s' p i b h' ∧ sameHeader h' h b.slice [2, 4, 5, 6] ∧
          ext h' 41 28 = (if (s.eport p).txEpoch = b.epoch then (s.eport p).txSeq else 0) % 2 ^ 14 ∧
          ext h' 69 56 = b.epoch.toNat % 2 ^ 14 ∧ ext h' 83 70 = b.epoch.toNat / 2 ^ 14 % 2 ^ 14 ∧ ext h' 84 84 = 0 ∧
          (s'.eport p).txSeq = (if (s.eport p).txEpoch = b.epoch then (s.eport p).txSeq else 0) + 1 ∧ (s'.eport p).txEpoch = b.epoch) ∧
      (¬earlier → going s → s.epc.live = true → portReady s p → b.late = false → b.dl.toNat < s.copy.toNat →
        ¬isLate s (BitVec.ofNat 28 b.dl.toNat) → ∃ (s' : State) (x : LateEvent), exec (.egressStart p) s = .next s' ∧
        s'.epc.lates = s.epc.lates ++ [x] ∧ x.id = i ∧ x.ovr.cause = 1 ∧ x.ovr.epoch = b.epoch ∧ x.ovr.deadline = BitVec.ofNat 28 b.dl.toNat)) ∧
    (∀ (ep : Epoch) (dl : Tick) (l : Bool) (rest : List (Epoch × Tick × Bool)), (s.eport p).lastDl = (ep, dl, l) :: rest →
      let may := going s ∧ portReady s p ∧ (∀ x ∈ s.eouts, waveWaits p x.2 → ep.toNat < x.2.epoch.toNat) ∧
        (∀ f, fed s p f → finalMark s f ep) ∧ ¬replayOpen s ep (2 ^ 16)
      (¬may → exec (.lastWaveSend p) s = .next s) ∧
      (may → (s.copy.toNat ≤ dl.toNat ∨ l = true) →
      ∃ (s' : State) (h : Flit), exec (.lastWaveSend p) s = .next s' ∧ (s'.port p).txq = [h] ∧ (s'.eport p).lastDl = rest ∧
        ext h 255 252 = 1 ∧ ext h 41 28 = (if (s.eport p).txEpoch = ep then (s.eport p).txSeq else 0) % 2 ^ 14 ∧ ext h 48 42 = 0 ∧
        ext h 69 56 = ep.toNat % 2 ^ 14 ∧ ext h 83 70 = ep.toNat / 2 ^ 14 % 2 ^ 14 ∧ ext h 84 84 = 1)) ∧
    (∀ (o : Nat) (e : EOut), s.eout? o = some e → e.port = p → e.kind ≠ .wave → e.released = true → e.started = false →
      (∀ x ∈ s.eouts, x.1 < o → x.2.port = p → x.2.kind ≠ .wave → x.2.released = true → x.2.started = true) →
      (s.clocked (3 + p.val / 8) = false → exec (.nonwaveEgress p) s = .next s) ∧
      (e.kind ≠ .ctrl → e.cross = true → (∀ k q, e.pkt = some k → s.pkt? k = some q → s.allocWave (p.val / 8) q.len = none) →
        exec (.nonwaveEgress p) s = .next s) ∧
      (portReady s p → e.cross = false → (e.kind = .msg ∨ e.kind = .tunnel) → ¬leavesRoom s p e.flits.length →
        exec (.nonwaveEgress p) s = .next s) ∧
      (portReady s p → e.cross = false → (e.kind = .msg ∨ e.kind = .tunnel) → leavesRoom s p e.flits.length → ∀ h ps, e.flits = h :: ps →
        ∃ (s' : State) (h' : Flit), exec (.nonwaveEgress p) s = .next s' ∧ startsOn s s' p o e h' ∧
          sameHeader h' h (if e.mirror then 0 else e.slice) []) ∧
      (portReady s p → e.cross = false → e.kind = .ctrl → e.pkt = none →
        (∀ (stop : Bool) (n : Epoch), e.flits = [flitAnnounce stop n 0] → roleOf s = 1 → s.tick.toNat + lead + latOf s p < e.dl.toNat →
          (∀ x ∈ s.eouts, o < x.1 → x.2.port = p → x.2.kind ≠ .wave → x.2.released = true → x.2.started = true) →
          exec (.nonwaveEgress p) s = .next s) ∧
        (leavesRoom s p 1 → leaves < 2 ^ 56 →
          (∀ (stop : Bool) (n : Epoch), e.flits = [flitAnnounce stop n 0] → (roleOf s = 1 → e.dl.toNat ≤ s.tick.toNat + lead + latOf s p) →
            let master := roleOf s = 1 ∧ s.copy.toNat + lead ≤ e.dl.toNat
            (master ∨ leaves ≤ e.dl.toNat) → ∃ s' : State, exec (.nonwaveEgress p) s = .next s' ∧
            (s'.port p).txq = [flitAnnounce stop n (BitVec.ofNat 28 ((if master then lead else e.dl.toNat - leaves) * 16))]) ∧
          (∀ tag : Word, e.flits = [flitDelayReq tag] → (s.eport p).req = some (tag, none) →
            ∃ s' : State, exec (.nonwaveEgress p) s = .next s' ∧ (s'.port p).txq = [flitDelayReq tag] ∧
              (s'.eport p).req = some (tag, some (BitVec.ofNat 56 leaves))) ∧
          (∀ tag : Word, e.flits = [flitDelayRsp tag 0] → e.dl.toNat ≤ leaves →
            ∃ s' : State, exec (.nonwaveEgress p) s = .next s' ∧
              (s'.port p).txq = [flitDelayRsp tag (BitVec.ofNat 28 ((leaves - e.dl.toNat) * 16))]))))

namespace Sys2Proof.Spec

/-! ## Ports -/

/-- Register of port p at an offset of Table 3.10. -/
abbrev lkAt (p : Fin 32) (o : Nat) : Nat := 0x400000 + p.val / 8 * 0x100000 + p.val % 8 * 0x10000 + o
/-- PORT_STATUS.STATE (Table 3.11). -/
def lkState (s : State) (p : Fin 32) : Nat := ext (s.reg (lkAt p 4)) 3 0
/-- A Rinek mode (Table 3.1). -/
abbrev rinek (s : State) (p : Fin 32) : Prop := ext (s.reg (lkAt p 0)) 3 1 < 2
/-- Counter m of port p (Table 3.12). -/
def cntOf (s : State) (p : Fin 32) (m : Nat) : Nat := (SMap.get 0 (s.port p).cnt m).toNat
/-- Counter m of port p counts n more; it saturates (R103). -/
def cntUp (s s' : State) (p : Fin 32) (m n : Nat) : Prop := cntOf s' p m = min (cntOf s p m + n) (2 ^ 56 - 1)
/-- Every packet that was not complete is gone (R90, R97). -/
def incompleteGone (s s' : State) (p : Fin 32) : Prop :=
  (s'.port p).incomplete = [] ∧ ∀ e ∈ (s.port p).incomplete, s'.pkt? e.1 = none
/-- The link of port p is down (R97): no group is held, GSEQ restarts at 0, and the partner is invalid. -/
def linkGone (s s' : State) (p : Fin 32) : Prop :=
  let x := s'.port p
  ext (s'.reg (lkAt p 4)) 4 4 = 0 ∧ ext (s'.reg (lkAt p 8)) 19 19 = 0 ∧
    x.held = [] ∧ x.replay = [] ∧ x.txGseq = 0 ∧ x.rxExp = 0 ∧ x.rxLast = none ∧ x.nack = none ∧ x.txUp = false ∧ x.rxUp = false ∧
    incompleteGone s s' p ∧ s'.mem = s.mem ∧ s'.threads = s.threads
/-- Port p has entered DETECT (R53): its LINK_DELAY is invalid too. -/
def detects (s s' : State) (p : Fin 32) : Prop := lkState s' p = 1 ∧ s'.reg (0x101008 + 0x20 * p.val) = 0 ∧ linkGone s s' p
/-- The waves lost with a link (R97): header groups of those that are incomplete, and of those whose copies have not come. -/
def lostWaves (s : State) (p : Fin 32) : List (BitVec 12) :=
  (s.port p).lost ++ (((s.port p).incomplete.filter fun e => (s.pkt? e.1).any fun q => decide (q.cls = 0)).map (·.2.1)).diff (s.port p).lost
/-- The port has been in its state for n ms (Table 3.8). -/
def stayed (s : State) (p : Fin 32) (n : Nat) : Prop := 400000 * n ≤ (s.tick - (s.port p).since).toNat
/-- Port p goes from one state to another, and nothing else changes but its record. -/
def movesTo (s s' : State) (p : Fin 32) (n : Nat) : Prop :=
  s' = { s with csr := s'.csr, ports := s'.ports } ∧ lkState s' p = n ∧ (s'.port p).since = s.tick ∧
    (∀ o, o ≠ lkAt p 4 → s'.reg o = s.reg o) ∧ ∀ q, q ≠ p.val → s'.port q = s.port q
/-- Port p enters RETRAIN (R78, R96 to R98): group counters, retry buffer and a codeword that has begun stay; the unfinished group is
handled as a failed one. -/
def retrains (s s' : State) (p : Fin 32) : Prop :=
  let x := s.port p
  let x' := s'.port p
  lkState s' p = 7 ∧ ext (s'.reg (lkAt p 4)) 4 4 = 0 ∧ x'.phase = 3 ∧ x'.reqLeft = 8 ∧ x'.held = x.held ∧ x'.txGseq = x.txGseq ∧
    x'.rxLast = x.rxLast ∧ x'.txUp = false ∧ x'.rxUp = false ∧ x'.rxFlits = [] ∧ incompleteGone s s' p ∧ cntUp s s' p 7 1 ∧
    x'.nack = some x'.rxExp ∧ (x.incomplete = [] → x.nack = none → x'.rxExp = x.rxExp) ∧ x'.lost = lostWaves s p ∧ x'.fecTx = x.fecTx ∧
    (∀ k g i r, x.incomplete = (k, g, i) :: r → x'.rxExp = g)

end Sys2Proof.Spec

/-- R72, R78, R95 to R98, R101 to R103, Tables 3.8, 3.11: what PORT_CTL and the events of training do to a port's state, after the times of
Table 3.8. -/
def Sys2Proof.Spec.PortStatesFollowTheirTable : Prop :=
  ∀ (s : State) (p : Fin 32),
    let st := lkState s p
    let cfg := lkAt p 0
    (writesReg s cfg →
      (st ≠ 0 → ∃ s' : State, exec (.portEnable p) s = .next s' ∧ s' = { s with csr := s'.csr } ∧
        s'.reg cfg = ins (s.reg cfg) 0 0 1 ∧ ∀ o, o ≠ cfg → s'.reg o = s.reg o) ∧
      (st = 0 → ∃ s' : State, exec (.portEnable p) s = .next s' ∧ ext (s'.reg (lkAt p 4)) 12 10 = 0 ∧
        s'.reg cfg = ins (s.reg cfg) 0 0 1 ∧ detects s s' p) ∧
      (st = 0 → ∃ s' : State, exec (.portDisable p) s = .next s' ∧ s' = { s with csr := s'.csr } ∧
        s'.reg cfg = ins (s.reg cfg) 0 0 0 ∧ ∀ o, o ≠ cfg → s'.reg o = s.reg o) ∧
      (st ≠ 0 → ∃ s' : State, exec (.portDisable p) s = .next s' ∧ lkState s' p = 0 ∧ s'.reg cfg = ins (s.reg cfg) 0 0 0 ∧
        linkGone s s' p) ∧
      (∀ m : BitVec 3, let locked := ext (s.reg (0x480000 + p.val / 8 * 0x100000)) 0 0 = 1
        let refused := 6 ≤ m.toNat ∨ (2 ≤ m.toNat ∧ p.val % 8 ≠ 0 ∧ p.val % 8 ≠ 1)
        (locked → exec (.modeWrite p m) s = .next s) ∧
        (¬locked → ∃ s' : State, exec (.modeWrite p m) s = .next s' ∧ s' = { s with csr := s'.csr } ∧
          (refused → s'.reg (lkAt p 4) = ins (s.reg (lkAt p 4)) 13 13 1 ∧ ∀ o, o ≠ lkAt p 4 → s'.reg o = s.reg o) ∧
          (¬refused → s'.reg cfg = ins (s.reg cfg) 3 1 m.toNat ∧ ∀ o, o ≠ cfg → s'.reg o = s.reg o))) ∧
      (st = 6 → rinek s p → ∃ s' : State, exec (.retrain p) s = .next s' ∧ retrains s s' p) ∧
      (st ≠ 6 ∨ ¬rinek s p → exec (.retrain p) s = .next s) ∧
      (∃ s' : State, exec (.clrCnt p) s = .next s' ∧ s' = { s with ports := s'.ports } ∧ s'.port p = { s.port p with cnt := [] } ∧
        (∀ m, cntOf s' p m = 0) ∧ ∀ q, q ≠ p.val → s'.port q = s.port q)) ∧
    (s.domOn (7 + p.val / 8) = true →
      (st ≠ 1 → exec (.signalDetect p) s = .next s) ∧
      (st = 1 → ∃ s' : State, exec (.signalDetect p) s = .next s' ∧ movesTo s s' p 2)) ∧
    (st = 2 → rinek s p → stayed s p 1 → ∃ s' : State, exec (.eqComplete p) s = .next s' ∧ movesTo s s' p 3 ∧ (s'.port p).lanes = []) ∧
    (st ≠ 2 ∨ ¬rinek s p ∨ ¬stayed s p 1 → exec (.eqComplete p) s = .next s) ∧
    (rinek s p →
      ((st = 3 ∧ ¬stayed s p 2) ∨ ((st = 4 ∨ st = 5) ∧ ¬stayed s p 1) ∨ (st = 7 ∧ ¬stayed s p 4) ∨ st = 0 ∨ st = 1 ∨ st = 2 ∨ st = 6 ∨ 8 ≤ st →
        exec (.trainingTimeout p) s = .next s) ∧
      (st = 3 → stayed s p 2 → ∃ s' : State, exec (.trainingTimeout p) s = .next s' ∧
        if 3 ≤ (s.port p).timeouts then lkState s' p = 8 ∧ ext (s'.reg (lkAt p 4)) 12 10 = 1 ∧ logged s s' 2 4 2 p 1
        else movesTo s s' p 2 ∧ (s'.port p).timeouts = (s.port p).timeouts + 1) ∧
      (st = 4 ∨ st = 5 → stayed s p 1 → ∃ s' : State, exec (.trainingTimeout p) s = .next s' ∧ movesTo s s' p 3) ∧
      (st = 7 → stayed s p 4 → ∃ s' : State, exec (.trainingTimeout p) s = .next s' ∧ detects s s' p ∧ cntUp s s' p 8 1 ∧
        logged s s' 2 3 2 p (lostWaves s p).length) ∧
      (st = 2 → ∃ s' : State, exec (.lossOfSignal p) s = .next s' ∧ detects s s' p) ∧
      (st = 6 → ∃ s' : State, exec (.lossOfSignal p) s = .next s' ∧ retrains s s' p) ∧
      (∀ up, exec (.ethLinkTraining p up) s = .next s)) ∧
    (¬rinek s p →
      let fits (inv : BitVec 4) : Prop := ∀ k, k < 4 → (k = 0 ∨ ext (s.reg cfg) 3 1 = 5) → bitOf inv k = bitOf (s.reg cfg) (10 + k)
      exec (.trainingTimeout p) s = .next s ∧
      (∀ inv, fits inv → (st = 2 → ∃ s' : State, exec (.ethLinkTraining p (some inv)) s = .next s' ∧ movesTo s s' p 6 ∧
          ext (s'.reg (lkAt p 4)) 4 4 = 1) ∧
        (st ≠ 2 → exec (.ethLinkTraining p (some inv)) s = .next s)) ∧
      (st = 2 ∨ st = 6 → ∀ c, c = Instr.ethLinkTraining p none ∨ (∃ inv, ¬fits inv ∧ c = Instr.ethLinkTraining p (some inv)) ∨
          c = Instr.lossOfSignal p → ∃ s' : State, exec c s = .next s' ∧ detects s s' p ∧ ∀ m, cntOf s' p m = cntOf s p m)) ∧
    (st ≠ 2 → st ≠ 6 → exec (.lossOfSignal p) s = .next s)

namespace Sys2Proof.Spec

/-- CRC of w bits with polynomial poly, shifting left, of the bits in order (R86, R94). -/
def crcOf (w poly init : Nat) (bits : List Bool) : Nat :=
  bits.foldl (fun c b => (c * 2 % 2 ^ w) ^^^ (if (decide (2 ^ (w - 1) ≤ c)) = b then 0 else poly)) init
def bitList {n : Nat} (v : BitVec n) (lo : Nat) : List Bool := (List.range (n - lo)).map fun i => bitOf v (lo + i)
/-- A training sequence with correct ALIGN and CHECK and a valid STATE (R94, R95). -/
def tsOk (t : BitVec 64) : Prop :=
  ext t 15 0 = 0x4B3E ∧ 1 ≤ ext t 25 23 ∧ ext t 25 23 ≤ 4 ∧ ext t 63 56 = crcOf 8 7 0 ((bitList t 0).take 56)
/-- Lane k of port p. -/
def laneOf (s : State) (p : Fin 32) (k : Fin 4) : Lane := SMap.get {} (s.port p).lanes k
/-- The lane takes 64 bits inverted: as its lock found, or as ALIGN 0xB4C1 shows. -/
def takesInv (l : Lane) (raw : BitVec 64) : Bool := if l.locked then l.inv else decide (ext raw 15 0 = 0xB4C1)
def seen (l : Lane) (raw : BitVec 64) : BitVec 64 := if takesInv l raw then ~~~raw else raw
/-- Training state of a Rinek port: that of PORT_STATUS, or the one inside RETRAIN (Table 3.8). -/
def trainState (s : State) (p : Fin 32) : Nat := if lkState s p = 7 then (s.port p).phase else lkState s p
def trains (s : State) (p : Fin 32) : Prop :=
  rinek s p ∧ 3 ≤ trainState s p ∧ trainState s p ≤ 6 ∧ (s.port p).rxUp = false
def allLocked (s : State) (p : Fin 32) : Prop := ∀ k : Fin 4, (laneOf s p k).locked = true

end Sys2Proof.Spec

/-- R94 to R96, Tables 3.7, 3.8: a lane locks after eight good training sequences at 64-bit spacing and finds its inversion; ALIGN checks
lane order, rate and FEC; DESKEW measures the skew and ends after sixteen TS with ACK on every lane; START on four lanes at one TSN
opens the receive direction. -/
def Sys2Proof.Spec.TrainingSequencesLockAndAdvance : Prop :=
  ∀ (s : State) (p : Fin 32) (k : Fin 4) (ts : TsArrival),
    let raw := ts.bits
    let l := laneOf s p k
    let t := seen l raw
    let next := ts.ui = l.ui + 64
    (¬trains s p → exec (.tsReceive p k ts) s = .next s) ∧
    (trains s p → ∃ s' : State, exec (.tsReceive p k ts) s = .next s' ∧
      (¬tsOk t → s' = { s with ports := s'.ports } ∧ laneOf s' p k = { l with good := 0, acks := 0 } ∧
        ∀ j, j ≠ k → laneOf s' p j = laneOf s p j) ∧
      (tsOk t → l.locked = false →
        let n := if l.inv = takesInv l raw ∧ next then l.good + 1 else 1
        (n < 8 → s' = { s with ports := s'.ports } ∧ (laneOf s' p k).good = n ∧ (laneOf s' p k).locked = false ∧
          (laneOf s' p k).ui = ts.ui ∧ ∀ j, j ≠ k → laneOf s' p j = laneOf s p j) ∧
        (8 ≤ n → trainState s p = 3 → (∃ j, j ≠ k ∧ (laneOf s p j).locked = false) → (laneOf s' p k).locked = true ∧
          (laneOf s' p k).inv = takesInv l raw ∧ (laneOf s' p k).lane.toNat = ext t 17 16)) ∧
      (tsOk t → allLocked s p → trainState s p = 3 → (s.port p).reqLeft = 0 →
        let straight := ∀ j : Fin 4, (laneOf s p j).lane.toNat = j.val
        let rev := ∀ j : Fin 4, (laneOf s p j).lane.toNat = 3 - j.val
        let mode := ext t 27 26 = ext (s.reg (lkAt p 0)) 5 4 ∧ ext t 28 28 = ext (s.reg (lkAt p 0)) 3 1
        let fails (c : Nat) : Prop := lkState s' p = 8 ∧ ext (s'.reg (lkAt p 4)) 12 10 = c ∧ logged s s' 2 4 2 p c
        (¬straight → ¬rev → fails 2) ∧ (straight ∨ rev → ¬mode → fails 3) ∧
        (straight ∨ rev → mode → trainState s' p = 4 ∧ (s'.port p).timeouts = 0 ∧
          ext (s'.reg (lkAt p 4)) 5 5 = (if ¬straight then 1 else 0) ∧
          (∀ j : Fin 4, bitOf (s'.reg (lkAt p 4)) (6 + j.val) = (laneOf s p j).inv) ∧
          ext (s'.reg (lkAt p 8)) 13 0 = ext t 43 30 ∧ ext (s'.reg (lkAt p 8)) 18 14 = ext t 22 18 ∧
          ext (s'.reg (lkAt p 8)) 19 19 = 1)) ∧
      (tsOk t → allLocked s p → trainState s p = 4 →
        let at' (j : Fin 4) : Nat := ((if j = k then ts.ui else (laneOf s p j).ui) +
          64 * (256 - (if j = k then ext t 51 44 else (laneOf s p j).tsn.toNat))) % 2 ^ 14
        let apart (i j : Fin 4) : Nat := min ((at' i + 2 ^ 14 - at' j) % 2 ^ 14) ((at' j + 2 ^ 14 - at' i) % 2 ^ 14)
        let near := ∀ i j, apart i j ≤ 511
        let acks (j : Fin 4) : Nat := if j ≠ k then (laneOf s p j).acks else if bitOf t 29 = false then 0 else if next then l.acks + 1 else 1
        let ends := (near ∨ (s.port p).ack = true) ∧ ∀ j, 16 ≤ acks j
        trainState s' p = (if ends then 5 else 4) ∧ (near → (s'.port p).ack = true ∧
          (∀ i j, apart i j ≤ ext (s'.reg (lkAt p 4)) 22 14) ∧ ∃ i j, apart i j = ext (s'.reg (lkAt p 4)) 22 14)) ∧
      (tsOk t → l.locked = true → ext t 25 23 = 4 → 5 ≤ trainState s p → (∀ j, j ≠ k → (laneOf s p j).start = some (BitVec.ofNat 8 (ext t 51 44))) →
        (s'.port p).rxUp = true ∧ (s'.port p).rxScr = 0x7FFFFFFF#31 ∧
          ext (s'.reg (lkAt p 4)) 4 4 = if lkState s p = 6 ∧ (s.port p).txUp = true then 1 else 0))

/-- (a) R72, R78, R95 to R98, R101 to R103, Tables 3.8, 3.11: what PORT_CTL and the events of training do to a port's state, after the
times of Table 3.8. A write of MODE on a port that is not DISABLED (R72), the one time limit of RETRAIN (R96), and when PARTNER.VALID and
FAIL_CAUSE return to 0 (R102) are the model's reading (log 18). (b) R94 to R96, Tables 3.7, 3.8: a lane locks after eight good training sequences at 64-bit spacing and finds its
inversion; ALIGN checks lane order, rate and FEC; DESKEW measures the skew and ends after sixteen TS with ACK on every lane; START on
four lanes at one TSN opens the receive direction. -/
def Obligations.PortsTrainAndChangeState : Prop :=
  Sys2Proof.Spec.PortStatesFollowTheirTable ∧
  Sys2Proof.Spec.TrainingSequencesLockAndAdvance

namespace Sys2Proof.Spec

/-- The scrambler state after n body bits (R76). -/
def scrAt (st : BitVec 31) : Nat → BitVec 31
  | 0 => st
  | n + 1 =>
    let a := scrAt st n
    BitVec.ofNat 31 (a.toNat * 2 + (if bitOf a 30 = bitOf a 27 then 0 else 1))
/-- Body g is body f scrambled, or descrambled, from state st. -/
def scrambled (st : BitVec 31) (f g : Flit) : Prop :=
  ∀ i, i < 256 → bitOf g i = (bitOf f i != (bitOf (scrAt st i) 30 != bitOf (scrAt st i) 27))
/-- Lane k is inverted on transmission (R95). -/
def txTurned (s : State) (p : Fin 32) (k : Fin 4) : Bool := bitOf (s.reg (lkAt p 0)) (6 + k.val)
/-- n stream bits of v leave port p dealt to the four lanes, the first with stream index `base` modulo 4 (R77, R95). -/
def dealt (s : State) (p : Fin 32) (base n v : Nat) (o : List Output) : Prop :=
  ∃ b : Fin 4 → Nat × Nat, o = (List.finRange 4).map (fun k => Output.lane p k (b k).1 (b k).2) ∧
    ∀ k : Fin 4, (b k).1 = ((List.range n).filter fun i => decide ((base + i) % 4 = k.val)).length ∧ (b k).2 < 2 ^ (b k).1 ∧
      ∀ i, i < (b k).1 → (b k).2.testBit i = (v.testBit (4 * i + (k.val + 4 - base % 4) % 4) != txTurned s p k)
/-- Port p sends one block; in RINEK-F every tenth is followed by the parity of its codeword (R75, R77, R98). -/
def sendsBlock (s s' : State) (p : Fin 32) (b : BitVec 258) : Prop :=
  let x := s.port p
  ∃ o par, s'.out = s.out ++ o ++ par ∧ dealt s p (2 * x.txn) 258 b.toNat o ∧ (s'.port p).txn = x.txn + 1 ∧
    if ext (s.reg (lkAt p 0)) 3 1 = 1 then
      (if 9 ≤ x.fecTx.length then dealt s p 0 140 (fecParity (x.fecTx ++ [b])).toNat par ∧ (s'.port p).fecTx = []
        else par = [] ∧ (s'.port p).fecTx = x.fecTx ++ [b])
    else par = [] ∧ (s'.port p).fecTx = x.fecTx
/-- Port p sends one flit block that carries f, scrambled (R75, R76). -/
def sendsFlit (s s' : State) (p : Fin 32) (f : Flit) : Prop :=
  (∃ g : Flit, scrambled (s.port p).txScr f g ∧ sendsBlock s s' p (BitVec.ofNat 258 (g.toNat * 4 + 1))) ∧
    (s'.port p).txScr = scrAt (s.port p).txScr 256 ∧
    s' = { s with ports := s'.ports, out := s'.out } ∧ ∀ q, q ≠ p.val → s'.port q = s.port q
/-- Port p sends 64 bits on every lane: those of `v`, complemented on an inverted lane. -/
def sendsWords (s s' : State) (p : Fin 32) (v : Fin 4 → BitVec 64) : Prop :=
  s'.out = s.out ++ (List.finRange 4).map fun k => Output.lane p k 64 (if txTurned s p k then ~~~(v k) else v k).toNat
/-- The training sequences of state st (Table 3.7, R94). -/
def sendsTs (s s' : State) (p : Fin 32) (st : Nat) : Prop :=
  ∃ v : Fin 4 → BitVec 64, sendsWords s s' p v ∧ (s'.port p).tsn = (s.port p).tsn + 1 ∧ ∀ k : Fin 4,
    let t := v k
    ext t 15 0 = 0x4B3E ∧ ext t 17 16 = k.val ∧ ext t 22 18 = p.val ∧ ext t 25 23 = st ∧ ext t 27 26 = ext (s.reg (lkAt p 0)) 5 4 ∧
      ext t 28 28 = ext (s.reg (lkAt p 0)) 3 1 ∧ ext t 29 29 = b2n (s.port p).ack ∧ ext t 43 30 = ext (s.reg (lkAt p 0x10)) 13 0 ∧
      ext t 51 44 = (s.port p).tsn.toNat ∧ ext t 55 52 = 0 ∧ ext t 63 56 = crcOf 8 7 0 ((bitList t 0).take 56)
/-- The check flit of group g with flits fs (Table 3.6, R86, R89, R90). -/
def checkOf (x : Port) (g : BitVec 12) (fs : List Flit) (replay : Bool) (c : Flit) : Prop :=
  let r := match x.nack, x.incomplete with
    | some n, _ => some n
    | none, e :: _ => some e.2.1
    | none, [] => none
  ext c 255 252 = 6 ∧ ext c 251 240 = g.toNat ∧
    ext c 239 228 = (match r with
      | some n => (n.toNat + 4095) % 4096
      | none => (x.rxLast.getD 4095#12).toNat) ∧
    ext c 227 227 = (if x.rxLast.isSome then 1 else 0) ∧ ext c 226 226 = (if x.nack.isSome then 1 else 0) ∧
    (∀ n, x.nack = some n → ext c 225 214 = n.toNat) ∧ ext c 213 213 = (if replay then 1 else 0) ∧ ext c 212 32 = 0 ∧
    ext c 31 0 = crcOf 32 0x1EDC6F41 0xFFFFFFFF ((fs.flatMap fun f => bitList f 0) ++ bitList c 32) ^^^ 0xFFFFFFFF
/-- Replays that begin at group h with this one, and their limit (R91). -/
def replayNo (s : State) (p : Fin 32) (h : Group) : Nat := if (s.port p).replayFrom = some h.gseq then (s.port p).replays + 1 else 1
def replayLimit (s : State) (p : Fin 32) : Nat := max 1 (ext (s.reg (lkAt p 0xC)) 15 12)
/-- A replay from held group h begins (R90, R91); the group that is being sent again is finished first. -/
def replaysFrom (s s' : State) (p : Fin 32) (h : Group) (r : List Group) : Prop :=
  let x := s.port p
  (s'.port p).replay.drop (if x.replayAt = 0 then 0 else (x.replay.take 1).length) = h :: r ∧
    (s'.port p).replayFrom = some h.gseq ∧ (s'.port p).replays = replayNo s p h ∧ cntUp s s' p 4 1
/-- The receiver of a Rinek port takes blocks: START has come, in UP or, before the port's own START, in CONFIRM (R96). -/
def receives (s : State) (p : Fin 32) : Prop := (trainState s p = 5 ∨ trainState s p = 6) ∧ rinek s p ∧ (s.port p).rxUp = true
/-- Packet k is q but for its place in the wave buffer of port p's quadrant: there, if it may leave the queue, nothing stands before it,
and there is room (R26, R105); its words stand there too. -/
def placedAs (s s' : State) (p : Fin 32) (k : Nat) (q : Pkt) : Prop :=
  ∃ q', s'.pkt? k = some q' ∧ q' = { q with addr := q'.addr, len := q'.len } ∧ (q.cls = 0 → q'.len = 0) ∧
    (q.cls ≠ 0 → (∀ y ∈ s.pkts, y.2.port = p → y.2.placed = true) → q'.len = if s.waveRoom (p.val / 8) q.size then q.size else 0) ∧
    (0 < q'.len → ∀ j, j < q.words.length → j < q.size → s'.getWord (q'.addr.toNat + j) = q.words.getD j 0)
/-- The packet that header flit f of type ty opens (R79). -/
def opened (p : Fin 32) (ty : Nat) (f : Flit) : Pkt :=
  { port := p, cls := BitVec.ofNat 3 (ty - 1), flits := [f], missing := ext f 48 42, stage := .waitCtx }
/-- The descrambled body of a block. -/
def plainOf (s : State) (p : Fin 32) (body f : Flit) : Prop := scrambled (s.port p).rxScr body f
/-- Bit i of the stream that begins at index `base` modulo 4, from the physical lanes: lane order and polarity undone (R77, R95). -/
def streamBit (s : State) (p : Fin 32) (ls : Fin 4 → LaneBits) (base i : Nat) : Bool :=
  let l := (base + i) % 4
  let k := if ext (s.reg (lkAt p 4)) 5 5 = 1 then 3 - l else l
  bitOf (ls (Fin.ofNat 4 k)) (i / 4) != bitOf (s.reg (lkAt p 4)) (6 + k)
/-- v is the codeword that arrives, and the port's decoder answers `verdict` on it (R98). -/
def codeword (s : State) (p : Fin 32) (ls : Fin 4 → LaneBits) (v : Nat) : Prop :=
  v < 2 ^ 2720 ∧ ∀ i, i < 2720 → v.testBit i = streamBit s p ls 0 i
/-- The next block that port p takes is b: the lanes' stream bits, or, in RINEK-F, a block of the decoded codeword (R75, R77, R98). -/
def arrives (s : State) (p : Fin 32) (ls : Fin 4 → LaneBits) (b : BitVec 258) : Prop :=
  if ext (s.reg (lkAt p 0)) 3 1 = 1 then
    (∃ r, (s.port p).fecRx = b :: r) ∨ ((s.port p).fecRx = [] ∧ ∃ v, codeword s p ls v ∧ (decodeBlocks v).2.head? = some b)
  else ∀ i, i < 258 → bitOf b i = streamBit s p ls (2 * (s.port p).blocks) i
def lanesOf (l0 l1 l2 l3 : LaneBits) (k : Fin 4) : LaneBits := match k with
  | 0 => l0
  | 1 => l1
  | 2 => l2
  | 3 => l3

end Sys2Proof.Spec

/-- R98: what the decoder hands on: a codeword within seven symbols of the received word, or the word as it came. -/
def Sys2Proof.Spec.DecoderHandsOnCodewords : Prop :=
  ∀ r : List Nat, r.length = 272 → (∀ x ∈ r, x < 1024) →
    let d := rsDecode r
    let zero (w : List Nat) : Prop := ∀ j, j < 14 → gfEval w (gfPow 2 j) = 0
    d.2.length = 272 ∧ (d.1 = .clean ↔ zero r) ∧ (d.1 ≠ .uncorrectable → zero d.2) ∧ (d.1 ≠ .corrected → d.2 = r) ∧
      ((List.range 272).filter fun i => decide (d.2.getD i 0 ≠ r.getD i 0)).length ≤ 7

/-- R75 to R77, R80, R85, R86, R88 to R91, R93, R94, R96, Tables 3.6 to 3.8: a port in UP sends flits, scrambled and dealt to its lanes, in
groups of 16 with a check flit; replayed groups go as held, and an announce of theirs afresh at the first packet boundary; a retrain
begins with 8 requests; training sends its sequences, and CONFIRM ends with START; a timed-out group is replayed. -/
def Sys2Proof.Spec.PortsSendBlocksAndSequences : Prop :=
  ∀ (s : State) (p : Fin 32),
    let x := s.port p
    let st := lkState s p
    let tr := trainState s p
    let idle : Flit := BitVec.ofNat 256 (7 * 2 ^ 252)
    (¬rinek s p ∨ (st ≠ 6 ∧ (st ≠ 7 ∨ x.reqLeft = 0) ∧ (tr = 0 ∨ 6 ≤ tr)) → exec (.flitTransmit p) s = .next s) ∧
    (rinek s p → st = 7 → 0 < x.reqLeft → ∃ (s' : State) (b : Flit), exec (.flitTransmit p) s = .next s' ∧
      (∀ i, i < 256 → bitOf b i = decide (i % 2 = 1)) ∧ sendsBlock s s' p (BitVec.ofNat 258 (b.toNat * 4 + 2)) ∧
      (s'.port p).reqLeft = x.reqLeft - 1 ∧ (s'.port p).txScr = x.txScr) ∧
    (rinek s p → st ≠ 6 → (st ≠ 7 ∨ x.reqLeft = 0) →
      (tr = 1 ∨ tr = 2 → ∃ (s' : State) (v : Fin 4 → BitVec 64), exec (.flitTransmit p) s = .next s' ∧ sendsWords s s' p v ∧
        ∀ (k : Fin 4) (a : BitVec 31), SMap.get 0 x.prbs k.val = a → (∀ i, i < 64 → bitOf (v k) i = bitOf (scrAt a (i + 1)) 0) ∧
          SMap.get 0 (s'.port p).prbs k.val = scrAt a 64) ∧
      (tr = 3 ∨ tr = 4 → ∃ s' : State, exec (.flitTransmit p) s = .next s' ∧ sendsTs s s' p (tr - 2) ∧ s'.csr = s.csr) ∧
      (tr = 5 →
        let ended := 16 ≤ x.sent ∧ ∀ k : Fin 4, 8 ≤ (laneOf s p k).confirms
        (¬ended → ∃ s' : State, exec (.flitTransmit p) s = .next s' ∧ sendsTs s s' p 3 ∧ (s'.port p).sent = x.sent + 1 ∧ s'.csr = s.csr) ∧
        (ended → st = 5 → ∃ s' : State, exec (.flitTransmit p) s = .next s' ∧ sendsTs s s' p 4 ∧ lkState s' p = 6 ∧ (s'.port p).txUp = true ∧
          (s'.port p).txScr = 0x7FFFFFFF#31 ∧ (s'.port p).txn = 0 ∧ ext (s'.reg (lkAt p 4)) 4 4 = b2n x.rxUp))) ∧
    (rinek s p → st = 6 →
      ((x.filling ≠ [] ∨ (x.replay = [] ∧ x.held.length < 64)) → (x.fresh = [] ∨ ext (x.txq.headD 0) 255 252 = 5) → x.filling.length < 16 →
        let kept := x.feed.drop (32 - x.txq.tail.length)
        ((x.feedOut = none ∨ kept ≠ []) → ∃ s' : State, exec (.flitTransmit p) s = .next s' ∧ sendsFlit s s' p (x.txq.headD idle) ∧
          (s'.port p).txq = x.txq.tail ++ x.feed.take (32 - x.txq.tail.length) ∧ (s'.port p).feed = kept ∧
          (s'.port p).filling = x.filling ++ [x.txq.headD idle] ∧ (s'.port p).held = x.held ∧ cntUp s s' p 0 1) ∧
        (∀ o, x.feedOut = some o → kept = [] → ∃ s' : State, exec (.flitTransmit p) s = .next s' ∧ s'.eout? o = none ∧
          (s'.port p).feedOut = none ∧ (s'.port p).filling = x.filling ++ [x.txq.headD idle])) ∧
      (∀ (stop : Bool) (n : Epoch) (t : Tick), (x.filling ≠ [] ∨ (x.replay = [] ∧ x.held.length < 64)) → x.filling.length < 16 →
        x.fresh = [(stop, n)] → ext (x.txq.headD 0) 255 252 ≠ 5 → s.fatal = 0 → x.feed = [] → x.feedOut = none → s.startOf n = some t →
        roleOf s ≠ 1 → s.copy.toNat + latOf s p ≤ t.toNat → ∃ s' : State, exec (.flitTransmit p) s = .next s' ∧
          sendsFlit s s' p (flitAnnounce stop n (BitVec.ofNat 28 ((t.toNat - (s.copy.toNat + latOf s p)) * 16))) ∧
          (s'.port p).txq = x.txq ∧ (s'.port p).fresh = [] ∧ (s'.port p).held = x.held) ∧
      (16 ≤ x.filling.length → (x.fresh = [] ∨ ext (x.txq.headD 0) 255 252 = 5) → ∃ s' c, exec (.flitTransmit p) s = .next s' ∧
        checkOf x x.txGseq x.filling false c ∧ sendsFlit s s' p c ∧ (s'.port p).filling = [] ∧ (s'.port p).txGseq = x.txGseq + 1 ∧
          (s'.port p).held = x.held ++ [{ gseq := x.txGseq, flits := x.filling, sent := s.tick }]) ∧
      (∀ g r, x.filling = [] → x.replay = g :: r →
        (x.replayAt < 16 → ∃ s' : State, exec (.flitTransmit p) s = .next s' ∧
          sendsFlit s s' p (g.flits.getD x.replayAt idle) ∧ (s'.port p).replayAt = x.replayAt + 1 ∧
          (s'.port p).held = x.held ∧ (s'.port p).txq = x.txq ∧ cntUp s s' p 0 1) ∧
        (16 ≤ x.replayAt → ∃ s' c, exec (.flitTransmit p) s = .next s' ∧ checkOf x g.gseq g.flits true c ∧ sendsFlit s s' p c ∧
          (s'.port p).replay = r ∧ (s'.port p).replayAt = 0 ∧ (s'.port p).txGseq = x.txGseq ∧
          (s'.port p).held = x.held.map fun h => if h.gseq = g.gseq then { h with sent := s.tick } else h)) ∧
      (∀ h r, x.held = h :: r → x.replay = [] →
        let late := 4 * ext (s.reg (lkAt p 0xC)) 11 0 < (s.tick - h.sent).toNat
        (¬late → exec (.replayTimeout p) s = .next s) ∧
        (late → ∃ s' : State, exec (.replayTimeout p) s = .next s' ∧
          if replayNo s p h ≤ replayLimit s p then replaysFrom s s' p h r else retrains s s' p))) ∧
    (¬rinek s p ∨ st ≠ 6 ∨ x.held = [] ∨ x.replay ≠ [] → exec (.replayTimeout p) s = .next s)

/-- (a) R98: what the decoder hands on: a codeword within seven symbols of the received word, or the word as it came. (b) R75 to R77, R80,
R85, R86, R88 to R91, R93, R94, R96, Tables 3.6 to 3.8: a port in UP sends flits, scrambled and dealt to its lanes, in groups of 16 with a
check flit; replayed groups go as held, and an announce of theirs afresh at the first packet boundary; a retrain begins with 8 requests;
training sends its sequences, and CONFIRM ends with START; a timed-out group is replayed. How replays are counted against their limit
(R91) is the model's reading (log 18). -/
def Obligations.GroupsAreSentHeldAndReplayed : Prop :=
  Sys2Proof.Spec.DecoderHandsOnCodewords ∧
  Sys2Proof.Spec.PortsSendBlocksAndSequences

/-- R26, R75 to R80, R83 to R91, R93, R95, R96, R101, R103, R105, Table 3.12: what a received block, a check flit and an Ethernet frame do.
What counts in a group that fails or comes twice (R80, R103), and a NACK_SEQ that is asked for again (R90), are the model's reading
(log 18). -/
def Obligations.ReceivedGroupsAndFramesAreJudged : Prop :=
  ∀ (s : State) (p : Fin 32) (l0 l1 l2 l3 : LaneBits) (b : BitVec 258), s.Canon →
    let x := s.port p
    let flit := exec (.flitReceive p l0 l1 l2 l3) s
    let check := exec (.checkFlitReceive p (l0, l1) (l2, l3)) s
    let ls := lanesOf l0 l1 l2 l3
    let sh := ext b 1 0
    let body : Flit := b.extractLsb' 2 256
    let full := s.ingressFull p
    (¬receives s p → flit = .next s ∧ check = .next s) ∧
    (receives s p → arrives s p ls b → (x.rxFlits.length = 16 → sh ≠ 2 → flit = .next s) ∧ (x.rxFlits.length ≠ 16 ∨ sh = 2 → check = .next s)) ∧
    (receives s p → ext (s.reg (lkAt p 0)) 3 1 = 1 → x.fecRx = [] → x.badAt.length < 15 → x.rxFlits.length < 16 → sh ≠ 2 →
      ∀ v, codeword s p ls v → (decodeBlocks v).2.head? = some b → ∃ s' : State, flit = .next s' ∧ (s'.port p).fecRx = (decodeBlocks v).2.tail ∧
        cntUp s s' p 9 (if (decodeBlocks v).1 = .corrected then 1 else 0) ∧ cntUp s s' p 10 (if (decodeBlocks v).1 = .uncorrectable then 1 else 0)) ∧
    (receives s p → arrives s p ls b → x.badAt.length < 15 → x.rxFlits.length < 16 →
      (sh = 0 ∨ sh = 3 → ∃ s' : State, flit = .next s' ∧ cntUp s s' p 3 1 ∧
        (s'.port p).rxBad = true ∧ (s'.port p).rxFlits.length = x.rxFlits.length + 1 ∧ (s'.port p).incomplete = x.incomplete) ∧
      (sh = 2 → ∃ s' : State, flit = .next s' ∧
        if lkState s p = 6 ∧ 3 ≤ x.retrainReq then retrains s s' p
        else (s'.port p).retrainReq = x.retrainReq + 1 ∧ (s'.port p).rxFlits = x.rxFlits ∧ (s'.port p).rxScr = x.rxScr) ∧
      (sh = 1 → ∃ s' f, flit = .next s' ∧ plainOf s p body f ∧ (s'.port p).rxFlits = x.rxFlits ++ [f] ∧
        (s'.port p).rxScr = scrAt x.rxScr 256 ∧ (s'.port p).retrainReq = 0 ∧
        (full = true → x.nack = none → cntUp s s' p 6 1 ∧ (s'.port p).rxBad = true ∧ (s'.port p).incomplete = x.incomplete) ∧
        (full = false → x.rxBad = false → x.nack = none →
          let ty := ext f 255 252
          (x.openPkt = none →
            (ty = 7 → ext f 251 0 = 0 → s'.pkts = s.pkts ∧ (s'.port p).proto = x.proto ∧ (s'.port p).incomplete = x.incomplete) ∧
            (ty = 1 ∨ ty = 2 ∨ ty = 3 → placedAs s s' p s.nextId (opened p ty f) ∧ (s'.port p).proto = x.proto ∧
              (s'.port p).incomplete = x.incomplete ++ [(s.nextId, x.rxExp, x.rxFlits.length)] ∧
              (s'.port p).openPkt = if ext f 48 42 = 0 then none else some s.nextId) ∧
            (ty = 0 ∨ ty = 5 ∨ 8 ≤ ty ∨ (ty = 7 ∧ ext f 251 0 ≠ 0) → (s'.port p).proto = x.proto + 1 ∧
              (s'.port p).incomplete = x.incomplete ∧ s'.pkts = s.pkts) ∧
            (ty = 4 → (if ctrlOk f then (s'.port p).ctrl = x.ctrl ++ [f] ∧ (s'.port p).proto = x.proto
              else (s'.port p).ctrl = x.ctrl ∧ (s'.port p).proto = x.proto + 1))) ∧
          (∀ n q, x.openPkt = some n → s.pkt? n = some q →
            (ty = 5 → ∃ q', s'.pkt? n = some q' ∧ q'.flits = q.flits ++ [f] ∧ q'.missing = q.missing - 1 ∧ (s'.port p).proto = x.proto ∧
              (s'.port p).openPkt = if q.missing ≤ 1 then none else some n) ∧
            (ty = 7 → (s'.port p).proto = x.proto + 1 ∧ (s'.port p).openPkt = none ∧ s'.pkt? n = some { q with doomed := true }))))) ∧
    (receives s p → arrives s p ls b → sh = 1 → x.badAt.length < 16 → x.rxFlits.length = 16 → ∀ c : Flit, plainOf s p body c →
      let good := x.rxBad = false ∧ ext c 212 32 = 0 ∧
        ext c 31 0 = crcOf 32 0x1EDC6F41 0xFFFFFFFF ((x.rxFlits.flatMap fun f => bitList f 0) ++ bitList c 32) ^^^ 0xFFFFFFFF
      let back := (x.rxExp.toNat + 4096 - ext c 251 240) % 4096
      let timed := (x.rxFlits.filter fun f => decide (ext f 255 252 = 4) && ctrlOk f && decide (ext f 3 0 < 4)).length
      ∃ s' : State, check = .next s' ∧
        (good → back = 0 → x.nack = none → ext c 226 226 = 0 → cntUp s s' p 1 16 ∧ (s'.port p).rxLast = some x.rxExp ∧
          (s'.port p).rxExp = x.rxExp + 1 ∧ (s'.port p).rxFlits = [] ∧ cntOf s' p 2 = cntOf s p 2) ∧
        (good → back = 0 → ∀ n, x.nack = some n → x.skip < 16 → full = true → cntUp s s' p 6 (16 - x.skip) ∧ cntUp s s' p 2 1 ∧
          incompleteGone s s' p ∧ (s'.port p).nack = some n ∧ (s'.port p).rxExp = n ∧ (s'.port p).rxLast = x.rxLast ∧
          (s'.port p).rxFlits = [] ∧ (s'.port p).held = x.held) ∧
        (good → 0 < back → back ≤ 64 → ext c 226 226 = 0 → (s'.port p).rxExp = x.rxExp ∧ (s'.port p).rxLast = x.rxLast ∧
          (s'.port p).nack = x.nack ∧ cntOf s' p 2 = cntOf s p 2 ∧ (s'.port p).rxFlits = []) ∧
        (good → back ≤ 64 → (x.nack = none ∨ back ≠ 0) → ext c 226 226 = 0 → cntUp s s' p 11 (if ext c 213 213 = 1 then timed else 0)) ∧
        (good → back ≤ 64 → (x.nack = none ∨ back ≠ 0) → ext c 226 226 = 0 → ext c 227 227 = 1 → ∀ h r, x.held = h :: r →
          let n := (ext c 239 228 + 4096 - h.gseq.toNat) % 4096 + 1
          (s'.port p).held = if n ≤ x.held.length then x.held.drop n else x.held) ∧
        (good → back ≤ 64 → (x.nack = none ∨ back ≠ 0) → lkState s p = 6 → ext c 227 227 = 0 → ext c 226 226 = 1 → ∀ b h r, ext c 225 214 = h.gseq.toNat →
          x.lastNack ≠ some h.gseq → x.held = b ++ h :: r → (∀ g ∈ b, g.gseq ≠ h.gseq) →
          if replayNo s p h ≤ replayLimit s p then replaysFrom s s' p h r else lkState s' p = 7) ∧
        (¬good ∨ 64 < back → cntUp s s' p 2 1 ∧ incompleteGone s s' p ∧ (s'.port p).nack = some (s'.port p).rxExp ∧
          (s'.port p).held = x.held ∧ (s'.port p).rxFlits = [] ∧ (s'.port p).rxLast = x.rxLast ∧
          (x.incomplete = [] → x.nack = none → (s'.port p).rxExp = x.rxExp) ∧
          ∀ n g i r, x.incomplete = (n, g, i) :: r → (s'.port p).rxExp = g)) ∧
    (∀ (o : List Octet) (corr uncorr : Nat), ¬rinek s p → lkState s p = 6 → ∃ s' : State, exec (.ethFrameReceive p o corr uncorr) s = .next s' ∧
      let long := min 4004 (ext (s.reg (lkAt p 0x14)) 11 0) < o.length
      let ctl := o[12]? = some 0x88 ∧ o[13]? = some 0x08
      let fec := 4 ≤ ext (s.reg (lkAt p 0)) 3 1 ∧ ext (s.reg (lkAt p 0)) 3 1 ≤ 5
      let noRoom := s.frameOverflow p (o.take (o.length - 4))
      let drops (m : Nat) : Prop := s' = { s with ports := s'.ports } ∧ cntUp s s' p m 1 ∧ ∀ n, n ≠ m → n ≠ 9 → n ≠ 10 → cntOf s' p n = cntOf s p n
      cntUp s s' p 9 (if fec then corr else 0) ∧ cntUp s s' p 10 (if fec then uncorr else 0) ∧
      (o.length < 64 → drops 15) ∧ (64 ≤ o.length → long → drops 16) ∧ (64 ≤ o.length → ¬long → fcsOk o = false → drops 14) ∧
      (64 ≤ o.length → ¬long → fcsOk o = true → ctl → drops 18) ∧ (64 ≤ o.length → ¬long → fcsOk o = true → ¬ctl → noRoom = true → drops 17) ∧
      (64 ≤ o.length → ¬long → fcsOk o = true → ¬ctl → noRoom = false → cntUp s s' p 12 1 ∧ cntUp s s' p 13 o.length ∧
        placedAs s s' p s.nextId { port := p, cls := 3, octets := o.take (o.length - 4), link := .passed, stage := .waitCtx } ∧
        (∀ a, (∀ y ∈ s'.pkts, a < y.2.addr.toNat ∨ y.2.addr.toNat + y.2.len ≤ a) → s'.getWord a = s.getWord a) ∧ s'.csr = s.csr))

namespace Sys2Proof.Spec

/-! ## Prism -/

abbrev psAt (q o : Nat) : Nat := 0x800000 + q * 0x100000 + o
def qOf (p : Pkt) : Nat := p.port.val / 8
/-- LENGTH of the header flit, and bits [hi:lo] of its word i (Table 3.4). -/
def lengthOf (p : Pkt) : Nat := ext (p.flits.headD 0) 48 42
def hw (p : Pkt) (i hi lo : Nat) : Nat := ext (p.flits.headD 0) (14 * i + hi) (14 * i + lo)
/-- The packet goes to the slow path with a cause of Table 4.6. -/
def slowed (p : Pkt) (cause trap : Nat) : Pkt :=
  { p with stage := .result, res := some (.slow (BitVec.ofNat 4 cause) (BitVec.ofNat 8 trap)) }
/-- Packet k becomes p, and nothing else changes. -/
def packetIs (s s' : State) (k : Nat) (p : Pkt) : Prop := s' = { s with pkts := SMap.put k p s.pkts }
/-- The window of the pass is complete (R106). -/
def windowIn (p : Pkt) : Prop :=
  p.cls = 3 ∨ (p.cls = 4 ∧ (min 64 p.octets.length * 8 + 251) / 252 + 1 ≤ p.flits.length) ∨
    (p.cls ≠ 3 ∧ p.cls ≠ 4 ∧ min 2 (lengthOf p + 1) ≤ p.flits.length)
/-- Bits that Table 3.4 reserves: word, highest and lowest bit. -/
def reservedBits (cls : Nat) : List (Nat × Nat × Nat) :=
  let app := (List.range 8).map fun i => (8 + i, 13, 0)
  [(3, 7, 7), (16, 13, 0), (17, 13, 0)] ++
    (if cls = 0 then [(6, 9, 3), (7, 13, 5)]
     else if cls = 1 then [(4, 13, 3), (6, 13, 0), (7, 13, 5)] ++ app
     else [(2, 13, 0), (4, 13, 0), (5, 13, 0), (6, 13, 0), (7, 13, 12)] ++ app)
/-- The length fields agree (R116). -/
def lengthsAgree (p : Pkt) : Prop :=
  if p.cls = 2 then 60 ≤ hw p 7 11 0 ∧ hw p 7 11 0 ≤ 4000 ∧ lengthOf p = (hw p 7 11 0 * 8 + 251) / 252
  else if lengthOf p = 0 then hw p 7 4 0 = 0 else 1 ≤ hw p 7 4 0 ∧ hw p 7 4 0 ≤ 18
/-- Slice i is set in PORT_SLICES of port p. -/
def sliceOpen (s : State) (p : Fin 32) (i : Nat) : Prop :=
  bitOf (s.reg (psAt (p.val / 8) (0x304 + 0x10 * (p.val % 8) + 4 * (i / 28)))) (i % 28) = true
/-- The bank whose stamp the packet takes (R126, R127): false A, true B. -/
def stampOf (s : State) (p : Pkt) : Bool :=
  let st := s.reg (psAt (qOf p) 8)
  let a := decide (ext st 3 2 = 1)
  let pend := (if a then ext st 1 0 else ext st 3 2) = 3
  let field := hw p 4 13 0 + 2 ^ 14 * hw p 5 13 0
  let before := field ≠ (s.reg (psAt (qOf p) 4)).toNat ∧ ((s.reg (psAt (qOf p) 4)).toNat + 2 ^ 28 - field) % 2 ^ 28 < 2 ^ 27
  if pend ∧ p.cls = 0 ∧ ¬before then !a else a
/-- A packet takes a context now or later, unless EPC still discards it as a wave. -/
def forPrism (p : Pkt) : Prop := p.doomed = false ∧ p.gone = false ∧ p.idle = false ∧ p.discard = false
/-- Among the packets of its port, packet k comes before packet j: those re-presented after a freeze first, then by arrival. -/
def precedes (k : Nat) (p : Pkt) (j : Nat) (r : Pkt) : Prop := (p.replay = false → r.replay = false) ∧ (p.replay = r.replay → k ≤ j)
/-- First word of the wave buffer of quadrant q (Table 1.6). -/
def bufferOf (q : Nat) : Nat := 0x3FD00000000 + q * 0x10000000
/-- n words from offset o of the wave buffer of quadrant q are populated, lie in one page and are free (R26, R195). -/
def freePlace (s : State) (q n o : Nat) : Prop :=
  o + n ≤ 0x400000 ∧ o % 0x4000 + n ≤ 0x4000 ∧ ∀ u ∈ s.waveUsed, u.1 + u.2 ≤ bufferOf q + o ∨ bufferOf q + o + n ≤ u.1
/-- Packet k is the next of its port for a context: the oldest that waits, a wave once EPC has accepted it, in the wave buffer of its
quadrant; one re-presented after a freeze takes its place there with the context. -/
def nextInLine (s : State) (k : Nat) (p : Pkt) : Prop :=
  s.pkt? k = some p ∧ p.stage = .waitCtx ∧ forPrism p ∧
    (∀ j r, s.pkt? j = some r → r.port = p.port → r.stage = .waitCtx → forPrism r → precedes k p j r) ∧
    (p.stamped = true ∨ p.cls ≠ 0) ∧ (0 < p.len ∨ (p.replay = true ∧ ∃ o, freePlace s (qOf p) p.size o))
/-- The packet stands in its ingress queue, and may leave it once those of its port before it have (R26). -/
def inQueue (p : Pkt) : Prop := p.len = 0 ∧ p.gone = false
/-- No ingress queue of quadrant q can give a packet to the wave buffer: its first packet is a wave that EPC has not taken, or has no
place (R26, R105). -/
def settled (s : State) (q : Nat) : Prop :=
  ∀ j r, s.pkt? j = some r → qOf r = q → inQueue r → (∀ i x, s.pkt? i = some x → x.port = r.port → inQueue x → j ≤ i) →
    (r.cls = 0 ∧ r.stamped = false) ∨ ¬∃ o, freePlace s q r.size o
def holdsContext (q : Nat) (p : Pkt) : Bool := decide (qOf p = q) && decide (p.stage ∈ [.waitPass, .stepping, .matching, .lookup, .result])
/-- The step that the packet has reached, with operation op. -/
def reached (s : State) (k : Nat) (p : Pkt) (w : BitVec 56) (op : Nat) : Prop :=
  s.pkt? k = some p ∧ p.stage = .stepping ∧ p.doomed = false ∧ s.clocked (3 + qOf p) = true ∧ w = SMap.get 0 (s.prsQ (qOf p)).steps p.step.toNat ∧ ext w 55 52 = op
/-- Cause that stops a fetch at position o (R109), or 0; and the value of a fetch. -/
def fetchStop (p : Pkt) (o sh : Nat) : Nat :=
  if p.cls.toNat < 3 then (if 35 < o then 2 else if 18 ≤ o ∧ lengthOf p = 0 then 3 else 0)
  else
    let last := if 8 ≤ sh then o else o + 1
    if 63 < last then 2 else if p.octets.length ≤ last then 3 else 0
def octAt (p : Pkt) (i : Nat) : Nat := (p.octets.getD i (Config.padOctet p.octets i)).toNat
def fetched (p : Pkt) (o sh n : Nat) : Nat :=
  let u := if p.cls.toNat < 3 then ext (p.flits.getD (o / 18) 0) (14 * (o % 18) + 13) (14 * (o % 18))
    else octAt p o * 256 + (if 8 ≤ sh then 0 else octAt p (o + 1))
  u / 2 ^ sh % 2 ^ n
/-- The command of each step operation (Table 4.3). -/
def stepCmdOf (k : Nat) : List Instr :=
  [.prsEnd k, .prsExtract k, .prsMatch k, .prsAdvance k, .prsSet k, .prsEtype k, .prsIpv4 k, .prsIpv6 k, .prsStop k]
def keyOf (p : Pkt) (i : Nat) : BitVec 16 := SMap.get 0 p.key i
/-- The cursor moves by n and saturates (R108). -/
def movedBy (p : Pkt) (n : Nat) : BitVec 10 → Pkt := fun nx => { p with cursor := min 4095 (p.cursor + n), step := nx }
def nextOf (w : BitVec 56) : BitVec 10 := BitVec.ofNat 10 (ext w 51 42)
/-- End of the IPv4 or IPv6 packet at the cursor, the length check of R116 on it, and the first check that its header fails before
that one, or 0. -/
def ipv4End (p : Pkt) : Nat := p.cursor + octAt p (p.cursor + 2) * 256 + octAt p (p.cursor + 3)
def ipv6End (p : Pkt) : Nat := p.cursor + 40 + octAt p (p.cursor + 4) * 256 + octAt p (p.cursor + 5)
def lengthBad (p : Pkt) (t : Nat) : Prop := p.octets.length < t ∨ (60 < p.octets.length ∧ t < p.octets.length)
/-- The length check of packet p: a frame that goes on behind its window is judged at its end, behind the match. -/
def lengthJudged (p : Pkt) (t : Nat) (next p' : Pkt) : Prop :=
  (¬lengthBad p t → p' = next) ∧ (lengthBad p t → p.tail = false → p' = slowed p 3 0) ∧
    (lengthBad p t → p.tail = true → p' = { next with ipBad := true })
def ipv4Fault (p : Pkt) : Nat :=
  let o (i : Nat) : Nat := octAt p (p.cursor + i)
  if 64 < p.cursor + 20 then 2 else if o 0 / 16 ≠ 4 then 7 else if o 0 % 16 < 5 then 3
  else if 5 < o 0 % 16 then 5 else if o 6 / 32 % 2 = 1 ∨ o 6 % 32 * 256 + o 7 ≠ 0 then 4 else 0
def ipv6Fault (p : Pkt) : Nat :=
  let o (i : Nat) : Nat := octAt p (p.cursor + i)
  if 64 < p.cursor + 40 then 2 else if o 0 / 16 ≠ 6 then 7 else if o 6 = 44 then 4
  else if o 6 = 0 then 5 else 0

end Sys2Proof.Spec

/-- R26, R105, R106, R108, R109, R111 to R116, R126 to R128, R414, R468, Tables 4.2, 4.3, 4.6: in a clocked quadrant packets leave the
ingress queues for the wave buffer in order, one takes a context, its header is checked, and its pass runs step by step until END, a
stop or the step limit; the place a packet takes is free in the wave buffer. The lowest of several equal ETYPE entries, and octets
behind a frame's end as free values, are the model's (log 18). -/
def Obligations.PassesRunTheirSteps : Prop :=
  (∀ (s : State) (q : Fin 4), SMap.rises s.pkts = true →
    let waiting (k : Nat) (p : Pkt) : Prop := qOf p = q.val ∧ nextInLine s k p
    let full := 256 ≤ (s.pkts.filter fun e => holdsContext q e.2).length
    let on := s.clocked (3 + q.val) = true
    (¬on ∨ (settled s q ∧ (full ∨ ∀ k p, ¬waiting k p)) → exec (.contextTake q) s = .next s) ∧
    (on → ∃ s' : State, exec (.contextTake q) s = .next s' ∧ s'.csr = s.csr ∧ s'.threads = s.threads ∧
      ∀ k, (s.pkt? k = none → s'.pkt? k = none) ∧ ∀ p, s.pkt? k = some p → ∃ p', s'.pkt? k = some p' ∧
        p' = { p with stage := p'.stage, addr := p'.addr, len := p'.len } ∧ (qOf p ≠ q.val → p' = p) ∧
        (0 < p.len → p'.addr = p.addr ∧ p'.len = p.len) ∧ (p'.stage = p.stage ∨ (p.stage = .waitCtx ∧ p'.stage = .waitPass ∧ ¬full))) ∧
    (∀ k p, on → s.pkts = [(k, p)] → qOf p = q.val → inQueue p → (p.cls ≠ 0 ∨ p.stamped = true) → 0 < p.size →
      (∃ o, freePlace s q.val p.size o) → ∃ s' p', exec (.contextTake q) s = .next s' ∧ s'.pkts = [(k, p')] ∧ p'.len = p.size ∧
        (∃ o, freePlace s q.val p.size o ∧ p'.addr.toNat = bufferOf q.val + o) ∧
        (p'.stage = .waitPass ↔ p.stage = .waitPass ∨ (p.stage = .waitCtx ∧ forPrism p))) ∧
    (on → settled s q → ¬full → (∃ k p, waiting k p) → ∃ s' k p a n, exec (.contextTake q) s = .next s' ∧ waiting k p ∧
      s'.pkts = SMap.put k { p with stage := .waitPass, addr := a, len := n } s.pkts ∧ s'.csr = s.csr ∧ s'.threads = s.threads ∧
      (0 < p.len → a = p.addr ∧ n = p.len ∧ s'.mem = s.mem) ∧
      (p.len = 0 → n = p.size ∧ ∃ o, freePlace s q.val n o ∧ a.toNat = bufferOf q.val + o))) ∧
  (∀ (s : State) (k : Nat),
    ((∀ p, s.pkt? k = some p → p.stage ≠ .waitPass ∨ p.doomed = true ∨ ¬windowIn p ∨ s.clocked (3 + qOf p) = false) → exec (.passStart k) s = .next s) ∧
    (∀ p, s.pkt? k = some p → p.stage = .waitPass → p.doomed = false → windowIn p → s.clocked (3 + qOf p) = true →
      let f := s.reg (psAt (qOf p) (0x200 + 4 * (4 * ext (s.reg (psAt (qOf p) (0x300 + 0x10 * (p.port.val % 8)))) 0 0 + p.cls.toNat)))
      let lim := ext f 14 10
      let b := { p with
        bank := some (stampOf s p), cursor := 0, issued := 0, key := [], limit := if 1 ≤ lim ∧ lim ≤ 24 then lim else 24,
        step := BitVec.ofNat 10 (ext f 9 0) }
      let portSlice := some (BitVec.ofNat 6 (ext (s.reg (psAt (qOf p) (0x300 + 0x10 * (p.port.val % 8)))) 6 1))
      let go (x : Pkt) : Pkt := if bitOf f 27 then { x with stage := .stepping } else slowed x 10 0
      (p.pass = true → ∃ s' : State, exec (.passStart k) s = .next s' ∧ packetIs s s' k { p with stage := .stepping }) ∧
      (p.pass = false → p.cls.toNat ≤ 3 → ∃ s' : State, exec (.passStart k) s = .next s' ∧ ∃ t : Bool,
        let is (x : Pkt) : Prop := s' = { s with pkts := SMap.put k { x with tail := t, ipBad := false } s.pkts, free := s'.free }
        (t = true → p.cls = 3 ∧ 60 < p.octets.length) ∧
        (p.cls = 3 → is (go { b with slice := if p.replay then p.slice else portSlice })) ∧
        (p.cls ≠ 3 →
          let resOk := ∀ r ∈ reservedBits p.cls.toNat, hw p r.1 r.2.1 r.2.2 = 0
          (¬lengthsAgree p → is (slowed b 3 0)) ∧ (lengthsAgree p → ¬resOk → is (slowed b 8 0)) ∧
          (lengthsAgree p → resOk → ¬sliceOpen s p.port (hw p 3 13 8) → is (slowed b 9 0)) ∧
          (lengthsAgree p → resOk → sliceOpen s p.port (hw p 3 13 8) →
            is (go { b with slice := some (BitVec.ofNat 6 (hw p 3 13 8)) })))))) ∧
  (∀ (s : State) (k op : Nat) (c : Instr), (stepCmdOf k)[op]? = some c →
    ((∀ p w, ¬reached s k p w op) → exec c s = .next s) ∧
    (∀ p w, reached s k p w op →
      (p.limit ≤ p.issued → ∃ s' : State, exec c s = .next s' ∧ packetIs s s' k (slowed p 1 0)) ∧
      (p.issued < p.limit →
        let i := { p with issued := p.issued + 1 }
        let o := p.cursor + ext w 31 26
        let sh := ext w 25 22
        let n := ext w 21 18 + 1
        let v := fetched p o sh n
        let d := ext w 17 14
        let imm := ext w 13 0
        let fetches := op = 1 ∨ op = 2 ∨ (op = 3 ∧ bitOf w 13 = true)
        ∃ s' p', exec c s = .next s' ∧ packetIs s s' k p' ∧
          (fetches → fetchStop p o sh ≠ 0 → p' = slowed i (fetchStop p o sh) 0) ∧
          (op = 0 → p' = { i with stage := .matching }) ∧
          (op = 1 → fetchStop p o sh = 0 → p' = { i with key := p'.key, step := nextOf w } ∧
            keyOf p' d = ins (keyOf p d) (ext w 3 0 + n - 1) (ext w 3 0) v ∧ ∀ j, j ≠ d → keyOf p' j = keyOf p j) ∧
          (op = 2 → fetchStop p o sh = 0 → p' = { i with step := if v = imm then nextOf w else BitVec.ofNat 10 (ext w 41 32) }) ∧
          (op = 3 → bitOf w 13 = false → p' = movedBy i (ext w 5 0) (nextOf w)) ∧
          (op = 3 → bitOf w 13 = true → fetchStop p o sh = 0 → p' = movedBy i (ext w 5 0 + v * 2 ^ ext w 8 6) (nextOf w)) ∧
          (op = 4 → p' = { i with key := p'.key, step := nextOf w } ∧ keyOf p' d = BitVec.ofNat 16 imm ∧
            ∀ j, j ≠ d → keyOf p' j = keyOf p j) ∧
          (5 ≤ op → op ≤ 7 → p.cls.toNat < 3 → p' = slowed i 7 0) ∧
          (op = 5 → 3 ≤ p.cls.toNat → fetchStop p o 0 ≠ 0 → p' = slowed i (fetchStop p o 0) 0) ∧
          (op = 5 → 3 ≤ p.cls.toNat → fetchStop p o 0 = 0 →
            let et := fetched p o 0 16
            let hit (x : Nat) : Prop := x < 16 ∧ bitOf (s.reg (psAt (qOf p) (0x240 + 4 * x))) 27 = true ∧
              ext (s.reg (psAt (qOf p) (0x240 + 4 * x))) 15 0 = et
            keyOf p' d = BitVec.ofNat 16 et ∧ (∀ j, j ≠ d → keyOf p' j = keyOf p j) ∧
              ((∀ x, ¬hit x) → p' = slowed { i with key := p'.key } 6 0) ∧
              (∀ x, hit x → (∀ y, hit y → x ≤ y) → p' = movedBy { i with key := p'.key } (ext w 31 26 + 2)
                (BitVec.ofNat 10 (ext (s.reg (psAt (qOf p) (0x240 + 4 * x))) 25 16)))) ∧
          (op = 6 → 3 ≤ p.cls.toNat → ipv4Fault p ≠ 0 → p' = slowed i (ipv4Fault p) 0) ∧
          (op = 6 → 3 ≤ p.cls.toNat → ipv4Fault p = 0 → lengthJudged i (ipv4End i) (movedBy i 20 (nextOf w)) p') ∧
          (op = 7 → 3 ≤ p.cls.toNat → ipv6Fault p ≠ 0 → p' = slowed i (ipv6Fault p) 0) ∧
          (op = 7 → 3 ≤ p.cls.toNat → ipv6Fault p = 0 → lengthJudged i (ipv6End i) (movedBy i 40 (nextOf w)) p') ∧
          (op = 8 → p' = slowed i 13 (ext w 7 0)))))

namespace Sys2Proof.Spec

/-- Value of the meta fields: CLASS, IN_PORT, SLICE and PASS as RULE_META_VAL lays them out (R114). -/
def metaOf (p : Pkt) : Nat := p.cls.toNat + 8 * p.port.val + 2 ^ 8 * (p.slice.getD 0).toNat + (if p.pass then 2 ^ 14 else 0)
/-- A valid entry matches the key (R118). -/
def ruleMatches (r : Rule) (p : Pkt) : Prop :=
  bitOf r.metaVal 27 = true ∧ (∀ b, b < 15 → bitOf r.metaMsk b = true → bitOf r.metaVal b = decide (metaOf p / 2 ^ b % 2 = 1)) ∧
    ∀ i, i < 12 → ∀ b, b < 16 → bitOf (SMap.get 0 r.msks i) b = true → bitOf (SMap.get 0 r.vals i) b = bitOf (keyOf p i) b
def ruleAt (s : State) (q : Nat) (bank : Bool) (i : Nat) : Rule := SMap.get {} (s.prsQ q).rules (4096 * (if bank then 1 else 0) + i)
/-- Entry i of the packet's bank is the lowest that matches. -/
def ruleWins (s : State) (p : Pkt) (i : Nat) : Prop :=
  let b := p.bank.getD false
  i < 4096 ∧ ruleMatches (ruleAt s (qOf p) b i) p ∧ ∀ j, j < i → ¬ruleMatches (ruleAt s (qOf p) b j) p
/-- PRS.PORTSET k of quadrant q. -/
def portsOf (s : State) (q k : Nat) : BitVec 32 :=
  BitVec.ofNat 32 (ext (s.reg (psAt q (0x800 + 8 * k))) 15 0 + 2 ^ 16 * ext (s.reg (psAt q (0x804 + 8 * k))) 15 0)
/-- The result is a task with a handler, egress ports and the lookup-miss flag. -/
def taskRes (p : Pkt) (h : Nat) (ports : BitVec 32) (miss : Bool) : Prop := ∃ k6, p.res = some (.task (BitVec.ofNat 12 h) ports k6 miss)
/-- Level of the bucket of a cause in 1/16 token: full until it is first charged (R129). -/
def levelOf (s : State) (q c : Nat) : Nat :=
  (SMap.find? (s.prsQ q).buckets c).getD (16 * ext (s.reg (psAt q (0xA00 + 4 * c))) 23 12)
/-- A released result of port p still waits for a slot (R166). -/
def taskWaits (s : State) (p : Fin 32) : Prop :=
  ∃ q : Fin 4, ∃ x ∈ (s.dspQ q).reqs, ∃ r ∈ x.2, ∃ k w, r.pkt = some k ∧ s.pkt? k = some w ∧ w.port = p
/-- A request of packet k waits at allocation port j of quadrant q. -/
def requested (s' : State) (q j k : Nat) (r : AReq) : Prop := r ∈ SMap.get [] (s'.dspQ q).reqs j ∧ r.pkt = some k
/-- Words of a packet as a RAW record carries it (R298, Table 11.3). -/
def rawData (p : Pkt) : List Word :=
  if p.cls.toNat < 3 then p.flits.flatMap fun f => (List.range 18).map fun i => BitVec.ofNat 14 (ext f (14 * i + 13) (14 * i)) else frameWords p.octets
/-- The mirror copy of packet p by the mirror entry of its rule (R123): a RAW record that waits at a ring, a packet that waits at an
egress port, or a copy lost and counted where the entry is not valid or 64 copies wait. -/
def mirrored (s s' : State) (p : Pkt) : Prop :=
  let q := qOf p
  let m := s.reg (psAt q (0x280 + 4 * ext p.rule 7 5))
  let n := if p.cls.toNat < 3 then p.flits.length else p.octets.length
  let e := if p.cls = 0 then hw p 4 13 0 + 2 ^ 14 * hw p 5 13 0 else s.epc.epoch.toNat % 2 ^ 28
  let toRing := bitOf m 27 = true ∧ bitOf m 0 = true
  let toPort := bitOf m 27 = true ∧ bitOf m 0 = false
  let ringFull := 64 ≤ (s.offers.filter fun o => decide (o.src.val = 8 + q)).length
  let portFull := 64 ≤ (s.eouts.filter fun o => o.2.mirror && decide (o.2.port.val = ext m 5 1)).length
  let kept := s'.reg (psAt q 0xB0C) = s.reg (psAt q 0xB0C)
  (bitOf m 27 = false ∨ (toRing ∧ ringFull) ∨ (toPort ∧ portFull) → counts s s' (psAt q 0xB0C) 1 ∧ s'.offers = s.offers) ∧
  (toRing → ¬ringFull → kept ∧ ∃ o : Offer, s'.offers = s.offers ++ [o] ∧ o.src.val = 8 + q ∧ o.ring.toNat = ext m 13 6 ∧ o.rtype = 2 ∧
    o.slice = p.slice.getD 0 ∧ o.epoch.toNat % 2 ^ 28 = e ∧
    o.words = [2, BitVec.ofNat 14 (4 + (rawData p).length), BitVec.ofNat 14 (p.cls.toNat + 8 * p.port.val + 256 * (p.slice.getD 0).toNat),
      BitVec.ofNat 14 e, BitVec.ofNat 14 (e / 2 ^ 14), BitVec.ofNat 14 (n % 8192)] ++ rawData p) ∧
  (toPort → ¬portFull → kept ∧ s'.offers = s.offers ∧ ∃ i o, s.nextId ≤ i ∧ s'.eout? i = some o ∧ o.port.val = ext m 5 1 ∧ o.flits = p.flits ∧
    o.octets = p.octets ∧ o.mirror = true ∧ o.released = true ∧ o.slice = p.slice.getD 0 ∧
    o.kind = if p.cls = 3 then .frame else if p.cls = 2 ∨ p.cls = 4 then .tunnel else .msg)
/-- Every egress port of a wave takes waves from its ingress port (R60). -/
def allFed (s : State) (p : Pkt) (ports : BitVec 32) : Prop := ∀ o : Fin 32, ports.getLsbD o = true → fed s o p.port
/-- Egress deadline of wave p on port o (R56): its due tick less the port's budget and the time of its flits on the line. -/
def egressDlOf (s : State) (p : Pkt) (o : Fin 32) : Tick :=
  tsub p.due (ext (s.reg (0x101004 + 0x20 * o.val)) 14 0 + s.ser o (lengthOf p + 1))
/-- Classification has promised the outputs of wave p, number k, at these ports, each with its egress deadline (R56, R65); every other
output stands as it was. -/
def promised (s s' : State) (k : Nat) (p : Pkt) (ports : BitVec 32) : Prop :=
  (∀ o : Fin 32, ports.getLsbD o = true → ∃ i e, s.nextId ≤ i ∧ s'.eout? i = some e ∧ e.port = o ∧ e.pkt = some k ∧ e.expect = true ∧
    e.released = false ∧ e.bad = false ∧ e.epoch = p.epoch ∧ e.xseq = p.xseq ∧ e.dl = egressDlOf s p o) ∧
  (∀ i e, s'.eout? i = some e → s.eout? i = some e ∨ (s.nextId ≤ i ∧ e.pkt = some k ∧ ports.getLsbD e.port = true)) ∧
  ∀ i e, s.eout? i = some e → s'.eout? i = some e

end Sys2Proof.Spec

/-- R17, R56, R60, R110, R114, R117, R118, R121 to R124, R128 to R130, R164, R298, R414, Tables 4.5, 4.6: in a clocked quadrant the lowest
matching rule gives the packet its result; the results of a port are released in order of arrival, each once the one before it has its
slot: a task, for whose wave every egress port then has an output with its deadline, or UNFED; a drop; a mirror copy, after the link
check; a task in another quadrant, to whose wave buffer the packet moves; the slow path, limited by its buckets, which rise every 1,600
CCLK. When UNFED is declared, what a slow-path packet keeps of its slice and how long a result waits are readings (log 18). -/
def Obligations.RulesGivePacketsTheirResult : Prop :=
  (∀ (s : State) (k : Nat) (p : Pkt), s.pkt? k = some p → p.stage = .matching → p.doomed = false → s.clocked (3 + qOf p) = true →
    SMap.rises (s.prsQ (qOf p)).rules = true →
    (p.ipBad = true → ∃ s' : State, exec (.ruleMatch k) s = .next s' ∧ packetIs s s' k (slowed p 3 0)) ∧
    (p.ipBad = false → (∀ i, i < 4096 → ¬ruleMatches (ruleAt s (qOf p) (p.bank.getD false) i) p) →
      ∃ s' : State, exec (.ruleMatch k) s = .next s' ∧ packetIs s s' k (slowed p 11 0)) ∧
    (p.ipBad = false → ∀ i, ruleWins s p i →
      let a := (ruleAt s (qOf p) (p.bank.getD false) i).act
      let f (hi lo : Nat) : Nat := ext a hi lo
      let again := f 8 8 = 1
      let frame := f 9 9 = 1
      let refused := p.pass = true ∨ (frame ∧ p.cls ≠ 2)
      let sl := if f 20 20 = 1 ∧ 3 ≤ p.cls.toNat ∧ p.replay = false then some (BitVec.ofNat 6 (f 26 21)) else p.slice
      let barred := 3 ≤ p.cls.toNat ∧ ¬sliceOpen s p.port (sl.getD 0).toNat
      ∃ s' : State, exec (.ruleMatch k) s = .next s' ∧
        (again → refused → packetIs s s' k (slowed p 12 0)) ∧
        (again → ¬refused → ∃ p', s'.pkts = SMap.put k p' s.pkts ∧ p'.pass = true ∧ p'.stage = .waitPass ∧ p'.step.toNat = f 19 10 ∧
          p'.limit = 24 ∧ p'.cursor = 0 ∧ p'.issued = 0 ∧ p'.key = p.key ∧ p'.bank = p.bank ∧ p'.slice = p.slice ∧
          p'.cls = (if frame then 4 else p.cls) ∧ counts s s' (psAt (qOf p) 0xB04) 1) ∧
        (¬again → barred → packetIs s s' k (slowed { p with rule := a, slice := sl } 9 0)) ∧
        (¬again → ¬barred → (f 3 2 ≠ 0 ∨ f 27 27 = 1) → packetIs s s' k { p with rule := a, slice := sl, stage := .lookup }) ∧
        (¬again → ¬barred → f 3 2 = 0 → f 27 27 = 0 → ∃ p', packetIs s s' k p' ∧
          p' = { p with rule := a, slice := sl, stage := .result, res := p'.res } ∧
          (f 1 0 = 0 → p'.res = some .drop) ∧
          (f 1 0 = 1 → taskRes p' (f 39 28) (portsOf s (qOf p) (f 45 40)) false) ∧
          (f 1 0 = 2 → taskRes p' (f 39 28) 0 false)))) ∧
  (∀ (s : State) (port : Fin 32) (k : Nat) (p : Pkt), SMap.rises s.pkts = true → s.pkt? k = some p → p.port = port →
    p.stage = .result → forPrism p →
    (∀ j r, s.pkt? j = some r → r.port = port → r.stage ≠ .released → forPrism r → precedes k p j r) →
    let q := qOf p
    let i := (p.slice.getD 0).toNat
    let on := s.clocked (3 + port.val / 8) = true ∧ ¬taskWaits s port
    (¬on → exec (.resultRelease port) s = .next s) ∧
    (on → bitOf p.rule 4 = true → (∀ c t, p.res ≠ some (.slow c t)) → p.link ≠ .passed → exec (.resultRelease port) s = .next s) ∧
    (on → bitOf p.rule 4 = true → p.link = .passed → SMap.rises s.eouts = true → (∀ x ∈ s.eouts, x.1 < s.nextId) →
      (p.res = some .drop → ∃ s' : State, exec (.resultRelease port) s = .next s' ∧ mirrored s s' p ∧ counts s s' (psAt q 0xB00) 1 ∧
        counts s s' (psAt q 0xB08) 1) ∧
      ∀ h ports k6 miss, p.res = some (.task h ports k6 miss) → s.hasShare i q = true → (p.cls = 0 → allFed s p ports) →
        ∃ s' : State, exec (.resultRelease port) s = .next s' ∧ mirrored s s' p ∧ counts s s' (psAt q 0xB00) 1 ∧
          ∃ r, requested s' q (port.val % 8) k r ∧ r.handler = h ∧ r.ports = ports) ∧
    (on → bitOf p.rule 4 = false →
    (p.link ≠ .passed → p.res = some .drop → exec (.resultRelease port) s = .next s) ∧
    (p.link = .passed → p.res = some .drop → ∃ s' : State, exec (.resultRelease port) s = .next s' ∧ counts s s' (psAt q 0xB00) 1 ∧
      counts s s' (psAt q 0xB08) 1 ∧ s'.threads = s.threads ∧ s'.mem = s.mem) ∧
    (∀ c t, p.res = some (.slow c t) → 1 ≤ c.toNat → c.toNat ≤ 13 → ∃ s' : State, exec (.resultRelease port) s = .next s' ∧
      counts s s' (psAt q 0xB00) 1 ∧
      (16 ≤ levelOf s q c.toNat → levelOf s' q c.toNat = levelOf s q c.toNat - 16 ∧ counts s s' (psAt q (0xA80 + 4 * c.toNat)) 1 ∧
        (∃ p', s'.pkt? k = some p' ∧ p'.slice = some (p.slice.getD 0)) ∧ ∃ r, requested s' q 9 k r ∧ r.slice = 0 ∧ r.cause = c ∧ r.trap = t ∧ r.ports = 0 ∧
          r.handler.toNat = ext (s.reg (psAt q (0xA40 + 4 * c.toNat))) 11 0) ∧
      (levelOf s q c.toNat < 16 → levelOf s' q c.toNat = levelOf s q c.toNat ∧ counts s s' (psAt q (0xAC0 + 4 * c.toNat)) 1 ∧
        ∀ r, s'.pkt? k = some r → r.gone = true)) ∧
    (∀ h ports k6 miss, p.res = some (.task h ports k6 miss) → s.hasShare i q = true →
      let asks (s' : State) : Prop := counts s s' (psAt q 0xB00) 1 ∧ ∃ r, requested s' q (port.val % 8) k r ∧ r.slice = p.slice.getD 0 ∧
        r.handler = h ∧ r.ports = ports ∧ r.miss = miss ∧ r.src = (if p.cls = 0 then 0 else 1)
      (p.cls ≠ 0 → ∃ s' : State, exec (.resultRelease port) s = .next s' ∧ asks s' ∧ s'.eouts = s.eouts) ∧
      (p.cls = 0 → SMap.rises s.eouts = true → (∀ x ∈ s.eouts, x.1 < s.nextId) →
        (allFed s p ports → ∃ s' : State, exec (.resultRelease port) s = .next s' ∧ asks s' ∧ promised s s' k p ports ∧ s'.epc = s.epc) ∧
        (∀ o : Fin 32, ports = BitVec.ofNat 32 (2 ^ o.val) → ¬fed s o p.port → quietRun s → ∃ s' e, exec (.resultRelease port) s = .next s' ∧
          declares s s' 9 p.epoch (some p.port.val) (some o.val) 0 ∧ s'.eout? s.nextId = some e ∧ e.bad = true))) ∧
    (∀ h ports k6 miss (r : Fin 4), p.res = some (.task h ports k6 miss) → s.hasShare i q = false → r.val ≠ q →
      ((s.slice i).pick = some r ∨ ((s.slice i).pick = none ∧ s.pickQuad i = some r)) → 0 < p.size → (p.cls = 0 → allFed s p ports) →
      ((¬∃ o, freePlace s r p.size o) → exec (.resultRelease port) s = .next s) ∧
      ((∃ o, freePlace s r p.size o) → ∃ s' p', exec (.resultRelease port) s = .next s' ∧ counts s s' (psAt q 0xB00) 1 ∧
        (s'.slice i).pick = some r ∧ s'.pkt? k = some p' ∧ p' = { p with stage := .released, addr := p'.addr, len := p.size } ∧
        (∃ o, freePlace s r p.size o ∧ p'.addr.toNat = bufferOf r + o) ∧
        ∃ a, requested s' r 8 k a ∧ a.slice = p.slice.getD 0 ∧ a.handler = h ∧ a.ports = ports)))) ∧
  (∀ s : State, s.cclk < s.bucketAt + 1600 → exec .bucketRefill s = .next s) ∧
  (∀ s : State, s.bucketAt + 1600 ≤ s.cclk → ∃ s' : State, exec .bucketRefill s = .next s' ∧ s'.csr = s.csr ∧
    s'.bucketAt = s.bucketAt + 1600 ∧ ∀ (q : Fin 4) (c : Nat), 1 ≤ c → c ≤ 13 → levelOf s' q c = if s.clocked (3 + q.val) then
      min (16 * ext (s.reg (psAt q (0xA00 + 4 * c))) 23 12) (levelOf s q c + ext (s.reg (psAt q (0xA00 + 4 * c))) 11 0) else levelOf s q c) ∧
  (∀ (s : State) (q : Fin 4) (c : Fin 16) (v : Pair), 1 ≤ c.val → c.val ≤ 13 → writesReg s (psAt q (0xA00 + 4 * c)) →
    ∃ s' : State, exec (.spRateWrite q c v) s = .next s' ∧ ext (s'.reg (psAt q (0xA00 + 4 * c))) 23 0 = ext v 23 0 ∧
      levelOf s' q c = 16 * ext v 23 12 ∧ ∀ o, o ≠ psAt q (0xA00 + 4 * c) → s'.reg o = s.reg o)

namespace Sys2Proof.Spec

/-- A WRITE of the rule is refused with COMBO (R121). -/
def ruleCombos (a : BitVec 56) : Prop :=
  let f (hi lo : Nat) : Nat := ext a hi lo
  f 1 0 = 3 ∨ f 3 2 = 3 ∨ (f 3 2 ≠ 0 ∧ f 1 0 ≠ 1) ∨ (f 45 40 ≠ 0 ∧ f 3 2 ≠ 0) ∨ (f 39 28 ≠ 0 ∧ f 1 0 = 0) ∨ (f 7 5 ≠ 0 ∧ f 4 4 = 0) ∨
    (f 26 21 ≠ 0 ∧ f 20 20 = 0) ∨ ((f 9 9 ≠ 0 ∨ f 19 10 ≠ 0) ∧ f 8 8 = 0) ∨
    (f 8 8 = 1 ∧ (f 1 0 ≠ 0 ∨ f 3 2 ≠ 0 ∨ f 4 4 ≠ 0 ∨ f 7 5 ≠ 0 ∨ f 27 27 ≠ 0 ∨ f 39 28 ≠ 0 ∨ f 45 40 ≠ 0))
/-- The rule that stands in the staging registers. -/
def stagedIs (s : State) (q : Nat) (r : Rule) : Prop :=
  r.metaVal = s.reg (psAt q 0x18) ∧ r.metaMsk = s.reg (psAt q 0x1C) ∧ ext r.act 27 0 = (s.reg (psAt q 0x20)).toNat ∧
    ext r.act 55 28 = (s.reg (psAt q 0x24)).toNat ∧ ∀ i, i < 12 → (SMap.get 0 r.vals i).toNat = ext (s.reg (psAt q (0x40 + 4 * i))) 15 0 ∧
      (SMap.get 0 r.msks i).toNat = ext (s.reg (psAt q (0x80 + 4 * i))) 15 0
/-- Bits of a step that its operation uses (Table 4.3), as pairs of highest and lowest bit. -/
def stepBits (op : Nat) (plus : Bool) : List (Nat × Nat) :=
  [(55, 52)] ++ (match op with
    | 0 => []
    | 1 => [(51, 42), (31, 14), (3, 0)]
    | 2 => [(51, 32), (31, 18), (13, 0)]
    | 3 => [(51, 42), (13, 13), (5, 0)] ++ (if plus then [(31, 18), (8, 6)] else [])
    | 4 => [(51, 42), (17, 0)]
    | 5 => [(31, 26), (17, 14)]
    | 6 => [(51, 42)]
    | 7 => [(51, 42)]
    | _ => [(7, 0)])
/-- Code of Table 4.7 for a step (R112, R115): 0 OK, 2 RSVD, 3 COMBO. -/
def stepFault (w : BitVec 56) : Nat :=
  let op := ext w 55 52
  let fetches := op = 1 ∨ op = 2 ∨ (op = 3 ∧ bitOf w 13 = true)
  if 9 ≤ op then 3
  else if (List.range 56).any fun b => bitOf w b && !((stepBits op (bitOf w 13)).any fun x => decide (x.2 ≤ b) && decide (b ≤ x.1)) then 2
  else if ((op = 1 ∨ op = 4 ∨ op = 5) ∧ 11 < ext w 17 14) ∨ (op = 1 ∧ 16 < ext w 3 0 + ext w 21 18 + 1) ∨
      (fetches ∧ 16 < ext w 25 22 + ext w 21 18 + 1) ∨ (op = 2 ∧ 14 < ext w 21 18 + 1) then 3
  else 0
/-- State of a bank: false A, true B. -/
def bankOf (s : State) (q : Nat) (b : Bool) : Nat := ext (s.reg (psAt q 8)) (if b then 3 else 1) (if b then 2 else 0)

end Sys2Proof.Spec

/-- R112, R115, R120, R121, R125 to R127, Tables 4.5, 4.7, 4.8: commands on rule entries and steps are checked and done; a swap is
refused, immediate or pending; a drained bank becomes IDLE. The row of the reserved OP 3 and the code of a step that is wrong in two ways
are the model's (log 12, log 18). -/
def Obligations.RuleAndStepMemoriesAndBanks : Prop :=
  (∀ (s : State) (q : Fin 4) (v : Pair), writesReg s (psAt q 0x10) →
    let op := ext v 14 13
    let b := bitOf v 12
    let i := 4096 * (if b then 1 else 0) + ext v 11 0
    let code (s' : State) (c : Nat) : Prop := ext (s'.reg (psAt q 0x14)) 2 0 = c
    let rules (s' : State) : Prop := ∀ n j, SMap.get {} (s'.prsQ n).rules j = SMap.get {} (s.prsQ n).rules j
    let elsewhere (s' : State) : Prop := ∀ n j, n ≠ q.val ∨ j ≠ i → SMap.get {} (s'.prsQ n).rules j = SMap.get {} (s.prsQ n).rules j
    (op ≠ 0 → op ≠ 3 → exec (.ruleRead q v) s = .next s) ∧ (op ≠ 1 → exec (.ruleWrite q v) s = .next s) ∧
    (op ≠ 2 → exec (.ruleInvalidate q v) s = .next s) ∧
    (op = 3 ∨ (op = 0 ∧ ext v 27 15 ≠ 0) → ∃ s' : State, exec (.ruleRead q v) s = .next s' ∧ code s' 2 ∧ rules s') ∧
    (op = 0 → ext v 27 15 = 0 → ∃ s' : State, exec (.ruleRead q v) s = .next s' ∧ code s' 0 ∧
      stagedIs s' q (SMap.get {} (s.prsQ q).rules i) ∧ rules s') ∧
    (op = 1 → ∃ s' : State, exec (.ruleWrite q v) s = .next s' ∧ ∀ r, stagedIs s q r →
      (ext v 27 15 ≠ 0 → code s' 2 ∧ rules s') ∧ (ext v 27 15 = 0 → ruleCombos r.act → code s' 3 ∧ rules s') ∧
      (ext v 27 15 = 0 → ¬ruleCombos r.act → bankOf s q b = 2 → code s' 4 ∧ rules s') ∧
      (ext v 27 15 = 0 → ¬ruleCombos r.act → bankOf s q b ≠ 2 → code s' 0 ∧ stagedIs s q (SMap.get {} (s'.prsQ q).rules i) ∧ elsewhere s')) ∧
    (op = 2 → ∃ s' : State, exec (.ruleInvalidate q v) s = .next s' ∧
      (ext v 27 15 ≠ 0 → code s' 2 ∧ rules s') ∧ (ext v 27 15 = 0 → bankOf s q b = 2 → code s' 4 ∧ rules s') ∧
      (ext v 27 15 = 0 → bankOf s q b ≠ 2 → code s' 0 ∧ elsewhere s' ∧ SMap.get {} (s'.prsQ q).rules i =
        { SMap.get {} (s.prsQ q).rules i with metaVal := ins (SMap.get {} (s.prsQ q).rules i).metaVal 27 27 0 }))) ∧
  (∀ (s : State) (q : Fin 4) (v : Pair), writesReg s (psAt q 0x108) →
    let i := ext v 9 0
    let w : BitVec 56 := BitVec.ofNat 56 ((s.reg (psAt q 0x100)).toNat + 2 ^ 28 * (s.reg (psAt q 0x104)).toNat)
    let code (s' : State) (c : Nat) : Prop := ext (s'.reg (psAt q 0x10C)) 2 0 = c
    (bitOf v 10 = true → exec (.stepRead q v) s = .next s) ∧ (bitOf v 10 = false → exec (.stepWrite q v) s = .next s) ∧
    (bitOf v 10 = false → ∃ s' : State, exec (.stepRead q v) s = .next s' ∧ s' = { s with csr := s'.csr } ∧
      if ext v 27 11 ≠ 0 then code s' 2
      else code s' 0 ∧ (s'.reg (psAt q 0x100)).toNat = ext (SMap.get 0 (s.prsQ q).steps i) 27 0 ∧
        (s'.reg (psAt q 0x104)).toNat = ext (SMap.get 0 (s.prsQ q).steps i) 55 28) ∧
    (bitOf v 10 = true → ∃ s' : State, exec (.stepWrite q v) s = .next s' ∧
      if ext v 27 11 ≠ 0 then code s' 2 ∧ s'.prs = s.prs
      else code s' (stepFault w) ∧ (stepFault w ≠ 0 → s'.prs = s.prs) ∧ (stepFault w = 0 → SMap.get 0 (s'.prsQ q).steps i = w ∧
        ∀ n j, n ≠ q.val ∨ j ≠ i → SMap.get 0 (s'.prsQ n).steps j = SMap.get 0 (s.prsQ n).steps j))) ∧
  (∀ (s : State) (q : Fin 4) (v : Pair), writesReg s (psAt q 0) →
    let t := bitOf v 0
    let e := s.reg (psAt q 4)
    let d := (e.toNat + 2 ^ 28 - s.epc.epoch.toNat % 2 ^ 28) % 2 ^ 28
    let at' := bitOf v 1 = true ∧ runs s
    let refused := bankOf s q t = 1 ∨ 2 ≤ bankOf s q false ∨ 2 ≤ bankOf s q true ∨
      (at' ∧ (d = 0 ∨ 2 ^ 27 ≤ d ∨ ∃ g ∈ s.epc.gos, g.1.toNat % 2 ^ 28 = e.toNat))
    ∃ s' : State, exec (.swap q v) s = .next s' ∧ s' = { s with csr := s'.csr } ∧ ext (s'.reg (psAt q 0)) 1 0 = ext v 1 0 ∧
      (∀ o, o ≠ psAt q 0 → o ≠ psAt q 8 → s'.reg o = s.reg o) ∧ (bitOf v 2 = false → s'.reg (psAt q 8) = s.reg (psAt q 8)) ∧
      (bitOf v 2 = true →
        (refused → ext (s'.reg (psAt q 8)) 4 4 = 1 ∧ ∀ b, bankOf s' q b = bankOf s q b) ∧
        (¬refused → ¬at' → bankOf s' q t = 1 ∧ bankOf s' q (!t) = 2) ∧
        (¬refused → at' → bankOf s' q t = 3 ∧ bankOf s' q (!t) = bankOf s q (!t)))) ∧
  (∀ (s : State) (q : Fin 4) (b : Bool),
    let left := s.pkts.any fun e => decide (qOf e.2 = q.val) && decide (e.2.bank = some b) && !e.2.doomed &&
      decide (e.2.stage ∈ [.waitPass, .stepping, .matching])
    (bankOf s q b ≠ 2 ∨ left = true → exec (.bankDrained q b) s = .next s) ∧
    (bankOf s q b = 2 → left = false → ∃ s' : State, exec (.bankDrained q b) s = .next s' ∧ s' = { s with csr := s'.csr } ∧
      bankOf s' q b = 0 ∧ bankOf s' q (!b) = bankOf s q (!b) ∧ ∀ o, o ≠ psAt q 8 → s'.reg o = s.reg o))

namespace Sys2Proof.Spec

/-! ## Forwarding tables -/

abbrev fwAt (q o : Nat) : Nat := 0xC00000 + q * 0x100000 + o
/-- PART and MAC keys (R133). -/
def partKey (slice id : Nat) : BitVec 67 := BitVec.ofNat 67 (slice % 64 * 2 ^ 60 + id % 2 ^ 14)
def macKey (slice vlan id : Nat) : BitVec 67 := BitVec.ofNat 67 (2 ^ 66 + slice % 64 * 2 ^ 60 + vlan % 2 ^ 12 * 2 ^ 48 + id % 2 ^ 48)
/-- Candidate buckets of a key (R135). -/
def hashOf (s : State) (q : Nat) (v : BitVec 67) : Nat × Nat :=
  let c := crcOf 32 0x1EDC6F41 (ext (s.reg (fwAt q 0x24)) 15 0 * 2 ^ 16 + ext (s.reg (fwAt q 0x20)) 15 0)
    ((List.range 67).map fun i => bitOf v (66 - i))
  let h1 := c % 2 ^ 16
  let h2 := c / 2 ^ 16 % 2 ^ 16
  (h1, if h2 = h1 then h1 ^^^ 1 else h2)
def entryAt (s : State) (q pos : Nat) : FEntry := SMap.get {} (s.fwdQ q).tab pos
/-- Position pos is a way of bucket b, or a stash entry (R132). -/
def wayOf (b pos : Nat) : Prop := 4 * b ≤ pos ∧ pos < 4 * b + 4
def inStash (pos : Nat) : Prop := 0x40000 ≤ pos ∧ pos < 0x40008
def placeOf (s : State) (q : Nat) (v : BitVec 67) (pos : Nat) : Prop :=
  wayOf (hashOf s q v).1 pos ∨ wayOf (hashOf s q v).2 pos ∨ inStash pos
/-- The key stands at pos, and at no other of its places. -/
def standsAt (s : State) (q : Nat) (v : BitVec 67) (pos : Nat) : Prop :=
  let here (x : Nat) : Prop := placeOf s q v x ∧ (entryAt s q x).valid = true ∧ (entryAt s q x).key = v
  here pos ∧ ∀ x, here x → x = pos
def absent (s : State) (q : Nat) (v : BitVec 67) : Prop :=
  ∀ x, placeOf s q v x → ¬((entryAt s q x).valid = true ∧ (entryAt s q x).key = v)
/-- Only entry pos of the table of quadrant q changes, to e. -/
def onlyEntry (s s' : State) (q pos : Nat) (e : FEntry) : Prop :=
  entryAt s' q pos = e ∧ ∀ n x, n ≠ q ∨ x ≠ pos → entryAt s' n x = entryAt s n x
def sameTables (s s' : State) : Prop := ∀ n x, entryAt s' n x = entryAt s n x
/-- Lowest free way of bucket b. -/
def freeAt (s : State) (q b pos : Nat) : Prop :=
  wayOf b pos ∧ (entryAt s q pos).valid = false ∧ ∀ x, wayOf b x → x < pos → (entryAt s q x).valid = true
def bucketFull (s : State) (q b : Nat) : Prop := ∀ x, wayOf b x → (entryAt s q x).valid = true
/-- Entry e is inserted with code c (R137): in place of its key, in the lowest free way, by relocation or in the stash; FULL changes nothing. -/
def insertsIn (s s' : State) (q : Nat) (e : FEntry) (c : Nat) : Prop :=
  let h := hashOf s q e.key
  (∀ x, standsAt s q e.key x → c = 2 ∧ onlyEntry s s' q x e) ∧
    (absent s q e.key →
      (∀ x, freeAt s q h.1 x → c = 0 ∧ onlyEntry s s' q x e) ∧
      (bucketFull s q h.1 → ∀ x, freeAt s q h.2 x → c = 0 ∧ onlyEntry s s' q x e) ∧
      (c = 0 ∨ c = 3) ∧ (c = 3 → sameTables s s') ∧ (c = 0 → ∃ x, placeOf s q e.key x ∧ entryAt s' q x = e))
/-- NOW, and an event that EVT_CFG lets through (R159). -/
def nowOf (s : State) (q : Nat) : Word := BitVec.ofNat 14 (ext (s.reg (fwAt q 0x2C)) 13 0)
def posts (s s' : State) (q : Nat) (e : FEvent) : Prop :=
  if bitOf (s.reg (fwAt q 0x54)) (e.event.toNat - 1) = false then (s'.fwdQ q).events = (s.fwdQ q).events
  else if 512 ≤ (s.fwdQ q).events.length then (s'.fwdQ q).events = (s.fwdQ q).events ∧ ext (s'.reg (fwAt q 0x50)) 10 10 = 1 ∧
    ext (s'.reg (fwAt q 0x50)) 27 12 = min (ext (s.reg (fwAt q 0x50)) 27 12 + 1) 65535
  else (s'.fwdQ q).events = (s.fwdQ q).events ++ [e]
/-- LEARNED entries and queued learns of port p (R146). -/
def learnedBy (s : State) (q : Nat) (p : Fin 32) : Nat :=
  ((s.fwdQ q).tab.filter fun x => decide (x.2.kind = 1) && decide (x.2.dest.toNat = p.val)).length +
    ((s.fwdQ q).learnq.filter fun x => decide (x.port.toNat = p.val)).length
/-- The source of a packet (R133, R144). -/
def mac48 (p : Pkt) (i : Nat) : Nat := (keyOf p i).toNat * 2 ^ 32 + (keyOf p (i + 1)).toNat * 2 ^ 16 + (keyOf p (i + 2)).toNat
def sourceKey (p : Pkt) : BitVec 67 :=
  if p.cls.toNat < 3 then partKey (p.slice.getD 0).toNat (ext (keyOf p 3) 13 0)
  else macKey (p.slice.getD 0).toNat (ext (keyOf p 6) 11 0) (mac48 p 3)
def notLearnable (p : Pkt) : Prop :=
  if p.cls.toNat < 3 then ext (keyOf p 3) 13 0 = 0x3FFF else bitOf (keyOf p 3) 8 = true ∨ mac48 p 3 = 0
/-- The key in the staging registers (R153, Table 5.6). -/
def keyStaged (s : State) (q : Nat) : BitVec 67 :=
  let a := s.reg (fwAt q 8)
  BitVec.ofNat 67 (ext a 0 0 * 2 ^ 66 + ext a 6 1 * 2 ^ 60 + ext a 18 7 * 2 ^ 48 + ext (s.reg (fwAt q 0x10)) 23 0 * 2 ^ 24 +
    ext (s.reg (fwAt q 0xC)) 23 0)
def partKeyBad (v : BitVec 67) : Prop := ext v 66 66 = 0 ∧ ext v 59 14 ≠ 0
/-- Code of the checks of a command (R153, R155): 5 RSVD, 6 COMBO, or 0. -/
def cmdFault (s : State) (q : Nat) (v : Pair) (n : Nat) : Prop :=
  let op := ext v 2 0
  let k := keyStaged s q
  let r := s.reg (fwAt q 0x14)
  let rsvd := ext v 27 19 ≠ 0 ∨ 5 ≤ op ∨ (op = 1 ∧ ext v 9 4 ≠ 0) ∨ (op = 4 ∧ ext v 3 3 ≠ 0) ∨ (op ≠ 1 ∧ op ≠ 4 ∧ ext v 18 3 ≠ 0)
  let combo := (op = 1 ∧ ext v 11 10 = 3) ∨ (op = 4 ∧ (ext v 11 10 = 3 ∨ (ext v 9 9 = 1 ∧ ext v 8 4 ≠ 0))) ∨
    ((op = 0 ∨ op = 2 ∨ op = 3) ∧ partKeyBad k) ∨
    (op = 2 ∧ (ext r 8 7 = 1 ∨ ext r 8 7 = 3 ∨ (ext r 0 0 = 0 ∧ 31 < ext r 6 1) ∨ (ext r 0 0 = 1 ∧ ext r 8 7 = 2)))
  (rsvd → n = 5) ∧ (¬rsvd → combo → n = 6) ∧ (¬rsvd → ¬combo → n = 0)
/-- Egress ports of a result without the ingress port of a LOOKUP-MAC (R141): drop and filter when none is left. -/
def reaches (p p' : Pkt) (ports : BitVec 32) (s s' : State) : Prop :=
  let h := ext p.rule 39 28
  let left := if ext p.rule 3 2 = 2 then ports &&& ~~~(BitVec.ofNat 32 (2 ^ p.port.val)) else ports
  if ports = 0 then taskRes p' h 0 false
  else if left = 0 then p'.res = some .drop ∧ counts s s' (fwAt (qOf p) 0x310) 1
  else taskRes p' h left false

end Sys2Proof.Spec

/-- R133, R135, R141, R142, R144 to R148, R152, R157, R414, Tables 5.1, 5.2: in a clocked quadrant a lookup gives the egress ports; a
learning check refreshes, moves or queues the source within its port's limit; a queued learn is inserted with the time of its check, and
a command that waited for it takes the next turn, after which the turn is a learn's again. That a flush holds the engine until it ends
is a reading (log 18). -/
def Obligations.LookupsAndLearningFollowTheTable : Prop :=
  (∀ (s : State) (k : Nat) (p : Pkt), s.pkt? k = some p → p.stage = .lookup → p.doomed = false →
    (s.clocked (3 + qOf p) = false → exec (.forwardLookup k) s = .next s) ∧ (s.clocked (3 + qOf p) = true →
    let q := qOf p
    let cnt (s' : State) (n : Nat) : Prop := counts s s' (fwAt q (0x300 + 4 * n)) 1
    let learns := bitOf p.rule 27 = true
    (learns → p.link ≠ .passed → exec (.forwardLookup k) s = .next s) ∧
    (¬learns → ext p.rule 1 0 = 1 → ext p.rule 3 2 = 1 ∨ ext p.rule 3 2 = 2 →
      let mac := ext p.rule 3 2 = 2
      let v := if mac then macKey (p.slice.getD 0).toNat (ext (keyOf p 6) 11 0) (mac48 p 0)
        else partKey (p.slice.getD 0).toNat (ext (keyOf p 0) 13 0)
      let flood := s.reg (fwAt q (0x200 + 4 * (p.slice.getD 0).toNat))
      ∃ s' p', exec (.forwardLookup k) s = .next s' ∧ s'.pkts = SMap.put k p' s.pkts ∧ p'.stage = .result ∧ cnt s' 0 ∧
        (∀ x, standsAt s q v x →
          let e := entryAt s q x
          let ports := if e.dkind then portsOf s q e.dest.toNat else BitVec.ofNat 32 (2 ^ (e.dest.toNat % 32))
          cnt s' 1 ∧ reaches p p' ports s s' ∧
            onlyEntry s s' q x (if e.kind ≠ 0 ∧ bitOf (s.reg (fwAt q 0x28)) 14 = true then { e with ts := nowOf s q } else e)) ∧
        (absent s q v → cnt s' 2 ∧ sameTables s s' ∧
          (mac → bitOf flood 6 = true → cnt s' 3 ∧ reaches p p' (portsOf s q (ext flood 5 0)) s s') ∧
          (¬mac ∨ bitOf flood 6 = false → taskRes p' (ext p.rule 39 28) 0 true))) ∧
    (learns → p.link = .passed → ext p.rule 3 2 = 0 →
      let v := sourceKey p
      let full := ext (s.reg (fwAt q (0x100 + 8 * (p.port.val % 8)))) 15 0 ≤ learnedBy s q p.port
      let five := BitVec.ofNat 5 p.port.val
      let atLimit (s' : State) (p' : Pkt) : Prop := (s'.fwdQ q).learnq = (s.fwdQ q).learnq ∧
        (bitOf (s.reg (fwAt q (0x100 + 8 * (p.port.val % 8)))) 16 = false → p'.res = some .drop ∧ cnt s' 8) ∧
        (bitOf (s.reg (fwAt q (0x100 + 8 * (p.port.val % 8)))) 16 = true → cnt s' 9)
      ∃ s' p', exec (.forwardLookup k) s = .next s' ∧ s'.pkts = SMap.put k p' s.pkts ∧ p'.stage = .result ∧
        (notLearnable p → cnt s' 12 ∧ sameTables s s' ∧ (s'.fwdQ q).learnq = (s.fwdQ q).learnq) ∧
        (¬notLearnable p → absent s q v →
          (full → atLimit s' p' ∧ sameTables s s') ∧
          (¬full → 64 ≤ (s.fwdQ q).learnq.length → cnt s' 11 ∧ (s'.fwdQ q).learnq = (s.fwdQ q).learnq) ∧
          (¬full → (s.fwdQ q).learnq.length < 64 → cnt s' 5 ∧ (s'.fwdQ q).learnq = (s.fwdQ q).learnq ++ [{ key := v, port := five, ts := nowOf s q }] ∧
            sameTables s s' ∧
            posts s s' q { event := 1, key := v, port := five, old := 0, fromCopy := false })) ∧
        (¬notLearnable p → ∀ x, standsAt s q v x →
          let e := entryAt s q x
          (e.kind = 0 → sameTables s s' ∧ ((e.dkind = true ∨ e.dest.toNat ≠ p.port.val) → cnt s' 13)) ∧
          (e.kind = 1 → e.dest.toNat = p.port.val → onlyEntry s s' q x { e with ts := nowOf s q }) ∧
          ((e.kind = 1 ∧ e.dest.toNat ≠ p.port.val) ∨ e.kind = 2 →
            (full → atLimit s' p' ∧ onlyEntry s s' q x { e with ts := nowOf s q }) ∧
            (¬full → cnt s' 6 ∧ onlyEntry s s' q x { e with kind := 1, dest := BitVec.ofNat 6 p.port.val, ts := nowOf s q } ∧
              posts s s' q { event := 2, key := v, port := five, old := BitVec.ofNat 5 (e.dest.toNat % 32),
                             fromCopy := decide (e.kind = 2) })))))) ∧
  (∀ (s : State) (q : Fin 4),
    let on := s.clocked (3 + q.val) = true ∧ (s.fwdQ q).flush = none
    (¬on ∨ ((s.fwdQ q).cmd = none ∧ (s.fwdQ q).learnq = []) → exec (.learnInsert q) s = .next s) ∧
    (on → (s.fwdQ q).cmd = none → ∀ l rest, (s.fwdQ q).learnq = l :: rest → ∃ s' : State, exec (.learnInsert q) s = .next s' ∧
      (s'.fwdQ q).learnq = rest ∧ (s'.fwdQ q).learnTurn = false ∧
      (∀ x, standsAt s q l.key x → (entryAt s q x).kind = 0 → sameTables s s') ∧
      ((absent s q l.key ∨ ∃ x, standsAt s q l.key x ∧ (entryAt s q x).kind ≠ 0) → ∃ c, insertsIn s s' q
        { valid := true, key := l.key, dkind := false, dest := BitVec.ofNat 6 l.port.toNat, kind := 1, ts := l.ts } c ∧
        (c = 3 → counts s s' (fwAt q 0x328) 1))) ∧
    (∀ v n, on → (s.fwdQ q).cmd = some v → cmdFault s q v n → ∃ s' : State, exec (.learnInsert q) s = .next s' ∧
      (s'.fwdQ q).learnq = (s.fwdQ q).learnq.tail ∧ (s'.fwdQ q).cmd = none ∧ (s'.fwdQ q).learnTurn = true ∧
      (n = 0 ∧ ext v 2 0 = 4 → (s'.fwdQ q).flush = some { cmd := v } ∧ (s'.fwdQ q).code = none) ∧
      (¬(n = 0 ∧ ext v 2 0 = 4) → (s'.fwdQ q).flush = none ∧ (s'.fwdQ q).code ≠ none)))

namespace Sys2Proof.Spec

/-- Filters of NEXT and FLUSH-PORT: kinds of SCOPE, and the slice (R154, R157). -/
def passes (v : Pair) (e : FEntry) : Prop :=
  (e.kind = 1 ∨ (1 ≤ ext v 11 10 ∧ e.kind = 2) ∨ 2 ≤ ext v 11 10) ∧ (ext v 12 12 = 1 → ext e.key 65 60 = ext v 18 13)
def flushed (v : Pair) (e : FEntry) : Prop := e.valid = true ∧ (ext v 9 9 = 1 ∨ (e.dkind = false ∧ e.dest.toNat = ext v 8 4)) ∧ passes v e
/-- A flush scans position y at its step n: a bucket, or behind the last bucket a place of the stash (R157). -/
def scanned (n y : Nat) : Prop := if n < 65536 then wayOf n y else y = 0x40000 + (n - 65536)
/-- The insertion engine is taken: a queued learn has the turn, or a flush scans (R147, R157). -/
def engineTaken (s : State) (q : Nat) : Prop :=
  ((s.fwdQ q).learnTurn = true ∧ (s.fwdQ q).learnq ≠ []) ∨ (s.fwdQ q).flush ≠ none
/-- RES and POS return the entry at pos. -/
def returns (s s' : State) (q pos : Nat) : Prop :=
  let e := entryAt s q pos
  let r := s'.reg (fwAt q 0x14)
  ext r 0 0 = (if e.dkind then 1 else 0) ∧ ext r 6 1 = e.dest.toNat ∧ ext r 8 7 = e.kind.toNat ∧ ext r 22 9 = e.ts.toNat ∧
    ext r 27 27 = 1 ∧ (s'.reg (fwAt q 0x18)).toNat = pos
/-- The command of FWD.CMD.OP. -/
def fwdCmdOf (q : Fin 4) (v : Pair) (op : Nat) : Instr :=
  match op with
  | 1 => .next q v
  | 2 => .insert q v
  | 3 => .delete q v
  | 4 => .flushPort q v
  | _ => .search q v

end Sys2Proof.Spec

/-- R136, R137, R139, R147, R149 to R151, R153 to R157, R159, R414, Tables 5.3 to 5.6: commands on the table, their checks, their turns and
their end; a flush, which scans the table bucket by bucket; the seed; the ageing sweep; the event queue; the flush of a port whose link
went down. That a flush holds the engine, and the stash's check back to its end, is a reading (log 18). -/
def Obligations.TableCommandsAgeingAndEvents : Prop :=
  (∀ (s : State) (q : Fin 4) (v : Pair), writesReg s (fwAt q 0) →
    let op := ext v 2 0
    let busy := bitOf (s.reg (fwAt q 4)) 4 = true
    (busy → ∃ s' : State, exec (fwdCmdOf q v op) s = .next s' ∧ s' = { s with csr := s'.csr } ∧ ext (s'.reg (fwAt q 4)) 5 5 = 1 ∧
      ∀ o, o ≠ fwAt q 4 → s'.reg o = s.reg o) ∧
    (¬busy → engineTaken s q → ∃ s' : State, exec (fwdCmdOf q v op) s = .next s' ∧ sameTables s s' ∧
      (s'.fwdQ q).cmd = some v ∧ (s'.fwdQ q).code = (s.fwdQ q).code ∧ ext (s'.reg (fwAt q 4)) 4 4 = 1) ∧
    (∀ n, cmdFault s q v n → n = 0 → op = 4 → ¬busy → ¬engineTaken s q → ∃ s' : State, exec (fwdCmdOf q v op) s = .next s' ∧
      sameTables s s' ∧ (s'.fwdQ q).flush = some { cmd := v } ∧ (s'.fwdQ q).code = none ∧ ext (s'.reg (fwAt q 4)) 4 4 = 1 ∧
      (s'.fwdQ q).learnTurn = true) ∧
    (∀ n, cmdFault s q v n → ¬(n = 0 ∧ op = 4) → ¬busy → ¬engineTaken s q →
      ∃ s' c, exec (fwdCmdOf q v op) s = .next s' ∧ (s'.fwdQ q).code = some c ∧
      ext (s'.reg (fwAt q 4)) 4 4 = 1 ∧ s'.threads = s.threads ∧ s'.mem = s.mem ∧ (s'.fwdQ q).learnTurn = true ∧
      (n ≠ 0 → c.toNat = n ∧ sameTables s s') ∧
      (n = 0 → op = 0 → sameTables s s' ∧ (∀ x, standsAt s q (keyStaged s q) x → c = 0 ∧ returns s s' q x) ∧
        (absent s q (keyStaged s q) → c = 1 ∧ ext (s'.reg (fwAt q 0x14)) 27 27 = 0)) ∧
      (n = 0 → op = 1 → bitOf v 3 = true → SMap.rises (s.fwdQ q).tab = true →
        let takes (x : Nat) : Prop := (entryAt s q x).valid = true ∧ passes v (entryAt s q x)
        sameTables s s' ∧
        ((∀ x, ¬takes x) → c = 4 ∧ ext (s'.reg (fwAt q 0x14)) 27 27 = 0 ∧ (s'.fwdQ q).walk = false) ∧
        (∀ x, takes x → (∀ y, takes y → x ≤ y) → c = 0 ∧ (x < 2 ^ 28 → returns s s' q x) ∧ keyStaged s' q = (entryAt s q x).key ∧
          (s'.fwdQ q).walk = true ∧ (s'.fwdQ q).cursor = x + 1)) ∧
      (n = 0 → op = 2 → let r := s.reg (fwAt q 0x14)
        insertsIn s s' q { valid := true, key := keyStaged s q, dkind := bitOf r 0, dest := BitVec.ofNat 6 (ext r 6 1),
                           kind := BitVec.ofNat 2 (ext r 8 7), ts := nowOf s q } c.toNat) ∧
      (n = 0 → op = 3 → (absent s q (keyStaged s q) → c = 1 ∧ sameTables s s') ∧
        (∀ x, standsAt s q (keyStaged s q) x → c = 0 ∧ absent s' q (keyStaged s q))))) ∧
  (∀ (s : State) (q : Fin 4) (x : Flush), (s.fwdQ q).flush = some x → x.next < 65544 →
    let goes (y : Nat) : Prop := scanned x.next y ∧ flushed x.cmd (entryAt s q y)
    let s' := s.flushStep q
    let cleared := ∀ n y, (n = q.val ∧ goes y → entryAt s' n y = {}) ∧ (¬(n = q.val ∧ goes y) → entryAt s' n y = entryAt s n y)
    ∃ l : List Nat, l.Nodup ∧ (∀ y, y ∈ l ↔ goes y) ∧
      (x.next < 65543 → s' = { s with fwd := s'.fwd } ∧ cleared ∧
        (s'.fwdQ q).flush = some { x with next := x.next + 1, removed := x.removed + l.length }) ∧
      (x.next = 65543 → s'.reg (fwAt q 0x1C) = BitVec.ofNat 28 (x.removed + l.length) ∧
        ((s.fwdQ q).cmd = none → (s'.fwdQ q).flush = none ∧ (s'.fwdQ q).code = (if x.down then (s.fwdQ q).code else some 0) ∧
          ((∀ y, inStash y → (entryAt s q y).valid = false ∨ goes y) → cleared)))) ∧
  (∀ (s : State) (q : Fin 4),
    ((s.fwdQ q).code = none ∨ s.clocked (3 + q.val) = false → exec (.fwdCmdEnd q) s = .next s) ∧
    (∀ c, (s.fwdQ q).code = some c → s.clocked (3 + q.val) = true → ∃ s' : State, exec (.fwdCmdEnd q) s = .next s' ∧ ext (s'.reg (fwAt q 4)) 3 0 = c.toNat ∧
      ext (s'.reg (fwAt q 4)) 4 4 = 0 ∧ (s'.fwdQ q).code = none ∧ sameTables s s' ∧ ∀ o, o ≠ fwAt q 4 → s'.reg o = s.reg o) ∧
    (∀ (hi : Bool) (v : Pair), let o := fwAt q (if hi then 0x24 else 0x20)
      writesReg s o → ∃ s' : State, exec (.hashSeedWrite q hi v) s = .next s' ∧ s' = { s with csr := s'.csr } ∧
        ((s.fwdQ q).tab = [] → ext (s'.reg o) 15 0 = ext v 15 0 ∧ ∀ x, x ≠ o → s'.reg x = s.reg x) ∧
        ((s.fwdQ q).tab ≠ [] → ext (s'.reg (fwAt q 0x30)) 24 24 = 1 ∧ ∀ x, x ≠ fwAt q 0x30 → s'.reg x = s.reg x)) ∧
    (writesReg s (fwAt q 0x4C) → ∃ s' : State, exec (.evtInfoRead q) s = .next s' ∧
      (s'.fwdQ q).events = (s.fwdQ q).events.tail ∧ sameTables s s' ∧ s'.csr = s.csr ∧
      ((s.fwdQ q).events = [] → s'.readData = 0) ∧
      (∀ e r, (s.fwdQ q).events = e :: r → ext s'.readData 1 0 = e.event.toNat ∧ ext s'.readData 6 2 = e.port.toNat ∧
        ext s'.readData 11 7 = e.old.toNat ∧ ext s'.readData 12 12 = if e.fromCopy then 1 else 0)) ∧
    (∀ (b : BitVec 17) (hit : BitVec 8), ((s.fwdQ q).sweep ≠ some b.toNat ∨ s.clocked (3 + q.val) = false) →
      exec (.ageingVisit q b hit) s = .next s) ∧
    (∀ (b : BitVec 17) (hit : BitVec 8), b.toNat ≤ 65536 → (s.fwdQ q).sweep = some b.toNat → s.clocked (3 + q.val) = true →
      let time := ext (s.reg (fwAt q 0x28)) 13 0
      let now := nowOf s q
      let ways := if b.toNat < 65536 then 4 else 8
      let age (e : FEntry) := (now.toNat + 2 ^ 14 - e.ts.toNat) % 2 ^ 14
      let old (w : Nat) (e : FEntry) : Prop := e.valid = true ∧ e.kind ≠ 0 ∧ bitOf hit w = false ∧ time ≠ 0 ∧ time ≤ age e
      let stashStays := (s.fwdQ q).flush ≠ none ∨ (∀ x, inStash x → (entryAt s q x).valid = false) ∨ ∀ w, w < ways → ¬old w (entryAt s q (4 * b.toNat + w))
      ∃ s' : State, exec (.ageingVisit q b hit) s = .next s' ∧
        (s'.fwdQ q).sweep = (if b.toNat < 65536 then some (b.toNat + 1) else none) ∧
        (stashStays →
          (∀ n x, n ≠ q.val ∨ x < 4 * b.toNat ∨ 4 * b.toNat + ways ≤ x → entryAt s' n x = entryAt s n x) ∧
          ∀ w, w < ways →
            let e := entryAt s q (4 * b.toNat + w)
            let e' := entryAt s' q (4 * b.toNat + w)
            (old w e → e' = {}) ∧
            (¬old w e → e' = if e.valid = false ∨ e.kind = 0 then e else if bitOf hit w = true then { e with ts := now }
              else if age e = 16383 then { e with ts := now - 16383#14 } else e)))) ∧
  (∀ s : State, s.tick.toNat < s.ageingAt + 400000 → exec .ageingStrobe s = .next s) ∧
  (∀ s : State, s.ageingAt + 400000 ≤ s.tick.toNat → ∃ s' : State, exec .ageingStrobe s = .next s' ∧
    s' = { s with csr := s'.csr, fwd := s'.fwd, ageingAt := s.ageingAt + 400000 } ∧ (∀ q, sameTables s s' ∧
      (s'.fwdQ q).learnq = (s.fwdQ q).learnq ∧ (s'.fwdQ q).events = (s.fwdQ q).events) ∧
    (∀ q : Fin 4, nowOf s' q = (if s.clocked (3 + q.val) then nowOf s q + 1 else nowOf s q) ∧
      (s'.fwdQ q).sweep = if s.clocked (3 + q.val) then some 0 else (s.fwdQ q).sweep) ∧
    ∀ o, (∀ q : Fin 4, o ≠ fwAt q 0x2C) → s'.reg o = s.reg o) ∧
  (∀ (s : State) (p : Fin 32),
    let q := p.val / 8
    let waits := ∃ x ∈ (s.fwdQ q).flushes, x.toNat = p.val
    let may := bitOf (s.reg (fwAt q 4)) 4 = false ∧ (s.fwdQ q).flush = none ∧ waits ∧ s.clocked (3 + q) = true
    (¬may → exec (.flushOnDown p) s = .next s) ∧
    (may → ∃ s' : State, exec (.flushOnDown p) s = .next s' ∧ s' = { s with fwd := s'.fwd } ∧ sameTables s s' ∧
      (s'.fwdQ q).flush = some { cmd := BitVec.ofNat 28 (16 * p.val), down := true } ∧ ∀ x ∈ (s'.fwdQ q).flushes, x.toNat ≠ p.val))

namespace Sys2Proof.Spec

/-! ## Dispatch -/

abbrev dsAt (q o : Nat) : Nat := 0x1000000 + q * 0x100000 + o
/-- The CCLK copy of the tick counter (R25). -/
def copyTick (s : State) (c : Nat) : Prop := c = s.copy.toNat
def handleWord (gen : BitVec 2) (n : Nat) : Word := BitVec.ofNat 14 (n + 4096 * gen.toNat)
/-- Quadrant of a submission (R170, R374), or none. -/
def quadFor (s : State) (u : Submitter) (d : Desc) : Option Nat :=
  let i := ext d.p0 17 12
  let picked := (s.pickQuad i).map (·.val)
  if bitOf d.p0 27 then
    match u.quad with
    | some q => if u.src = 4 ∧ s.hasShare i q = true then some q else picked
    | none => picked
  else if s.hasShare i (ext d.p0 26 25) then some (ext d.p0 26 25) else none
/-- Slots of slice i that count against its quota (R171). -/
def nonpkt (s : State) (q i : Nat) : Nat :=
  ((s.dspQ q).slots.filter fun x => decide (x.2.st ≠ .free) && decide (x.2.slice.toNat = i) && decide (3 ≤ x.2.src.toNat)).length
/-- Slot n of quadrant q is free for allocation, and the lowest such (R172). -/
def slotOpen (s : State) (q n : Nat) : Prop := n < 4096 ∧ (s.slot q n).st = .free ∧ (s.slot q n).claim = none
def lowestOpen (s : State) (q n : Nat) : Prop := slotOpen s q n ∧ ∀ m, slotOpen s q m → n ≤ m
/-- Code of Table 6.4 for a SUBMIT: the first check that fails, or 0. -/
def submitFault (s : State) (u : Submitter) (d : Desc) (c : Nat) : Prop :=
  let i := ext d.p0 17 12
  let qany := bitOf d.p0 27 = true
  let rsvd := ext d.p3 27 2 ≠ 0
  let priv := u.system = false ∧ i ≠ u.slice
  let combo := (bitOf d.p0 24 = false ∧ 2 ^ 27 ≤ d.p1.toNat) ∨ (qany ∧ (bitOf d.p3 0 = true ∨ bitOf d.p3 1 = true)) ∨
    (bitOf d.p3 0 = true ∧ bitOf d.p3 1 = true ∧ ext d.p2 13 0 = ext d.p2 27 14) ∨
    (u.src = 5 ∧ (qany ∨ u.quad ≠ some (ext d.p0 26 25)))
  (rsvd → c = 1) ∧ (¬rsvd → priv → c = 3) ∧ (¬rsvd → ¬priv → combo → c = 4) ∧
    (¬rsvd → ¬priv → ¬combo →
      (quadFor s u d = none → c = 5) ∧
      ∀ q, quadFor s u d = some q →
        let cfg := s.reg (dsAt q (0x100 + 8 * i))
        let full := ext cfg 12 0 ≤ nonpkt s q i ∨ ∀ n, ¬slotOpen s q n
        (ext cfg 25 13 ≤ ext d.p0 11 0 → c = 6) ∧ (ext d.p0 11 0 < ext cfg 25 13 → 3 ≤ s.sliceState i → c = 7) ∧
          (ext d.p0 11 0 < ext cfg 25 13 → s.sliceState i < 3 → full → c = 8) ∧
          (ext d.p0 11 0 < ext cfg 25 13 → s.sliceState i < 3 → ¬full → c = 0))
/-- The deadline stored at creation tick c (R168). -/
def storedDl (d : Desc) (c : Pair) : Pair :=
  if bitOf d.p0 24 then (if (d.p1 - c).toNat < 2 ^ 27 then d.p1 else c) else c + d.p1
/-- The slot that a descriptor fills at creation tick c (R161, R163, R168, Table 6.3). -/
def slotFor (x : Slot) (u : Submitter) (d : Desc) (c : Nat) : Slot :=
  { st := if ext d.p0 23 18 = 0 then .ready else .waiting, last := x.last, gen := x.gen + 1, src := BitVec.ofNat 3 u.src,
    slice := BitVec.ofNat 6 (ext d.p0 17 12), count := BitVec.ofNat 6 (ext d.p0 23 18), dl := storedDl d (BitVec.ofNat 28 c),
    handler := BitVec.ofNat 12 (ext d.p0 11 0), arg0 := d.p4, arg1 := d.p5,
    succ0 := if bitOf d.p3 0 then some (BitVec.ofNat 14 (ext d.p2 13 0)) else none,
    succ1 := if bitOf d.p3 1 then some (BitVec.ofNat 14 (ext d.p2 27 14)) else none }
/-- Every slot but n of quadrant q is as before. -/
def otherSlots (s s' : State) (q n : Nat) : Prop := ∀ p m, p ≠ q ∨ m ≠ n → s'.slot p m = s.slot p m
/-- A SUBMIT with its code, handle and quadrant (R168, R170). -/
def submits (s s' : State) (u : Submitter) (d : Desc) (code : Nat) (h : Word) (quad : Nat) : Prop :=
  submitFault s u d code ∧ (code ≠ 0 → h = 0 ∧ ∀ p m, s'.slot p m = s.slot p m) ∧
    (code = 0 → quadFor s u d = some quad ∧ ∃ n c, lowestOpen s quad n ∧ copyTick s c ∧
      s'.slot quad n = slotFor (s.slot quad n) u d c ∧ h = handleWord ((s.slot quad n).gen + 1) n ∧
      counts s s' (dsAt quad 0x300) 1 ∧ otherSlots s s' quad n)
/-- The handle names a task that the submitter may release or cancel (R169, R174). -/
def names (s : State) (u : Submitter) (q : Nat) (h : Word) : Prop :=
  let x := s.slot q (h.toNat % 4096)
  x.st ≠ .free ∧ x.gen.toNat = h.toNat / 4096 ∧ (u.system = true ∨ x.slice.toNat = u.slice)
/-- The task has been cancelled in this CCLK, and the cancel wins (R180). -/
def cancelledNow (s : State) (q : Nat) (h : Word) : Prop :=
  let x := s.slot q (h.toNat % 4096)
  x.st = .free ∧ x.gen.toNat = h.toNat / 4096 ∧ x.cancelAt = some s.cclk
/-- No request waits for allocation in any quadrant. -/
def noneWaits (s : State) : Prop := ∀ q, q < 4 → ∀ x ∈ (s.dspQ q).reqs, x.2 = []
/-- A RELEASE with its code (R173, R174, R180). -/
def releases (s s' : State) (u : Submitter) (q : Nat) (h : Word) (code : Nat) : Prop :=
  let n := h.toNat % 4096
  let x := s.slot q n
  (cancelledNow s q h → code = 9 ∧ (∀ p m, s'.slot p m = s.slot p m) ∧ s'.reg (dsAt q 0x31C) = s.reg (dsAt q 0x31C)) ∧
    (¬names s u q h → ¬cancelledNow s q h → code = 9 ∧ (∀ p m, s'.slot p m = s.slot p m) ∧ counts s s' (dsAt q 0x31C) 1) ∧
    (names s u q h → x.count = 0 → code = 10 ∧ (∀ p m, s'.slot p m = s.slot p m) ∧ counts s s' (dsAt q 0x320) 1) ∧
    (names s u q h → x.count ≠ 0 → code = 0 ∧ otherSlots s s' q n ∧
      s'.slot q n = { x with count := x.count - 1, st := if x.st = .waiting ∧ x.count = 1 then .ready else x.st })
/-- A CANCEL with its code (R179, R180); `same` when other events of the slot fall in its CCLK. -/
def cancels (s s' : State) (u : Submitter) (q : Nat) (h : Word) (prop same : Bool) (code : Nat) : Prop :=
  let n := h.toNat % 4096
  let x := s.slot q n
  (¬names s u q h → code = 9 ∧ ∀ p m, s'.slot p m = s.slot p m) ∧
    (names s u q h → x.st = .running → code = 11 ∧ ∀ p m, s'.slot p m = s.slot p m) ∧
    (names s u q h → x.st ≠ .running → code = 0 ∧ (s'.slot q n).st = .free ∧ (s'.slot q n).last = 2 ∧ (s'.slot q n).gen = x.gen ∧
      (same = true → (s'.slot q n).cancelAt = some s.cclk) ∧ counts s s' (dsAt q 0x30C) 1 ∧ (prop = false ∨ (x.succ0 = none ∧ x.succ1 = none) → otherSlots s s' q n) ∧
      ∀ g, prop = true → x.succ0 = some g → x.succ1 = none →
        let y := s.slot q (g.toNat % 4096)
        g.toNat % 4096 ≠ n → y.st ≠ .free → y.gen.toNat = g.toNat / 4096 → y.slice = x.slice → y.count ≠ 0 →
          (s'.slot q (g.toNat % 4096)).count = y.count - 1 ∧
            (s'.slot q (g.toNat % 4096)).st = if y.st = .waiting ∧ y.count = 1 then .ready else y.st)
/-- The oldest message of thread t on the dispatcher channel, and its words as a descriptor (Table 6.5). -/
def oldestMsg (s : State) (t : Fin 1024) (m : List Word) : Prop :=
  ∃ a b, s.dcmds = a ++ (t, m) :: b ∧ ∀ x ∈ a, x.1 ≠ t
def descOf (m : List Word) : Desc :=
  let p (i : Nat) : Pair := BitVec.ofNat 28 ((m.getD (2 * i + 1) 0).toNat + 2 ^ 14 * (m.getD (2 * i + 2) 0).toNat)
  { p0 := p 0, p1 := p 1, p2 := p 2, p3 := p 3, p4 := p 4, p5 := p 5 }
/-- The quadrant that message m of thread t names is ON (R417, R418). -/
def namesAwake (s : State) (t : Fin 1024) (m : List Word) : Prop :=
  let op := ext (m.headD 0) 2 0
  (op = 1 → m.length = 13 → ∀ q, quadFor s { src := 4, slice := s.sliceOf t, system := s.system t, quad := some (t.val / 256) } (descOf m) = some q →
    s.domOn (3 + q) = true) ∧
  ((op = 2 ∨ op = 3) → m.length = 3 → ext (m.getD 2 0) 13 2 = 0 → s.domOn (3 + ext (m.getD 2 0) 1 0) = true)
/-- A SUBMIT of thread t waits for its turn of allocation. -/
def submitWaits (s : State) (t : Fin 1024) : Prop :=
  ∃ q, q < 4 ∧ ∃ x ∈ (s.dspQ q).reqs, ∃ r ∈ x.2, ∃ u d, r.sub = some (u, d, .thread t)
/-- The reply of the command of thread t (Table 6.5, R256), with nothing else waiting. -/
def replies (s s' : State) (t : Fin 1024) (h : Word) (code quad : Nat) : Prop :=
  (s.thread t).replyDue = true → (∀ m, ∀ a b, s.dcmds = a ++ (t, m) :: b → ∀ x ∈ a ++ b, x.1 ≠ t) →
    s'.thread t = ({ s.thread t with
      reply := [if code = 0 then h else 0, BitVec.ofNat 14 (code + 16 * quad)], replyDue := false }).takeReply

end Sys2Proof.Spec

/-- R161 to R163, R167 to R171, R173, R174, R179, R180, R184, R417, Tables 6.1 to 6.5, 6.9: SUBMIT, RELEASE and CANCEL, through DSP.CMD,
which is BUSY until the result is shown, and the dispatcher channel, where a command waits for a quadrant that sleeps. -/
def Obligations.DispatchCommandsFollowTheirChecks : Prop :=
  (∀ (s : State) (q : Fin 4) (v : Pair), writesReg s (dsAt q 8) →
    let op := ext v 2 0
    let u : Submitter := { src := 5, slice := 0, system := true, quad := some q.val }
    let g (i : Nat) : Pair := s.reg (dsAt q (0x20 + 4 * i))
    let d : Desc := { p0 := g 0, p1 := g 1, p2 := g 2, p3 := g 3, p4 := g 4, p5 := g 5 }
    let h : Word := BitVec.ofNat 14 (ext v 17 4)
    let busy := bitOf (s.reg (dsAt q 0xC)) 4 = true
    let ends (s' : State) (code : Nat) (w : Word) : Prop := (s'.dspQ q).res = some (BitVec.ofNat 4 code, w) ∧
      (s'.dspQ q).cmdAt = some (s.cclk, decide (op = 1)) ∧ ext (s'.reg (dsAt q 0xC)) 4 4 = 1 ∧
      ext (s'.reg (dsAt q 0xC)) 3 0 = ext (s.reg (dsAt q 0xC)) 3 0 ∧ s'.threads = s.threads ∧ s'.mem = s.mem ∧
      (code ≠ 0 → counts s s' (dsAt q 0x314) 1)
    let refused (s' : State) : Prop := ends s' 1 0 ∧ ∀ p m, s'.slot p m = s.slot p m
    (busy → ∀ c, c = .submit (.csr q v) ∧ op = 1 ∨ c = .release (.csr q v) ∧ op = 2 ∨ (∃ b, c = .cancel ⟨.csr q v, b⟩) ∧ op = 3 →
      ∃ s' : State, exec c s = .next s' ∧ s' = { s with csr := s'.csr } ∧ ext (s'.reg (dsAt q 0xC)) 5 5 = 1 ∧
        ∀ o, o ≠ dsAt q 0xC → s'.reg o = s.reg o) ∧
    (op = 1 → ¬busy → ∃ s' : State, exec (.submit (.csr q v)) s = .next s' ∧ ext (s'.reg (dsAt q 0xC)) 4 4 = 1 ∧
      (ext v 27 3 ≠ 0 → refused s') ∧
      (ext v 27 3 = 0 → noneWaits s → ∃ code w quad, submits s s' u d code w quad ∧ ends s' code w)) ∧
    (op ≠ 1 → exec (.submit (.csr q v)) s = .next s) ∧
    (op = 2 → ¬busy → ∃ s' : State, exec (.release (.csr q v)) s = .next s' ∧
      if ext v 27 18 ≠ 0 ∨ bitOf v 3 = true then refused s'
      else ∃ code, releases s s' u q h code ∧ ends s' code (if code = 0 then h else 0)) ∧
    (op ≠ 2 → exec (.release (.csr q v)) s = .next s) ∧
    (op = 3 → ¬busy → ∀ same, ∃ s' : State, exec (.cancel ⟨.csr q v, same⟩) s = .next s' ∧
      if ext v 27 18 ≠ 0 then refused s'
      else ∃ code, cancels s s' u q h (bitOf v 3) same code ∧ ends s' code (if code = 0 then h else 0)) ∧
    (op ≠ 3 → ∀ same, exec (.cancel ⟨.csr q v, same⟩) s = .next s)) ∧
  (∀ (s : State) (t : Fin 1024) (m : List Word), oldestMsg s t m → ¬namesAwake s t m →
    ∀ c, c = .submit (.chan t) ∨ c = .release (.chan t) ∨ (∃ b, c = .cancel ⟨.chan t, b⟩) →
      ∃ s' : State, exec c s = .next s' ∧ s'.dsp = s.dsp ∧ s'.dcmds = s.dcmds ∧ s'.threads = s.threads ∧ s'.mem = s.mem) ∧
  (∀ (s : State) (t : Fin 1024) (m : List Word), oldestMsg s t m → namesAwake s t m →
    let w0 := m.headD 0
    let op := ext w0 2 0
    let own := t.val / 256
    let u : Submitter := { src := 4, slice := s.sliceOf t, system := s.system t, quad := some own }
    let h := m.getD 1 0
    let q := ext (m.getD 2 0) 1 0
    let fails (s' : State) (code : Nat) : Prop := (∀ p n, s'.slot p n = s.slot p n) ∧ counts s s' (dsAt own 0x314) 1 ∧
      replies s s' t 0 code own
    (op ≠ 2 → op ≠ 3 → ∃ s' : State, exec (.submit (.chan t)) s = .next s' ∧
      if op ≠ 1 ∨ ext w0 13 3 ≠ 0 then fails s' 1 else if m.length ≠ 13 then fails s' 2
      else (submitWaits s t → s' = s) ∧
        (noneWaits s → ∃ code w quad, submits s s' u (descOf m) code w quad ∧ (code = 0 → replies s s' t w code quad))) ∧
    (op = 2 → ∃ s' : State, exec (.release (.chan t)) s = .next s' ∧
      if ext w0 13 3 ≠ 0 then fails s' 1 else if m.length ≠ 3 then fails s' 2 else if ext (m.getD 2 0) 13 2 ≠ 0 then fails s' 1
      else ∃ code, releases s s' u q h code ∧ replies s s' t h code q) ∧
    (op = 3 → ∀ same, ∃ s' : State, exec (.cancel ⟨.chan t, same⟩) s = .next s' ∧
      if ext w0 13 4 ≠ 0 then fails s' 1 else if m.length ≠ 3 then fails s' 2 else if ext (m.getD 2 0) 13 2 ≠ 0 then fails s' 1
      else ∃ code, cancels s s' u q h (bitOf w0 3) same code ∧ replies s s' t h code q)) ∧
  (∀ (s : State) (t : Fin 1024), (∀ x ∈ s.dcmds, x.1 ≠ t) → exec (.submit (.chan t)) s = .next s ∧
    exec (.release (.chan t)) s = .next s ∧ ∀ same, exec (.cancel ⟨.chan t, same⟩) s = .next s)

namespace Sys2Proof.Spec

/-- A thread of quadrant q waits at TASK and is assigned to slice i (R176). -/
def waitsFor (s : State) (q i : Nat) (t : Nat) : Prop :=
  t / 256 = q ∧ (s.core (t / 8)).slice = some (BitVec.ofNat 6 i) ∧ (s.thread t).st = .waitTask
/-- Slot n holds a READY task that a waiting thread can take. -/
def eligible (s : State) (q n : Nat) : Prop :=
  (s.slot q n).st = .ready ∧ s.mayDispatch (s.slot q n) = true ∧ ∃ t, waitsFor s q (s.slot q n).slice.toNat t
/-- Registers k0 to k7 and b7 of Table 6.6. -/
def recordOf (s : State) (x : Slot) (n : Nat) (k : List Word) (b7 : Pair) : Prop :=
  let w (j : Nat) : Word := BitVec.ofNat 14 j
  let h := handleWord x.gen n
  let dl (b : Nat) : Word := w (x.dl.toNat / 2 ^ b)
  (x.pkt = none → k = [h, w x.src.toNat, dl 0, dl 14, w x.arg0.toNat, w (x.arg0.toNat / 2 ^ 14), w x.arg1.toNat,
    w (x.arg1.toNat / 2 ^ 14)] ∧ b7 = 0) ∧
  (∀ j p, x.pkt = some j → s.pkt? j = some p → k = [h,
    w (x.src.toNat + 8 * p.cls.toNat + (if x.miss then 64 else 0) + (if x.ports = 0 then 0 else 128) + 256 * p.port.val), dl 0, dl 14,
    w p.addr.toNat, w (x.cause.toNat + 16 * x.trap.toNat + (if p.cls = 0 then 4096 * (p.xseq.toNat / 2 ^ 14) else 0)), x.k6,
    w (if p.cls.toNat < 3 then p.flits.length else p.octets.length)] ∧ b7 = BitVec.ofNat 28 (p.addr.toNat / 2 ^ 14))

end Sys2Proof.Spec

/-- R28, R161 to R166, R168, R172, R175 to R177, R361, R378, R414, R468, Tables 6.2, 6.6, 14.2: in a clocked quadrant a released packet
becomes a task, waits, is refused, or is captured or discarded for a slice that freezes or drains; the earliest READY task goes to a
waiting thread, a wave's not after the stop; a deadline that has fallen behind is moved up. -/
def Obligations.TasksAreAllocatedSelectedAndDispatched : Prop :=
  (∀ (s : State) (q : Fin 4),
    (s.clocked (3 + q.val) = false ∨ (∀ j, j < 12 → SMap.get [] (s.dspQ q).reqs j = []) → exec (.slotAllocation q) s = .next s) ∧
    (∀ j r u d c, s.clocked (3 + q.val) = true → SMap.get [] (s.dspQ q).reqs j = [r] → (∀ i, i < 12 → i ≠ j → SMap.get [] (s.dspQ q).reqs i = []) →
      10 ≤ j → j < 12 → r.sub = some (u, d, .csr c) → quadFor s u d = some q.val → ∃ s' code h, exec (.slotAllocation q) s = .next s' ∧
        submits s s' u d code h q.val ∧ (s'.dspQ c).res = some (BitVec.ofNat 4 code, h) ∧ SMap.get [] (s'.dspQ q).reqs j = []) ∧
    (∀ j r k p, s.clocked (3 + q.val) = true → j < 10 → SMap.get [] (s.dspQ q).reqs j = [r] →
      (∀ i, i < 12 → i ≠ j → SMap.get [] (s.dspQ q).reqs i = []) → r.sub = none → r.pkt = some k → s.pkt? k = some p →
      (s.sliceState r.slice.toNat = 3 ∨ 5 ≤ s.sliceState r.slice.toNat) → s.slotOfPkt k = none →
      (s.sliceState r.slice.toNat = 3 → r.handler.toNat < ext (s.reg (dsAt q (0x100 + 8 * r.slice.toNat))) 25 13) →
      let taken := s.sliceState r.slice.toNat = 3 ∧ p.cls ≠ 0
      let lost := 5 ≤ s.sliceState r.slice.toNat
      let drops := 0x2401008 + 0x100 * r.slice.toNat
      ∃ s' : State, exec (.slotAllocation q) s = .next s' ∧ SMap.get [] (s'.dspQ q).reqs j = [] ∧ (∀ m n, s'.slot m n = s.slot m n) ∧
        (taken → s'.pkt? k = some { p with capFor := some r.slice } ∧ s'.csr = s.csr ∧
          (s'.slice r.slice.toNat).capQueue = (s.slice r.slice.toNat).capQueue ++ [k]) ∧
        (lost → p.link = .passed → counts s s' drops 1 ∧ ∀ p', s'.pkt? k = some p' → p'.ended = true) ∧
        (lost → p.link ≠ .passed → s'.csr = s.csr ∧ s'.pkt? k = some { p with capFor := some r.slice, stage := .released })) ∧
    (∀ j r k p, s.clocked (3 + q.val) = true → j < 10 → SMap.get [] (s.dspQ q).reqs j = [r] → (∀ i, i < 12 → i ≠ j → SMap.get [] (s.dspQ q).reqs i = []) →
      r.sub = none → r.pkt = some k → s.pkt? k = some p → s.sliceState r.slice.toNat = 1 →
      let fits := r.handler.toNat < ext (s.reg (dsAt q (0x100 + 8 * r.slice.toNat))) 25 13
      ∃ s' : State, exec (.slotAllocation q) s = .next s' ∧ s'.threads = s.threads ∧ s'.mem = s.mem ∧
        (fits → ∀ n, lowestOpen s q n → SMap.get [] (s'.dspQ q).reqs j = [] ∧ otherSlots s s' q n ∧ counts s s' (dsAt q 0x300) 1 ∧
          (s'.slot q n).st = (if p.link = .open ∧ p.cls ≠ 3 then .held else .ready) ∧ (s'.slot q n).gen = (s.slot q n).gen + 1 ∧
          (s'.slot q n).src = r.src ∧ (s'.slot q n).slice = r.slice ∧ (s'.slot q n).handler = r.handler ∧ (s'.slot q n).pkt = some k ∧
          (s'.slot q n).ports = r.ports ∧ (s'.slot q n).count = 0 ∧ (s'.slot q n).succ0 = none ∧ (s'.slot q n).succ1 = none ∧
          (p.cls ≠ 0 → ∃ c, copyTick s c ∧ (s'.slot q n).dl = BitVec.ofNat 28 (c + ext (s.reg (dsAt q 0)) 14 0))) ∧
        (fits → (∀ n, ¬slotOpen s q n) → s' = s) ∧
        (¬fits → SMap.get [] (s'.dspQ q).reqs j = [] ∧ (∀ m n, s'.slot m n = s.slot m n) ∧ counts s s' (dsAt q 0x314) 1 ∧
          logged s s' 5 1 1 q r.handler.toNat ∧ ∀ p', s'.pkt? k = some p' → p'.gone = true))) ∧
  (∀ (s : State) (q : Fin 4),
    (∀ n k p, s.epc.stopped = true → (s.slot q n).pkt = some k → s.pkt? k = some p → p.cls = 0 → ¬eligible s q n) ∧
    (s.fatal ≠ 0 ∨ s.clocked (3 + q.val) = false ∨ (∀ n, ¬eligible s q n) → exec (.dispatch q) s = .next s) ∧
    (∀ b : Pair, s.fatal = 0 → s.clocked (3 + q.val) = true → SMap.rises (s.dspQ q).slots = true →
      (∀ n, eligible s q n → ((s.slot q n).dl - b).toNat < 2 ^ 26) → (∃ n, eligible s q n) →
      ∃ s' n t k b7, exec (.dispatch q) s = .next s' ∧ eligible s q n ∧
        (∀ m, eligible s q m → ((s.slot q n).dl - b).toNat < ((s.slot q m).dl - b).toNat ∨
          (((s.slot q n).dl - b).toNat = ((s.slot q m).dl - b).toNat ∧ n ≤ m)) ∧
        let x := s.slot q n
        let y := s'.thread t
        waitsFor s q x.slice.toNat t ∧ s'.slot q n = { x with st := .running } ∧ otherSlots s s' q n ∧
          counts s s' (dsAt q 0x304) 1 ∧ (∀ u, u ≠ t → s'.thread u = s.thread u) ∧ s'.mem = s.mem ∧
          y.st = .run ∧ y.hasTask = true ∧ y.handle = handleWord x.gen n ∧ recordOf s x n k b7 ∧
          (∀ i, i < 8 → SMap.get 0 y.regs i = k.getD i 0) ∧ (∀ i, 8 ≤ i → i < 24 → SMap.get 0 y.regs i = 0) ∧
          y.staged = (s.thread t).staged ∧ (∀ i, i < 7 → SMap.get 0 y.banks i = 0) ∧ SMap.get 0 y.banks 7 = b7 ∧
          y.pc = BitVec.ofNat 16 (ext (s.reg (0x2401000 + 0x100 * x.slice.toNat + 0x48 + 0x10 * (t / 128))) 15 0 + x.handler.toNat))) ∧
  (∀ (s : State) (q : Fin 4) (n : Fin 4096),
    let x := s.slot q n
    ∃ s' c, exec (.deadlineClamp q n) s = .next s' ∧ copyTick s c ∧ otherSlots s s' q n ∧ s'.csr = s.csr ∧ s'.threads = s.threads ∧
      let behind := (BitVec.ofNat 28 c - x.dl).toNat
      s'.slot q n = if x.st ≠ .free ∧ x.st ≠ .running ∧ 2 ^ 26 ≤ behind ∧ behind < 2 ^ 27
        then { x with dl := BitVec.ofNat 28 c - BitVec.ofNat 28 (2 ^ 26) } else x)

namespace Sys2Proof.Spec

/-! ## DRAM -/

abbrev mmAt (k : Nat) (o : Nat) : Nat := 0x2000000 + 0x40000 * k + o
abbrev glAt (o : Nat) : Nat := 0x203F000 + o
def mmF (s : State) (k : Nat) (o hi lo : Nat) : Nat := ext (s.reg (mmAt k o)) hi lo
/-- The channel accepts requests: WIPING or READY. -/
def serves (s : State) (k : Nat) : Prop := mmF s k 4 2 0 = 2 ∨ mmF s k 4 2 0 = 3
/-- Channel and channel line of a line of an allocated extent (R328, R329, R331). -/
def siteIn (g pb o : Nat) : Nat × Nat :=
  if 4 ≤ g then ((o % 16) ^^^ (o / 2 ^ 8 % 16) ^^^ (o / 2 ^ 16 % 16), pb * 2 ^ 20 + o / 16)
  else (4 * g + ((o % 4) ^^^ (o / 2 ^ 8 % 4) ^^^ (o / 2 ^ 16 % 4)), pb * 2 ^ 20 + o / 4)
def siteOf (s : State) (l : Nat) : Option (Nat × Nat) :=
  let e := s.extent (l / 2 ^ 24)
  let o := l % 2 ^ 24
  if l / 2 ^ 24 < ext (s.reg 8) 12 0 ∧ e.valid = true then
    match e.moving with
    | some p => some (if o < p then siteIn e.toGroup.toNat e.toPbase.toNat o else siteIn e.group.toNat e.pbase.toNat o)
    | none => some (siteIn e.group.toNat e.pbase.toNat o)
  else none
/-- Ranks of a subchannel as a power of two, and the rank, row and bank of a channel line (R332). -/
def rankBits (s : State) (k : Nat) : Nat :=
  let n := mmF s k 8 1 0 * mmF s k 8 3 2
  if n = 4 then 2 else if n = 2 then 1 else 0
def rankIn (s : State) (k m : Nat) : Nat := m / 2 ^ 13 % 2 ^ rankBits s k
def rowIn (s : State) (k m : Nat) : Nat := m / 2 ^ (13 + rankBits s k) % 2 ^ (16 + mmF s k 8 4 4)
def bankIn (s : State) (k m : Nat) : Nat :=
  (m % 2 * 4 + rankIn s k m) * 32 + 4 * ((m / 2 % 8) ^^^ (rowIn s k m % 8)) + ((m / 2 ^ 11 % 4) ^^^ (rowIn s k m / 8 % 4))
/-- The MCLK copy of the tick counter: equal to it or one behind (R25). -/
def mclkTick (s : State) (c : Nat) : Prop := c = s.tick.toNat ∨ c + 1 = s.tick.toNat
/-- MCLK count at a tick (R326), and the percentages of TARGET of a curve (Table 13.5). -/
def mclkAt (s : State) (k t : Nat) : Nat := if mmF s k 8 5 5 = 1 then t * 13 / 4 else t * 4
def curveOf (c : Nat) : List Nat :=
  if c = 0 then [10, 25, 40, 55, 70, 85, 100]
  else if c = 1 then [25, 50, 75, 100, 150, 200, 300]
  else if c = 2 then [50, 100, 200, 400, 800, 1600, 3200]
  else [100, 200, 400, 800, 1600, 3200, 6400]
/-- Urgency of a request by age, deadline and reservation (R337, R338). -/
def urgencyOf (s : State) (k c : Nat) (r : DReq) : Nat :=
  let p := r.port.toNat
  let cfg := s.reg (mmAt k (0x20 + 4 * p))
  let age := mclkAt s k c - r.arr
  let target := ext cfg 11 0 * (if mmF s k 8 5 5 = 1 then 13 else 16)
  let byAge := ((curveOf (ext cfg 13 12)).filter fun x => decide (x * target ≤ age * 100)).length
  let slack (d : Pair) : Nat := (d.toNat + 2 ^ 28 - c % 2 ^ 28) % 2 ^ 28
  let lim (hi lo : Nat) : Nat := ext (s.reg (glAt 0)) hi lo
  let byDl := match r.dl with
    | some d => if 2 ≤ p then 0 else if 2 ^ 27 ≤ slack d ∨ slack d ≤ lim 23 16 then 7 else if slack d ≤ lim 15 8 then 6
      else if slack d ≤ lim 7 0 then 5 else 0
    | none => 0
  let share := if ext (s.reg 0xC) 4 4 = 1 then (if p = 1 then 70 else if p = 0 then ext cfg 20 14 else 0) else ext cfg 20 14
  let got := ((s.dchan k).bursts.filter fun b => decide (b = r.port)).length
  max (max byAge byDl) (if got * 100 < share * 256 then 6 else 0)
/-- Channel line m of a request at channel k: the one that it names, or where its line lies (R328, R329). -/
def lineAt (s : State) (k : Nat) (r : DReq) (m : Nat) : Prop := r.m = some m ∨ (r.m = none ∧ siteOf s r.line = some (k, m))
/-- The row of the request is open (R339). -/
def hits (s : State) (k : Nat) (r : DReq) : Prop :=
  ∃ m, lineAt s k r m ∧ (SMap.get {} (s.dchan k).shadow (bankIn s k m)).row = some (rowIn s k m)
/-- Request a goes before b: urgency, then a row hit below urgency 7, then arrival, then port (R339). -/
def goesBefore (s : State) (k c : Nat) (a b : DReq) : Prop :=
  let ua := urgencyOf s k c a
  let ub := urgencyOf s k c b
  let later := a.arr < b.arr ∨ (a.arr = b.arr ∧ a.port.toNat < b.port.toNat)
  ub < ua ∨ (ua = ub ∧ ((ua < 7 ∧ hits s k a ∧ ¬hits s k b) ∨ ((7 ≤ ua ∨ (hits s k a ↔ hits s k b)) ∧ later)))
/-- The pair of its line that a request concerns; none when it is the whole line. -/
def reqPair (r : DReq) : Option Nat := match r.op, r.reply with
  | .write w _ _, _ => some (w / 2)
  | .cas w _ _, _ => some (w / 2)
  | .read, .load _ w _ => some (w / 2)
  | _, _ => none
/-- Two requests to the same pair address; those of one master (R23), which for a coprocessor has a queue tag (Table 1.2). -/
def sameCell (a b : DReq) : Prop :=
  a.m = none ∧ b.m = none ∧ a.line = b.line ∧ (reqPair a = none ∨ reqPair b = none ∨ reqPair a = reqPair b)
def sameTarget (a b : DReq) : Prop := a.mkind = b.mkind ∧ a.mid = b.mid ∧ a.tag = b.tag ∧ sameCell a b
/-- Number of a requester at a site (R310): core, coprocessor set, DMA engine, Umbra or the ring append path. -/
def siteNumber (s : State) (r : DReq) : Option Nat := match r.reply with
  | .ring _ _ _ => some 150
  | _ => if r.mkind = 1 then some (r.mid / 8) else if r.mkind = 2 then some (128 + r.mid / 4)
    else if r.mkind = 3 then (s.qp r.mid).entry.map fun x => 136 + x.engine else if r.mkind = 5 then some 145 else none
/-- Request x came to the address of r in the same CCLK and goes before it: a wipe write, or the requester that the pointer, which advances
by one every CCLK, meets first (R310). -/
def siteBefore (s : State) (k : Nat) (x r : DReq) : Prop :=
  let cclk := if mmF s k 8 5 5 = 1 then (4 * r.arr + 12) / 13 * 4 else r.arr
  let far (n : Nat) : Nat := (n + 151 - (Config.pointerPhase 6000 + cclk) % 151) % 151
  x.arr = r.arr ∧ ((x.op = .wipe ∧ r.op ≠ .wipe ∧ ∀ m, (lineAt s k x m ↔ lineAt s k r m)) ∨
    (sameCell x r ∧ ∃ a b, siteNumber s x = some a ∧ siteNumber s r = some b ∧ far a < far b))
/-- A write of channel line m stands in the write queue (R339); a request that adds to it. -/
def queuedAt (s : State) (k m : Nat) : Prop := ∃ w ∈ (s.dchan k).wq, w.m = some m
def writesLine (r : DReq) : Bool := match r.op with
  | .read => false
  | .drain => false
  | .visit wr => wr
  | _ => true
/-- The request is one of the move of an extent; the line at a copy pointer is read and not yet written (R331). -/
def movesLine (r : DReq) : Bool := match r.reply with
  | .move _ => true
  | _ => false
def underCopy (s : State) (l : Nat) : Prop :=
  (s.extent (l / 2 ^ 24)).copying = true ∧ (s.extent (l / 2 ^ 24)).moving = some (l % 2 ^ 24)
/-- Subchannel sc may serve the request now: no owed refresh goes first (R343), no earlier request of its master to its pair waits (R23)
and none of the same CCLK goes before it (R310), its line is not under copy (R331), and what it writes has room in the write queue
(R339). -/
def mayServe (s : State) (k sc : Nat) (r : DReq) : Prop :=
  (r ∈ (s.dchan k).wq ∨ (r ∈ (s.dchan k).reqs ∧ (∀ a b, (s.dchan k).reqs = a ++ r :: b → r ∉ a → ∀ x ∈ a, ¬sameTarget x r) ∧
      ∀ x ∈ (s.dchan k).reqs, ¬siteBefore s k x r)) ∧
    ∀ m, lineAt s k r m → m % 2 = sc ∧ SMap.get false (s.dchan k).flush (4 * sc + rankIn s k m) = false ∧
      (movesLine r = true → ∀ d ∈ s.dchans, d.2.wiping = none) ∧ (movesLine r = false → r.m = none → ¬underCopy s r.line) ∧
      (writesLine r = true → queuedAt s k m ∨ (s.dchan k).wq.length < 64)
/-- The owner test of a line, and the cause in which the tag check of a WORD access ends (R334, Table 13.3), or 0. -/
def ownsLine (s : State) (slice l : Nat) (wr : Bool) : Bool :=
  let grant := s.reg (glAt ((if wr then 0x10 else 4) + 4 * (slice / 28)))
  decide (slice = 0 ∨ (s.line l).slice.toNat = slice ∨ ((s.line l).slice.toNat = 63 ∧ bitOf grant (slice % 28) = true))
def tagFault (s : State) (slice l : Nat) (wr : Bool) : Nat :=
  let x := s.line l
  if ownsLine s slice l wr then (if x.kind = 0 ∨ x.kind = 1 then 0 else if wr = false ∧ x.kind = 3 then 8 else 7) else 7
def lineWordAt (d : BitVec 504) (i : Nat) : Nat := d.toNat / 2 ^ (14 * i) % 2 ^ 14
def linePairAt (d : BitVec 504) (i : Nat) : Nat := d.toNat / 2 ^ (14 * i) % 2 ^ 28
/-- The load, store, CAS or queue entry behind a request gets the answer; no other thread or entry changes. -/
def answers (s s' : State) (r : DReq) (a : Answer) : Prop :=
  let await (t : Fin 1024) : Prop := s'.qps = s.qps ∧ (∀ u, u ≠ t.val → s'.thread u = s.thread u) ∧
    s'.thread t = { s.thread t with await := (s.thread t).await.map fun w => { w with ans := some a } }
  match r.reply with
  | .store t id => s'.qps = s.qps ∧ (∀ u, u ≠ t.val → s'.thread u = s.thread u) ∧ s'.thread t = { s.thread t with
      stores := (s.thread t).stores.map fun p => if p.id = id then { p with ans := some a } else p }
  | .load t _ _ => await t
  | .cas t => await t
  | .entry q => s'.threads = s.threads ∧
      let n := 8 * q.fn.val + q.qp.val
      (∀ i, i ≠ n → s'.qp i = s.qp i) ∧ s'.qp n = { s.qp n with entry := (s.qp n).entry.map fun x => match a with
        | .cas o ok => { x with started := true, status := some 0, res0 := o, res1 := if ok then 1 else 0 }
        | .value _ => { x with started := true, status := some 0 }
        | .fault c => { x with started := true, status := some (BitVec.ofNat 6 (c.toNat - 2)) } }
  | _ => s'.threads = s.threads ∧ s'.qps = s.qps
def otherLines (s s' : State) (l : Nat) : Prop := ∀ j, j ≠ l → s'.line j = s.line j
/-- Line n of run `run` of ring g has been written or not: WR counts the lines that have none before them on its way; a line that failed
stops the ring in ERROR (R291, R292). -/
def ringGets (s s' : State) (g run n : Nat) (ok : Bool) : Prop :=
  let d := (n + 2 ^ 27 - rgF s g 0xC 26 0) % 2 ^ 27
  let sent := (s.ring g).sent
  if (s.ring g).run ≠ run ∨ sent.length ≤ d then s'.ring g = s.ring g ∧ rgF s' g 0xC 26 0 = rgF s g 0xC 26 0
  else if ok = false then rgState s' g = 6 ∧ (s'.ring g).sent = []
  else ∃ k, k ≤ sent.length ∧ (∀ j, j < k → j = d ∨ sent.getD j false = true) ∧
    (k < sent.length → k ≠ d ∧ sent.getD k false = false) ∧ (s'.ring g).sent = (sent.set d true).drop k ∧
    rgF s' g 0xC 26 0 = (rgF s g 0xC 26 0 + k) % 2 ^ 27
/-- Request r is served at channel k: none that may be served goes before it. -/
def isServed (s : State) (k sc c : Nat) (r : DReq) : Prop :=
  mayServe s k sc r ∧ ∀ x, mayServe s k sc x → ¬goesBefore s k c x r
/-- A request that reads or writes for a thread, a queue entry or a ring. -/
def isAccess (r : DReq) : Prop := r.m = none ∧ match r.op, r.reply with
  | .read, .load _ _ _ => True
  | .write _ _ _, .store _ _ => True
  | .cas _ _ _, .cas _ => True
  | .cas _ _ _, .entry _ => True
  | .words _, .ring g _ _ => g < 256
  | _, _ => False

end Sys2Proof.Spec

/-- R23, R291, R310, R328, R329, R333 to R340, R343, R356, Tables 13.3, 13.4, 13.5: the request of highest urgency is served, a write from
the queue among them; a line's tag decides an access, that of a ring's line too; an uncorrectable error poisons the line; what is written
stands in the write queue. What waits while a line is copied or a channel wipes, and the CCLK that a request's arrival tells, are
readings (log 9, log 18). -/
def Obligations.DramRequestsAreServedByUrgency : Prop :=
  ∀ (s : State) (k : Fin 16) (sc : Bool) (ecc : Ecc),
    let sb := if sc then 1 else 0
    (¬serves s k ∨ (∀ r, ¬mayServe s k sb r) → ∃ n, exec (.dramAccess k sc ecc) s = .next { s with free := n }) ∧
    (serves s k → (∃ r, mayServe s k sb r) → ∃ s' r c, exec (.dramAccess k sc ecc) s = .next s' ∧ mclkTick s c ∧ isServed s k sb c r ∧
      ((s.dchan k).wq.length ≤ 64 → (s'.dchan k).wq.length ≤ 64) ∧
      (isAccess r → s'.mem = s.mem ∧ otherLines s s' r.line ∧
        (∃ l, (s'.dchan k).reqs = (s.dchan k).reqs.erase r ++ l ∧ ∀ w ∈ l, w.op = .drain) ∧
        ((∀ m, ¬lineAt s k r m) → answers s s' r (.fault 6) ∧ s'.line r.line = s.line r.line) ∧
        (∀ m, lineAt s k r m →
          let x := s.line r.line
          let rd := tagFault s r.slice.toNat r.line false
          let wr := tagFault s r.slice.toNat r.line true
          let fails (f : Nat) : Prop := answers s s' r (.fault (BitVec.ofNat 6 f)) ∧ s'.line r.line = x ∧ counts s s' (mmAt k 0x90) 1
          let held := ∃ w ∈ (s.dchan k).wq.erase r, w.m = some m
          let bad := ecc = .ue ∧ ¬held
          (bad → counts s s' (mmAt k 0x8C) 1) ∧ (held ∨ ecc = .ok → s'.reg (mmAt k 0x88) = s.reg (mmAt k 0x88)) ∧
          (¬held → ∀ d, ecc = .ce d → counts s s' (mmAt k 0x88) 1) ∧
          (bad → counts s s' (mmAt k 0x90) 1 ∧ (s'.line r.line).kind = 3 ∧
            (s'.line r.line).slice = (s.extent (r.line / 2 ^ 24)).owner ∧ (∀ g run n, r.reply = .ring g run n → ringGets s s' g run n false) ∧
            ((∀ d, r.op ≠ .words d) → answers s s' r (.fault (match r.op with
              | .write _ _ _ => 7
              | _ => 8)))) ∧
          (¬bad →
            (r.op = .read → (rd ≠ 0 → fails rd) ∧ (rd = 0 → s'.line r.line = x ∧ ∀ t w pair, r.reply = .load t w pair →
              answers s s' r (.value (BitVec.ofNat 28 (if pair then linePairAt x.data w else lineWordAt x.data w))))) ∧
            (∀ w pair v, r.op = .write w pair v → w < 36 → (pair = true → w < 35) → (wr ≠ 0 → fails wr) ∧
              (wr = 0 → answers s s' r (.value 0) ∧ ((s.dchan k).wq.length < 64 → queuedAt s' k m) ∧
                (s'.line r.line).kind = 1 ∧ (s'.line r.line).slice = x.slice ∧
                ∀ i, i < 36 → lineWordAt (s'.line r.line).data i =
                  if i = w then v.toNat % 2 ^ 14 else if pair ∧ i = w + 1 then v.toNat / 2 ^ 14 else lineWordAt x.data i)) ∧
            (∀ w cmp new, r.op = .cas w cmp new → w < 35 →
              (rd ≠ 0 → fails rd) ∧ (rd = 0 → wr ≠ 0 → fails wr) ∧
              (rd = 0 → wr = 0 →
                answers s s' r (.cas (BitVec.ofNat 28 (linePairAt x.data w)) (decide (linePairAt x.data w = cmp.toNat))) ∧
                (linePairAt x.data w ≠ cmp.toNat → s'.line r.line = x) ∧
                (linePairAt x.data w = cmp.toNat → (s'.line r.line).kind = 1 ∧ linePairAt (s'.line r.line).data w = new.toNat ∧
                  ∀ i, i < 36 → i ≠ w → i ≠ w + 1 → lineWordAt (s'.line r.line).data i = lineWordAt x.data i))) ∧
            (∀ d g run n, r.op = .words d → r.reply = .ring g run n →
              (wr = 0 → s'.line r.line = { x with kind := 1, data := d } ∧ ringGets s s' g run n true) ∧
              (wr ≠ 0 → s'.line r.line = x ∧ counts s s' (mmAt k 0x90) 1 ∧ ringGets s s' g run n false))))))

namespace Sys2Proof.Spec

/-- Request r is the one that subchannel sc of channel k may serve. -/
def onlyServable (s : State) (k sc : Nat) (r : DReq) : Prop := serves s k ∧ mayServe s k sc r ∧ ∀ x, mayServe s k sc x → x = r
/-- A request for channel line m of channel j waits among l at a port. -/
def asked (l : List DReq) (m port line : Nat) (op : LineOp) (reply : Reply) : Prop :=
  ∃ q ∈ l, q.m = some m ∧ q.line = line ∧ q.op = op ∧ q.port.toNat = port ∧ q.reply = reply
/-- The extents with storage lie below DRAM_TOP, and each stands once in the map. -/
def extentsMapped (s : State) : Prop :=
  0 < ext (s.reg 8) 12 0 ∧ SMap.rises s.exts = true ∧ ∀ x ∈ s.exts, x.2.valid = true → x.1 < ext (s.reg 8) 12 0

end Sys2Proof.Spec

/-- R331, R336, R339, R350, R358, Table 13.4: the write queue drains line by line; an operation on several lines visits each at its
channel, and writes nothing yet; an extent is copied a line at a time through the write queue, each access going to the side of the copy
pointer where its line lies; a wipe writes the lines of a channel in order and shows its progress. That an operation writes its lines once
all are visited, and a line that finds the write queue full, are the model's (log 9). -/
def Obligations.LinesAreDrainedVisitedCopiedAndWiped : Prop :=
  ∀ (s : State) (k : Fin 16) (sc : Bool) (ecc : Ecc) (r : DReq) (m : Nat), onlyServable s k (if sc then 1 else 0) r → lineAt s k r m →
    ∃ s' : State, exec (.dramAccess k sc ecc) s = .next s' ∧
      let calm := s'.threads = s.threads ∧ s'.mem = s.mem ∧ s'.qps = s.qps
      (r.op = .drain → r.reply = .none → calm ∧ s'.lines = s.lines ∧ (s'.dchan k).wq = (s.dchan k).wq.erase r ∧
        (s'.dchan k).reqs = (s.dchan k).reqs.erase r ∧ (s'.dchan k).bursts.head? = some r.port) ∧
      (∀ wr h, r.op = .visit wr → r.reply = .op h → r.m = none → calm ∧
        let held := ∃ w ∈ (s.dchan k).wq.erase r, w.m = some m
        (∃ a u, (s'.dchan k).visits = (s.dchan k).visits ++ [{ h := h, line := r.line, acted := a, ue := u }] ∧
          (u = true ↔ ecc = .ue ∧ ¬held) ∧ (a = none ↔ held)) ∧
        otherLines s s' r.line ∧ (ecc ≠ .ue → s'.line r.line = s.line r.line) ∧ (ecc = .ok → (s'.dchan k).wq = (s.dchan k).wq.erase r)) ∧
      (∀ x p, r.op = .read → r.reply = .move x → r.m ≠ none → (s.extent x).moving = some p → r.line = x * 2 ^ 24 + p →
        let e := s.extent x
        let to' := siteIn e.toGroup.toNat e.toPbase.toNat p
        calm ∧ s'.extent x = { e with copying := true } ∧
        asked ((s'.dchan to'.1).wq ++ (s'.dchan to'.1).reqs) to'.2 5 r.line .drain (.move x) ∧
        ((s.dchan to'.1).wq.length < 64 → asked (s'.dchan to'.1).wq to'.2 5 r.line .drain (.move x))) ∧
      (∀ x p, r.op = .drain → r.reply = .move x → (s.extent x).moving = some p →
        let e := s.extent x
        let from' := siteIn e.group.toNat e.pbase.toNat (p + 1)
        s'.lines = s.lines ∧ s'.extent x = { e with moving := some (p + 1), copying := false } ∧ (∀ j, j ≠ x → s'.extent j = s.extent j) ∧
        (p + 1 < 2 ^ 24 → asked (s'.dchan from'.1).reqs from'.2 5 (x * 2 ^ 24 + p + 1) .read (.move x)) ∧
        (extentsMapped s → e.valid = true → x < ext (s.reg 8) 12 0 →
          ∀ (j : Fin 16) (q : DReq), q ∈ (s'.dchan j).reqs → q.m = none → q.line / 2 ^ 24 = x → ∃ n, siteOf s' q.line = some (j.val, n))) ∧
      (∀ w, r.op = .wipe → (s.dchan k).wiping = some w → m = w.next → w.next + 1 < w.stop → calm ∧
        (s'.dchan k).wiping = some { w with next := w.next + 1 } ∧
        (s.wipe ≠ none → SMap.rises s.dchans = true → (∀ j, j ≠ k.val → (s.dchan j).wiping = none) → w.first ≤ w.next →
          ext (s'.reg (glAt 0x24)) 9 3 = 100 * (w.next + 1 - w.first) / (w.stop - w.first)) ∧ (∃ q ∈ (s'.dchan k).reqs, q.m = some (w.next + 1) ∧ q.op = .wipe) ∧
        (extentsMapped s → (∀ l, siteOf s l ≠ some (k.val, w.next) → s'.line l = s.line l) ∧
          ∀ l, siteOf s l = some (k.val, w.next) → (∀ j, siteOf s j = some (k.val, w.next) → j = l) →
            s'.line l = { slice := w.slice } ∧ queuedAt s' k w.next))

namespace Sys2Proof.Spec

/-- OWED of a rank (Table 13.10), and an RT request that waits for it at urgency HOLD or above (R342). -/
def owedOf (s : State) (k sc rk : Nat) : Nat := mmF s k 0x18 (3 * (4 * sc + rk) + 2) (3 * (4 * sc + rk))
def rtHolds (s : State) (k sc rk c : Nat) : Prop :=
  ∃ r ∈ (s.dchan k).reqs ++ (s.dchan k).wq, r.port.toNat < 2 ∧ mmF s k 0x14 2 0 ≤ urgencyOf s k c r ∧
    ∃ m, lineAt s k r m ∧ m % 2 = sc ∧ rankIn s k m = rk
def tableOf (s : State) (k b : Nat) : Shadow := SMap.get {} (s.dchan k).shadow b
/-- One REF goes to the rank: its banks are precharged, and it is counted towards the clearing of the tables (R342, R348). -/
def refIssued (s s' : State) (k sc rk : Nat) : Prop :=
  SMap.get 0 (s'.dchan k).refs (4 * sc + rk) = SMap.get 0 (s.dchan k).refs (4 * sc + rk) + 1 ∧
    ∀ b, b < 32 → (tableOf s' k ((sc * 4 + rk) * 32 + b)).row = none
/-- Some rank issues its owed refreshes before anything else (R343). -/
def refreshFirst (s : State) : Prop := ∃ d ∈ s.dchans, ∃ x ∈ d.2.flush, x.2 = true
def noRef (s s' : State) (k : Nat) : Prop := (s'.dchan k).refs = (s.dchan k).refs ∧ (s'.dchan k).shadow = (s.dchan k).shadow

end Sys2Proof.Spec

/-- R331, R341 to R343, R346 to R348, R354, R357, R453, Tables 13.7, 13.10: refreshes fall due, are postponed, split and caught up;
temperature of each module, with its HOT record and its owed refreshes first; sweeps and clears; drift; the patrol scrub; the end of an
extent move, which copies what is left (log 9). -/
def Obligations.RefreshScrubAndMovesProceed : Prop :=
  (∀ (s : State) (k : Fin 16) (sc : Bool) (rk : Fin 4),
    let sb := if sc then 1 else 0
    let owed := owedOf s k sb rk
    let i := 4 * sb + rk.val
    let there := serves s k ∧ rk.val < 2 ^ rankBits s k
    (¬there → exec (.refreshDue k sc rk) s = .next s) ∧
    (there → ∃ s' c, exec (.refreshDue k sc rk) s = .next s' ∧ mclkTick s c ∧ s'.threads = s.threads ∧ s'.lines = s.lines ∧
      (¬rtHolds s k sb rk c → refIssued s s' k sb rk ∧ owedOf s' k sb rk = owed) ∧
      (rtHolds s k sb rk c → owed < 4 → noRef s s' k ∧ owedOf s' k sb rk = owed + 1 ∧ counts s s' (mmAt k 0x94) 1) ∧
      (rtHolds s k sb rk c → 4 ≤ owed → refIssued s s' k sb rk ∧ owedOf s' k sb rk = owed ∧ counts s s' (mmAt k 0x98) 1)) ∧
    (∃ s' c, exec (.owedRefresh k sc rk) s = .next s' ∧ mclkTick s c ∧ s'.threads = s.threads ∧ s'.lines = s.lines ∧
      let go := serves s k ∧ 0 < owed ∧ (SMap.get false (s.dchan k).flush i = true ∨ ¬rtHolds s k sb rk c)
      (¬go → s' = { s with free := s'.free }) ∧
      (go → refIssued s s' k sb rk ∧ owedOf s' k sb rk = owed - 1 ∧ (owed = 1 → SMap.get false (s'.dchan k).flush i = false))) ∧
    (SMap.get 0 (s.dchan k).refs i < 8192 → exec (.shadowClear k sc rk) s = .next s) ∧
    (8192 ≤ SMap.get 0 (s.dchan k).refs i → ∃ s' : State, exec (.shadowClear k sc rk) s = .next s' ∧ s'.csr = s.csr ∧ s'.lines = s.lines ∧
      SMap.get 0 (s'.dchan k).refs i = SMap.get 0 (s.dchan k).refs i - 8192 ∧
      ∀ b, b < 32 → let t := tableOf s' k ((sb * 4 + rk.val) * 32 + b)
        t.spill = 0 ∧ (∀ e ∈ t.rows, e.2.2 = 0) ∧ t.census = (tableOf s k ((sb * 4 + rk.val) * 32 + b)).census) ∧
    (∀ b : Fin 32, let n := (sb * 4 + rk.val) * 32 + b.val
      ((tableOf s k n).sweeping = false → exec (.sweepEnd k sc rk b) s = .next s) ∧
      ((tableOf s k n).sweeping = true → ∃ s' : State, exec (.sweepEnd k sc rk b) s = .next s' ∧ s' = { s with dchans := s'.dchans } ∧
        tableOf s' k n = { tableOf s k n with sweeping := false, rows := [], spill := 0 } ∧ ∀ j, j ≠ n → tableOf s' k j = tableOf s k j)) ∧
    (∀ osc : Int, ∃ s' : State, exec (.writeTimingCheck k rk osc) s = .next s' ∧ s' = { s with dchans := s'.dchans } ∧
      (there → 2 ≤ osc.natAbs → SMap.get 0 (s'.dchan k).drift rk = osc) ∧ (¬there ∨ osc.natAbs < 2 → s' = s))) ∧
  (∀ (s : State) (k : Fin 16) (t0 t1 : BitVec 8),
    let n := mmF s k 8 1 0
    let r := mmAt k 0x1C
    let double (s' : State) (i t : Nat) : Prop := ext (s'.reg r) (16 + i) (16 + i) =
      (if 85 < t then 1 else if t ≤ 83 then 0 else ext (s.reg r) (16 + i) (16 + i))
    let hot (s' : State) (i t : Nat) : Prop := ext (s'.reg r) (18 + i) (18 + i) = if 95 < t then 1 else ext (s.reg r) (18 + i) (18 + i)
    ∃ s' : State, exec (.tempReading k t0 t1) s = .next s' ∧ s'.threads = s.threads ∧ s'.lines = s.lines ∧
      (n = 0 → s' = s) ∧
      (1 ≤ n → ext (s'.reg r) 7 0 = t0.toNat ∧ double s' 0 t0.toNat ∧ hot s' 0 t0.toNat) ∧
      (n = 1 → ext (s'.reg r) 15 8 = ext (s.reg r) 15 8) ∧
      (2 ≤ n → ext (s'.reg r) 15 8 = t1.toNat ∧ double s' 1 t1.toNat ∧ hot s' 1 t1.toNat) ∧
      (1 ≤ n → 95 < t0.toNat → n = 1 ∨ t1.toNat ≤ 95 → ∃ v : Nat, v % 2 ^ 8 = t0.toNat ∧ v / 2 ^ 18 % 2 = 1 ∧ logged s s' 9 4 2 k v) ∧
      (2 ≤ n → t0.toNat ≤ 95 → 95 < t1.toNat → logged s s' 9 4 2 k (s'.reg r).toNat) ∧
      (2 ≤ n → 95 < t0.toNat → 95 < t1.toNat → ext (s.reg 0x3400004) 9 9 = 0 → ext (s.reg 0x3400008) 8 0 = ext (s.reg 0x340000C) 8 0 →
        let w := ext (s.reg 0x3400008) 8 0
        ext (s'.reg 0x3400008) 8 0 = (w + 2) % 512 ∧ ∀ j, j < 2 → let e := s'.reg (0x3401000 + 0x20 * ((w + j) % 256))
          ext e 7 0 = k ∧ ext e 11 8 = 9 ∧ ext e 17 12 = 4 ∧ ext e 26 25 = 2) ∧
      (∀ i t, (i = 0 ∧ t = t0.toNat) ∨ (i = 1 ∧ t = t1.toNat) → i < n → 85 < t → ∀ sc rk : Nat, sc < 2 → rk < mmF s k 8 3 2 →
        let x := rk + i * mmF s k 8 3 2
        x < 4 → 0 < owedOf s k sc x → SMap.get false (s'.dchan k).flush (4 * sc + x) = true)) ∧
  (∀ (s : State) (k : Fin 16) (ecc : Ecc),
    let m := (s.dchan k).scrub
    let lines := 2 ^ (13 + rankBits s k + 16 + mmF s k 8 4 4)
    let step := mmF s k 0x60 7 0 * 3600 * (if mmF s k 8 5 5 = 1 then 1300000000 else 1600000000) / lines
    (mmF s k 0x60 7 0 = 0 ∨ ¬serves s k ∨ mclkAt s k s.tick.toNat < (s.dchan k).scrubAt ∨
      SMap.get false (s.dchan k).flush (4 * (m % 2) + rankIn s k m) = true → ∃ n, exec (.scrub k ecc) s = .next { s with free := n }) ∧
    (mmF s k 0x60 7 0 ≠ 0 → serves s k → (∀ c, mclkTick s c → (s.dchan k).scrubAt ≤ mclkAt s k c) → (s.dchan k).reqs = [] →
      (s.dchan k).wq = [] → SMap.get false (s.dchan k).flush (4 * (m % 2) + rankIn s k m) = false → extentsMapped s →
      ∃ s' : State, exec (.scrub k ecc) s = .next s' ∧ (s'.dchan k).scrub = (if m + 1 < lines then m + 1 else 0) ∧
      (s'.dchan k).scrubAt = max ((s.dchan k).scrubAt + step) (mclkAt s k s.tick.toNat) ∧ s'.threads = s.threads ∧
      (∀ l, siteOf s l ≠ some (k.val, m) → s'.line l = s.line l) ∧
      (ecc = .ok → ∀ l, s'.line l = s.line l) ∧
      (∀ d, ecc = .ce d → (∀ l, s'.line l = s.line l) ∧ counts s s' (mmAt k 0x88) 1) ∧
      (ecc = .ue → counts s s' (mmAt k 0x8C) 1 ∧ ∀ l, siteOf s l = some (k.val, m) → (∀ j, siteOf s j = some (k.val, m) → j = l) →
        (s'.line l).kind = 3 ∧ (s'.line l).slice = (s.extent (l / 2 ^ 24)).owner))) ∧
  (∀ (s : State) (x : Fin 4096),
    let e := s.extent x
    let wipes := (∃ d ∈ s.dchans, d.2.wiping ≠ none) ∨ refreshFirst s ∨ 3 ≤ s.fatal
    (e.moving = none ∨ wipes → exec (.extentMoveEnd x) s = .next s) ∧
    (e.moving ≠ none → ¬wipes → ∃ s' : State, exec (.extentMoveEnd x) s = .next s' ∧ s'.lines = s.lines ∧ s'.mem = s.mem ∧
      (s'.extent x).valid = e.valid ∧ (s'.extent x).owner = e.owner ∧ (s'.extent x).group = e.toGroup ∧ (s'.extent x).pbase = e.toPbase ∧
      ((s'.extent x).moving = none ∨ (s'.extent x).moving = some 0) ∧
      ((s'.extent x).moving = none → ∀ (k : Fin 16) (q : DReq), q ∈ (s'.dchan k).reqs → q.reply ≠ .move x.val) ∧
      ∀ j, j ≠ x.val → (s'.extent j).valid = (s.extent j).valid ∧ (s'.extent j).owner = (s.extent j).owner ∧
        (s'.extent j).group = (s.extent j).group ∧ (s'.extent j).pbase = (s.extent j).pbase))

namespace Sys2Proof.Spec

/-- Training of channel k has failed with a cause, at a step, lane, rank and subchannel (R353). -/
def trainFailed (s s' : State) (k cause step lane rank sc : Nat) : Prop :=
  mmF s' k 4 2 0 = 4 ∧ mmF s' k 0x10 3 0 = step ∧ mmF s' k 0x10 5 4 = 3 ∧ mmF s' k 0x10 8 6 = cause ∧ mmF s' k 0x10 13 9 = lane ∧
    mmF s' k 0x10 15 14 = rank ∧ mmF s' k 0x10 16 16 = sc ∧ ext (s'.reg 8) 12 0 = 0 ∧
    (s'.dchan k).trained = false ∧ logged s s' 9 6 2 k (s'.reg (mmAt k 0x10)).toNat
/-- The modules are of Table 13.1 and R326, and DIMM as they give it. -/
def modulesOk (d : Spd) : Prop :=
  d.supported = true ∧ d.fastEnough = true ∧ (d.dpc = 1 ∨ d.dpc = 2) ∧ (d.ranks = 1 ∨ d.ranks = 2)
def dimmOf (d : Spd) : Nat :=
  d.dpc.toNat + 4 * d.ranks.toNat + (if d.die then 16 else 0) + (if d.dpc = 2 then 32 else 0) + (if d.rfmReq then 64 else 0) +
    (if d.drfm then 128 else 0)
/-- Lines of channel k (R332). -/
def linesOf (s : State) (k : Nat) : Nat := 2 ^ (13 + rankBits s k + (16 + mmF s k 8 4 4))
/-- No channel wipes for a training; line l is one that the wipe w of its channel has still to reach. -/
def noTraining (s : State) : Prop := ∀ d ∈ s.dchans, ∀ w, d.2.wiping = some w → w.train = false
def toWipe (s : State) (l : Nat) (w : Wiping) : Prop :=
  ∃ (k : Fin 16) (m : Nat), siteOf s l = some (k.val, m) ∧ (s.dchan k).wiping = some w ∧ w.next ≤ m ∧ m < w.stop
/-- Delays a to a + n - 1 pass, below `top`; the longest such run, the first on a tie; its lower midpoint (R353). -/
def isRun (f : Nat → Bool) (top a n : Nat) : Prop := a + n ≤ top ∧ ∀ i, a ≤ i → i < a + n → f i = true
def longest (f : Nat → Bool) (top a n : Nat) : Prop :=
  isRun f top a n ∧ ∀ b m, isRun f top b m → m < n ∨ (m = n ∧ a ≤ b)
def middle (a n : Nat) : Nat := a + (n - 1) / 2
/-- Centre of a sweep over Vref values from 0 on (R353): d* at v*, which lies in the middle of the Vref values whose run is at least three
quarters of the widest. -/
def centreOf (points : List (BitVec 128)) (e : Eye) : Prop :=
  ∃ runs : List (Nat × Nat), runs.length = points.length ∧
    (∀ v, v < points.length → longest (fun i => bitOf (points.getD v 0) i) 128 (runs.getD v (0, 0)).1 (runs.getD v (0, 0)).2) ∧
    (∀ r ∈ runs, r.2 ≤ e.width) ∧ (e.width = 0 ∨ ∃ r ∈ runs, r.2 = e.width) ∧
    (∃ a n, longest (fun v => decide (3 * e.width ≤ 4 * (runs.getD v (0, 0)).2)) points.length a n ∧ e.vref = middle a n) ∧
    e.delay = middle (runs.getD e.vref (0, 0)).1 (runs.getD e.vref (0, 0)).2
/-- What one result of a step is worth: a sweep's centre; for the leveling of step 5 the first 0-to-1 transition (Table 13.7). -/
def pointFinds (p : TrainPoint) (e : Eye) : Prop :=
  let level (i : Nat) : Prop := 0 < i ∧ i < 128 ∧ bitOf (p.points.headD 0) i = true ∧ bitOf (p.points.headD 0) (i - 1) = false
  if p.step.toNat = 5 then
    ((∀ i, ¬level i) → e = {}) ∧ ∀ i, level i → (∀ j, level j → i ≤ j) → e = { vref := 0, delay := i, width := 1 }
  else centreOf (p.points.take (if p.step.toNat = 3 ∨ p.step.toNat = 6 then 1 else 64)) e
/-- The result is one of channel k's: steps 3 to 8, a rank that it has, and a lane; CS and CA have one. -/
def isPoint (s : State) (k : Nat) (p : TrainPoint) : Prop :=
  3 ≤ p.step.toNat ∧ p.step.toNat ≤ 8 ∧ p.rank.toNat < 2 ^ rankBits s k ∧ p.lane.toNat < if p.step.toNat ≤ 4 then 1 else 10
/-- Every step has its result for each subchannel, rank and lane. -/
def everyLane (s : State) (k : Nat) (m : SMap Eye) : Prop :=
  ∀ st sc rk l, 3 ≤ st → st ≤ 8 → sc < 2 → rk < 2 ^ rankBits s k → (l < if st ≤ 4 then 1 else 10) →
    SMap.find? m (eyeKey st sc rk l) ≠ none
/-- WORST_EYE is the smallest width of the sweeps. -/
def worstIs (m : SMap Eye) (w : Nat) : Prop :=
  let sweeps (x : Nat × Eye) : Prop := x.1 / 128 ≠ 5 ∧ x.1 / 128 ≠ 6
  (∀ x ∈ m, sweeps x → min x.2.width 127 ≥ w) ∧ (w = 127 ∨ ∃ x ∈ m, sweeps x ∧ x.2.width = w)
/-- The ports that CONFIG lists are UP or in FAIL, or its link wait has passed (Table 17.4, step 10). -/
def linksSettled (s : State) : Prop := (∀ p ∈ s.boot.links, ext (s.reg (0x400004 + p / 8 * 0x100000 + p % 8 * 0x10000)) 3 0 ∈ [6, 8]) ∨ s.boot.linkUntil ≤ s.uclk
/-- Entries of a table split into those kept, highest COUNT first and lowest index among equals, and the others (R349). -/
def splitInto (rows kept dropped : List (Nat × Nat × Nat)) : Prop :=
  rows.Perm (kept ++ dropped) ∧ kept.length = min 16 rows.length ∧
    ∀ a ∈ kept, ∀ b ∈ dropped, b.2.2 < a.2.2 ∨ (b.2.2 = a.2.2 ∧ a.1 ≤ b.1)
/-- Channel k is READY and has passed; with the last channel DRAM has its size, and GEN.MODE becomes READY where no link is awaited. -/
def trainedNow (s s' : State) (k : Fin 16) : Prop :=
  mmF s' k 4 2 0 = 3 ∧ mmF s' k 0x10 5 4 = 2 ∧ mmF s' k 0x10 3 0 = 10 ∧ (s'.dchan k).trained = true ∧
    ((∀ j : Fin 16, j ≠ k → (s.dchan j).trained = true) →
      ext (s'.reg 8) 12 0 = 2 ^ (rankBits s 0 + 16 + mmF s 0 8 4 4 - 7) % 2 ^ 13 ∧
      (linksSettled s → ext (s'.reg 0xC) 2 0 = if ext (s.reg 0xC) 2 0 = 1 then 2 else ext (s.reg 0xC) 2 0) ∧
      (¬linksSettled s → ext (s'.reg 0xC) 2 0 = ext (s.reg 0xC) 2 0))
/-- Nothing but registers changes. -/
def onlyRegs (s s' : State) : Prop := s' = { s with csr := s'.csr }

end Sys2Proof.Spec

/-- R326, R327, R343, R349, R351 to R353, R355, R358, R453, Tables 13.7, 13.9, 13.10, 17.4: census runs and windows; a channel trains on
what its sweeps find, passes or fails; a wipe starts, is refused, or ends with the lines that were left zero under their new tag. That the
end does at once what has not been served, the SPD of an implied training and CONFIG's ports and link wait as free values are the
model's (log 9, log 14, log 16). -/
def Obligations.CensusTrainingAndWipesTakeEffect : Prop :=
  (∀ (s : State) (k : Fin 16), let st := mmF s k 0x48 4 3
    (writesReg s (mmAt k 0x48) →
      (st = 1 → ∃ s' : State, exec (.censusStart k) s = .next s' ∧ onlyRegs s s' ∧ mmF s' k 4 4 4 = 1 ∧
        ∀ o, o ≠ mmAt k 4 → s'.reg o = s.reg o) ∧
      (st ≠ 1 → ∃ s' : State, exec (.censusStart k) s = .next s' ∧ mmF s' k 0x48 4 3 = 1 ∧ s'.lines = s.lines ∧ s'.threads = s.threads ∧
        (s'.dchan k).censusAt = s.tick.toNat ∧ ∀ b, let t := tableOf s k b; let t' := tableOf s' k b
          t'.census = [] ∧ t'.row = t.row ∧ ∃ kept dropped, splitInto t.rows kept dropped ∧
            t'.rows = kept.zipIdx.map (fun x => (x.2, x.1.2)) ∧ t.spill ≤ t'.spill ∧ (∀ e ∈ dropped, e.2.2 ≤ t'.spill) ∧
            (t'.spill = t.spill ∨ ∃ e ∈ dropped, e.2.2 = t'.spill)) ∧
      (st = 1 → ∃ s' : State, exec (.censusStop k) s = .next s' ∧ onlyRegs s s' ∧ mmF s' k 0x48 4 3 = 2 ∧
        ∀ o, o ≠ mmAt k 0x48 → s'.reg o = s.reg o) ∧
      (st ≠ 1 → exec (.censusStop k) s = .next s) ∧
      (st = 2 → ∃ s' : State, exec (.censusClear k) s = .next s' ∧ mmF s' k 0x48 4 3 = 0 ∧ (∀ b, (tableOf s' k b).census = []) ∧
        (SMap.rises (s.dchan k).shadow = true → ∀ b, (tableOf s' k b).rows = (tableOf s k b).rows)) ∧
      (st ≠ 2 → exec (.censusClear k) s = .next s)) ∧
    (let w := mmF s k 0x44 22 7
     (w = 0 ∨ s.tick.toNat < (s.dchan k).censusAt + 400 * w ∨ st ≠ 1 → exec (.censusWindowEnd k) s = .next s) ∧
     (w ≠ 0 → (s.dchan k).censusAt + 400 * w ≤ s.tick.toNat → st = 1 → ∃ s' : State, exec (.censusWindowEnd k) s = .next s' ∧
       onlyRegs s s' ∧ mmF s' k 0x48 4 3 = 2))) ∧
  (∀ (s : State) (k : Fin 16) (v : Pair) (d : Spd), writesReg s (mmAt k 0xC) →
    let unlike (j : Nat) (a : Nat) : Prop := mmF s j 8 1 0 ≠ 0 ∧ a % 4 ≠ 0 ∧ mmF s j 8 5 0 ≠ a % 64
    let others (j : Fin 16) : Prop := j ≠ 0 ∧ unlike j (dimmOf d) ∧ 1 ≤ mmF s j 4 2 0 ∧ mmF s j 4 2 0 ≤ 3
    let bad := ¬modulesOk d ∨ (k.val ≠ 0 ∧ unlike 0 (dimmOf d))
    ∃ s' : State, exec (.trainStart k v d) s = .next s' ∧ mmF s' k 0xC 8 1 = ext v 8 1 ∧ s'.lines = s.lines ∧
      (bitOf v 0 = false → onlyRegs s s' ∧ ∀ o, o ≠ mmAt k 0xC → s'.reg o = s.reg o) ∧
      (bitOf v 0 = true → ext (s.reg 0xC) 2 0 = 3 → onlyRegs s s' ∧ mmF s' k 4 4 4 = 1 ∧ mmF s' k 4 2 0 = mmF s k 4 2 0) ∧
      (bitOf v 0 = true → ext (s.reg 0xC) 2 0 ≠ 3 → (s'.reg (mmAt k 8)).toNat = dimmOf d ∧ mmF s' k 4 3 3 = 0 ∧
        (s'.dchan k).eyes = [] ∧ (s'.dchan k).trained = false ∧ (s'.dchan k).wiping = none ∧
        (¬bad → mmF s' k 4 2 0 = 1 ∧ mmF s' k 0x10 5 4 = 1 ∧ mmF s' k 0x10 3 0 = 2) ∧
        (bad → mmF s' k 4 2 0 = 4 ∧ ((k.val ≠ 0 ∨ ∀ j, ¬others j) → trainFailed s s' k 1 2 0 0 0)) ∧
        (k.val = 0 → ∀ j, others j → mmF s' j 4 2 0 = 4 ∧ mmF s' j 0x10 8 6 = 1 ∧ mmF s' j 0x10 3 0 = 2 ∧
          (s'.dchan j).trained = false))) ∧
  (∀ (s : State) (k : Fin 16) (o : List TrainPoint),
    (mmF s k 4 2 0 ≠ 1 → exec (.trainEnd k o) s = .next s) ∧
    (∀ p ps s1, o = p :: ps → mmF s k 4 2 0 = 1 → exec (.trainEnd k [p]) s = .next s1 →
      (mmF s1 k 4 2 0 = 1 → exec (.trainEnd k o) s = exec (.trainEnd k ps) s1) ∧
      (mmF s1 k 4 2 0 = 4 → exec (.trainEnd k o) s = .next s1)) ∧
    (∀ p, o = [p] → mmF s k 4 2 0 = 1 → isPoint s k p → ∃ s' e, exec (.trainEnd k o) s = .next s' ∧ s'.threads = s.threads ∧
      pointFinds p e ∧ (s'.dchan k).eyes = SMap.put (eyeKey p.step.toNat (if p.sc then 1 else 0) p.rank.toNat p.lane.toNat) e
        (s.dchan k).eyes ∧
      let st := p.step.toNat
      let low := if st = 5 ∨ st = 6 then e.width = 0 else e.width < mmF s k 0xC 8 2
      let cause := if st = 3 then 2 else if st = 4 then 3 else if st = 5 then 4 else if st = 6 then 5 else 6
      let all := everyLane s k (s'.dchan k).eyes
      (low → trainFailed s s' k cause st (p.lane.toNat + if p.sc then 10 else 0) p.rank.toNat (if p.sc then 1 else 0)) ∧
      (¬low → ¬all → onlyRegs s { s' with dchans := s.dchans } ∧ mmF s' k 4 2 0 = 1 ∧ mmF s' k 0x10 3 0 = st) ∧
      (¬low → all → worstIs (s'.dchan k).eyes (mmF s' k 0x10 23 17)) ∧
      (¬low → all → mmF s k 0xC 1 1 = 1 → s.boot.otp.wipeOwed = false → s'.lines = s.lines ∧ mmF s' k 4 3 3 = 1 ∧ trainedNow s s' k) ∧
      (¬low → all → mmF s k 0xC 1 1 = 0 ∨ s.boot.otp.wipeOwed = true → s'.lines = s.lines ∧ mmF s' k 4 2 0 = 2 ∧
        mmF s' k 0x10 3 0 = 9 ∧ (s'.dchan k).wiping = some { next := 0, stop := linesOf s k, slice := 0, train := true }))) ∧
  (∀ (s : State) (v : Pair), writesReg s (glAt 0x20) →
    let busy := ext (s.reg (glAt 0x24)) 0 0 = 1
    let go := bitOf v 20 = true
    let x := ext v 13 2
    let code (s' : State) (n : Nat) : Prop := onlyRegs s s' ∧ ext (s'.reg (glAt 0x24)) 2 0 = n
    (ext v 1 0 ≠ 1 → exec (.wipeAll v) s = .next s) ∧ (ext v 1 0 ≠ 2 → exec (.wipeExtent v) s = .next s) ∧
    (ext v 1 0 = 0 ∨ ext v 1 0 = 3 → ∀ ev, ∃ s' : State, exec (.csrWrite .host .bar0 (BitVec.ofNat 26 (glAt 0x20)) (v.setWidth 32) ev) s = .next s' ∧
      (busy → onlyRegs s s' ∧ mmF s' 0 4 4 4 = 1 ∧ s'.reg (glAt 0x24) = s.reg (glAt 0x24)) ∧
      (¬busy → ¬go → onlyRegs s s' ∧ s'.reg (glAt 0x24) = s.reg (glAt 0x24)) ∧ (¬busy → go → code s' 4)) ∧
    ∀ c, (c = Instr.wipeAll v ∧ ext v 1 0 = 1) ∨ (c = Instr.wipeExtent v ∧ ext v 1 0 = 2) → ∃ s' : State, exec c s = .next s' ∧
      s'.lines = s.lines ∧ s'.exts = s.exts ∧
      (busy → onlyRegs s s' ∧ mmF s' 0 4 4 4 = 1 ∧ s'.reg (glAt 0x24) = s.reg (glAt 0x24)) ∧
      (¬busy → ¬go → onlyRegs s s' ∧ s'.reg (glAt 0x24) = s.reg (glAt 0x24)) ∧
      (¬busy → go → ext v 27 21 ≠ 0 → code s' 4) ∧
      (¬busy → go → ext v 27 21 = 0 → ext v 1 0 = 1 → if ext (s.reg 0xC) 2 0 = 3 then code s' 2
        else s'.wipe = some .all ∧ s'.reg (glAt 0x24) = 1 ∧ ∀ k : Fin 16, ∃ t, (s'.dchan k).wiping =
          some { next := 0, stop := linesOf s k, slice := 0, train := t } ∧ (t = true ↔ ∃ w, (s.dchan k).wiping = some w ∧ w.train = true)) ∧
      (¬busy → go → ext v 27 21 = 0 → ext v 1 0 = 2 → if ext (s.reg 8) 12 0 ≤ x then code s' 4
        else s'.wipe = some (.extent x (BitVec.ofNat 6 (ext v 19 14))) ∧ s'.reg (glAt 0x24) = 1)) ∧
  (∀ s : State,
    let left := toWipe s
    let may := ¬refreshFirst s ∧ s.fatal < 3
    (¬may ∨ (s.wipe = none ∧ s.slcCmd = none ∧ ∀ k : Fin 16, (s.dchan k).wiping = none) → exec .wipeEnd s = .next s) ∧
    (may → s.wipe = some .all → extentsMapped s → SMap.rises s.lines = true → noTraining s → ∃ s' : State, exec .wipeEnd s = .next s' ∧ s'.wipe = none ∧
      s'.reg (glAt 0x24) = 800 ∧ (∀ l w, left l w → w.slice = 0 → s'.line l = {}) ∧
      (∀ x, x < ext (s.reg 8) 12 0 → (s.extent x).valid = true → (s'.extent x).tagOf = 0)) ∧
    (∀ x o, may → s.wipe = some (.extent x o) → extentsMapped s → SMap.rises s.lines = true → noTraining s → (s.extent x).moving = none →
      ∃ s' : State, exec .wipeEnd s = .next s' ∧ s'.wipe = none ∧ s'.reg (glAt 0x24) = 800 ∧ (s'.extent x).tagOf = o ∧
      (∀ l w, l / 2 ^ 24 = x → left l w → w.slice = o → s'.line l = { slice := o }) ∧
      ∀ l, l / 2 ^ 24 ≠ x → (∀ w, ¬left l w) → s'.line l = s.line l) ∧
    (∀ (k : Fin 16) (w : Wiping), may → s.wipe = none → s.slcCmd = none → (s.dchan k).wiping = some w → w.train = true →
      (∀ j : Fin 16, j ≠ k → (s.dchan j).wiping = none) → ∃ s' : State, exec .wipeEnd s = .next s' ∧ trainedNow s s' k ∧
        (s'.dchan k).wiping = none ∧
        (extentsMapped s → SMap.rises s.lines = true → ∀ l, left l w → s'.line l = { slice := w.slice } ∨ s'.exts ≠ s.exts)))

namespace Sys2Proof.Spec

/-! ## Slices -/

abbrev slcAt (o : Nat) : Nat := 0x2400000 + o
abbrev slAt (i o : Nat) : Nat := 0x2401000 + 0x100 * i + o
/-- SHARE of slice i in cluster c; IMEM and IBASE follow at +4 and +8 (R394). -/
abbrev shAt (i c : Nat) : Nat := slAt i (0x40 + 0x10 * c)
/-- STATE of slice i (Table 14.2). -/
def stOf (s : State) (i : Nat) : Nat := (s.slice i).state.toNat
/-- The command has ended with a code and DETAIL; or it goes on. -/
def slcEnds (s' : State) (code d : Nat) : Prop :=
  ext (s'.reg (slcAt 4)) 3 0 = code ∧ ext (s'.reg (slcAt 4)) 4 4 = 0 ∧ ext (s'.reg (slcAt 4)) 18 6 = d ∧ s'.slcCmd = none
def slcRuns (s' : State) (op i : Nat) (f : SlcCmd → Prop) : Prop :=
  ext (s'.reg (slcAt 4)) 4 4 = 1 ∧ ∃ k, s'.slcCmd = some k ∧ k.op.toNat = op ∧ k.slice.toNat = i ∧ k.loaded = false ∧ f k
/-- Nothing changes but registers, the command's own record and the interrupt lines. -/
def onlyStatus (s s' : State) : Prop := s' = { s with csr := s'.csr, pba := s'.pba, out := s'.out, slcCmd := s'.slcCmd }
/-- The command that a row of Table 14.4 writes. -/
def isSlc (c : Instr) (op : Nat) (v : Pair) : Prop :=
  (c = .create v ∧ op = 1) ∨ (c = .destroy v ∧ op = 2) ∨ (c = .grantExt v ∧ op = 3) ∨ (c = .returnExt v ∧ op = 4) ∨
    (c = .arm v ∧ op = 5) ∨ (c = .disarm v ∧ op = 6) ∨ (c = .thaw v ∧ op = 7) ∨ (c = .save v ∧ op = 8) ∨
    (c = .restore v ∧ op = 9) ∨ (c = .reset v ∧ op = 10)
/-- Bits of CMD that the operation uses, and the states it starts from (Tables 14.4, 14.10). -/
def slcUses (op b : Nat) : Bool :=
  decide (b < 10) || (decide (op = 1) && decide (b = 24)) || ((decide (op = 3) || decide (op = 4)) && decide (12 ≤ b ∧ b < 24)) ||
    ((decide (op = 7) || decide (op = 9)) && decide (b = 10 ∨ b = 11))
def slcAccepts (op st : Nat) (saved : Bool) : Bool :=
  if op = 1 then decide (st = 0)
  else if op = 2 then decide (st = 1 ∨ st = 2 ∨ st = 4 ∨ st = 5)
  else if op = 3 then decide (st = 1 ∨ st = 5)
  else if op = 4 ∨ op = 5 then decide (st = 1)
  else if op = 6 then decide (st = 2)
  else if op = 7 then decide (st = 4) && !saved
  else if op = 8 then decide (st = 4)
  else if op = 9 then decide (st = 5)
  else decide (1 ≤ st ∧ st ≤ 4)
/-- The check of Table 14.5 that the command fails first, or 0: RSVD, RANGE of SLICE, STATE, RANGE of EXTENT (R367). -/
def slcCheck (s : State) (op : Nat) (v : Pair) : Nat :=
  let i := ext v 9 4
  let own := decide (i = 0 ∨ i = 63)
  let ranged := decide (op = 3 ∨ op = 4)
  if (List.range 28).any (fun b => bitOf v b && !slcUses op b) then 1
  else if own && !ranged then 3
  else if !(ranged && own) && !slcAccepts op (stOf s i) (s.slice i).saved then 2
  else if ranged && decide (ext (s.reg 8) 12 0 ≤ ext v 23 12) then 3
  else 0
/-- A write of CMD that reaches an engine that is not BUSY and passes the checks. -/
def slcGiven (s : State) (op : Nat) (v : Pair) : Prop :=
  ext v 3 0 = op ∧ writesReg s (slcAt 0) ∧ ext (s.reg (slcAt 4)) 4 4 = 0 ∧ slcCheck s op v = 0

/-- Thread t of a core of slice i. -/
def inSlice (s : State) (i t : Nat) : Prop := t < 1024 ∧ (s.core (t / 8)).slice = some (BitVec.ofNat 6 i)
/-- CORES of slice i in cluster c, the cores of its share that it holds there, and cores that a grant can take (R362, R373). -/
def coresOf (s : State) (i c : Nat) : Nat := ext (s.reg (shAt i c)) 4 0
def heldIn (s : State) (i c : Nat) : Nat :=
  ((List.range 16).filter fun k => decide ((s.core (16 * c + k)).slice = some (BitVec.ofNat 6 i)) && !(s.core (16 * c + k)).lent).length
def coreIdles (s : State) (n : Nat) : Bool := (List.range 8).all fun j => decide ((s.thread (8 * n + j)).st = .waitTask)
def grantable (s : State) (n : Nat) : Bool := ((s.core n).slice.isNone || (s.core n).lent) && coreIdles s n
/-- No thread holds a semaphore. -/
def threadsHoldNone (s : State) : Prop := ∀ n, (s.sem n).held = true → 1024 ≤ (s.sem n).owner.toNat
/-- Grants to slice i in cluster c: as many cores as it lacks and as can be taken; a core that passes has its scratch cleared (R194). -/
def grantsIn (s s' : State) (i c : Nat) : Prop :=
  heldIn s' i c = heldIn s i c + min (coresOf s' i c - heldIn s i c) ((List.range 16).filter fun k => grantable s (16 * c + k)).length ∧
    ∀ k, k < 16 → s'.core (16 * c + k) = s.core (16 * c + k) ∨ (grantable s (16 * c + k) = true ∧
      s'.core (16 * c + k) = { slice := some (BitVec.ofNat 6 i), lent := false } ∧
      ∀ a, a < 0x4000 → SMap.get 0 s'.mem (0x3FC00000000 + (16 * c + k) * 0x10000 + a) = 0)
/-- Two parts of a memory overlap. -/
def meets (a n b m : Nat) : Prop := 0 < n ∧ 0 < m ∧ a < b + m ∧ b < a + n
/-- The allotments of slice i fail R364 in cluster c. -/
def quotaBad (s : State) (i c : Nat) : Prop :=
  let f (j o hi lo : Nat) : Nat := ext (s.reg (shAt j c + o)) hi lo
  256 < f i 0 12 5 + f i 0 21 13 ∨ 256 < f i 4 7 0 + f i 4 16 8 ∨
    (∃ j, 1 ≤ j ∧ j ≤ 62 ∧ j ≠ i ∧ stOf s j ≠ 0 ∧ (meets (f i 0 12 5) (f i 0 21 13) (f j 0 12 5) (f j 0 21 13) ∨
      meets (f i 4 7 0) (f i 4 16 8) (f j 4 7 0) (f j 4 16 8))) ∨
    (0 < f i 4 16 8 ∧ (f i 8 15 0 < f i 4 7 0 * 256 + 32 ∨ (f i 4 7 0 + f i 4 16 8) * 256 ≤ f i 8 15 0)) ∨
    (0 < f i 0 4 0 ∧ f i 4 16 8 = 0)
/-- An epoch named by ARM, THAW or RESTORE is not in the future (R376, R381). -/
def tooLate (s : State) (f : Pair) : Prop :=
  let d := (f - BitVec.ofNat 28 s.epc.epoch.toNat).toNat
  runs s ∧ (d = 0 ∨ 2 ^ 27 ≤ d ∨ ((∃ g ∈ s.epc.gos, BitVec.ofNat 28 g.1.toNat = f) ∧
    ¬(roleOf s = 1 ∧ ∃ a ∈ s.epc.anns, BitVec.ofNat 28 a.2.1.toNat = f)))
/-- The thread runs a WAVE, PACKET or SLOW task, or is a child of one. -/
def packetWork (s : State) (t : Nat) : Prop := ∃ x, s.slotFor t = some x ∧ x.src.toNat < 3
/-- Nothing holds the thread before the end of its instruction (R266). -/
def stopsNow (x : Thread) : Prop := x.await = none ∧ x.gathered = false ∧ (x.st = .run → x.rep = none)
/-- Thread x halts for a freeze: at once, or when its instruction ends (R266, R377). -/
def freezes (x y : Thread) : Prop :=
  ((x.st = .run ∨ x.st = .blocked) → y.frz = true ∧ (stopsNow x → y.st = .halted ∧ y.prior = .run ∧
    y.priorBlk = (if x.st = .blocked then x.blk else .none) ∧ y.pc = x.pc) ∧ (¬stopsNow x → y.st = x.st ∧ y.blk = x.blk)) ∧
    (x.st = .halted → y.frz = x.frz ∧ y.st = .halted ∧ y.dbg = x.dbg) ∧ (x.st = .waitTask ∨ x.st = .faulted → y.st = x.st)
/-- The threads of slice i at its freeze point (R377, R379). -/
def freezePoint (s s' : State) (i : Nat) (start : Tick) : Prop :=
  (∀ t, ¬inSlice s i t → s'.thread t = s.thread t) ∧
    ∀ t, inSlice s i t → (packetWork s t → (s'.thread t).st = (s.thread t).st ∧ (s'.thread t).runsOn = true) ∧ (¬packetWork s t → freezes (s.thread t) (s'.thread t)) ∧
      ∀ e, (s.thread t).timer = some e → (s'.thread t).timer = none ∧
        (s'.thread t).timerLeft = some (if 2 ^ 27 ≤ (e - BitVec.ofNat 28 start.toNat).toNat then 0 else e - BitVec.ofNat 28 start.toNat)
/-- The wave's epoch lies behind freeze epoch f (Table 14.2). -/
def pastEpoch (f : Pair) (p : Pkt) : Prop :=
  p.cls = 0 ∧ let d := ((fword (p.flits.headD 0) 4).toNat + 2 ^ 14 * (fword (p.flits.headD 0) 5).toNat + 2 ^ 28 - f.toNat) % 2 ^ 28
    0 < d ∧ d < 2 ^ 27
/-- Slot n of quadrant q alone has packet k. -/
def onlySlot (s : State) (q n k : Nat) : Prop :=
  (∀ m, m < 4 → SMap.rises (s.dspQ m).slots = true) ∧
    ∀ m j, m < 4 → (s.slot m j).pkt = some k → (s.slot m j).st ≠ .free → m = q ∧ j = n
/-- Line l is a slice 0 word line (R387). -/
def wordLine (s : State) (l : Nat) : Prop := siteOf s l ≠ none ∧ (s.line l).slice = 0 ∧ (s.line l).kind = 1
/-- No line that operation h has visited met an uncorrectable error (R356). -/
def cleanVisits (s : State) (h : Holder) : Prop := ∀ d ∈ s.dchans, ∀ v ∈ d.2.visits, v.h = h → v.ue = false
/-- An owner word names a thread or a queue pair of slice i (R319). -/
def ownedBy (s : State) (o : Word) (i : Nat) : Bool :=
  (decide (ext o 13 12 = 0) && decide ((s.core (ext o 9 0 / 8)).slice = some (BitVec.ofNat 6 i))) ||
    (decide (ext o 13 12 = 1) && decide (ext o 8 3 = i))
/-- Queue pair number and a field of its page (R399). -/
abbrev qpn (q : Qp) : Nat := 8 * q.fn.val + q.qp.val
def qpF (s : State) (q : Qp) (o hi lo : Nat) : Nat := ext (s.pageReg q.fn (0x40 * q.qp.val + o)) hi lo
/-- Slots and cores that an image needs are there (R389 steps 1 and 2). -/
def slotsFree (s : State) (m : Image) : Prop := ∀ r ∈ m.slots, (s.slot (slotQ r) (slotN r)).st = .free
def coresThere (s : State) (i : Nat) (m : Image) : Prop :=
  ∀ c, c < 8 → (m.cores.filter fun r => decide (wAt r 0 % 8 = c)).length ≤ heldIn s i c
/-- RESTORE takes what is free (R389): cores once all the slots are free, then a context for each record whose unit has one; each is
marked with the thread that its record names. -/
def restoreTakes (s s' : State) (m : Image) (k : SlcCmd) : Prop :=
  (k.cores.isSome = true ↔ slotsFree s m ∧ coresThere s k.slice.toNat m) ∧ (k.cores = none → k.ctxs = []) ∧ (k.ctxs.map (·.2)).Nodup ∧
    ∀ cs, k.cores = some cs →
      (∀ x ∈ k.ctxs, ctxFree s x.2.1 x.2.2 ∧ ∃ r, m.ctxs[x.1]? = some r ∧ x.2.1 = ctxUnit cs r ∧
        (s'.ctx x.2.1 x.2.2).holder.map Fin.val = some (ctxThread cs r % 1024)) ∧
      ∀ j r, m.ctxs[j]? = some r → (∀ x ∈ k.ctxs, x.1 ≠ j) → ∀ n, ¬ctxFree s' (ctxUnit cs r) n
/-- Extent x gets the group that its owner's shares ask for (R330). -/
def groupFor (s : State) (i : Nat) : Nat :=
  if i = 0 ∨ i = 63 then 4
  else match (List.range 4).filter fun q => decide (0 < coresOf s i (2 * q)) || decide (0 < coresOf s i (2 * q + 1)) with
    | [q] => q
    | _ => 4
/-- Chunk c of the channels of quadrant q belongs to an extent of group g at PBASE b (R329). -/
def takesChunk (g b q c : Nat) : Prop := if 4 ≤ g then c = b else q = g ∧ b ≤ c ∧ c < b + 4
/-- Chunks of group g at PBASE b exist and no extent and no move uses them (R329, R331). -/
def placeFree (s : State) (g b : Nat) : Prop :=
  b < ext (s.reg 8) 12 0 ∧ (g < 4 → b % 4 = 0 ∧ b + 4 ≤ ext (s.reg 8) 12 0) ∧
    ∀ x ∈ s.exts, ∀ q, q < 4 → ∀ c, takesChunk g b q c →
      (x.2.valid = true → ¬takesChunk x.2.group.toNat x.2.pbase.toNat q c) ∧
      (x.2.moving.isSome = true → ¬takesChunk x.2.toGroup.toNat x.2.toPbase.toNat q c)

end Sys2Proof.Spec

/-- R360, R366 to R368, Tables 14.4, 14.5: a write of SLC.CMD is ignored while BUSY; else the first check that fails gives its code and the
command has no effect. -/
def Sys2Proof.Spec.SliceCommandsAreCheckedInOrder : Prop :=
  ∀ (s : State) (c : Instr) (op : Nat) (v : Pair), isSlc c op v → ext v 3 0 = op → writesReg s (slcAt 0) →
    (ext (s.reg (slcAt 4)) 4 4 = 1 → ∃ s' : State, exec c s = .next s' ∧ onlyRegs s s' ∧ ext (s'.reg (slcAt 4)) 5 5 = 1 ∧
      ext (s'.reg (slcAt 4)) 4 0 = ext (s.reg (slcAt 4)) 4 0 ∧ ∀ o, o ≠ slcAt 4 → s'.reg o = s.reg o) ∧
    (ext (s.reg (slcAt 4)) 4 4 = 0 → slcCheck s op v ≠ 0 → ∃ s' : State, exec c s = .next s' ∧ onlyStatus s s' ∧
      slcEnds s' (slcCheck s op v) 0 ∧ s'.reg (slcAt 0) = BitVec.ofNat 28 (ext v 24 0) ∧
      ∀ o, o ≠ slcAt 0 → o ≠ slcAt 4 → s'.reg o = s.reg o)

/-- R360, R362, R364, R367, R376 to R378, R381, R387 to R390, Table 14.4: what each command that passes its checks does. -/
def Sys2Proof.Spec.SliceCommandsTakeEffect : Prop :=
  ∀ (s : State) (v : Pair),
    let i := ext v 9 4
    let x := ext v 23 12
    let e := s.extent x
    let f := s.reg (slcAt 8)
    let slice (s' : State) : Slice := s'.slice i
    let refused (c : Instr) (code d : Nat) : Prop := ∃ s' : State, exec c s = .next s' ∧ onlyStatus s s' ∧ slcEnds s' code d
    let restoring (s' : State) : Prop := slice s' = { slice s with rpWaves := bitOf v 10, rpOther := bitOf v 11 } ∧
      (∀ j, j ≠ i → s'.slice j = s.slice j) ∧ s'.threads = s.threads ∧ s'.lines = s.lines ∧ s'.exts = s.exts ∧ s'.cores = s.cores
    let imageBad (code d : Nat) : Prop := ∃ s' : State, exec (.restore v) s = .next s' ∧ slcEnds s' code d ∧ restoring s' ∧ s'.dsp = s.dsp
    let sliceOnly (s' : State) : Prop := s' = { s with csr := s'.csr, pba := s'.pba, out := s'.out, slcCmd := s'.slcCmd, slices := s'.slices } ∧
      ∀ j, j ≠ i → s'.slice j = s.slice j
    (slcGiven s 1 v →
      (∀ c, c < 8 → quotaBad s i c → (∀ d, d < c → ¬quotaBad s i d) → refused (.create v) 4 c) ∧
      ((∀ c, c < 8 → ¬quotaBad s i c) → ∃ s' : State, exec (.create v) s = .next s' ∧ slcEnds s' 0 0 ∧
        stOf s' i = (if bitOf v 24 then 5 else 1) ∧ (∀ j, j ≠ i → s'.slice j = s.slice j) ∧ s'.threads = s.threads ∧
        (threadsHoldNone s → ∀ o, o ≠ slcAt 0 → o ≠ slcAt 4 → s'.reg o = s.reg o) ∧ ∀ c, c < 8 → grantsIn s s' i c)) ∧
    (slcGiven s 3 v →
      (e.valid = true → refused (.grantExt v) 5 x) ∧
      (e.valid = false → (∀ b, ¬placeFree s (groupFor s i) b) → refused (.grantExt v) 9 0) ∧
      (e.valid = false → s.slcCmd = none → (∃ b, placeFree s (groupFor s i) b) → ∃ s' : State, exec (.grantExt v) s = .next s' ∧
        s' = { s with csr := s'.csr, slcCmd := s'.slcCmd, free := s'.free, dchans := s'.dchans } ∧ slcRuns s' 3 i fun k => k.ext = x ∧
          ∃ b, placeFree s (groupFor s i) b ∧ k.place = some (BitVec.ofNat 3 (groupFor s i), BitVec.ofNat 12 b) ∧
            (b < 4096 → s.wipe = none → (∀ d ∈ s.dchans, d.2.wiping = none) → ∀ n : Fin 16, groupFor s i = 4 ∨ groupFor s i = n.val / 4 →
              (s'.dchan n).wiping = some { next := b * 2 ^ 20, stop := (b + if groupFor s i = 4 then 1 else 4) * 2 ^ 20,
                                           slice := BitVec.ofNat 6 i, train := false }))) ∧
    (slcGiven s 4 v →
      (¬(e.valid = true ∧ e.owner.toNat = i) → refused (.returnExt v) 5 x) ∧
      (e.valid = true → e.owner.toNat = i → ∃ s' : State, exec (.returnExt v) s = .next s' ∧ onlyStatus s { s' with dchans := s.dchans } ∧
        slcRuns s' 4 i fun k => k.ext = x)) ∧
    (slcGiven s 5 v →
      (tooLate s f → refused (.arm v) 6 0) ∧
      (¬tooLate s f → ∃ s' : State, exec (.arm v) s = .next s' ∧ slcEnds s' 0 0 ∧
        (slice s').imgBase = ext (s.reg (slcAt 0xC)) 27 0 + 2 ^ 28 * ext (s.reg (slcAt 0x10)) 7 0 ∧
        (slice s').imgLines = ext (s.reg (slcAt 0x14)) 27 0 ∧ (slice s').capLines = ext (s.reg (slcAt 0x18)) 27 0 ∧
        (slice s').saveable = false ∧
        (runs s → sliceOnly s' ∧ (slice s').state = 2 ∧ (slice s').freezeAt = some f ∧ (slice s').captured = []) ∧
        (¬runs s → (slice s').state = 3 ∧ (slice s').freezeEpoch = s.epc.epoch ∧ (slice s').freezeStart = s.tick ∧
          freezePoint s s' i s.tick ∧
          ∀ q n k p, q < 4 → (s.slot q n).slice.toNat = i → (s.slot q n).pkt = some k → s.pkt? k = some p → onlySlot s q n k →
            ((s.slot q n).st = .waiting ∨ (s.slot q n).st = .held ∨ (s.slot q n).st = .ready) →
            let past := pastEpoch (BitVec.ofNat 28 s.epc.epoch.toNat) p
            (past → p.link = .passed → (s'.slot q n).st = .free ∧ (s'.slot q n).last = 3) ∧
            (¬past ∨ p.link ≠ .passed → s'.slot q n = s.slot q n) ∧ (¬past → k ∈ (slice s').capQueue)))) ∧
    (slcGiven s 6 v → ∃ s' : State, exec (.disarm v) s = .next s' ∧ sliceOnly s' ∧ slcEnds s' 0 0 ∧
      slice s' = { slice s with state := 1, freezeAt := none }) ∧
    (slcGiven s 7 v →
      (tooLate s f → refused (.thaw v) 6 0) ∧
      (¬tooLate s f → ∃ s' : State, exec (.thaw v) s = .next s' ∧ sliceOnly s' ∧ slcRuns s' 7 i (fun _ => True) ∧
        slice s' = { slice s with rpWaves := bitOf v 10, rpOther := bitOf v 11, thawAt := some f, thawFirst := !decide (runs s) })) ∧
    (slcGiven s 8 v →
      ((slice s).saveable = false → refused (.save v) 11 0) ∧
      ((slice s).saveable = true → (slice s).capQueue = [] → cleanVisits s (.capture i) →
        let l := (slice s).imgBase + 3 + (slice s).capWords / 36
        let w := (slice s).capWords % 36
        let open' := (slice s).capWords < 36 * (slice s).capLines
        ∃ s' : State, exec (.save v) s = .next s' ∧ slcRuns s' 8 i (fun _ => True) ∧
        slice s' = { slice s with saved := true, capBad := (slice s').capBad } ∧
        ((slice s').capBad = true ↔ (slice s).capBad = true ∨ (open' ∧ ¬wordLine s l)) ∧
        s'.threads = s.threads ∧ (∀ a, a ≠ l → s'.line a = s.line a) ∧
        (open' → wordLine s l →
          lineWordAt (s'.line l).data w = 0 ∧ ∀ j, j < 36 → j ≠ w → lineWordAt (s'.line l).data j = lineWordAt (s.line l).data j) ∧
        (¬open' ∨ ¬wordLine s l → s'.line l = s.line l))) ∧
    (slcGiven s 9 v →
      let read := s.visited .image (s.imageReads s.imageBase s.imageLen) = true
      (¬read → ∃ s' : State, exec (.restore v) s = .next s' ∧ slcRuns s' 9 i (fun k => k.checked = false) ∧ restoring s' ∧ s'.dsp = s.dsp) ∧
      (∀ k, read → s.imageArea = .error k → imageBad 7 k) ∧
      (∀ m k, read → s.imageArea = .ok m → s.mismatch i m = some k → imageBad 8 k) ∧
      (∀ m, read → s.imageArea = .ok m → s.mismatch i m = none → ∃ s' : State, exec (.restore v) s = .next s' ∧
        slcRuns s' 9 i (fun k => k.checked = true ∧ restoreTakes s s' m k) ∧ restoring s' ∧
        ∀ r ∈ m.slots, (s'.slot (slotQ r) (slotN r)).claim = some (BitVec.ofNat 6 i))) ∧
    (∀ c op, (c = Instr.reset v ∧ op = 10) ∨ (c = Instr.destroy v ∧ op = 2) → slcGiven s op v →
      ∃ s' : State, exec c s = .next s' ∧ slcRuns s' op i (fun _ => True) ∧ (slice s').state = (if op = 10 then 6 else 7) ∧
        (slice s').captured = [] ∧ (slice s').capQueue = [] ∧ (slice s').freezeAt = none ∧ (slice s').saveable = false ∧
        (slice s').saved = false ∧
        counts s s' (slAt i 8) ((slice s).capQueue.filter fun k => (s.pkt? k).any fun p => decide (p.link = .passed)).length ∧
        (∀ j, j ≠ i → s'.slice j = s.slice j) ∧ s'.cores = s.cores ∧ s'.exts = s.exts ∧
        (∀ t, inSlice s i t → (s'.thread t).st = .waitTask) ∧
        (∀ q n, q < 4 → (s.slot q n).slice.toNat = i → ((s.slot q n).st = .waiting ∨ (s.slot q n).st = .held ∨ (s.slot q n).st = .ready) →
          (s'.slot q n).st = .free ∧ ((∀ k ∈ (slice s).capQueue, (s.slot q n).pkt ≠ some k) → (s'.slot q n).last = 2)) ∧
        (∀ o ∈ s'.eouts, o.2.slice.toNat = i → o.2.released = true ∨ o.2.expect = true) ∧
        (∀ c, c < 512 → ext (s.reg (0x1401000 + 4 * c)) 6 0 = i + 64 → (s'.chan c).msgs = [] ∧ (s'.chan c).rest = [] ∧ (s'.chan c).writers = []) ∧
        (SMap.rises s.sems = true → ∀ n, (s.sem n).held = true → ownedBy s (s.sem n).owner i = true → s'.sem n = broke (s.sem n)) ∧
        (∀ n, (s'.sem n).held = true → (s.sem n).held = true ∧ (s'.sem n).owner = (s.sem n).owner) ∧
        (∀ r, r < 256 → rgF s r 0 0 0 = 1 → rgF s r 0 8 3 = i →
          rgState s' r = 5 ∨ (1 ≤ rgState s r ∧ rgState s r ≤ 4 ∧ rgState s' r = 6)) ∧
        ∀ q : Qp, q.fn.val = i → qpF s q 0x20 1 0 = 1 → qpF s' q 0x20 1 0 ≠ 1 ∧ qpF s' q 0 0 0 = 0 ∧
          ∀ x, (s'.qp (qpn q)).entry = some x → x.started = true)

/-- (a) R360, R366 to R368, Tables 14.4, 14.5: a write of SLC.CMD is ignored while BUSY; else the first check that fails gives
its code and the command has no effect. (b) R360, R362, R364, R367, R376 to R378, R381, R387 to R390, Table 14.4: what each
command that passes its checks does; a RESET or DESTROY breaks the slice's semaphores and stops its rings and queue pairs. That a
semaphore that breaks has LEFT 0 (log 7), that an operation acts once its lines have been visited (log 9), and what an image leaves open
(log 14) are the model's. -/
def Obligations.SliceCommandsAreCheckedAndDone : Prop :=
  Sys2Proof.Spec.SliceCommandsAreCheckedInOrder ∧
  Sys2Proof.Spec.SliceCommandsTakeEffect

namespace Sys2Proof.Spec

/-- No DRAM request but a ring's line, coprocessor command or queue-pair entry of slice i is in progress (R377, R391). -/
def drained (s : State) (i : Nat) : Prop :=
  (∀ d ∈ s.dchans, ∀ r ∈ d.2.reqs, r.slice.toNat ≠ i ∨ ∃ g run n, r.reply = .ring g run n) ∧ (∀ u ∈ s.units, ∀ c ∈ u.2.cmds, ¬inSlice s i c.thread) ∧
    ∀ j, j < 8 → (s.qp (8 * i + j)).entry = none
/-- The thread ran on at the freeze point and has not executed TASK since (R377 step 1). -/
def stillRuns (s : State) (t : Nat) : Prop := (s.thread t).runsOn = true ∧ (s.thread t).st ≠ .waitTask
/-- Steps 1 to 4 of R377 are complete. -/
def frozenAll (s : State) (i : Nat) : Prop :=
  (∀ t, inSlice s i t → (s.thread t).st ≠ .run ∧ (s.thread t).st ≠ .blocked ∧ (s.thread t).stores = []) ∧ drained s i ∧
    (∀ q, q < 4 → ∀ x ∈ (s.dspQ q).slots, ¬(x.2.slice.toNat = i ∧ x.2.st = .held)) ∧ (s.slice i).capQueue = [] ∧
    ((s.slice i).limited = true ∨ ∀ t, inSlice s i t → ¬stillRuns s t)
/-- The four conditions of R391. -/
def resetAll (s : State) (i : Nat) : Prop :=
  (∀ t, inSlice s i t → (s.thread t).st = .waitTask) ∧ drained s i ∧ ∀ o ∈ s.eouts, o.2.slice.toNat = i → o.2.mirror = true
/-- What a destroyed slice held is released (Table 14.4); a core that does not idle stays until it does (R194). -/
def slcFreed (s s' : State) (i : Nat) : Prop :=
  stOf s' i = 0 ∧ (∀ n, n < 128 → (s'.core n).slice =
      if (s.core n).slice = some (BitVec.ofNat 6 i) ∧ coreIdles s n = true then none else (s.core n).slice) ∧
    (∀ c, c < 8 → s'.reg (shAt i c) = 0 ∧ s'.reg (shAt i c + 4) = 0 ∧ s'.reg (shAt i c + 8) = 0) ∧
    (∀ j, j < 4 → s'.reg (slAt i (0x10 + 4 * j)) = 0) ∧
    (∀ c, c < 512 → ext (s.reg (0x1401000 + 4 * c)) 6 0 = i + 64 → ext (s'.reg (0x1401000 + 4 * c)) 6 0 = 0) ∧
    (∀ r, r < 256 → rgF s r 0 0 0 = 1 → rgF s r 0 8 3 = i → rgF s' r 0 0 0 = 0) ∧
    (∀ p, p < 32 → bitOf (s'.reg (0x800000 + p / 8 * 0x100000 + 0x300 + 0x10 * (p % 8) + 4 + 4 * (i / 28))) (i % 28) = false) ∧
    (∀ g, g < 16 → hasRight s' g i = false) ∧ bitOf (s'.reg (glAt (4 + 4 * (i / 28)))) (i % 28) = false ∧
    bitOf (s'.reg (glAt (0x10 + 4 * (i / 28)))) (i % 28) = false
/-- Extent x has been wiped for an owner, or freed (R358, R367). -/
def extWiped (s s' : State) (x owner : Nat) : Prop :=
  (∀ l, l / 2 ^ 24 = x → s'.line l = { slice := BitVec.ofNat 6 owner }) ∧
    (∀ l, l / 2 ^ 24 ≠ x → (∀ w, ¬toWipe s l w) → s'.line l = s.line l) ∧ (∀ k : Fin 16, (s'.dchan k).wiping = none ∨ s'.slcCmd ≠ none) ∧
    ∀ y, y ≠ x → (s'.extent y).valid = (s.extent y).valid ∧ (s'.extent y).owner = (s.extent y).owner ∧
      (s'.extent y).group = (s.extent y).group ∧ (s'.extent y).pbase = (s.extent y).pbase
/-- First image line and number of lines of section k as SAVE writes it (Tables 14.6, 14.7); the header is 0. -/
def secLines (s : State) (i k : Nat) : Nat := if k = 0 then 3 else ((s.section' i k).length + 35) / 36
def secAt (s : State) (i k : Nat) : Nat :=
  if k = 0 then 0 else 3 + (s.slice i).capLines + (((List.range 12).filter fun j => decide (j ≠ 0 ∧ j ≠ 2 ∧ j < k)).map fun j => secLines s i j).sum
/-- A line of section k is not a slice 0 word line (R387). -/
def secBad (s : State) (i k : Nat) : Prop := ∃ j, j < secLines s i k ∧ ¬wordLine s ((s.slice i).imgBase + secAt s i k + j)
/-- The capture writes the RAW record of packet p (R378). -/
def recordPut (s s' : State) (i : Nat) (p : Pkt) : Prop :=
  let ws := s.rawOf i p
  let x := s.slice i
  let at' (j : Nat) : Nat := x.imgBase + 3 + (x.capWords + j) / 36
  (s'.slice i).capWords = x.capWords + ws.length ∧ (∃ c, (s'.slice i).captured = x.captured ++ [c] ∧ c.port = p.port ∧ c.cls = p.cls ∧
      c.slice.toNat = i ∧ c.flits = p.flits ∧ c.octets = p.octets) ∧
    ((s'.slice i).capBad = true ↔ x.capBad = true ∨ ∃ j, j < ws.length ∧ ¬wordLine s (at' j)) ∧
    (∀ j, j < ws.length → wordLine s (at' j) → lineWordAt (s'.line (at' j)).data ((x.capWords + j) % 36) = (ws.getD j 0).toNat) ∧
    ∀ l, (∀ j, j < ws.length → l ≠ at' j) → s'.line l = s.line l
/-- The slice lacks cores of its share in cluster c (R373). -/
def needsCores (s : State) (i c : Nat) : Prop := stOf s i ≠ 0 ∧ heldIn s i c < coresOf s i c
/-- A spare core of cluster c may be lent to slice j for its READY task with deadline d (R373). -/
def mayLend (s : State) (c j : Nat) (d : Pair) : Prop :=
  j < 64 ∧ ext (s.reg (slAt j 4)) 0 0 = 1 ∧ stOf s j ≠ 0 ∧ 0 < coresOf s j c ∧ s.waiters (c / 2) j = [] ∧ s.readyDl j (c / 2) = some d

end Sys2Proof.Spec

/-- R374, R376 to R381, R384, R387 to R389: an armed slice freezes, and a frozen one thaws, at the start of its epoch; FROZEN when
all has drained; packets are captured in their order; FREEZE_LIMIT; the Afterimage is written, and is one that RESTORE reads; RESTORE
checks it, takes what it needs as it becomes free, loads it, or gives up. That the end of SAVE or of a load does at once what has not been
served (log 9), and what an image leaves open (log 14), are the model's. -/
def Obligations.SlicesFreezeThawSaveAndRestore : Prop :=
  (∀ (s : State) (n : Epoch) (t : Tick) (rest : List (Epoch × Tick)), s.epc.gos = (n, t) :: rest → going s → t.toNat ≤ s.tick.toNat →
    (roleOf s = 3 → ext (s.reg (0x101008 + 0x20 * ext (s.reg 0x100040) 6 2)) 27 27 = 1) →
    (∀ q, q < 4 → SMap.rises (s.dspQ q).slots = true) → ∃ s' : State, exec .epochStart s = .next s' ∧ s'.epc.epoch = n ∧
      (∀ i, i < 64 → (s'.slice i).pick = s.pickQuad i) ∧
      (∀ i, i < 64 → stOf s i = 2 → (s.slice i).freezeAt = some (BitVec.ofNat 28 n.toNat) → stOf s' i = 3 ∧
        (s'.slice i).freezeStart = t ∧ (s'.slice i).freezeEpoch = n ∧ ∀ u, inSlice s i u →
          (packetWork s u → (s'.thread u).st = (s.thread u).st ∧ (s'.thread u).runsOn = true) ∧
          (¬packetWork s u → freezes (s.thread u) (s'.thread u))) ∧
      ∀ i, i < 64 → (s.slice i).capQueue = [] → (stOf s i = 4 ∨ (stOf s i = 5 ∧ ∃ c, s.slcCmd = some c ∧ c.loaded = true)) →
        ((s.slice i).thawAt = some (BitVec.ofNat 28 n.toNat) ∨ (s.slice i).thawFirst = true) →
        stOf s' i = 1 ∧ slcEnds s' 0 0 ∧ (s'.slice i).captured = [] ∧ (s'.slice i).saveable = false ∧
          (∀ u, inSlice s i u → let x := s.thread u
            (x.st = .halted → x.frz = true → (s'.thread u).st = if x.dbg then .halted else x.prior) ∧ (x.frz = true → (s'.thread u).frz = false) ∧ (s'.thread u).runsOn = false ∧
            ∀ left, x.timerLeft = some left → (s'.thread u).timer = some (BitVec.ofNat 28 t.toNat + left) ∧ (s'.thread u).timerLeft = none) ∧
          ∀ q j, q < 4 → (s.slot q j).slice.toNat = i → ((s.slot q j).st = .waiting ∨ (s.slot q j).st = .ready ∨ (s.slot q j).st = .running) →
            s'.slot q j = { s.slot q j with dl := BitVec.ofNat 28 t.toNat + ((s.slot q j).dl - BitVec.ofNat 28 (s.slice i).freezeStart.toNat) }) ∧
  (∀ (s : State) (i : Fin 64),
    ((s.slice i).capQueue = [] ∨ refreshFirst s → ¬(stOf s i = 3 ∧ frozenAll s i) → exec (.freezeComplete i) s = .next s) ∧
    (∀ k rest p, (s.slice i).capQueue = k :: rest → s.pkt? k = some p → p.gone = false → p.link ≠ .passed → exec (.freezeComplete i) s = .next s) ∧
    (∀ k p, (s.slice i).capQueue = [k] → s.pkt? k = some p → p.gone = false → p.link = .passed → ¬refreshFirst s → s.slotOfPkt k = none →
      stOf s i = 3 ∨ (stOf s i = 4 ∧ (s.slice i).saved = false) → cleanVisits s (.capture i) →
      ∃ s' : State, exec (.freezeComplete i) s = .next s' ∧ (s'.slice i).capQueue = [] ∧ (∀ p', s'.pkt? k = some p' → p'.ended = true) ∧
        (if (s.slice i).capWords + (s.rawOf i p).length ≤ 36 * (s.slice i).capLines then recordPut s s' i p
         else counts s s' (slAt i 8) 1 ∧ (s'.slice i).capLost = true ∧ s'.lines = s.lines)) ∧
    (stOf s i = 3 → frozenAll s i → ∃ s' : State, exec (.freezeComplete i) s = .next s' ∧
      s' = { s with csr := s'.csr, page := s'.page, pba := s'.pba, out := s'.out, slices := s'.slices } ∧
      s'.slice i = { s.slice i with state := 4, saveable := !(s.slice i).limited } ∧ (∀ j, j ≠ i.val → s'.slice j = s.slice j) ∧
      s'.reg (slAt i 0xC) = BitVec.ofNat 28 (s.imageNeed i) ∧ bitOf (s'.reg (slcAt (0x40 + 4 * (i.val / 28)))) (i.val % 28) = true ∧
      bitOf (s'.pageReg i 0x2004) 0 = true) ∧
    (let past := stOf s i = 3 ∧ (s.slice i).limited = false ∧ (s.slice i).freezeStart.toNat + 400 * ext (s.reg (slcAt 0x1C)) 9 0 ≤ s.tick.toNat ∧
        ∃ t, inSlice s i t ∧ stillRuns s t
     (¬past → exec (.freezeLimit i) s = .next s) ∧
     (past → ∃ s' : State, exec (.freezeLimit i) s = .next s' ∧ s'.slice i = { s.slice i with limited := true } ∧ s'.cores = s.cores ∧
       (∀ j, j ≠ i.val → s'.slice j = s.slice j) ∧ (∀ t, inSlice s i t → freezes (s.thread t) (s'.thread t)) ∧
       ∀ t, ¬inSlice s i t → s'.thread t = s.thread t))) ∧
  (∀ (s : State) (k : SlcCmd), s.slcCmd = some k →
    let i := k.slice.toNat
    let x := s.slice i
    let f := s.reg (slcAt 8)
    let moving := ∃ e ∈ s.exts, e.2.valid = true ∧ e.2.owner.toNat = i ∧ (s.extent e.1).moving.isSome = true
    let stuck := moving ∨ refreshFirst s ∨ 3 ≤ s.fatal
    let lines := 3 + x.capLines + s.imageNeed i
    let saves := k.op.toNat = 8 ∧ ¬stuck
    let kept (s' : State) : Prop := s'.slices = s.slices ∧ s'.threads = s.threads ∧ s'.exts = s.exts ∧
      ∀ l, l < x.imgBase ∨ x.imgBase + lines ≤ l ∨ (x.imgBase + 3 ≤ l ∧ l < x.imgBase + 3 + x.capLines) → s'.line l = s.line l
    let body (n : Nat) : Prop := n < 12 ∧ n ≠ 0 ∧ n ≠ 2
    (k.op.toNat ≠ 8 ∨ stuck → exec .saveComplete s = .next s) ∧
    (saves → x.imgLines < lines → ∃ s' : State, exec .saveComplete s = .next s' ∧ onlyStatus s { s' with dchans := s.dchans } ∧ slcEnds s' 9 0) ∧
    (saves → lines ≤ x.imgLines → x.capBad = true → ∃ s' : State, exec .saveComplete s = .next s' ∧
      onlyStatus s { s' with dchans := s.dchans } ∧ slcEnds s' 7 2) ∧
    (saves → lines ≤ x.imgLines → x.capBad = false → cleanVisits s .image →
      (∀ n, body n → secBad s i n → (∀ j, body j → j < n → ¬secBad s i j) → ∃ s' : State, exec .saveComplete s = .next s' ∧ slcEnds s' 7 n ∧ kept s' ∧
        ∀ j, j < 3 → s'.line (x.imgBase + j) = s.line (x.imgBase + j)) ∧
      ((∀ n, body n → ¬secBad s i n) → secBad s i 0 → ∃ s' : State, exec .saveComplete s = .next s' ∧ slcEnds s' 7 0 ∧ kept s') ∧
      ((∀ n, body n → ¬secBad s i n) → ¬secBad s i 0 → ∃ s' : State, exec .saveComplete s = .next s' ∧ slcEnds s' 0 0 ∧ kept s' ∧
        (∀ n j, body n → j < (s.section' i n).length →
          lineWordAt (s'.line (x.imgBase + secAt s i n + j / 36)).data (j % 36) = ((s.section' i n).getD j 0).toNat) ∧
        (let w (j : Nat) : Nat := lineWordAt (s'.line (x.imgBase + j / 36)).data (j % 36)
         w 0 = 0x0A17 ∧ w 1 = 0x1E6E ∧ w 2 = 1 ∧ w 3 = i + (if x.saveable then 64 else 0) + (if x.capLost then 128 else 0) ∧ w 18 = 12 ∧
           w 4 + 2 ^ 14 * w 5 + 2 ^ 28 * w 6 + 2 ^ 42 * w 7 = x.freezeEpoch.toNat ∧
           (x.imgLines < 2 ^ 28 → w 16 + 2 ^ 14 * w 17 = lines ∧ ∀ n, body n →
             w (19 + 7 * n) + 2 ^ 14 * w (20 + 7 * n) = secAt s i n ∧ w (21 + 7 * n) + 2 ^ 14 * w (22 + 7 * n) = secLines s i n)) ∧
        (x.imgLines < 2 ^ 28 → (∀ j, j < x.capLines → wordLine s (x.imgBase + 3 + j)) → ∃ m, s'.readImage x.imgBase x.imgLines = .ok m ∧
          ∀ n, body n → (m.sec n).take (s.section' i n).length = s.section' i n))) ∧
    (k.op.toNat ≠ 9 ∨ k.loaded = true → exec .restoreLoadDone s = .next s ∧ exec .restoreLimit s = .next s) ∧
    (3 ≤ s.fatal → exec .restoreLoadDone s = .next s) ∧
    (k.op.toNat = 9 → k.loaded = false → s.fatal < 3 → ¬refreshFirst s → k.checked = false →
      let same (s' : State) : Prop := s'.threads = s.threads ∧ s'.lines = s.lines ∧ s'.slices = s.slices ∧ s'.cores = s.cores
      (∀ n, s.imageArea = .error n → ∃ s' : State, exec .restoreLoadDone s = .next s' ∧ slcEnds s' 7 n ∧ same s') ∧
      (∀ m n, s.imageArea = .ok m → s.mismatch i m = some n → ∃ s' : State, exec .restoreLoadDone s = .next s' ∧ slcEnds s' 8 n ∧ same s') ∧
      (∀ m, s.imageArea = .ok m → s.mismatch i m = none → ¬slotsFree s m → ∃ s' : State, exec .restoreLoadDone s = .next s' ∧ same s' ∧
        s'.slcCmd = some { k with checked := true } ∧ ∀ r ∈ m.slots, (s'.slot (slotQ r) (slotN r)).claim = some k.slice)) ∧
    (∀ m, s.imageArea = .ok m → k.op.toNat = 9 → k.loaded = false → k.checked = true →
      let some' := ¬slotsFree s m ∨ (k.cores = none ∧ ¬coresThere s i m)
      let lacks (x : Nat × Nat) : Prop := ∃ cs, k.cores = some cs ∧ x ∈ ctxsLeft m cs k.ctxs ∧ ∀ n, ¬ctxFree s x.2 n
      let taken := slotsFree s m ∧ ∃ cs, k.cores = some cs ∧ ctxsLeft m cs k.ctxs = []
      let released (s' : State) : Prop := s'.slices = s.slices ∧ s'.threads = s.threads ∧ s'.lines = s.lines ∧
        (∀ r ∈ m.slots, (s'.slot (slotQ r) (slotN r)).claim = none) ∧ ∀ x ∈ k.ctxs, s'.ctx x.2.1 x.2.2 = {}
      (some' → exec .restoreLoadDone s = .next s) ∧
      (∀ x, slotsFree s m → lacks x → ∃ s' : State, exec .restoreLoadDone s = .next s' ∧
        (∃ l, s'.slcCmd = some { k with ctxs := k.ctxs ++ l }) ∧ s'.threads = s.threads ∧ s'.lines = s.lines ∧ s'.dsp = s.dsp ∧ s'.slices = s.slices) ∧
      (taken → ¬refreshFirst s → s.fatal < 3 → tooLate s f → ∃ s' : State, exec .restoreLoadDone s = .next s' ∧ slcEnds s' 6 0 ∧ released s') ∧
      (taken → ¬refreshFirst s → s.fatal < 3 → ¬tooLate s f → ∃ s' : State, exec .restoreLoadDone s = .next s' ∧
        s'.slcCmd = some { k with loaded := true } ∧ (s'.slice i).thawAt = some f ∧ (s'.slice i).thawFirst = !decide (runs s) ∧
        (∀ j, j ≠ i → s'.slice j = s.slice j) ∧ s'.cores = s.cores ∧
        ∀ r ∈ m.slots, (∀ r' ∈ m.slots, slotQ r' = slotQ r → slotN r' = slotN r → r' = r) →
          let y := s'.slot (slotQ r) (slotN r)
          y.claim = none ∧ y.slice.toNat = i ∧ y.gen.toNat = wAt r 0 / 4096 ∧ y.handler.toNat = wAt r 2 % 4096 ∧
            y.src.toNat = wAt r 1 / 32 % 8 ∧ y.count.toNat = wAt r 1 / 256 ∧ y.dl.toNat = wAt r 5 + 2 ^ 14 * wAt r 6) ∧
      (let past := k.since.toNat + 400000 * ext (s.reg (slcAt 0x1C)) 19 10 ≤ s.tick.toNat
       (some' ∧ ¬past ∨ taken → exec .restoreLimit s = .next s) ∧
       (past → some' → ∃ s' d, exec .restoreLimit s = .next s' ∧ slcEnds s' 10 d ∧ released s' ∧
         ((∃ r ∈ m.slots, d = slotN r ∧ (s.slot (slotQ r) (slotN r)).st ≠ .free) ∨
           (slotsFree s m ∧ ∃ c, d = 4096 + c ∧ heldIn s i c < (m.cores.filter fun r => decide (wAt r 0 % 8 = c)).length))) ∧
       (∀ x, past → slotsFree s m → lacks x → ∃ s' d y, exec .restoreLimit s = .next s' ∧ slcEnds s' 10 d ∧ released s' ∧
         y ∈ ctxsLeft m (k.cores.getD []) k.ctxs ∧ d = (4096 + y.2 / 4) % 2 ^ 13))))

/-- R322, R358, R362 to R364, R367, R373, R379, R391, Table 14.4: a reset is complete when its four conditions hold; GRANT-EXT, RETURN-EXT and
DESTROY end with their wipes, an extent granted while the shares changed then moves (R330), none while owed refreshes come first or on the
fatal path (R343, R453); what has not been served is wiped at that end (log 9); SHARE is written or refused; idle cores change hands, and
what their threads hold breaks (R322), with LEFT 0 (log 7). -/
def Obligations.ResetWipesSharesAndPlacement : Prop :=
  (∀ (s : State) (k : SlcCmd) (i : Fin 64), s.slcCmd = some k → k.slice.toNat = i.val →
    let st := stOf s i
    let mine := s.exts.filter fun x => x.2.valid && decide (x.2.owner.toNat = i.val)
    ((st ≠ 6 ∧ st ≠ 7) ∨ (s.slice i).destroying = true ∨ ¬resetAll s i → exec (.resetComplete i) s = .next s) ∧
    ((s.slice i).destroying = false → resetAll s i →
      (st = 6 → ∃ s' : State, exec (.resetComplete i) s = .next s' ∧ slcEnds s' 0 0 ∧ stOf s' i = 1 ∧ s'.threads = s.threads ∧
        s'.cores = s.cores ∧ s'.exts = s.exts ∧ s'.lines = s.lines ∧ s'.mem = s.mem ∧ logged s s' 10 2 1 0 (s.slice i).killed) ∧
      (st = 7 → mine = [] → ∃ s' : State, exec (.resetComplete i) s = .next s' ∧ slcEnds s' 0 0 ∧ slcFreed s s' i ∧
        (threadsHoldNone s → logged s s' 10 2 1 0 (s.slice i).killed)) ∧
      (∀ x rest, st = 7 → mine = x :: rest → ∃ s' : State, exec (.resetComplete i) s = .next s' ∧ s'.exts = s.exts ∧ s'.cores = s.cores ∧
        stOf s' i = 7 ∧ (s'.slice i).destroying = true ∧ s'.slcCmd = some { k with ext := x.1, rest := rest.map (·.1) } ∧
        logged s s' 10 2 1 0 (s.slice i).killed))) ∧
  (∀ (s : State) (k : SlcCmd), s.wipe = none → s.slcCmd = some k → extentsMapped s → SMap.rises s.lines = true → noTraining s →
    ¬refreshFirst s → s.fatal < 3 → (s.extent k.ext).moving = none →
    let i := k.slice.toNat
    (∀ g b, k.op.toNat = 3 → k.place = some (g, b) → ∃ s' : State, exec .wipeEnd s = .next s' ∧ slcEnds s' 0 0 ∧ extWiped s s' k.ext i ∧
      let e := s'.extent k.ext
      e.valid = true ∧ e.owner.toNat = i ∧ e.group = g ∧ e.pbase = b ∧
        (e.moving = none ∨ (e.moving = some 0 ∧ g.toNat ≠ groupFor s i ∧ e.toGroup.toNat = groupFor s i))) ∧
    (k.op.toNat = 4 → ∃ s' : State, exec .wipeEnd s = .next s' ∧ slcEnds s' 0 0 ∧ extWiped s s' k.ext 0 ∧ s'.extent k.ext = {}) ∧
    (k.op.toNat = 2 → (s.slice i).destroying = true → ∃ s' : State, exec .wipeEnd s = .next s' ∧ extWiped s s' k.ext 0 ∧ s'.extent k.ext = {} ∧
      (k.rest = [] → slcEnds s' 0 0 ∧ slcFreed s s' i) ∧
      ∀ x rest, k.rest = x :: rest → s'.slcCmd = some { k with ext := x, rest := rest } ∧ s'.slices = s.slices ∧ s'.cores = s.cores)) ∧
  (∀ (s : State) (i : Fin 64) (c : Fin 8) (v : Pair), writesReg s (shAt i c) →
    let o := shAt i c
    let st := stOf s i
    let others := (((List.range 64).filter fun j => decide (j ≠ i.val)).map fun j => coresOf s j c).sum
    let pair := if c.val % 2 = 0 then c.val + 1 else c.val - 1
    let bad := 16 < others + ext v 4 0 ∨ (i.val = 0 ∧ ext v 4 0 = 0 ∧ coresOf s 0 pair = 0)
    let same := ext v 21 5 = ext (s.reg o) 21 5
    let written (s' : State) : Prop := s'.reg o = BitVec.ofNat 28 (ext v 21 0) ∧ (threadsHoldNone s → ∀ p, p ≠ o → s'.reg p = s.reg p)
    (bad ∨ (st ≠ 0 ∧ ¬((st = 1 ∨ st = 2) ∧ same)) → ∃ s' : State, exec (.shareWrite i c v) s = .next s' ∧ onlyRegs s s' ∧
      ext (s'.reg (slcAt 0x20)) 0 0 = 1 ∧ ∀ p, p ≠ slcAt 0x20 → s'.reg p = s.reg p) ∧
    (¬bad → st = 0 → ∃ s' : State, exec (.shareWrite i c v) s = .next s' ∧ onlyRegs s s' ∧ written s') ∧
    (¬bad → (st = 1 ∨ st = 2) → same → ∃ s' : State, exec (.shareWrite i c v) s = .next s' ∧ written s' ∧ s'.threads = s.threads ∧
      grantsIn s s' i c ∧ (∀ d, d < 8 → d ≠ c.val → ∀ k, k < 16 → s'.core (16 * d + k) = s.core (16 * d + k)) ∧
      ∀ x, (s'.extent x).valid = (s.extent x).valid ∧ (s'.extent x).owner = (s.extent x).owner ∧ (s'.extent x).group = (s.extent x).group)) ∧
  (∀ (s : State) (n : Fin 128),
    let c := n.val / 16
    let y := s.core n
    let spare := s.modCore n fun _ => {}
    let someNeed := ∃ j, j < 64 ∧ needsCores s j c
    let keeps := ∃ i, y.slice = some i ∧ (y.lent = true → s.readyDl i.toNat (c / 2) ≠ none ∧ ¬someNeed) ∧
      (y.lent = false → heldIn s i.toNat c ≤ coresOf s i.toNat c)
    (coreIdles s n = false ∨ keeps → exec (.coreIdle n) s = .next s) ∧
    (coreIdles s n = true → ¬keeps → ∃ s' : State, exec (.coreIdle n) s = .next s' ∧ s'.threads = s.threads ∧
      (threadsHoldNone s → s'.csr = s.csr) ∧
      (y.slice ≠ none → SMap.rises s.sems = true → ∀ i, s'.sem i = if (s.sem i).held = true ∧ (s.sem i).owner.toNat / 8 = n.val then broke (s.sem i) else s.sem i) ∧
      (∀ m, m < 128 → m ≠ n.val → s'.core m = s.core m) ∧
      (someNeed → ∃ j, j < 64 ∧ needsCores s j c ∧ s'.core n = { slice := some (BitVec.ofNat 6 j), lent := false }) ∧
      (¬someNeed → (∀ j d, ¬mayLend spare c j d) → (s'.core n).slice = none) ∧
      (¬someNeed → ∀ j d, mayLend spare c j d → (∀ j' d', mayLend spare c j' d' → j' ≠ j → precedes d d' = true ∨ (d = d' ∧ j < j')) →
        s'.core n = { slice := some (BitVec.ofNat 6 j), lent := true }) ∧
      ((s'.core n).slice ≠ none → ∀ a, a < 0x4000 → SMap.get 0 s'.mem (0x3FC00000000 + n.val * 0x10000 + a) = 0)))

namespace Sys2Proof.Spec

/-! ## The host interface -/

/-- The function is there: the PF, or a VF of at most NumVFs while VF Enable is set (R395, R409). -/
def fnThere (s : State) (fn : Nat) : Prop :=
  fn = 0 ∨ (fn ≤ 62 ∧ ext (s.reg 0x2800004) 7 7 = 1 ∧ fn ≤ ext (s.reg 0x2800004) 6 0)
/-- A write reaches the page of function fn (R409, R418, R454, R457, R464). -/
def pageUp (s : State) (fn : Nat) : Prop :=
  fnThere s fn ∧ s.fatal < 4 ∧ s.boot.stopped = false ∧ s.pins.porLow = false ∧ s.pins.sysLow = false ∧ s.pins.perstLow = false ∧ s.domOn 2 = true
/-- Sizes of the rings, and of the completions and receive entries not yet consumed. -/
def sqLen (s : State) (q : Qp) : Nat := 2 ^ qpF s q 0 4 1
def cqLen (s : State) (q : Qp) : Nat := 2 ^ qpF s q 0 8 5
def rqLen (s : State) (q : Qp) : Nat := 2 ^ qpF s q 0 12 9
/-- The queue pair's page registers but the one at o are as before, and so are the other queue pairs. -/
def otherQp (s s' : State) (q : Qp) (o : Nat) : Prop :=
  (∀ r, r < 0x40 → r ≠ o → s'.pageReg q.fn (0x40 * q.qp.val + r) = s.pageReg q.fn (0x40 * q.qp.val + r)) ∧
    ∀ p : Qp, p ≠ q → s'.qp (qpn p) = s.qp (qpn p) ∧ ∀ r, r < 0x40 → s'.pageReg p.fn (0x40 * p.qp.val + r) = s.pageReg p.fn (0x40 * p.qp.val + r)
/-- Host address of entry n of the ring whose base stands at page offset o, and the PASID of a ring access (R398). -/
def hostAt (s : State) (q : Qp) (o n bytes : Nat) : BitVec 64 :=
  BitVec.ofNat 64 (2 ^ 12 * qpF s q o 27 0 + 2 ^ 40 * qpF s q (o + 4) 23 0 + bytes * n)
def ringPas (s : State) (q : Qp) : Option (BitVec 20) :=
  if qpF s q 0x1C 20 20 = 1 then some (BitVec.ofNat 20 (qpF s q 0x1C 19 0)) else none
/-- A fetched entry that a stop has aborted (R408). -/
def aborted (y : Fetched) : Prop := y.started = false ∧ y.status = some 10
/-- The completion of an entry with a status stands among what has been sent since s. -/
def sentCe (s s' : State) (q : Qp) (y : Fetched) (st : Nat) : Prop :=
  ∃ a ce, .completion q a (ringPas s q) ce ∈ s'.out.drop s.out.length ∧ ext ce 15 0 = ext y.entry 31 16 ∧ ext ce 19 16 = ext y.entry 3 0 ∧
    ext ce 29 24 = st
/-- The entry of queue pair q completes (Table 15.4, R398, R401, R406, R408): the completion entry, its place and phase, the vector; the
next fetched entry is to run, and those that a stop has aborted complete behind it. -/
def completed (s s' : State) (q : Qp) (st r0 r1 : Nat) : Prop :=
  let y := s.qp (qpn q)
  let tail := qpF s q 0x24 11 0
  ∃ x ce, y.entry = some x ∧ .completion q (hostAt s q 0xC tail 16) (ringPas s q) ce ∈ s'.out.drop s.out.length ∧
    ext ce 15 0 = ext x.entry 31 16 ∧ ext ce 19 16 = ext x.entry 3 0 ∧ ext ce 29 24 = st ∧ ext ce 31 31 = qpF s q 0x24 12 12 ∧
    ext ce 43 32 = (qpF s q 0x20 15 4 + sqLen s q - y.ahead.length) % sqLen s q % 2 ^ 12 ∧
    ext ce 91 64 = r0 ∧ ext ce 123 96 = r1 ∧ (st = 7 → counts s s' 0x2800028 1) ∧
    ((∀ a, y.ahead.head? = some a → ¬aborted a) →
      (s'.qp (qpn q)).entry = y.ahead.head? ∧ (s'.qp (qpn q)).ahead = y.ahead.tail ∧ (s'.qp (qpn q)).irqs = y.irqs ++ [bitOf x.entry 5] ∧
      (qpF s q 0 8 5 ≤ 12 → qpF s' q 0x24 11 0 = (tail + 1) % cqLen s q ∧
          qpF s' q 0x24 12 12 = if tail + 1 = cqLen s q then 1 - qpF s q 0x24 12 12 else qpF s q 0x24 12 12) ∧
      (bitOf x.entry 5 = true → qpF s q 0x24 13 13 = 1 → qpF s' q 0x24 13 13 = 0 ∧ vectorSent s s' q.fn q.qp) ∧
      (bitOf x.entry 5 = false → qpF s' q 0x24 13 13 = qpF s q 0x24 13 13) ∧ counts s s' 0x2800010 1 ∧
      (st = 10 → counts s s' 0x2800020 1) ∧
      qpF s' q 0x20 1 0 = if qpF s q 0x20 1 0 = 2 ∧ y.ahead = [] then 0 else qpF s q 0x20 1 0) ∧
    ((∀ a ∈ y.ahead, aborted a) → (s'.qp (qpn q)).entry = none ∧ (s'.qp (qpn q)).ahead = [] ∧
      (s'.qp (qpn q)).irqs = y.irqs ++ bitOf x.entry 5 :: y.ahead.map (fun a => bitOf a.entry 5) ∧ (∀ a ∈ y.ahead, sentCe s s' q a 10) ∧
      counts s s' 0x2800010 (1 + y.ahead.length) ∧ counts s s' 0x2800020 (y.ahead.length + if st = 10 then 1 else 0) ∧
      qpF s' q 0x20 1 0 = if qpF s q 0x20 1 0 = 2 then 0 else qpF s q 0x20 1 0)
/-- The semaphores of a queue pair are broken (R322, R408). -/
def qpSemsBroken (s s' : State) (q : Qp) : Prop :=
  SMap.rises s.sems = true →
    ∀ n, s'.sem n = if (s.sem n).held = true ∧ (s.sem n).owner = ownerWord (.queue q.fn q.qp) then broke (s.sem n) else s.sem n

/-- Bits of an entry that its KIND uses (Table 15.3). -/
def entUses (kind b : Nat) : Bool :=
  decide (b < 4 ∨ b = 5 ∨ (16 ≤ b ∧ b < 32)) ||
    (if kind = 1 then decide (64 ≤ b ∧ b < 256 ∧ b % 32 < 28)
     else if kind = 2 ∨ kind = 3 then decide (b = 4 ∨ (32 ≤ b ∧ b < 53) ∨ (64 ≤ b ∧ b < 156) ∨ (160 ≤ b ∧ b < 174) ∨ (192 ≤ b ∧ b < 216))
     else if kind = 4 then decide ((64 ≤ b ∧ b < 78) ∨ 128 ≤ b)
     else if kind = 5 then decide (64 ≤ b ∧ b < 78)
     else if kind = 6 then decide ((64 ≤ b ∧ b < 92) ∨ (96 ≤ b ∧ b < 110) ∨ (128 ≤ b ∧ b < 156) ∨ (160 ≤ b ∧ b < 188))
     else false)
/-- A PASID is bound to slice i (R372). -/
def pasidOk (s : State) (i p : Nat) : Prop := ∃ j, j < 4 ∧ ext (s.reg (slAt i (0x10 + 4 * j))) 20 20 = 1 ∧ ext (s.reg (slAt i (0x10 + 4 * j))) 19 0 = p
/-- Lines a to b lie in allocated extents (R328). -/
def linesThere (s : State) (a b : Nat) : Prop :=
  b < ext (s.reg 8) 12 0 * 2 ^ 24 ∧ ∀ x, a / 2 ^ 24 ≤ x → x ≤ b / 2 ^ 24 → (s.extent x).valid = true
/-- Fields of a DMA entry, and of a CAS entry (Table 15.3). -/
def dLine (e : BitVec 512) : Nat := ext e 155 128 + 2 ^ 28 * ext e 167 160
def dFirst (e : BitVec 512) : Nat := ext e 173 168
def dCount (e : BitVec 512) : Nat := ext e 215 192
def dPer (e : BitVec 512) : Nat := if bitOf e 4 then 63 else 36
def casAt (e : BitVec 512) : Nat := ext e 91 64 + 2 ^ 28 * ext e 109 96
/-- The check of Table 15.5 that an entry fails first, or 0: RSVD, COMBO, PASID, UNMAPPED. -/
def entFails (s : State) (i : Nat) (e : BitVec 512) (code : Nat) : Prop :=
  let k := ext e 3 0
  let dma := k = 2 ∨ k = 3
  let rsvd := 7 ≤ k ∨ ∃ b, b < 512 ∧ bitOf e b = true ∧ entUses k b = false
  let combo := (k = 4 ∧ (ext e 77 73 = 0 ∨ 24 < ext e 77 73)) ∨ (k = 6 ∧ casAt e % 2 = 1) ∨
    (dma ∧ (dCount e = 0 ∨ dPer e ≤ dFirst e ∨ (bitOf e 4 = false ∧ ext e 64 64 = 1)))
  let pasid := dma ∧ bitOf e 52 = true ∧ ¬pasidOk s i (ext e 51 32)
  let unmapped := (dma ∧ ¬linesThere s (dLine e) (dLine e + (dFirst e + dCount e - 1) / dPer e)) ∨
    (k = 6 ∧ ¬linesThere s (casAt e / 36) (casAt e / 36))
  (rsvd → code = 1) ∧ (¬rsvd → combo → code = 2) ∧ (¬rsvd → ¬combo → pasid → code = 3) ∧
    (¬rsvd → ¬combo → ¬pasid → unmapped → code = 4) ∧ (¬rsvd → ¬combo → ¬pasid → ¬unmapped → code = 0)
/-- Nothing of the entry of queue pair q waits for allocation or at a channel. -/
def nothingLeft (s : State) (q : Qp) : Prop :=
  (∀ p, p < 4 → ∀ r ∈ SMap.get [] (s.dspQ p).reqs 11, r.sub.map (·.2.2) ≠ some (.host q)) ∧
    ∀ k, (∀ r ∈ (s.dchan k).reqs, r.reply ≠ .entry q ∧ r.reply ≠ .op (.entry q)) ∧ ∀ v ∈ (s.dchan k).visits, v.h ≠ .entry q
/-- Operation h has visited a line that has storage, with or without an uncorrectable error (R336, R356). -/
def hasVisited (s : State) (h : Holder) (l : Nat) (ue : Bool) : Prop :=
  ∃ j m, siteOf s l = some (j, m) ∧ (((s.dchan j).visits.find? fun v => decide (v.h = h) && decide (v.line = l)).map (·.ue)) = some ue
/-- The request of queue pair q for a line waits at its channel (R336). -/
def visitAsked (s s' : State) (q : Qp) (l : Nat) (wr : Bool) : Prop :=
  s' = { s with dchans := s'.dchans } ∧ ∃ j m, siteOf s l = some (j, m) ∧ ∃ r ∈ (s'.dchan j).reqs, r.line = l ∧ r.reply = .op (.entry q) ∧
    ((∀ r ∈ (s.dchan j).reqs, r.reply ≠ .op (.entry q)) → r.op = .visit wr ∧ r.port = 4 ∧ r.slice.toNat = q.fn.val ∧ r.mkind = 3 ∧
      r.mid = qpn q ∧ r.dl = none)
/-- The row that runs an entry of a KIND; data is what the host's reads deliver. -/
def runsEntry (c : Instr) (q : Qp) (kind : Nat) (data : HostData) : Prop :=
  (c = .entryNop q ∧ (kind = 0 ∨ 7 ≤ kind)) ∨ (c = .entryTask q ∧ kind = 1) ∨ (c = .dmaWr q data ∧ kind = 2) ∨ (c = .dmaRd q ∧ kind = 3) ∨
    (c = .entryChan q ∧ kind = 4) ∨ (c = .entrySem q ∧ kind = 5) ∨ (c = .entryCas q ∧ kind = 6)
/-- A fetched entry that may run now: its slice lets it, it has passed its checks, and every domain is ON. -/
def entReady (s : State) (q : Qp) (x : Fetched) : Prop :=
  (s.qp (qpn q)).entry = some x ∧ x.status = none ∧ s.fatal < 4 ∧ (∀ d, d < 15 → s.domOn d = true) ∧
    ((x.started = true ∧ (ext x.entry 3 0 = 2 ∨ ext x.entry 3 0 = 3)) ∨ ((stOf s q.fn = 1 ∨ stOf s q.fn = 2) ∧ entFails s q.fn x.entry 0))
/-- Cause in which a line access of a queue pair ends (R334, Table 13.3), or 0; a whole-line write asks for the owner alone. -/
def lineCause (s : State) (i l : Nat) (oct wr whole : Bool) : Nat :=
  let x := s.line l
  let grant := s.reg (glAt ((if wr then 0x10 else 4) + 4 * (i / 28)))
  if i = 0 ∨ x.slice.toNat = i ∨ (x.slice.toNat = 63 ∧ bitOf grant (i % 28) = true) then
    (if x.kind = 0 ∨ x.kind.toNat = (if oct then 2 else 1) ∨ whole then 0 else if wr = false ∧ x.kind = 3 then 8 else 7)
  else 7
/-- Unit i of a line. -/
def unitAtLine (oct : Bool) (d : BitVec 504) (i : Nat) : Nat := if oct then d.toNat / 2 ^ (8 * i) % 2 ^ 8 else d.toNat / 2 ^ (14 * i) % 2 ^ 14
/-- Line, first unit and number of units of the next line of a DMA (R404). -/
def dNext (x : Fetched) : Nat × Nat × Nat :=
  let p := dFirst x.entry + x.moved
  (dLine x.entry + p / dPer x.entry, p % dPer x.entry, min (dPer x.entry - p % dPer x.entry) (dCount x.entry - x.moved))
/-- The DMA has ended with a status; or it goes on with so many units moved. -/
def dEnded (s s' : State) (q : Qp) (x : Fetched) (st r0 r1 moved : Nat) : Prop :=
  (s'.qp (qpn q)).entry = some { x with started := true, moved := moved, status := some (BitVec.ofNat 6 st), res0 := BitVec.ofNat 28 r0, res1 := BitVec.ofNat 28 r1 } ∧
    s'.threads = s.threads

end Sys2Proof.Spec

/-- R398 to R401, R406 to R408, Tables 15.5, 15.7, 15.8: doorbells, their errors and re-arming; enabling and stopping a queue pair;
fetching into the lowest free engine, with the host address and the PASID of its ring; the checks of a fetched entry; DMA_COMPLETE. That a
queue pair enabled while it is STOPPING keeps the entry that runs (log 18) and LEFT 0 of a semaphore that breaks (log 7) are the model's. -/
def Obligations.QueuePairsTakeDoorbellsAndEntries : Prop :=
  (∀ (s : State) (q : Qp) (v : Pair), pageUp s q.fn →
    let takes := stOf s q.fn ≠ 0 ∧ stOf s q.fn < 6 ∧ qpF s q 0 0 0 = 1
    let h := ext v 11 0
    let dropped (s' : State) : Prop := onlyRegs s s' ∧ counts s s' 0x280001C 1
    let bad (s' : State) : Prop := qpF s' q 0x20 2 2 = 1 ∧ eventSet s' q.fn 5 ∧ counts s s' 0x280001C 1 ∧ s'.qps = s.qps ∧ otherQp s s' q 0x20
    let x := s.qp (qpn q)
    (¬takes → ∀ c, c = Instr.sqTail q v ∨ c = .cqHead q v ∨ c = .rqHead q v → ∃ s' : State, exec c s = .next s' ∧ dropped s') ∧
    (takes →
      (h < sqLen s q → ∃ s' : State, exec (.sqTail q v) s = .next s' ∧ s' = { s with page := s'.page } ∧ qpF s' q 0x20 27 16 = h ∧
        qpF s' q 0x20 15 0 = qpF s q 0x20 15 0 ∧ otherQp s s' q 0x20) ∧
      (sqLen s q ≤ h → ∃ s' : State, exec (.sqTail q v) s = .next s' ∧ bad s') ∧
      (let c := (h + cqLen s q - x.cqHead) % cqLen s q
       (cqLen s q ≤ h ∨ x.irqs.length < c → ∃ s' : State, exec (.cqHead q v) s = .next s' ∧ bad s') ∧
       (h < cqLen s q → c ≤ x.irqs.length → ∃ s' : State, exec (.cqHead q v) s = .next s' ∧ otherQp s s' q 0x24 ∧
         s'.qp (qpn q) = { x with cqHead := if c = 0 then x.cqHead else h, irqs := x.irqs.drop c } ∧
         (bitOf v 27 = false → s' = { s with qps := s'.qps }) ∧
         (bitOf v 27 = true → (true ∈ x.irqs.drop c → qpF s' q 0x24 13 13 = 0 ∧ vectorSent s s' q.fn q.qp) ∧
           (true ∉ x.irqs.drop c → qpF s' q 0x24 13 13 = 1 ∧ s' = { s with qps := s'.qps, page := s'.page })))) ∧
      (let c := (h + rqLen s q - x.rqHead) % rqLen s q
       (rqLen s q ≤ h ∨ x.rqUsed < c → ∃ s' : State, exec (.rqHead q v) s = .next s' ∧ bad s') ∧
       (h < rqLen s q → c ≤ x.rqUsed → ∃ s' : State, exec (.rqHead q v) s = .next s' ∧ otherQp s s' q 0x24 ∧
         s'.qp (qpn q) = { x with rqHead := if c = 0 then x.rqHead else h, rqUsed := x.rqUsed - c } ∧
         (bitOf v 27 = false → s' = { s with qps := s'.qps }) ∧
         (bitOf v 27 = true → (c < x.rqUsed → qpF s' q 0x24 27 27 = 0 ∧ vectorSent s s' q.fn (8 + q.qp.val)) ∧
           (x.rqUsed = c → qpF s' q 0x24 27 27 = 1 ∧ s' = { s with qps := s'.qps, page := s'.page })))))) ∧
  (∀ (s : State) (q : Qp) (v : Pair), pageUp s q.fn → bitOf v 0 = true →
    let off := qpF s q 0 0 0 = 0
    let y := s.qp (qpn q)
    let sz (hi lo : Nat) : Nat := ext v hi lo
    let may := 4 ≤ sz 4 1 ∧ sz 4 1 ≤ 12 ∧ 4 ≤ sz 8 5 ∧ sz 8 5 ≤ 12 ∧ 4 ≤ sz 12 9 ∧ sz 12 9 ≤ 12 ∧ sz 4 1 ≤ sz 8 5 ∧
      (qpF s q 0x1C 20 20 = 0 ∨ pasidOk s q.fn (qpF s q 0x1C 19 0)) ∧ (stOf s q.fn = 1 ∨ stOf s q.fn = 2)
    (¬off ∨ ¬may → ∃ s' : State, exec (.qpEnable q v) s = .next s' ∧ qpF s' q 0x20 3 3 = 1 ∧ eventSet s' q.fn 5 ∧
      qpF s' q 0 0 0 = qpF s q 0 0 0 ∧ s'.qps = s.qps ∧ (¬off → s'.pageReg q.fn (0x40 * q.qp.val) = s.pageReg q.fn (0x40 * q.qp.val))) ∧
    (off → may → ∃ s' : State, exec (.qpEnable q v) s = .next s' ∧
      (qpF s q 0x20 1 0 ≠ 2 → s' = { s with page := s'.page, qps := s'.qps }) ∧ (qpF s q 0x20 1 0 = 2 → qpSemsBroken s s' q) ∧
      qpF s' q 0 12 0 = ext v 12 0 ∧ qpF s' q 0x20 1 0 = 1 ∧ qpF s' q 0x20 27 4 = 0 ∧
      s'.qp (qpn q) = { entry := y.entry, ahead := y.ahead } ∧
      qpF s' q 0x24 11 0 = 0 ∧ qpF s' q 0x24 25 14 = 0 ∧ qpF s' q 0x24 12 12 = 1 ∧ qpF s' q 0x24 26 26 = 1 ∧
      qpF s' q 0x24 13 13 = 1 ∧ qpF s' q 0x24 27 27 = 1)) ∧
  (∀ (s : State) (q : Qp), pageUp s q.fn → let e := (s.qp (qpn q)).entry
    let rest := (s.qp (qpn q)).ahead
    (qpF s q 0x20 1 0 ≠ 1 → exec (.qpStop q) s = .next s) ∧
    (qpF s q 0x20 1 0 = 1 → ∃ s' : State, exec (.qpStop q) s = .next s' ∧ qpF s' q 0 0 0 = 0 ∧ s'.threads = s.threads ∧ s'.lines = s.lines ∧
      (e = none → qpF s' q 0x20 1 0 = 0 ∧ qpSemsBroken s s' q) ∧
      (∀ x, e = some x → x.started = true → qpF s' q 0x20 1 0 = 2 ∧ s' = { s with page := s'.page, qps := s'.qps } ∧
        s'.qp (qpn q) = { s.qp (qpn q) with ahead := rest.map fun a => { a with status := some 10 } }) ∧
      (∀ x, e = some x → x.started = false → (∀ a ∈ rest, a.started = false) → qpF s' q 0x20 1 0 = 0 ∧ qpSemsBroken s s' q ∧
        (s'.qp (qpn q)).entry = none ∧ (s'.qp (qpn q)).ahead = [] ∧
        counts s s' 0x2800020 (1 + rest.length) ∧ (∀ n, ∀ w ∈ (s'.chan n).writers, w.qp ≠ some q) ∧ (SMap.rises s.dchans = true → nothingLeft s' q) ∧
        ∀ a ∈ x :: rest, sentCe s s' q a 10))) ∧
  (∀ (s : State) (e : BitVec 512),
    let ready (q : Qp) : Prop := fnThere s q.fn ∧ qpF s q 0x20 1 0 = 1 ∧ (stOf s q.fn = 1 ∨ stOf s q.fn = 2) ∧ qpF s q 0 0 0 = 1 ∧
      qpF s q 0x20 15 4 ≠ qpF s q 0x20 27 16 ∧ SMap.get false s.d3 q.fn = false ∧
      (s.qp (qpn q)).irqs.length + (s.qp (qpn q)).entry.toList.length + (s.qp (qpn q)).ahead.length < cqLen s q
    let used (n : Nat) : Prop := ∃ y ∈ s.qps, ∃ a ∈ y.2.entry.toList ++ y.2.ahead, a.engine = n
    let can := s.fatal = 0 ∧ s.pins.perstLow = false ∧ s.domOn 2 = true ∧ (∃ q, ready q) ∧ ∃ n, n < 8 ∧ ¬used n
    (¬can → exec (.entryFetch e) s = .next s) ∧
    (can → ∃ (s' : State) (q : Qp) (n : Nat), exec (.entryFetch e) s = .next s' ∧ ready q ∧
      s' = { s with page := s'.page, qps := s'.qps, out := s.out ++ [.entryRead q (hostAt s q 4 (qpF s q 0x20 15 4) 64) (ringPas s q)] } ∧
      n < 8 ∧ ¬used n ∧ (∀ m, m < n → used m) ∧ otherQp s s' q 0x20 ∧
      (qpF s q 0 4 1 ≤ 12 → qpF s' q 0x20 15 4 = (qpF s q 0x20 15 4 + 1) % sqLen s q) ∧ qpF s' q 0x20 27 16 = qpF s q 0x20 27 16 ∧
      let y := s.qp (qpn q)
      let x : Fetched := { entry := e, engine := n, started := false, moved := 0, status := none, res0 := 0, res1 := 0 }
      s'.qp (qpn q) = if y.entry = none then { y with entry := some x } else { y with ahead := y.ahead ++ [x] })) ∧
  (∀ (s : State) (q : Qp) (x : Fetched) (c : Instr) (data : HostData), (s.qp (qpn q)).entry = some x →
    (∀ st, x.status = some st → ∃ s' : State, exec (.dmaComplete q) s = .next s' ∧ completed s s' q st.toNat x.res0.toNat x.res1.toNat ∧
      s'.lines = s.lines ∧ s'.threads = s.threads) ∧
    (∀ st, x.status = some st → (ext x.entry 3 0 = 1 ∧ c = .entryTask q) ∨ (ext x.entry 3 0 = 6 ∧ c = .entryCas q) →
      ∃ s' : State, exec c s = .next s' ∧ completed s s' q st.toNat x.res0.toNat x.res1.toNat ∧ s'.lines = s.lines ∧ s'.threads = s.threads) ∧
    (x.status = none → exec (.dmaComplete q) s = .next s) ∧
    (∀ k, runsEntry c q k data → x.status = none → 4 ≤ s.fatal → exec c s = .next s) ∧
    (∀ k, runsEntry c q k data → ext x.entry 3 0 ≠ k → k < 7 → ext x.entry 3 0 < 7 → exec c s = .next s) ∧
    (∀ code, runsEntry c q (ext x.entry 3 0) data → s.fatal < 4 → x.status = none → x.started = false → (stOf s q.fn = 1 ∨ stOf s q.fn = 2) →
      entFails s q.fn x.entry code → code ≠ 0 → ∃ s' : State, exec c s = .next s' ∧ completed s s' q code 0 0 ∧ s'.lines = s.lines ∧
        s'.threads = s.threads ∧ s'.chans = s.chans ∧ s'.dsp = s.dsp) ∧
    (∀ src d, runsEntry c q (ext x.entry 3 0) data → s.fatal < 4 → x.status = none → x.started = false → (stOf s q.fn = 1 ∨ stOf s q.fn = 2) →
      entFails s q.fn x.entry 0 → s.entryAsleep x = some (src, d) → ∃ s' : State, exec c s = .next s' ∧
        s' = { s with csr := s'.csr, power := s'.power }) ∧
    (runsEntry c q (ext x.entry 3 0) data → x.started = false → stOf s q.fn ≠ 1 → stOf s q.fn ≠ 2 → exec c s = .next s))

/-- R308, R319, R322, R323, R402 to R404, Table 13.3: NOP, TASK, CHAN, SEM and CAS entries, and the lines of DMA, with their results; a
host write of a DMA-RD carries the PASID of its entry. That a DMA takes its lines once they have been visited (log 9), bits [15:14] of the
words of a CHAN entry (log 18) and LEFT 0 of a semaphore that breaks (log 7) are the model's. -/
def Obligations.EntriesTakeTheirEffect : Prop :=
  ∀ (s : State) (q : Qp) (x : Fetched), entReady s q x →
    let e := x.entry
    let k := ext e 3 0
    let i := q.fn.val
    (k = 0 → ∃ s' : State, exec (.entryNop q) s = .next s' ∧ completed s s' q 0 0 0 ∧ s'.threads = s.threads ∧ s'.lines = s.lines) ∧
    (k = 1 → let g (d : Nat) : Pair := BitVec.ofNat 28 (ext e (32 * d + 27) (32 * d))
      ((∃ p x, p < 4 ∧ x ∈ (s.dspQ p).reqs ∧ ∃ r ∈ x.2, r.sub.map (·.2.2) = some (.host q)) → exec (.entryTask q) s = .next s) ∧
      (noneWaits s → ∃ (s' : State) (code : Nat) (h : Word) (quad : Nat), exec (.entryTask q) s = .next s' ∧
        submits s s' { src := 3, slice := i, system := decide (i = 0), quad := none } { p0 := g 2, p1 := g 3, p2 := g 4, p3 := g 5, p4 := g 6, p5 := g 7 } code h quad ∧
        (code = 0 → completed s s' q 0 (h.toNat + 2 ^ 14 * quad) 0) ∧
        (code ≠ 0 → completed s s' q 8 (2 ^ 16 * code) 0 ∧ counts s s' (dsAt quad 0x314) 1))) ∧
    (k = 4 → let c := 64 * ext e 66 64 + ext e 72 67
      let cfg := s.reg (0x1401000 + 4 * c)
      let takes := bitOf cfg 6 = true ∧ (i = 0 ∨ ext cfg 5 0 = i)
      (¬takes → ∃ s' : State, exec (.entryChan q) s = .next s' ∧ completed s s' q 9 0 0 ∧ s'.chans = s.chans) ∧
      (takes → (∃ w ∈ (s.chan c).writers, w.qp = some q) → exec (.entryChan q) s = .next s) ∧
      (takes → (∀ w ∈ (s.chan c).writers, w.qp ≠ some q) → ∃ s' : State, exec (.entryChan q) s = .next s' ∧
        s' = { s with chans := s'.chans } ∧ (∀ d, d ≠ c → s'.chan d = s.chan d) ∧ ∃ w, (s'.chan c).writers = (s.chan c).writers ++ [w] ∧
          w.pos = 1024 ∧ w.qp = some q ∧ w.words.length = ext e 77 73 ∧
          ∀ j, j < ext e 77 73 → (w.words.getD j 0).toNat = e.toNat / 2 ^ (128 + 16 * j) % 2 ^ 14)) ∧
    (k = 5 → let n := ext e 75 64
      let m : SemMaster := .queue q.fn q.qp
      let op := Fin.ofNat 4 (ext e 77 76)
      let p := semStep s op m n
      let s1 := s.modQp (qpn q) fun y => { y with entry := some { x with sent := true } }
      let served := s.semDone.1 = s.cclk ∧ n / 256 ∈ s.semDone.2
      (served → exec (.entrySem q) s = .next s1) ∧
      ((∀ a ∈ s1.semReqs, ∀ b ∈ s1.semReqs, a.1 = b.1 → a = b) → ¬semDue s1 op m (Fin.ofNat 4096 n) → exec (.entrySem q) s = .next s1) ∧
      (semDue s1 op m (Fin.ofNat 4096 n) → ¬served → ∃ s' : State, exec (.entrySem q) s = .next s' ∧ s'.threads = s.threads ∧ s'.lines = s.lines ∧
        completed s s' q 0 (p.1 + (if (s.sem n).broken then 2 ^ 3 else 0) + (if p.2.held then 2 ^ 4 else 0) + p.2.owner.toNat * 2 ^ 5) 0 ∧
        (qpF s q 0x20 1 0 ≠ 2 → s'.sem n = p.2 ∧ ∀ j, j ≠ n → s'.sem j = s.sem j))) ∧
    (k = 6 → let l := casAt e / 36
      (siteOf s l ≠ none) ∧
      (∀ j m, siteOf s l = some (j, m) →
        ((∃ d ∈ s.dchans, ∃ r ∈ d.2.reqs, r.reply = .entry q) → exec (.entryCas q) s = .next s) ∧
        ((∀ d ∈ s.dchans, ∀ r ∈ d.2.reqs, r.reply ≠ .entry q) → ∃ s' : State, exec (.entryCas q) s = .next s' ∧ s' = { s with dchans := s'.dchans } ∧
          (∀ n, n ≠ j → s'.dchan n = s.dchan n) ∧ ∃ r, s'.dchan j = { s.dchan j with reqs := (s.dchan j).reqs ++ [r] } ∧ r.line = l ∧ r.m = none ∧
            r.op = .cas (casAt e % 36) (BitVec.ofNat 28 (ext e 155 128)) (BitVec.ofNat 28 (ext e 187 160)) ∧ r.slice.toNat = i ∧ r.port = 4 ∧
            r.mkind = 3 ∧ r.mid = qpn q ∧ r.dl = none ∧ r.reply = .entry q))) ∧
    (k = 2 ∨ k = 3 →
      let oct := bitOf e 4
      let n := dNext x
      let l := n.1
      let whole := decide (n.2.2 = dPer e)
      let rest := dCount e - x.moved
      let lineOf (j : Nat) : Nat := dLine e + (dFirst e + x.moved + j) / dPer e
      let posOf (j : Nat) : Nat := (dFirst e + x.moved + j) % dPer e
      x.moved < dCount e → dFirst e < dPer e → siteOf s l ≠ none →
      (k = 2 → ∀ data : HostData,
        (data.units.length < n.2.2 → data.error = false → exec (.dmaWr q data) s = .next s) ∧
        (data.units.length < n.2.2 → data.error = true → ∃ s' : State, exec (.dmaWr q data) s = .next s' ∧ s'.lines = s.lines ∧
          dEnded s s' q x 7 0 x.moved x.moved) ∧
        (n.2.2 ≤ data.units.length → (∀ u, ¬hasVisited s (.entry q) l u) → ∃ s' : State, exec (.dmaWr q data) s = .next s' ∧ visitAsked s s' q l true) ∧
        (∀ u, n.2.2 ≤ data.units.length → hasVisited s (.entry q) l u →
          let c := if u = true ∧ whole = false then 7 else lineCause s i l oct true whole
          c ≠ 0 → ∃ s' : State, exec (.dmaWr q data) s = .next s' ∧ s'.lines = s.lines ∧ dEnded s s' q x (c - 2) (l % 2 ^ 28) x.moved x.moved) ∧
        (rest ≤ data.units.length → (∀ j, j < rest → hasVisited s (.entry q) (lineOf j) false ∧ lineCause s i (lineOf j) oct true false = 0) →
          ∃ s' : State, exec (.dmaWr q data) s = .next s' ∧ dEnded s s' q x 0 0 0 (dCount e) ∧ (∀ j, j < rest → ∀ u, ¬hasVisited s' (.entry q) (lineOf j) u) ∧
            (∀ j, j < rest → unitAtLine oct (s'.line (lineOf j)).data (posOf j) = (data.units.getD j 0).toNat % (if oct then 2 ^ 8 else 2 ^ 14) ∧
              (s'.line (lineOf j)).kind.toNat = (if oct then 2 else 1) ∧ (s'.line (lineOf j)).slice = (s.line (lineOf j)).slice) ∧
            (∀ a, (∀ j, j < rest → lineOf j ≠ a) → s'.line a = s.line a) ∧
            ∀ j p, j < rest → p < dPer e → (∀ j', j' < rest → lineOf j' = lineOf j → posOf j' ≠ p) →
              unitAtLine oct (s'.line (lineOf j)).data p = unitAtLine oct (s.line (lineOf j)).data p)) ∧
      (k = 3 →
        ((∀ u, ¬hasVisited s (.entry q) l u) → ∃ s' : State, exec (.dmaRd q) s = .next s' ∧ visitAsked s s' q l false) ∧
        (∀ u, hasVisited s (.entry q) l u → let c := if u then 8 else lineCause s i l oct false false
          c ≠ 0 → ∃ s' : State, exec (.dmaRd q) s = .next s' ∧ s'.lines = s.lines ∧ dEnded s s' q x (c - 2) (l % 2 ^ 28) x.moved x.moved) ∧
        ((∀ j, j < rest → hasVisited s (.entry q) (lineOf j) false ∧ lineCause s i (lineOf j) oct false false = 0) →
          ∃ s' : State, exec (.dmaRd q) s = .next s' ∧ s'.lines = s.lines ∧ dEnded s s' q x 0 0 0 (dCount e) ∧
            ∀ j, j < rest → ∃ a us, .hostWrite q a (if bitOf e 52 then some (BitVec.ofNat 20 (ext e 51 32)) else none) us ∈ s'.out.drop s.out.length ∧ ∃ p, p < us.length ∧
              (a.toNat + p * (if oct then 1 else 2)) % 2 ^ 64 = (ext e 127 64 + (x.moved + j) * (if oct then 1 else 2)) % 2 ^ 64 ∧
              (us.getD p 0).toNat = unitAtLine oct (s.line (lineOf j)).data (posOf j))))

/-- R395, R406, R409, R412, R466: unmasking sends a pending vector; FLR, VF_ENABLE_CLEAR and PERST return the functions' pages, vectors and
queue pairs to reset and break their semaphores; D3hot; the link trains again when PERST_N rises; the host sets VF Enable and NumVFs. The
place of the SR-IOV capability and the speed and width to which the link trains are the model's (log 3, log 4, log 13). -/
def Obligations.FunctionsAreResetAndVectorsUnmasked : Prop :=
  (∀ (s : State) (fn : Fin 64) (v : Fin 32), pageUp s fn →
    let n := fn.val * 32 + v.val
    ∃ s' : State, exec (.msixUnmask fn v) s = .next s' ∧ s' = { s with unmasked := s'.unmasked, pba := s'.pba, out := s'.out } ∧
      SMap.get false s'.unmasked n = true ∧ SMap.get false s'.pba n = false ∧
      s'.out = (if SMap.get false s.pba n then s.out ++ [.msix fn v] else s.out) ∧
      ∀ m, m ≠ n → SMap.get false s'.unmasked m = SMap.get false s.unmasked m ∧ SMap.get false s'.pba m = SMap.get false s.pba m) ∧
  (∀ (s : State) (fn : Fin 64) (on : Bool),
    (¬fnThere s fn → exec (.flr fn) s = .next s) ∧
    (SMap.rises s.qps = true → (∀ k : Fin 8, (s.qp (8 * fn.val + k.val)).rqWait = []) → ∃ s' : State, exec (.d3hot fn on) s = .next s' ∧
      s' = { s with d3 := s'.d3, qps := s'.qps } ∧ SMap.get false s'.d3 fn = on ∧ (∀ f, f ≠ fn.val → SMap.get false s'.d3 f = SMap.get false s.d3 f) ∧
      ∀ k, s'.qp k = s.qp k)) ∧
  (∀ (s : State) (c : Instr) (hits : Nat → Prop),
    ((∃ fn : Fin 64, c = .flr fn ∧ fnThere s fn ∧ ∀ f, hits f ↔ f = fn.val) ∨ (c = .vfEnableClear ∧ ∀ f, hits f ↔ 1 ≤ f ∧ f ≤ 62) ∨
      (c = .perst ∧ ∀ f, hits f ↔ f ≤ 62)) →
    ∃ s' : State, exec c s = .next s' ∧ s'.slices = s.slices ∧ s'.threads = s.threads ∧ s'.lines = s.lines ∧
      (∀ f, hits f → (∀ k, k < 8 → s'.qp (8 * f + k) = {}) ∧ (∀ o, o < 0x10000 → s'.pageReg f o = (pageInfo o).reset) ∧
        ∀ v, v < 32 → SMap.get false s'.unmasked (f * 32 + v) = false ∧ SMap.get false s'.pba (f * 32 + v) = false ∧
          ∀ j, j < 3 → SMap.get 0 s'.vectors (f * 96 + 3 * v + j) = 0) ∧
      (∀ f, ¬hits f → f < 64 → (∀ k, k < 8 → s'.qp (8 * f + k) = s.qp (8 * f + k)) ∧ ∀ v, v < 32 → SMap.get false s'.unmasked (f * 32 + v) = SMap.get false s.unmasked (f * 32 + v)) ∧
      (∀ n, ∀ w ∈ (s'.chan n).writers, ∀ q, w.qp = some q → ¬hits q.fn) ∧ (SMap.rises s.dchans = true → ∀ q : Qp, hits q.fn → nothingLeft s' q) ∧
      (∀ n, (s'.sem n).held = true → ∀ q : Qp, hits q.fn → (s'.sem n).owner ≠ ownerWord (.queue q.fn q.qp)) ∧
      (c = .perst → s'.pins.perstLow = true ∧ s'.reg 0x2800000 = 0 ∧ s'.reg 0x2800004 = 0) ∧
      (c = .vfEnableClear → ext (s'.reg 0x2800004) 7 7 = 0)) ∧
  (∀ s : State, (s.pins.perstLow = false → exec .perstRelease s = .next s) ∧
    (s.pins.perstLow = true → ∃ s' : State, exec .perstRelease s = .next s' ∧
      s' = { s with csr := s'.csr, free := s'.free, pins := { s.pins with perstLow := false } } ∧ (∀ o, o ≠ 0x2800000 → s'.reg o = s.reg o) ∧
      let r := s'.reg 0x2800000
      1 ≤ ext r 2 0 ∧ ext r 2 0 ≤ 5 ∧ (∃ j, j ≤ 4 ∧ ext r 7 3 = 2 ^ j) ∧ ext r 8 8 = 1)) ∧
  (∀ (s : State) (v : BitVec 32) (ev : Pair) (off : Off), s.pins.porLow = false → s.pins.sysLow = false → s.pins.perstLow = false →
    s.domOn 2 = true →
    let vf := s.reg 0x2800004
    let c := Instr.csrWrite .host (.cfg 0) off v ev
    (off.toNat = sriovCap + 8 → v.getLsbD 0 = true → ∃ s' : State, exec c s = .next s' ∧ s' = { s with csr := s'.csr } ∧
      ext (s'.reg 0x2800004) 7 7 = 1 ∧ ext (s'.reg 0x2800004) 6 0 = ext vf 6 0 ∧ ∀ o, o ≠ 0x2800004 → s'.reg o = s.reg o) ∧
    (off.toNat = sriovCap + 8 → v.getLsbD 0 = false → ext vf 7 7 = 0 → exec c s = .next s) ∧
    (off.toNat = sriovCap + 8 → v.getLsbD 0 = false → ext vf 7 7 = 1 → exec c s = exec .vfEnableClear s) ∧
    (off.toNat = sriovCap + 0x10 → ext vf 7 7 = 0 → ∃ s' : State, exec c s = .next s' ∧ s' = { s with csr := s'.csr } ∧
      ext (s'.reg 0x2800004) 6 0 = min (ext v 15 0) 62 ∧ ∀ o, o ≠ 0x2800004 → s'.reg o = s.reg o))

namespace Sys2Proof.Spec

/-! ## Power -/

abbrev pwAt (o : Nat) : Nat := 0x2C00000 + o
abbrev domAt (d : Nat) : Nat := pwAt (0x100 + 4 * d)
def inPwr (o : Nat) : Prop := 0x2C00000 ≤ o ∧ o < 0x2C00400
/-- Word address in the core scratch, the wave buffer or the shared memories of quadrant q (Table 1.4). -/
def scratchOf (q a : Nat) : Bool := decide (0x3FC00000000 + 0x200000 * q ≤ a ∧ a < 0x3FC00000000 + 0x200000 * (q + 1))
def waveOf (q a : Nat) : Bool := decide (0x3FD00000000 + 0x10000000 * q ≤ a ∧ a < 0x3FD00000000 + 0x10000000 * (q + 1))
def sharedOf (q a : Nat) : Bool := decide (0x3FE00000000 + 0x2000000 * q ≤ a ∧ a < 0x3FE00000000 + 0x2000000 * (q + 1))
def unitRegOf (q o : Nat) : Bool := decide (0x1800000 + 0x8000 * q ≤ o ∧ o < 0x1800000 + 0x8000 * (q + 1))
/-- A state that Table 16.1 allows. -/
def domMay (d t : Nat) : Prop :=
  (d = 0 ∧ t = 0) ∨ ((d = 1 ∨ d = 2) ∧ t ≤ 1) ∨ (3 ≤ d ∧ d ≤ 6 ∧ t ≤ 3) ∨ (7 ≤ d ∧ d ≤ 10 ∧ (t = 0 ∨ t = 2 ∨ t = 3)) ∨
    (11 ≤ d ∧ d ≤ 14 ∧ (t = 0 ∨ t = 4))
/-- Any port of quadrant q has EN 1. -/
def someEn (s : State) (q : Nat) : Prop := ∃ p : Fin 32, p.val / 8 = q ∧ ext (s.reg (lkAt p 0)) 0 0 = 1
/-- The conditions of Table 16.5. -/
def inUse (s : State) (d : Nat) : Prop :=
  (d = 2 ∧ ∃ f, f < 63 ∧ SMap.get false s.d3 f = false) ∨
  (3 ≤ d ∧ d ≤ 6 ∧ let q := d - 3
    someEn s q ∨ (∃ n i, n / 32 = q ∧ (s.core n).slice = some i ∧ i ≠ 0) ∨ (∃ t, t / 256 = q ∧ (s.thread t).st ≠ .waitTask) ∨
      (∃ x ∈ (s.dspQ q).slots, x.2.st ≠ .free) ∨
      (∃ u k, u < 8 ∧ k < 4 ∧ ((s.ctx (8 * q + u) k).holder ≠ none ∨ (s.ctx (8 * q + u) k).releasing = true)) ∨
      ((∃ k ∈ s.pkts, 0 < k.2.len ∧ waveOf q k.2.addr.toNat = true) ∨ (∃ o ∈ s.eouts, 0 < o.2.len ∧ waveOf q o.2.addr.toNat = true) ∨
        ∃ t ∈ s.threads, ∃ g ∈ t.2.gath, 0 < g.size ∧ ∃ x ∈ g.places, waveOf q x.2.toNat = true)) ∨
  (7 ≤ d ∧ d ≤ 10 ∧ someEn s (d - 7)) ∨
  (11 ≤ d ∧ ((∃ e ∈ s.exts, e.2.moving ≠ none ∧ ∃ g : BitVec 3, (g = e.2.group ∨ g = e.2.toGroup) ∧ (g.toNat = d - 11 ∨ 4 ≤ g.toNat)) ∨
    ∃ k, k / 4 = d - 11 ∧ (mmF s k 0x48 4 3 = 1 ∨ (s.dchan k).wiping ≠ none)))
/-- The domain in which the word at an address lies, for thread t, and whether the way there leads through BASE (Tables 1.4, 16.1). -/
def homeOf (s : State) (t a : Nat) : Option (Nat × Bool) :=
  let quad (q : Nat) : Option (Nat × Bool) := some (3 + q, decide (q ≠ t / 256))
  match s.region a with
  | .dram l _ => (siteOf s l).map fun x => (11 + x.1 / 4, true)
  | .scratch n => quad (n / 32)
  | .ownCore => quad (t / 256)
  | .wave q => quad q
  | .shared c _ => quad (c / 2)
  | .csr o => some (domOfReg o, decide (domOfReg o ≠ 0 ∧ domOfReg o ≠ 2))
  | _ => none
def onPath (s : State) (d t a : Nat) : Prop := ∃ h v, homeOf s t a = some (h, v) ∧ (h = d ∨ (v = true ∧ d = 1))
/-- An access to domain d is in progress or stalled: of a register, of a thread, of a pointer-mode command, of a host entry, or at a
channel (Table 16.4). -/
def accessed (s : State) (d : Nat) : Prop :=
  (∃ x ∈ s.power.stalled, x.domain = d ∨ (d = 1 ∧ x.domain ≠ 0 ∧ x.domain ≠ 2)) ∨
  (∃ x ∈ s.threads, (∃ w, x.2.await = some w ∧ w.ans = none ∧ w.cpm = none ∧ onPath s d x.1 w.addr.toNat) ∨
    ∃ p ∈ x.2.stores, p.ans = none ∧ onPath s d x.1 p.addr.toNat) ∨
  (∃ u ∈ s.units, ∃ k c, k < 4 ∧ s.nextCmd u.1 k = some c ∧ c.ptr = true ∧
    ∃ a ∈ s.cmdTouch (u.1 % 4) c (s.ctx u.1 k), onPath s d c.thread a) ∨
  (∃ x ∈ s.qps, ∃ e, x.2.entry = some e ∧ e.status = none ∧ d ∈ s.entryDoms e) ∨
  (11 ≤ d ∧ ∃ k, k / 4 = d - 11 ∧ ((s.dchan k).reqs ≠ [] ∨ (s.dchan k).wq ≠ [] ∨ (s.dchan k).visits ≠ []))
/-- The refuser of a code holds for an entry of domain d (Table 16.4). -/
def refusedBy (s : State) (d : Nat) : Nat → Prop
  | 1 => s.reg (pwAt (0x180 + 4 * d)) &&& s.reg (pwAt (0x140 + 4 * d)) ≠ 0
  | 2 => accessed s d
  | 3 => ext (s.reg 0xC) 2 0 = 3 ∧ (d = 1 ∨ d = 2 ∨ 11 ≤ d)
  | 4 => (d = 1 ∧ ∃ e, 3 ≤ e ∧ e ≤ 14 ∧ s.dom e = 0) ∨ (3 ≤ d ∧ d ≤ 6 ∧ s.dom (d + 4) = 0)
  | 5 => inUse s d
  | 6 => (3 ≤ d ∧ d ≤ 10 ∧ ∃ p : Fin 32, p.val / 8 = (if d ≤ 6 then d - 3 else d - 7) ∧ 1 ≤ lkState s p ∧ lkState s p ≤ 7 ∧ lkState s p ≠ 6) ∨
      (11 ≤ d ∧ ∃ k, k / 4 = d - 11 ∧ mmF s k 4 2 0 = 1)
  | _ => False
/-- A wake of domain d begins, with its record; one that runs already goes on (R421, R423). -/
def begins (s s' : State) (src d : Nat) (m : Word) (test : Bool) : Prop :=
  (s.waking d = true → s'.power = s.power ∧ s'.reg (pwAt 0x200) = s.reg (pwAt 0x200) ∧ s'.reg (pwAt 0x208) = s.reg (pwAt 0x208)) ∧
  (s.waking d = false → s'.power = { s.power with waking := s.power.waking ++ [(d, BitVec.ofNat 4 src)] } ∧
    s'.reg (pwAt 0x208) = s.reg (pwAt 0x200) ∧
    s'.reg (pwAt 0x200) = BitVec.ofNat 28 (src + 16 * d + 256 * m.toNat + (if test then 2 ^ 22 else 0)) ∧
    s'.reg (pwAt 0x204) = BitVec.ofNat 28 s.uclk ∧ bitOf (s'.reg (domAt d)) 4 = true ∧ ext (s'.reg (domAt d)) 3 0 = ext (s.reg (domAt d)) 3 0)
/-- A Glint fires: not enabled, it leaves nothing; ON or entering, it stays pending; else the domain wakes (R419). -/
def glints (s s' : State) (src d : Nat) (test : Bool) : Prop :=
  let en := bitOf (s.reg (pwAt (0x140 + 4 * d))) src
  let on := s.dom d = 0 ∨ s.entering d = true
  let pend := pwAt (0x180 + 4 * d)
  (en = false → s'.reg pend = s.reg pend ∧ s'.power = s.power) ∧
  (en = true → on → (∀ b, b < 28 → bitOf (s'.reg pend) b = (bitOf (s.reg pend) b || decide (b = src))) ∧
    s'.power = { s.power with tests := s'.power.tests } ∧ ∀ x, x ∈ s'.power.tests ↔ (x ∈ s.power.tests ∧ x ≠ (src, d)) ∨ (x = (src, d) ∧ test = true)) ∧
  (en = true → ¬on → s'.reg pend = s.reg pend ∧ begins s s' src d 0 test)
/-- Only registers of the power block and the power controller change. -/
def onlyPower (s s' : State) : Prop := s' = { s with csr := s'.csr, power := s'.power } ∧ ∀ o, ¬inPwr o → s'.reg o = s.reg o
/-- What a QUAD domain loses (Table 16.3); off: all of it. -/
def quadLost (s s' : State) (q : Nat) (off : Bool) : Prop :=
  (∀ t, s'.thread t = if t / 256 = q then {} else s.thread t) ∧
  (∀ a, SMap.get 0 s'.mem a = if (scratchOf q a || waveOf q a || (off && sharedOf q a)) = true then 0 else SMap.get 0 s.mem a) ∧
  (∀ k, SMap.get 0 s'.imem k = if off = true ∧ k / 131072 = q then 0 else SMap.get 0 s.imem k) ∧
  (∀ r j, s'.slot r j = if r = q then {} else s.slot r j) ∧ (∀ n k, s'.ctx n k = if n / 8 = q then {} else s.ctx n k) ∧
  (∀ c, s'.chan c = if c / 128 = q then {} else s.chan c) ∧ (s'.prsQ q).rules = (if off then [] else (s.prsQ q).rules) ∧
  (s'.prsQ q).steps = (if off then [] else (s.prsQ q).steps) ∧ (s'.fwdQ q).tab = (if off then [] else (s.fwdQ q).tab) ∧
  (∀ r, r ≠ q → s'.prsQ r = s.prsQ r ∧ s'.fwdQ r = s.fwdQ r) ∧ s'.lines = s.lines ∧
  ∀ o, ¬inPwr o → ¬inErr o →
    s'.reg o = if (unitRegOf q o || (off && decide (domOfReg o = 3 + q))) = true then (regInfo o).reset else s.reg o
/-- What a LINK domain loses: ports restart at DISABLED, with their counters unless it goes OFF. -/
def linkLost (s s' : State) (q : Nat) (off : Bool) : Prop :=
  (∀ p : Fin 32, p.val / 8 = q → lkState s' p = 0 ∧ ext (s'.reg (lkAt p 0)) 0 0 = 0 ∧
    s'.port p = if off then {} else { ({} : Port) with cnt := (s.port p).cnt, hi := (s.port p).hi }) ∧
  (∀ o, domOfReg o = 7 + q → (off = true → s'.reg o = (regInfo o).reset) ∧ (off = false → 12 ≤ o % 0x10000 → s'.reg o = s.reg o)) ∧
  s'.lines = s.lines ∧ s'.threads = s.threads ∧ s'.mem = s.mem
/-- A MEM domain in SR: owed refreshes are issued, the ranks are in self-refresh, the census reads as after CLEAR. -/
def memSlept (s s' : State) (q : Nat) : Prop :=
  (∀ k, k / 4 = q → mmF s' k 4 2 0 = (if mmF s k 4 2 0 = 3 then 5 else mmF s k 4 2 0) ∧ mmF s' k 0x18 23 0 = 0 ∧ mmF s' k 0x48 4 3 = 0 ∧
    (∀ b, (SMap.get {} (s'.dchan k).shadow b).census = []) ∧ (s'.dchan k).reqs = (s.dchan k).reqs) ∧
  s' = { s with csr := s'.csr, dchans := s'.dchans, power := s'.power, free := s'.free } ∧ ∀ o, ¬inPwr o → domOfReg o ≠ 11 + q → s'.reg o = s.reg o
/-- A MEM domain as from OFF: its registers and tables are at reset; the DRAM lines are in the modules. -/
def memReset (s s' : State) (q : Nat) : Prop :=
  (∀ k, s'.dchan k = if k / 4 = q then {} else s.dchan k) ∧ s'.lines = s.lines ∧ s'.threads = s.threads ∧
    ∀ o, ¬inPwr o → ¬inErr o → s'.reg o = if domOfReg o = 11 + q then (regInfo o).reset else s.reg o
/-- Domain d has lost what its state t loses (Tables 16.2, 16.3). -/
def domLost (s s' : State) (d t : Nat) : Prop :=
  (t ≤ 1 → s' = { s with csr := s'.csr, power := s'.power } ∧ ∀ o, ¬inPwr o → s'.reg o = s.reg o) ∧
  (3 ≤ d → d ≤ 6 → (t = 2 ∨ t = 3) → quadLost s s' (d - 3) (decide (t = 3))) ∧
  (7 ≤ d → d ≤ 10 → (t = 2 ∨ t = 3) → linkLost s s' (d - 7) (decide (t = 3)))
/-- No access waits. -/
def nobodyWaits (s : State) : Prop := s.power.stalled = [] ∧ ∀ t, (s.thread t).await = none ∧ (s.thread t).stores = []
/-- The wake of domain d is over (R418, R420). -/
def awake (s s' : State) (d : Nat) : Prop :=
  ext (s'.reg (domAt d)) 2 0 = 0 ∧ bitOf (s'.reg (domAt d)) 4 = false ∧ bitOf (s'.reg (domAt d)) 3 = bitOf (s.reg (domAt d)) 3 ∧
    s'.power.waking = s.power.waking.filter fun x => !decide (x.1 = d)
/-- Something waits for domain d: a stalled register access, a load or store of a thread, a coprocessor command, a host queue
entry, the gather of a DONE (R418). -/
def waitsDom (s : State) (d : Nat) : Waiter → Prop
  | .acc x => x ∈ s.power.stalled ∧ x.domain = d
  | .load t => ∃ w src, (s.thread t).await = some w ∧ w.ans = none ∧ w.cpm = none ∧ s.asleepAt t w.addr.toNat = some (src, d)
  | .store t id => ∃ p ∈ (s.thread t).stores, p.id = id ∧ p.ans = none ∧ ∃ src, s.asleepAt t p.addr.toNat = some (src, d)
  | w => w ∈ s.domWaiters d
/-- Limit noted for an access that waits, at the clock that followed its arrival; it has passed (R418). -/
def notedLimit (s : State) (w : Waiter) : Option Nat := (s.power.limits.find? fun x => decide (x.1 = w)).map (·.2)
def limitPassed (s : State) (w : Waiter) : Prop := ∃ n, notedLimit s w = some n ∧ n ≤ s.tick.toNat
/-- It has ended with WAKE-TIMEOUT, code 9 for a thread and a coprocessor, 11 for a queue entry. -/
def timedOut (s s' : State) : Waiter → Prop
  | .acc x => s'.power.stalled = s.power.stalled.erase x ∧ s'.threads = s.threads ∧ s'.mem = s.mem ∧
      ∃ more, s'.out = s.out ++ (if x.wr = false ∧ x.m = .host then [.completerAbort] else []) ++ more
  | .load t => ∀ w, (s.thread t).await = some w → s'.thread t = { s.thread t with await := some { w with ans := some (.fault 9) } } ∧
      ∀ u, u ≠ t.val → s'.thread u = s.thread u
  | .store t id => s'.thread t = { s.thread t with stores := (s.thread t).stores.map fun p => if p.id = id then { p with ans := some (.fault 9) } else p } ∧
      ∀ u, u ≠ t.val → s'.thread u = s.thread u
  | .cmd n k c a => (s'.unit n).cmds = ((s.unit n).cmds.map fun y => if y.tag = c.tag then { y with done := some (9, false) } else y) ∧
      (c.ctx.val = k → (s.unit n).cpms = [] → ext ((s'.ctx n k).ureg 62) 27 0 = 32 * 9 ∧ (s'.ctx n k).ureg 60 = BitVec.ofNat 28 a ∧ (s'.ctx n k).ureg 61 = BitVec.ofNat 28 (a / 2 ^ 28))
  | .entry q => ∀ x, (s.qp (qpn q)).entry = some x → let dma := ext x.entry 3 0 = 2 ∨ ext x.entry 3 0 = 3
      (dma → ∃ r0, dEnded s s' q x 11 r0 x.moved x.moved) ∧ (¬dma → completed s s' q 11 0 0)
  | .gather t a => s'.thread t = ((s.modThread t fun x => { x with gathered := false, gath := [] }).excEnter t 9 (BitVec.ofNat 42 a) (s.thread t).pc false).thread t
  | .disp t => ∃ code, code < 16 ∧ replies s s' t 0 code (t / 256)
  | .ring r run i => (∀ k : Fin 16, ∀ q ∈ (s'.dchan k).reqs, q.reply ≠ .ring r run i) ∧
      ((s.ring r).run = run → (i + 2 ^ 27 - rgF s r 0xC 26 0) % 2 ^ 27 < (s.ring r).sent.length → rgState s' r = 6 ∧ rgF s' r 0x3C 5 5 = 1)
  | .umbra => s'.boot.mbox = some (4, 0, 0) ∧ ∀ k : Fin 16, (∀ q ∈ (s'.dchan k).reqs, q.reply ≠ .op .umbra) ∧ ∀ v ∈ (s'.dchan k).visits, v.h ≠ .umbra
/-- Master word of what waits (Table 12.1); a coprocessor and a ring have none (log 16). -/
def masterOf : Waiter → Option Nat
  | .acc x => some (match x.sp, x.m with
    | .page fn, _ => 0x1000 + 8 * fn.val
    | _, .host => 0x1000
    | _, .thread t => t
    | _, .umbra => 0x2000)
  | .load t => some t
  | .store t _ => some t
  | .gather t _ => some t
  | .disp t => some t
  | .entry q => some (0x1000 + qpn q)
  | .umbra => some 0x2000
  | .cmd _ _ _ _ => none
  | .ring _ _ _ => none

end Sys2Proof.Spec

/-- R413, R415, R416, R419, R423, Tables 16.1, 16.4, 16.5: PWR_REQ: who may write it, BUSY, RSVD, a wake, which is the Glint source
REQUEST, the refusers in order, an entry that begins. That a REQUEST wake records MASTER 0 is the model's (log 16), and so is the domain
of a register that Table 16.1 does not place (log 10). -/
def Obligations.PowerRequestsAreTestedOnce : Prop :=
  ∀ (s : State) (m : Master) (v : Pair),
    let t := ext v 6 4
    let d := ext v 3 0
    let req := if t = 0 then exec (.powerWake m v) s else exec (.powerEntry m v) s
    let may := s.inReset = false ∧ (m = .host → s.writable (pwAt 4) = true) ∧ (m ≠ .host → s.boot.stopped = false) ∧
      (∀ u, m = .thread u → s.system u = true ∧ s.fatal = 0) ∧ (bitOf (s.reg (pwAt 0)) 0 = true → m = .umbra)
    let busy := bitOf (s.reg (pwAt 8)) 0
    let written (s' : State) : Prop := s'.reg (pwAt 4) = BitVec.ofNat 28 (v.toNat % 128)
    let only (s' : State) (l : List Nat) : Prop := ∀ o, o ∉ l → s'.reg o = s.reg o
    let code (s' : State) (c : Nat) : Prop := ext (s'.reg (pwAt 8)) 3 2 = c ∧ ext (s'.reg (pwAt 8)) 1 0 = ext (s.reg (pwAt 8)) 1 0
    exec (if t = 0 then .powerEntry m v else .powerWake m v) s = .next s ∧ (¬may → req = .next s) ∧
    (may → busy = true → ∃ s' : State, req = .next s' ∧ onlyRegs s s' ∧ bitOf (s'.reg (pwAt 8)) 1 = true ∧ only s' [pwAt 8]) ∧
    (may → busy = false →
      (bitOf v 7 = false → ∃ s' : State, req = .next s' ∧ onlyRegs s s' ∧ written s' ∧ only s' [pwAt 4]) ∧
      (bitOf v 7 = true → (¬domMay d t ∨ ext v 27 8 ≠ 0) →
        ∃ s' : State, req = .next s' ∧ onlyRegs s s' ∧ written s' ∧ code s' 2 ∧ only s' [pwAt 4, pwAt 8]) ∧
      (bitOf v 7 = true → domMay d t → ext v 27 8 = 0 →
        (t = 0 → ∃ s' : State, req = .next s' ∧ onlyPower s s' ∧ written s' ∧ code s' 0 ∧ glints s s' 11 d false) ∧
        (t ≠ 0 → (∀ r, refusedBy s d r → (∀ r', r' < r → ¬refusedBy s d r') → ∃ s' : State, req = .next s' ∧ onlyRegs s s' ∧ written s' ∧ code s' 1 ∧
            ext (s'.reg (pwAt 8)) 6 4 = r ∧ ext (s'.reg (pwAt (0x1C0 + 4 * d))) 18 16 = r ∧
            ext (s'.reg (pwAt (0x1C0 + 4 * d))) 15 0 = min (ext (s.reg (pwAt (0x1C0 + 4 * d))) 15 0 + 1) 65535 ∧
            only s' [pwAt 4, pwAt 8, pwAt (0x1C0 + 4 * d)]) ∧
          ((∀ r, ¬refusedBy s d r) → s.waking d = true → ∃ s' : State, req = .next s' ∧ onlyRegs s s' ∧ written s' ∧ code s' 0 ∧ only s' [pwAt 4, pwAt 8]) ∧
          ((∀ r, ¬refusedBy s d r) → s.waking d = false → ∃ s' : State, req = .next s' ∧ onlyPower s s' ∧ written s' ∧
            s'.power = { s.power with entering := some (d, BitVec.ofNat 3 t) } ∧ bitOf (s'.reg (domAt d)) 3 = true ∧ s'.dom d = s.dom d ∧
            bitOf (s'.reg (pwAt 8)) 0 = true ∧ ext (s'.reg (pwAt 8)) 3 2 = 0))))

/-- R354, R414, R418 to R423, Tables 16.2, 16.3, 16.6: an entry ends, with what its state loses, and an access that came meanwhile wakes
the domain, with its master; a wake ends, from OFF after a CRC failure, a channel's drift tracking having run; the wake limit; Glints, the
timer, GLINT_TEST, the thermal sample. What a dispatcher message, a ring's line and the mailbox make of the wake limit, the master of a
coprocessor and a ring, the drift that is found and how much of the retention store is used are the model's (log 4, log 16), and so is
the domain of a register that Table 16.1 does not place (log 10). -/
def Obligations.DomainsEnterAndWake : Prop :=
  (∀ (s : State) (d : Fin 15),
    ((∀ t, s.power.entering ≠ some (d.val, t)) → exec (.domainEntryComplete d) s = .next s) ∧
    (∀ t, s.power.entering = some (d.val, t) →
      ∃ s' : State, exec (.domainEntryComplete d) s = .next s' ∧ s'.dom d = t.toNat ∧ bitOf (s'.reg (domAt d)) 3 = false ∧
        bitOf (s'.reg (pwAt 8)) 0 = false ∧ s'.power.entering = none ∧ domLost s s' d t.toNat ∧
        let p := s.reg (pwAt (0x180 + 4 * d.val))
        (bitOf p 3 = false → bitOf p 4 = false → s'.power.waking = s.power.waking ∧ (11 ≤ d.val → t = 4 → memSlept s s' (d - 11))) ∧
        ((bitOf p 3 = true ∨ bitOf p 4 = true) → s.waking d = false → let src := if bitOf p 3 then 3 else 4
          let r := s'.reg (pwAt 0x200)
          s'.power.waking = s.power.waking ++ [(d.val, BitVec.ofNat 4 src)] ∧ bitOf (s'.reg (domAt d)) 4 = true ∧
          ext r 3 0 = src ∧ ext r 7 4 = d.val ∧
          ((∀ w, ¬waitsDom s' d w) → ext r 21 8 = 0 ∧ bitOf r 22 = decide ((src, d.val) ∈ s.power.tests)) ∧
          ((∃ w, waitsDom s' d w) → ∃ w, waitsDom s' d w ∧ bitOf r 22 = false ∧ ∀ n, masterOf w = some n → ext r 21 8 = n)))) ∧
  (∀ (s : State) (d : Fin 15) (crcOk : Bool),
    let kept := s.dom d = 2 ∨ s.dom d = 4
    let bad := kept ∧ (crcOk = false ∨ d.val ∈ s.power.badRet)
    (s.waking d = false → exec (.domainWakeComplete d crcOk) s = .next s) ∧
    (s.waking d = true → nobodyWaits s →
      (¬bad → ∃ s' : State, exec (.domainWakeComplete d crcOk) s = .next s' ∧ awake s s' d ∧
        s' = { s with csr := s'.csr, power := s'.power, free := s'.free, dchans := s'.dchans } ∧ (d.val < 11 → s'.dchans = s.dchans) ∧
        (∀ k, s'.dchan k = { s.dchan k with drift := (s'.dchan k).drift } ∧ (k / 4 + 11 ≠ d ∨ mmF s k 4 2 0 ≠ 5 → s'.dchan k = s.dchan k)) ∧
        (∀ k, k / 4 + 11 = d → mmF s' k 4 2 0 = if mmF s k 4 2 0 = 5 then 3 else mmF s k 4 2 0) ∧
        ∀ o, o ≠ domAt d → (o = pwAt 0x230 → ¬kept) → (d.val < 11 ∨ ∀ k, k < 16 → o ≠ mmAt k 4) → s'.reg o = s.reg o) ∧
      (bad → ∃ s' : State, exec (.domainWakeComplete d crcOk) s = .next s' ∧ awake s s' d ∧ logged s s' 12 2 2 d 0 ∧
        bitOf (s'.reg (pwAt 0x230)) 16 = true ∧ ext (s'.reg (pwAt 0x230)) 20 17 = d ∧
        (3 ≤ d.val → d.val ≤ 6 → quadLost s s' (d - 3) true) ∧ (7 ≤ d.val → d.val ≤ 10 → linkLost s s' (d - 7) true) ∧
        (11 ≤ d.val → memReset s s' (d - 11)))) ∧
    (∀ x, s.waking d = true → ¬bad → d.val < 11 → s.power.stalled = [x] → (∀ t, (s.thread t).await = none ∧ (s.thread t).stores = []) →
      x.m = .host → x.sp = .bar0 → domOfReg x.off.toNat = d → s.entering d = false → (d = 0 ∨ d = 2 ∨ d = 1 ∨ s.domOn 1 = true) →
      s.pins.cclkLost = false → s.writable x.off.toNat = true → plainAt x.off.toNat → ∃ s' : State, exec (.domainWakeComplete d crcOk) s = .next s' ∧
        awake s s' d ∧ s'.power.stalled = [] ∧ (x.wr = true → s'.reg x.off.toNat = codedWrite s x.off.toNat (x.v.setWidth 28) 0) ∧
        (x.wr = false → s'.readData = BitVec.ofNat 64 (s.reg x.off.toNat).toNat)) ∧
    (∀ (t : Fin 1024) (w : Await), s.waking d = true → ¬bad → 3 ≤ d.val → d.val ≤ 6 → s.power.stalled = [] → (s.thread t).stores = [] →
      (∀ u, u ≠ t.val → (s.thread u).await = none ∧ (s.thread u).stores = []) → (s.thread t).await = some w → w.ans = none → w.cpm = none →
      w.cas = none → w.st = none →
      (∀ s', exec (.domainWakeComplete d crcOk) s = .next s' → onChip s' t w.addr.toNat w.pair) → (∀ k ∈ s.dchans, k.2.reqs = []) →
      ∃ s' : State, exec (.domainWakeComplete d crcOk) s = .next s' ∧ awake s s' d ∧
        (s'.thread t).await = some { w with ans := some (if cellBad s t w.addr.toNat w.pair then .fault 8 else .value (cellVal s t w.addr.toNat w.pair)) })) ∧
  (∀ (s : State) (d : Fin 15),
    ((∀ w, waitsDom s d w → ¬limitPassed s w) → exec (.wakeTimeout d) s = .next s) ∧
    (∀ w, waitsDom s d w → limitPassed s w → ∃ (s' : State) (x : Waiter), exec (.wakeTimeout d) s = .next s' ∧ waitsDom s d x ∧
      limitPassed s x ∧ timedOut s s' x ∧
      ext (s'.reg (pwAt 0x228)) 3 0 = d ∧ ext (s'.reg (pwAt 0x228)) 19 4 = min (ext (s.reg (pwAt 0x228)) 19 4 + 1) 65535 ∧
      s'.power.waking = s.power.waking ∧ ((∀ t a, x ≠ .gather t a) → (∀ r run i, x ≠ .ring r run i) → logged s s' 12 1 2 d 0))) ∧
  (∀ (s : State) (src : Fin 14) (d : Fin 15),
    let fires := (src = 5 ∧ 7 ≤ d.val ∧ d.val ≤ 10 ∧ s.dom d ≠ 0) ∨ src = 6 ∨ src = 9 ∨ src = 10 ∨ (src = 13 ∧ 3 ≤ d.val)
    (¬fires → exec (.glint src d) s = .next s) ∧
    (fires → ∃ s' : State, exec (.glint src d) s = .next s' ∧ onlyPower s s' ∧ glints s s' src d false)) ∧
  (∀ s : State, let us := ext (s.reg (pwAt 0x210)) 19 0
    let d := ext (s.reg (pwAt 0x210)) 23 20
    (∀ v : BitVec 32, writesReg s (pwAt 0x210) → ∃ s' : State, exec (.csrWrite .host .bar0 (BitVec.ofNat 26 (pwAt 0x210)) v 0) s = .next s' ∧
      ext (s'.reg (pwAt 0x210)) 23 0 = ext v 23 0 ∧ s'.power = { s.power with timerAt := s.uclk + 200 * ext v 19 0 }) ∧
    (us = 0 ∨ d = 15 ∨ s.uclk < s.power.timerAt → exec .wakeTimer s = .next s) ∧
    (us ≠ 0 → d ≠ 15 → s.power.timerAt ≤ s.uclk → ∃ s' : State, exec .wakeTimer s = .next s' ∧ onlyPower s s' ∧ ext (s'.reg (pwAt 0x210)) 19 0 = 0 ∧
      ext (s'.reg (pwAt 0x210)) 27 20 = ext (s.reg (pwAt 0x210)) 27 20 ∧ glints s s' 7 d false)) ∧
  (∀ (s : State) (v : Pair), writesReg s (pwAt 0x214) → let src := ext v 3 0
    let d := ext v 7 4
    let fires := bitOf v 8 = true ∧ 3 ≤ src ∧ src ≤ 13 ∧ d < 15
    ∃ s' : State, exec (.glintTest v) s = .next s' ∧ onlyPower s s' ∧ s'.reg (pwAt 0x214) = BitVec.ofNat 28 (v.toNat % 256) ∧
      (¬fires → s'.power = s.power ∧ ∀ o, o ≠ pwAt 0x214 → s'.reg o = s.reg o) ∧ (fires → glints s s' src d true)) ∧
  (∀ (s : State) (temp : BitVec 8), let n := temp.toNat
    let th := s.reg (pwAt 0x224)
    let fires := ext th 7 0 < ext th 15 8 ∧ ext th 15 8 ≤ n
    (s.inReset = true ∨ s.uclk < s.thermalAt + 200000 → exec (.thermalSample temp) s = .next s) ∧
    (s.inReset = false → s.thermalAt + 200000 ≤ s.uclk → ∃ s' : State, exec (.thermalSample temp) s = .next s' ∧ ext (s'.reg (pwAt 0x224)) 7 0 = n ∧ s'.thermalAt = s.thermalAt + 200000 ∧
      ext (s'.reg (pwAt 0x224)) 15 8 = ext th 15 8 ∧
      (105 ≤ n → ext (s'.reg (pwAt 0x220)) 2 0 = 7 ∧ bitOf (s'.reg (pwAt 0x224)) 16 = true) ∧
      (n < 105 → s'.reg (pwAt 0x220) = s.reg (pwAt 0x220) ∧ bitOf (s'.reg (pwAt 0x224)) 16 = bitOf th 16) ∧
      (fires → n < 115 → logged s s' 12 3 2 0 (s'.reg (pwAt 0x224)).toNat) ∧ (fires → glints s s' 8 1 false) ∧
      (¬fires → s'.power = s.power ∧ (n < 115 → ∀ o, ¬inPwr o → s'.reg o = s.reg o)) ∧
      (115 ≤ n → s.fatal = 0 → (s'.fatal = 1 ∨ s'.fatal = 2) ∧ ext (s'.reg 0x3400040) 4 0 = 0x14 ∧ ext (s'.reg 0xC) 2 0 = 5) ∧
      (n < 115 ∨ s.fatal ≠ 0 → s'.fatal = s.fatal)))

namespace Sys2Proof.Spec

/-! ## The error log and the fatal path -/

/-- Pair k of log entry i. -/
abbrev logAt (i k : Nat) : Nat := 0x3401000 + 0x20 * i + 4 * k
/-- Records that the host, or Umbra, has not consumed. -/
def unreadBy (s : State) (rd : Nat) : Nat := (ext (s.reg 0x3400008) 8 0 + 512 - ext (s.reg rd) 8 0) % 512
/-- Entry i holds a CORRECTED record with the SOURCE, CODE and UNIT of the event. -/
def sameRecord (s : State) (e : ErrEvent) (i : Nat) : Prop :=
  ext (s.reg (logAt i 0)) 17 0 = e.unit % 256 + 256 * (e.src % 16) + 4096 * (e.code % 64) ∧ ext (s.reg (logAt i 0)) 26 25 = 0
/-- Entry of the j-th record that the host has not consumed. -/
def unreadAt (s : State) (j : Nat) : Nat := (ext (s.reg 0x340000C) 8 0 + j) % 256
/-- Unread records of this CCLK before record n (R448). -/
def peersOf (s : State) (n : Nat) : Nat :=
  if s.errAt.1 = s.instant then min ((n + 512 - s.errAt.2) % 512) (unreadBy s 0x340000C) else 0
/-- A DEVICE record, or UNREAD that has reached THRESH: vector 29, once in a CCLK (R406). -/
def alerted (s s' : State) : Prop := s'.alertAt = some s.instant ∧ (s.alertAt ≠ some s.instant → vectorSent s s' 0 29)
/-- An error is reported: coalesced; written, behind the records of the same CCLK that its SOURCE and UNIT do not precede, each entry
keeping its SEQ; or lost (R447 to R449, R406, Tables 18.1, 18.2). -/
def reported (s s' : State) (e : ErrEvent) : Prop :=
  let n := ext (s.reg 0x3400008) 8 0
  let back (j : Nat) : Nat := (n + 512 - j) % 256
  let key := e.unit % 256 + 256 * (e.src % 16)
  let keyAt (i : Nat) : Nat := ext (s.reg (logAt i 0)) 11 0
  let coalesced := e.cls = 0 ∧ ∃ j, j < unreadBy s 0x340000C ∧ sameRecord s e (unreadAt s j)
  let free := unreadBy s 0x340000C < 256 ∧ (bitOf (s.reg 0x3400004) 9 = true → unreadBy s 0x3400010 < 256)
  let thresh := ext (s.reg 0x3400004) 8 0
  s' = { s with csr := s'.csr, page := s'.page, pba := s'.pba, out := s'.out, errSeq := s'.errSeq, errAt := s'.errAt, alertAt := s'.alertAt } ∧
  (∀ o, ¬inErr o → s'.reg o = s.reg o) ∧
  (∀ j, e.cls = 0 → j < unreadBy s 0x340000C → sameRecord s e (unreadAt s j) → (∀ i, i < j → ¬sameRecord s e (unreadAt s i)) →
    let p := logAt (unreadAt s j) 3
    onlyRegs s s' ∧ ext (s'.reg p) 13 0 = min (ext (s.reg p) 13 0 + 1) 16383 ∧ ext (s'.reg p) 27 14 = ext (s.reg p) 27 14 ∧
      ∀ o, o ≠ p → s'.reg o = s.reg o) ∧
  (¬coalesced → free → ext (s'.reg 0x3400008) 8 0 = (n + 1) % 512 ∧ s'.errSeq = s.errSeq + 1 ∧ s'.reg (logAt (n % 256) 1) = s.errSeq ∧
    s'.errAt = (if s.errAt.1 = s.instant then s.errAt else (s.instant, n)) ∧
    (∃ j, j ≤ peersOf s n ∧ (j < peersOf s n → keyAt (back (j + 1)) ≤ key) ∧
      (∀ i, i < j → key < keyAt (back (i + 1)) ∧ ∀ k, k < 8 → k ≠ 1 → s'.reg (logAt (back i) k) = s.reg (logAt (back (i + 1)) k)) ∧
      let r (k : Nat) : Pair := s'.reg (logAt (back j) k)
      ext (r 0) 7 0 = e.unit % 256 ∧ ext (r 0) 11 8 = e.src % 16 ∧ ext (r 0) 17 12 = e.code % 64 ∧
      ext (r 0) 18 18 = (if e.slice = none then 0 else 1) ∧ ext (r 0) 24 19 = e.slice.getD 0 % 64 ∧ ext (r 0) 26 25 = e.cls % 4 ∧
      ext (r 0) 27 27 = 1 ∧ r 2 = BitVec.ofNat 28 s.tick.toNat ∧ ext (r 3) 13 0 = 1 ∧ ext (r 3) 16 14 = e.mkind % 8 ∧
      ext (r 3) 26 17 = e.mid % 1024 ∧ ∀ k, k < 4 → r (4 + k) = BitVec.ofNat 28 (e.info.getD k 0)) ∧
    (e.cls = 2 → alerted s s' ∧ (bitOf (s.reg 0x3400004) 10 = true → bitOf (s'.reg 0x3400000) 10 = true)) ∧
    (unreadBy s 0x340000C < thresh → thresh ≤ (n + 1 + 512 - ext (s.reg 0x340000C) 8 0) % 512 → alerted s s') ∧
    (e.cls ≠ 1 → s.alertAt = some s.instant → s'.out = s.out ∧ s'.pba = s.pba) ∧
    (∀ i, e.cls = 1 → e.slice = some i → eventSet s' i 4 ∧ (bitOf (s.pageReg i 0x2004) 4 = false → vectorSent s s' i 20))) ∧
  (¬coalesced → ¬free → onlyRegs s s' ∧ bitOf (s'.reg 0x3400000) 9 = true ∧
    (e.cls = 0 → ext (s'.reg 0x3400014) 13 0 = min (ext (s.reg 0x3400014) 13 0 + 1) 16383 ∧
      ext (s'.reg 0x3400014) 27 14 = ext (s.reg 0x3400014) 27 14) ∧
    (e.cls ≠ 0 → ext (s'.reg 0x3400014) 27 14 = min (ext (s.reg 0x3400014) 27 14 + 1) 16383 ∧
      ext (s'.reg 0x3400014) 13 0 = ext (s.reg 0x3400014) 13 0) ∧
    ∀ o, o ≠ 0x3400000 → o ≠ 0x3400014 → s'.reg o = s.reg o)
/-- The DRAM lines stand, though what a line holds after its wipe has changed: one that holds just that is no longer listed. -/
def linesStand (s s' : State) : Prop := ∀ l x, (l, x) ∈ s'.lines ↔ (l, x) ∈ s.lines ∧ x ≠ s'.wiped l
/-- The fatal sequencer begins, once: the first two steps of Table 18.6; HALT is sent once every HALT flit has left (R452, R453). -/
def fatalBegins (s s' : State) (code : Nat) : Prop :=
  let sends (p : Fin 32) : Prop := bitOf (s.reg (lkAt p 4)) 4 = true ∧ rinek s p
  (s.fatal ≠ 0 ∨ s.inReset = true → s' = s) ∧
  (s.fatal = 0 → s.inReset = false → s'.pins = { s.pins with fatalN := true } ∧ ext (s'.reg 0xC) 2 0 = 5 ∧
    bitOf (s'.reg 0x3400000) 11 = true ∧ s'.savedExts = s.exts ∧ linesStand s s' ∧ (∀ p, p ∈ s'.halts ↔ sends p) ∧
    ((∃ p, sends p) → s'.fatal = 1 ∧ s'.reg 0x3400040 = BitVec.ofNat 28 (code + 32)) ∧
    ((∀ p, ¬sends p) → s'.fatal = 2 ∧ s'.reg 0x3400040 = BitVec.ofNat 28 (code + 32 + 64)) ∧
    s'.reg 0x3400044 = BitVec.ofNat 28 s.tick.toNat ∧ s'.reg 0x3400048 = BitVec.ofNat 28 s.epc.epoch.toNat ∧
    s'.reg 0x340004C = 0 ∧ s'.reg 0x3400050 = 0 ∧
    (∀ p : Fin 32, (sends p → s'.port p = { s.port p with txq := [flitHalt 16 s.epc.epoch], feed := [] }) ∧ (¬sends p → s'.port p = s.port p)) ∧
    logged s s' 12 code 3 0 (code + 32) ∧
    s' = { s with csr := s'.csr, fatal := s'.fatal, savedExts := s'.savedExts, pins := s'.pins, ports := s'.ports, pba := s'.pba, out := s'.out,
                  errSeq := s'.errSeq, errAt := s'.errAt, alertAt := s'.alertAt, halts := s'.halts, lines := s'.lines })
/-- Step 2 of Table 18.6 goes on: a port of `halts` whose HALT flit has left is recorded; HALT has been sent once none is awaited. -/
def haltsLeave (s s' : State) : Prop :=
  let up (p : Fin 32) : Prop := bitOf (s.reg (lkAt p 4)) 4 = true
  let awaited (p : Fin 32) : Prop := p ∈ s.halts ∧ up p ∧ ∃ f ∈ (s.port p).txq, ext f 255 252 = 4 ∧ ext (fword f 0) 3 0 = 4 ∧ ext (fword f 1) 4 0 = 16
  (s.fatal ≠ 1 → s' = s) ∧
  (s.fatal = 1 → s' = { s with csr := s'.csr, fatal := s'.fatal, halts := s'.halts } ∧ (∀ p, p ∈ s'.halts ↔ awaited p) ∧
    (∀ p : Fin 32, bitOf (s'.reg (0x340004C + 4 * (p.val / 16))) (p.val % 16) = true ↔
      bitOf (s.reg (0x340004C + 4 * (p.val / 16))) (p.val % 16) = true ∨ (p ∈ s.halts ∧ ¬awaited p ∧ up p)) ∧
    ((∃ p, awaited p) → s'.fatal = 1 ∧ s'.reg 0x3400040 = s.reg 0x3400040) ∧
    ((∀ p, ¬awaited p) → s'.fatal = 2 ∧ ∀ b, b < 28 → bitOf (s'.reg 0x3400040) b = (bitOf (s.reg 0x3400040) b || decide (b = 6))) ∧
    ∀ o, o ≠ 0x3400040 → o ≠ 0x340004C → o ≠ 0x3400050 → s'.reg o = s.reg o)
/-- An uncorrectable entry costs its item (R450). -/
def itemLost (s s' : State) : Sram → Prop
  | .lumenWord a => s' = { s with poison := s'.poison } ∧ s'.poisoned a.toNat = true ∧ ∀ b, b ≠ a.toNat → s'.poisoned b = s.poisoned b
  | .imem c a => s' = { s with poison := s'.poison } ∧ ∀ b, s'.poisoned b = (decide (b = 2 ^ 42 + 2 ^ 16 * c.val + a.toNat) || s.poisoned b)
  | .waveFlit k => s'.pkt? k = none ∧ (∀ j, j ≠ k → (s'.pkt? j).map (fun p => { p with xseq := 0 }) = (s.pkt? j).map fun p => { p with xseq := 0 }) ∧
      ((∀ p, s.pkt? k = some p → p.counted = false) → ∀ j, j ≠ k → s'.pkt? j = s.pkt? j) ∧ s'.threads = s.threads ∧ s'.mem = s.mem
  | .outFlit o => s'.eout? o = none ∧ (∀ j, j ≠ o → s'.eout? j = s.eout? j) ∧ s' = { s with eouts := s'.eouts, pkts := s'.pkts } ∧
      ∀ j, s'.pkt? j = if (s.eout? o).bind (·.pkt) = some j then (s.pkt? j).bind fun p =>
          if p.ended = true ∧ p.uses - 1 = 0 ∧ p.link ≠ .open then none else some { p with uses := p.uses - 1 }
        else s.pkt? j
  | .other _ _ _ => s' = s
  | .rule q b i => s' = { s with prs := s'.prs } ∧ SMap.find? (s'.prsQ q).rules (4096 * (if b then 1 else 0) + i.val) = none ∧
      (s'.prsQ q).steps = (s.prsQ q).steps ∧
      ∀ j, j ≠ 4096 * (if b then 1 else 0) + i.val → SMap.find? (s'.prsQ q).rules j = SMap.find? (s.prsQ q).rules j
  | .prsStep q i => (s'.prsQ q).rules = (s.prsQ q).rules ∧ s'.csr = s.csr ∧
      ∀ j, j ≠ i.val → SMap.get 0 (s'.prsQ q).steps j = SMap.get 0 (s.prsQ q).steps j
  | .format q i => onlyRegs s s' ∧ bitOf (s'.reg (0x800000 + 0x100000 * q.val + 0x200 + 4 * i.val)) 27 = false ∧
      ∀ o, o ≠ 0x800000 + 0x100000 * q.val + 0x200 + 4 * i.val → s'.reg o = s.reg o
  | .etype q i => onlyRegs s s' ∧ bitOf (s'.reg (0x800000 + 0x100000 * q.val + 0x240 + 4 * i.val)) 27 = false ∧
      ∀ o, o ≠ 0x800000 + 0x100000 * q.val + 0x240 + 4 * i.val → s'.reg o = s.reg o
  | .portset q i => let o := 0x800000 + 0x100000 * q.val + 0x800 + 8 * i.val
      onlyRegs s s' ∧ s'.reg o = 0 ∧ s'.reg (o + 4) = 0 ∧ ∀ p, p ≠ o → p ≠ o + 4 → s'.reg p = s.reg p
  | .fwdEntry q p => s' = { s with fwd := s'.fwd } ∧ SMap.find? (s'.fwdQ q).tab p.toNat = none ∧
      ∀ j, j ≠ p.toNat → SMap.find? (s'.fwdQ q).tab j = SMap.find? (s.fwdQ q).tab j
  | .slot q i => let x := s.slot q i
      (x.st = .free → s' = s) ∧ (x.st ≠ .free → (s'.slot q i).st = .free ∧ (s'.slot q i).last = 3 ∧ s'.threads = s.threads)
  | .chanQueue ch => let x := s.chan ch
      (x.msgs = [] → s' = s) ∧ (x.msgs ≠ [] → s' = { s with chans := s'.chans, csr := s'.csr } ∧ s'.chan ch = { x with msgs := x.msgs.tail } ∧
        ∀ k, k ≠ ch.val → s'.chan k = s.chan k)
  | .semaphore i => s'.sem i = (if (s.sem i).held then broke (s.sem i) else s.sem i) ∧ ∀ j, j ≠ i.val → s'.sem j = s.sem j
  | .retryBuffer p => (lkState s p = 6 → rinek s p → retrains s s' p) ∧ (lkState s p ≠ 6 ∨ ¬rinek s p → s' = s)
  | .umbra => True
  | .retention d => s' = { s with power := { s.power with badRet := s'.power.badRet } } ∧ ∀ e, e ∈ s'.power.badRet ↔ e = d.val ∨ e ∈ s.power.badRet
/-- Source of an item's errors (Table 18.3). -/
def itemSource (s : State) : Sram → Nat
  | .lumenWord a => if (decide (top s ≤ a.toNat) && inWave a.toNat) = true then 5 else 6
  | .imem _ _ => 6
  | .waveFlit _ => 5
  | .outFlit _ => 5
  | .other src _ _ => src.val
  | .rule _ _ _ => 3
  | .prsStep _ _ => 3
  | .format _ _ => 3
  | .etype _ _ => 3
  | .portset _ _ => 3
  | .fwdEntry _ _ => 4
  | .slot _ _ => 5
  | .chanQueue _ => 6
  | .semaphore _ => 8
  | .retryBuffer _ => 2
  | .umbra => 12
  | .retention _ => 12
/-- Umbra does not act: a reset holds the device, or boot has stopped (R432, R443). -/
def umbraHolds (s : State) : Prop := s.inReset = true ∨ s.boot.stopped = true
/-- A register write by Umbra waits for its domain (R418). -/
def umbraStalls (s s' : State) (o : Nat) (v : Pair) : Prop :=
  (∃ x, s'.power.stalled = s.power.stalled ++ [x] ∧ x.off.toNat = o ∧ x.v = v.setWidth 32 ∧ x.wr = true ∧ x.m = .umbra ∧ x.domain = domOfReg o) ∧
    s' = { s with csr := s'.csr, power := s'.power } ∧ ∀ p, ¬inPwr p → s'.reg p = s.reg p
/-- Its error is of class SLICE. -/
def itemOfSlice : Sram → Prop
  | .lumenWord _ => True
  | .imem _ _ => True
  | .waveFlit _ => True
  | .outFlit _ => True
  | _ => False

end Sys2Proof.Spec

/-- R445 to R451, R458, R468, Tables 18.1 to 18.3: the read counts move forward to WR at most; POST writes a FIRMWARE record; a write by
Umbra waits for its domain; an SRAM error is corrected and counted, or costs its item and is recorded. How UNIT and INFO number instances
and entries is the model's (log 17), and what a cycle of CCLK is for the order of records (log 2). -/
def Obligations.ErrorsAreLoggedAndSramItemsLost : Prop :=
  (∀ (s : State) (v : Pair) (c : Instr) (o : Nat),
    (c = .umbRdWrite v ∧ o = 0x3400010) ∨ (c = .post v ∧ o = 0x3400018) ∨ (c = .fatalRequest ∧ o = 0x3400034 ∧ v = 1) →
    (umbraHolds s → exec c s = .next s) ∧ (¬umbraHolds s → s.regAwake o = false → ∃ s' : State, exec c s = .next s' ∧ umbraStalls s s' o v)) ∧
  (∀ (s : State) (v : Pair) (c : Instr) (o : Nat),
    (c = .hostRdWrite v ∧ o = 0x340000C ∧ writesReg s o) ∨ (c = .umbRdWrite v ∧ o = 0x3400010 ∧ ¬umbraHolds s ∧ s.regAwake o = true) →
    let old := ext (s.reg o) 8 0
    let between := (ext v 8 0 + 512 - old) % 512 ≤ (ext (s.reg 0x3400008) 8 0 + 512 - old) % 512
    (¬between → exec c s = .next s) ∧
    (between → ∃ s' : State, exec c s = .next s' ∧ onlyRegs s s' ∧ ext (s'.reg o) 8 0 = ext v 8 0 ∧ ∀ p, p ≠ o → s'.reg p = s.reg p)) ∧
  (∀ (s : State) (v : Pair), ¬umbraHolds s → s.regAwake 0x3400018 = true →
    (∃ s1 : State, onlyRegs s s1 ∧ s1.reg 0x3400018 = BitVec.ofNat 28 (v.toNat % 2 ^ 17) ∧
      (∀ o, o ≠ 0x3400018 → s1.reg o = s.reg o) ∧
      (bitOf v 17 = false ∨ ext v 1 0 = 3 → exec (.post v) s = .next s1) ∧
      (bitOf v 17 = true → ext v 1 0 ≠ 3 → ∃ s' : State, exec (.post v) s = .next s' ∧
        reported s1 s' { src := 12, code := 4, cls := ext v 1 0, unit := ext v 16 9, slice := if bitOf v 8 then some (ext v 7 2) else none,
                         mkind := 5, info := (List.range 4).map fun k => (s.reg (0x3400020 + 4 * k)).toNat }))) ∧
  (∀ (s : State) (item : Sram), item ≠ .umbra →
    (∃ (s' : State) (unit idx : Nat), exec (.sramError item false) s = .next s' ∧
      reported s s' { src := itemSource s item, code := 0x3E, cls := 0, unit := unit, info := [idx] }) ∧
    ∃ (s1 s' : State) (unit idx i : Nat), exec (.sramError item true) s = .next s' ∧ itemLost s s1 item ∧
      (itemOfSlice item → reported s1 s' { src := itemSource s item, code := 0x3F, cls := 1, unit := unit, slice := some i, info := [idx] }) ∧
      (¬itemOfSlice item → reported s1 s' { src := itemSource s item, code := 0x3F, cls := 2, unit := unit, info := [idx] })) ∧
  (∀ s : State, (∃ (s' : State) (unit idx : Nat), exec (.sramError .umbra false) s = .next s' ∧
      reported s s' { src := 12, code := 0x3E, cls := 0, unit := unit, info := [idx] }) ∧
    ∃ s' : State, exec (.sramError .umbra true) s = .next s' ∧ fatalBegins s s' 0x12)

/-- R452 to R454, R463, R468, Tables 18.5 to 18.7: the watchdog, and each fatal cause starts the sequencer once; a HALT flit that has left is
recorded; step 3 and 4; a lost LINK reference clock sends its ports to DETECT; a lost system reference clock stops CCLK. -/
def Obligations.FatalSequenceAndLostClocks : Prop :=
  (∀ s : State,
    let due := s.boot.kickAt + 200000 * max 1 (ext (s.reg 0x3400030) 9 0) ≤ s.uclk
    (s.inReset = true ∨ s.regAwake 0x3400030 = false → exec .kick s = .next s) ∧
    (s.inReset = false → s.regAwake 0x3400030 = true → exec .kick s = .next { s with boot := { s.boot with kickAt := s.uclk } }) ∧
    (¬due → exec .wdog s = .next s) ∧ (due → ∃ s' : State, exec .wdog s = .next s' ∧ fatalBegins s s' 0x10) ∧
    (∃ s' : State, exec .umbraDoubleFault s = .next s' ∧ fatalBegins s s' 0x11) ∧
    (¬umbraHolds s → s.regAwake 0x3400034 = true → ∃ s' : State, exec .fatalRequest s = .next s' ∧ fatalBegins s s' 0x13)) ∧
  (∀ (s : State) (trained : BitVec 16), ∃ s1 : State, haltsLeave s s1 ∧
    let st (k : Nat) : Nat := mmF s k 4 2 0
    let sleeps (k : Nat) : Prop := serves s k ∨ st k = 5 ∨ (st k = 1 ∧ bitOf trained k = true)
    (s1.fatal ≠ 2 → exec (.fatalSrComplete trained) s = .next s1) ∧
    (s1.fatal = 2 → ∃ s' : State, exec (.fatalSrComplete trained) s = .next s' ∧ s'.fatal = 4 ∧ s'.wipe = none ∧ (∀ k, k < 16 → (s'.dchan k).wiping = none) ∧ s'.out = s.out ++ [.errFatal] ∧
      s'.lines = s.lines ∧ s'.savedExts = s.savedExts ∧ s'.threads = s.threads ∧
      (∀ k, k < 16 → (sleeps k → mmF s' k 4 2 0 = 5 ∧ mmF s' k 0x18 23 0 = 0) ∧ (¬sleeps k → mmF s' k 4 2 0 = if st k = 1 then 0 else st k) ∧
        (bitOf (s'.reg 0x3400040) (9 + k) = true ↔ sleeps k)) ∧
      bitOf (s'.reg 0x3400040) 7 = true ∧ bitOf (s'.reg 0x3400040) 8 = true ∧ ext (s'.reg 0x3400040) 6 0 = ext (s1.reg 0x3400040) 6 0)) ∧
  (∀ (s : State) (q : Fin 4), ∃ s' : State, exec (.refclkLnLoss q) s = .next s' ∧ ∀ p : Fin 32,
    let lost := p.val / 8 = q ∧ lkState s p ≠ 0 ∧ lkState s p ≠ 8
    (lost → lkState s' p = 1 ∧ linkGone s s' p) ∧ (¬lost → s'.port p = s.port p ∧ lkState s' p = lkState s p)) ∧
  ∀ s : State, exec .refclkSysLoss s = .next { s with pins := { s.pins with cclkLost := true } }

namespace Sys2Proof.Spec

/-! ## Resets and boot -/

abbrev seAt (o : Nat) : Nat := 0x2E00000 + o
/-- The life-cycle code of the fuses (Table 17.5), and a wipe that is owed (R442). -/
def lcOf (o : Otp) : Nat :=
  if bitOf o.started 3 then 4 else if bitOf o.started 2 then 3 else if bitOf o.started 1 then 2 else if bitOf o.started 0 then 1 else 0
/-- A slot is programmed; and it verifies. -/
def slotValid (o : Otp) (i : Nat) : Prop := SMap.get 0 o.keys i ≠ 0
def slotGood (o : Otp) (i : Nat) : Prop := slotValid o i ∧ bitOf o.revoked i = false
/-- 512 bits, or 256, as octets, least significant first (R436). -/
def octetsOf (n v : Nat) : List Octet := (List.range n).map fun i => BitVec.ofNat 8 (v / 2 ^ (8 * i))
/-- The number that octets spell, least significant first. -/
def numOf (o : List Octet) : Nat := ((o.zipIdx).map fun x => x.1.toNat * 2 ^ (8 * x.2)).sum
/-- The identity seed of the boot (R438). -/
def seedOf (o : Otp) : BitVec 256 :=
  BitVec.ofNat 256 (numOf (shake256 ([0x49#8, 0x44#8, BitVec.ofNat 8 (lcOf o)] ++ octetsOf 32 o.uds.toNat) 32))
/-- The boot ROM has run steps 1 to 4 (Table 17.4): it waits for an image, but in SCRAPPED and in RECOVERY, where boot stops. -/
def bootRuns (s' : State) (o : Otp) (straps : Nat) : Prop :=
  let x := s'.boot
  x.kickAt = s'.uclk ∧ x.running = false ∧ x.seed = (if lcOf o = 0 ∨ lcOf o = 4 then none else some (seedOf o)) ∧ x.meas = [] ∧ x.unsignedMark = [] ∧
    x.restoredMark = [] ∧ x.tokenRma = false ∧ x.tokenRevoke = [] ∧ x.mbox = none ∧ x.links = [] ∧
    (x.stopped = true ↔ lcOf o = 4 ∨ straps % 4 = 1) ∧ (lcOf o ≠ 4 → straps % 4 = 1 → bitOf (s'.reg 0x3400000) 10 = true ∧ s'.pins.spiOff = true) ∧
    x.otp = if lcOf o = 4 then { o with wiped := o.wiped ||| 8 } else o
/-- Everything is at its reset value but the registers, the DRAM lines, the copies that survive, the fuses and the pins. -/
def allCleared (s s' : State) : Prop :=
  s' = { State.reset with pending := s.pending, free := s'.free, nextId := s.nextId, out := s.out, csr := s'.csr, uclk := s'.uclk,
                          thermalAt := s'.thermalAt, lines := s'.lines, errSeq := s'.errSeq, savedExts := s'.savedExts, boot := s'.boot, pins := s'.pins }
/-- Bits of a register that SYS_RESET_N leaves: GEN.STRAPS, TRAIN_CTL.KEEP, the REFUSE counters, the log, its counts and LOST, STATUS.FATAL and
the fatal record (R35, R359, R425, R455). -/
def keptBit (o b : Nat) : Bool :=
  decide (o = 0x14) || (decide (0x2000000 ≤ o ∧ o < 0x2400000 ∧ o % 0x40000 = 0xC) && decide (b = 1)) ||
    decide (0x2C001C0 ≤ o ∧ o < 0x2C001FC ∧ b < 16) || (decide (o = 0x3400000) && decide (b = 11)) || decide (0x3400008 ≤ o ∧ o ≤ 0x3400014 ∧ o % 4 = 0) ||
    decide (0x3400040 ≤ o ∧ o ≤ 0x3400050) || decide (0x3401000 ≤ o ∧ o < 0x3403000)
/-- What SYS_RESET_N leaves (R425, R455, R464). -/
def sysKept (s s' : State) : Prop :=
  allCleared s s' ∧ s'.uclk = s.uclk ∧ s'.thermalAt = s.thermalAt ∧ linesStand s s' ∧ s'.errSeq = s.errSeq ∧ s'.savedExts = s.savedExts ∧
    ∀ o, o ≠ pwAt 0x200 → o ≠ pwAt 0x204 → o ≠ pwAt 0x208 → ∀ b, b < 28 → (o = 0x3400000 → b ≠ 10) →
      bitOf (s'.reg o) b = if keptBit o b then bitOf (s.reg o) b else bitOf (regInfo o).reset b
/-- The wake record of a SYS_RESET_N release (R421). -/
def sysRecorded (s s' : State) : Prop :=
  s'.reg (pwAt 0x208) = s.reg (pwAt 0x200) ∧ s'.reg (pwAt 0x204) = BitVec.ofNat 28 s.uclk ∧
    s'.reg (pwAt 0x200) = BitVec.ofNat 28 (2 + if bitOf (s.reg 0x3400040) 5 then 2 ^ 23 else 0)
/-- Octets i to i + n - 1, little-endian; and all of them zero. -/
def oct (o : List Octet) (i n : Nat) : Nat := numOf ((o.drop i).take n)
def zeros (o : List Octet) (i n : Nat) : Prop := ∀ x ∈ (o.drop i).take n, x = 0
/-- The directory of the flash is valid, with n entries (R427). -/
def dirValid (f : List Octet) (n : Nat) : Prop :=
  oct f 0 4 = 0x5A7D1440 ∧ n = oct f 4 1 ∧ 1 ≤ n ∧ n ≤ 16 ∧ zeros f 5 7 ∧
    oct f 12 4 = (~~~ crcBits 0x04C11DB7 0xFFFFFFFF (octetBits (f.take 12 ++ (f.drop 16).take (16 * n)))).toNat ∧
    ∀ e, e < n → zeros ((f.drop (16 + 16 * e)).take 16) 1 3 ∧ zeros ((f.drop (16 + 16 * e)).take 16) 12 4
/-- KIND and image of entry e. -/
def dirKind (f : List Octet) (e : Nat) : Nat := oct ((f.drop (16 + 16 * e)).take 16) 0 1
def dirImage (f : List Octet) (e : Nat) : List Octet :=
  (f.drop (oct ((f.drop (16 + 16 * e)).take 16) 4 4)).take (oct ((f.drop (16 + 16 * e)).take 16) 8 4)
/-- Parts of an image (R428, Table 17.2). -/
def signed (im : List Octet) : Bool := decide (oct im 7 1 ≠ 0xFF)
def pubOf (im : List Octet) : List Octet := if signed im then (im.drop 64).take 1952 else []
def bodyAt (im : List Octet) : Nat := if signed im then 2016 else 64
def bodyOf (im : List Octet) : List Octet := (im.drop (bodyAt im)).take (oct im 12 4)
def sigOf (im : List Octet) : List Octet := (im.drop (bodyAt im + oct im 12 4)).take 3309
def sizeOfImage (im : List Octet) : Nat := bodyAt im + oct im 12 4 + if signed im then 3309 else 0
def digestOf (im : List Octet) : List Octet := shake256 (im.take 64 ++ pubOf im ++ bodyOf im) 64
/-- IDPK_DIGEST (R438). -/
def idDigestOf (s : State) : List Octet := match s.boot.seed with
  | some x => shake256 (Config.mldsaPublicKey x) 32
  | none => octetsOf 32 0
/-- SLOT and KEY are skipped (R430). -/
def keylessFor (s : State) (kind : Nat) : Prop := lcOf s.boot.otp = 0 ∧ (∀ i, i < 4 → ¬slotValid s.boot.otp i) ∧ (kind = 1 ∨ kind = 3)
/-- A check of Table 17.3 fails for an image used as a kind; a LUMEN image has an allotment of n instructions. -/
def checkFails (s : State) (kind n : Nat) (im : List Octet) : Nat → Prop
  | 1 => oct im 0 4 ≠ 0x14405A70
  | 2 => oct im 4 2 ≠ 1 ∨ 2 ≤ oct im 10 2 ∨ ¬zeros im 28 36 ∨ (oct im 6 1 ≠ 1 ∧ oct im 6 1 ≠ 2 ∧ ¬zeros im 16 8)
  | 3 => oct im 6 1 ≠ kind
  | 4 => oct im 24 4 ≠ 0 ∧ oct im 24 4 ≠ 0x5A71440
  | 5 => oct im 12 4 = 0 ∨ 2 ^ 22 < oct im 12 4 ∨ im.length < sizeOfImage im ∨
      (kind = 2 ∧ (oct im 12 4 ≠ 4 * oct im 20 4 ∨ n < oct im 16 4 + oct im 20 4)) ∨ (kind = 1 ∧ 393216 < oct im 16 4 + oct im 12 4)
  | 6 => signed im = false ∧ (kind = 2 → lcOf s.boot.otp = 2 ∧ s.boot.otp.sigReq = true)
  | 7 => signed im = true ∧ ¬keylessFor s kind ∧ (4 ≤ oct im 7 1 ∨ ¬slotGood s.boot.otp (oct im 7 1))
  | 8 => signed im = true ∧ ¬keylessFor s kind ∧ numOf (shake256 (pubOf im) 32) ≠ (SMap.get 0 s.boot.otp.keys (oct im 7 1)).toNat
  | 9 => oct im 8 2 < s.boot.otp.svn.toNat
  | 10 => oct im 10 2 = 1 ∧ lcOf s.boot.otp = 2
  | 11 => signed im = true ∧ Config.mldsaVerify (pubOf im) (digestOf im) (sigOf im) = false
  | 12 => kind = 4 ∧ (¬zeros (bodyOf im) 2 14 ∨ (bodyOf im).drop 16 ≠ idDigestOf s)
  | _ => False
/-- The image imgPasses; or its CAUSE is the first check that fails (R429). -/
def imgPasses (s : State) (kind n : Nat) (im : List Octet) : Prop := ∀ c, ¬checkFails s kind n im c
def causeIs (s : State) (kind n : Nat) (im : List Octet) (c : Nat) : Prop :=
  checkFails s kind n im c ∧ ∀ d, d < c → ¬checkFails s kind n im d
/-- Register k has been extended with a value (R436). -/
def extended (s s' : State) (k : Nat) (x : List Octet) : Prop :=
  s'.meas k = BitVec.ofNat 512 (numOf (shake256 (octetsOf 64 (s.meas k).toNat ++ x) 64))
/-- The boot ROM waits for an image. -/
def romWaits (s : State) : Prop := s.inReset = false ∧ s.boot.running = false ∧ s.boot.stopped = false ∧ s.fatal = 0
/-- UMBRA entry e is the first that imgPasses, of a directory with n entries; or none imgPasses. -/
def bootsFrom (s : State) (f : List Octet) (n e : Nat) : Prop :=
  dirValid f n ∧ e < n ∧ dirKind f e = 1 ∧ imgPasses s 1 0 (dirImage f e) ∧ ∀ d, d < e → dirKind f d = 1 → ¬imgPasses s 1 0 (dirImage f d)
/-- BOOT_STATUS holds the last rejection before entry e (R432). -/
def lastRejected (s s' : State) (f : List Octet) (e : Nat) : Prop :=
  (∀ d c, d < e → dirKind f d = 1 → (∀ d', d < d' → d' < e → dirKind f d' ≠ 1) → causeIs s 1 0 (dirImage f d) c →
    ext (s'.reg (seAt 4)) 3 0 = c ∧ ext (s'.reg (seAt 4)) 7 4 = d) ∧
  ((∀ d, d < e → dirKind f d ≠ 1) → ext (s'.reg (seAt 4)) 7 0 = ext (s.reg (seAt 4)) 7 0)

end Sys2Proof.Spec

/-- R421, R423, R425, R426, R438, R443, R455, R463 to R465, Table 17.4: POR_N and VAON clear all but the fuses; SYS_RESET_N leaves what
R425 and R455 name and writes a wake record; the release of the last of them starts boot. What outlives a
reset beyond what those rules name, and that on-chip memories read zero after it, are the model's (log 5, log 16). -/
def Obligations.ResetsClearAndStartBoot : Prop :=
  (∀ (s : State) (c : Instr), c = .porAssert ∨ c = .vaonLow → ∃ s' : State, exec c s = .next s' ∧ allCleared s s' ∧
    (∀ o, s'.reg o = (regInfo o).reset) ∧ s'.lines = [] ∧ s'.savedExts = [] ∧ s'.errSeq = 0 ∧ s'.uclk = 0 ∧ s'.thermalAt = 0 ∧ s'.boot = { otp := s.boot.otp } ∧
    s'.pins = { porLow := true, sysLow := s.pins.sysLow, perstLow := s.pins.perstLow }) ∧
  (∀ (s : State) (straps : BitVec 8),
    (s.pins.porLow = false → exec (.porRelease straps) s = .next s) ∧
    (s.pins.porLow = true → ∃ s' : State, exec (.porRelease straps) s = .next s' ∧ allCleared s s' ∧ s'.lines = [] ∧ s'.savedExts = [] ∧ s'.errSeq = 0 ∧
      s'.reg 0x14 = BitVec.ofNat 28 straps.toNat ∧ (∀ o, o ≠ 0x14 → o ≠ 0x3400000 → s'.reg o = (regInfo o).reset) ∧ s'.pins.porLow = false ∧
      s'.pins.sysLow = s.pins.sysLow ∧ (s.pins.sysLow = true → s'.boot = { otp := s.boot.otp }) ∧
      (s.pins.sysLow = false → bootRuns s' s.boot.otp straps.toNat))) ∧
  (∀ s : State, SMap.rises s.csr = true →
    (s.pins.porLow = true → exec .sysResetAssert s = .next { s with pins := { s.pins with sysLow := true } }) ∧
    (s.pins.porLow = false → ∃ s' : State, exec .sysResetAssert s = .next s' ∧ sysKept s s' ∧ s'.boot = { otp := s.boot.otp } ∧
      (∀ o, o = pwAt 0x200 ∨ o = pwAt 0x204 ∨ o = pwAt 0x208 → s'.reg o = s.reg o) ∧ bitOf (s'.reg 0x3400000) 10 = false ∧
      s'.pins = { sysLow := true, perstLow := s.pins.perstLow })) ∧
  (∀ s : State, SMap.rises s.csr = true →
    (s.pins.sysLow = false → exec .sysResetRelease s = .next s) ∧
    (s.pins.sysLow = true → s.pins.porLow = true → exec .sysResetRelease s = .next { s with pins := { s.pins with sysLow := false } }) ∧
    (s.pins.sysLow = true → s.pins.porLow = false → ∃ s' : State, exec .sysResetRelease s = .next s' ∧ sysKept s s' ∧ sysRecorded s s' ∧
      bootRuns s' s.boot.otp (s.reg 0x14).toNat ∧ s'.pins.sysLow = false ∧ s'.pins.porLow = false))

/-- R427 to R432, R436 to R438, R457, R469, Tables 17.2 to 17.4: firmware starts from the first UMBRA entry that passes its checks, with
BOOT_STATUS, MEAS0, MEAS1 and STATE TRAINING; boot stops where none passes. That steps 5 to 8 are one command is the model's (log 16),
and ML-DSA is an opaque function (log 4). -/
def Obligations.BootStartsTheFirstImageThatPasses : Prop :=
  ∀ (s : State) (f : List Octet),
    let some' := ∃ n e, bootsFrom s f n e
    (¬romWaits s ∨ ¬some' → exec (.firmwareStart f) s = .next s) ∧
    (∀ n e, romWaits s → bootsFrom s f n e → ∃ s' : State, exec (.firmwareStart f) s = .next s' ∧
      let im := dirImage f e
      s'.boot.running = true ∧ s'.boot.fwSvn = BitVec.ofNat 7 (min (oct im 8 2) 64) ∧ ext (s'.reg 0xC) 2 0 = 1 ∧
        extended s s' 0 (digestOf im) ∧ s'.boot.otp = s.boot.otp ∧ s'.boot.seed = s.boot.seed ∧
        ext (s'.reg (seAt 4)) 12 9 = e ∧ (ext (s'.reg (seAt 4)) 8 8 = 1 ↔ ∃ d, d < e ∧ dirKind f d = 1) ∧ lastRejected s s' f e ∧
        (keylessFor s 1 → ext (s'.reg (seAt 0)) 22 20 = 4) ∧ (¬keylessFor s 1 → ext (s'.reg (seAt 0)) 22 20 = oct im 7 1) ∧
        (∀ d, d < n → dirKind f d = 3 → (∀ d', d' < d → dirKind f d' ≠ 3) →
          (imgPasses s 3 0 (dirImage f d) → extended s s' 1 (digestOf (dirImage f d))) ∧ (¬imgPasses s 3 0 (dirImage f d) → s'.meas 1 = s.meas 1)) ∧
        ((∀ d, d < n → dirKind f d ≠ 3) → s'.meas 1 = s.meas 1) ∧
        ((∀ d, d < n → dirKind f d ≠ 2) → s'.meas 2 = s.meas 2 ∧ s'.imem = s.imem) ∧
        (∀ k, 3 ≤ k → s'.meas k = s.meas k) ∧ s'.threads = s.threads ∧ s'.mem = s.mem ∧ s'.lines = s.lines) ∧
    (¬romWaits s ∨ some' → exec (.bootStop f) s = .next s) ∧
    (romWaits s → ¬some' → ∃ s' : State, exec (.bootStop f) s = .next s' ∧ s' = { s with csr := s'.csr, boot := s'.boot, pins := s'.pins } ∧
      s'.boot = { s.boot with stopped := true } ∧ s'.pins = { s.pins with spiOff := true } ∧ bitOf (s'.reg 0x3400000) 10 = true ∧
      (∀ n, dirValid f n → lastRejected s s' f n) ∧ ∀ o, o ≠ 0x3400000 → o ≠ seAt 4 → s'.reg o = s.reg o)

namespace Sys2Proof.Spec

/-! ## Fuses and the mailbox -/

/-- Octets of the mailbox area from its first line on (R435). -/
def areaAt (s : State) : Nat := ext (s.reg (seAt 0x24)) 27 0 + 2 ^ 28 * ext (s.reg (seAt 0x28)) 7 0
def areaOctets (s : State) (n : Nat) : List Octet :=
  (List.range n).map fun j => BitVec.ofNat 8 (unitAtLine true (s.line (areaAt s + j / 63)).data (j % 63))
/-- Line j of the area belongs to slice 0 with kind 0b10 or 0b00. -/
def areaOk (s : State) (j : Nat) : Prop :=
  let l := areaAt s + j
  siteOf s l ≠ none ∧ (s.line l).slice = 0 ∧ ((s.line l).kind = 0 ∨ (s.line l).kind = 2)
/-- Umbra has visited the first n lines of the area, up to one that is not the area's, none of them with an uncorrectable error; or some
of them still wait to be visited (R336). -/
def areaRead (s : State) (n : Nat) : Prop := ∀ j, j < n → (∀ i, i ≤ j → areaOk s i) → ∃ u, hasVisited s .umbra (areaAt s + j) u
def areaSeen (s : State) (n : Nat) : Prop := ∀ j, j < n → (∀ i, i ≤ j → areaOk s i) → hasVisited s .umbra (areaAt s + j) false
/-- The image of which the octets have been read, at most 4 MiB and what surrounds it; what has not been read is zero. -/
def fullOf (o : List Octet) : List Octet :=
  let n := min (sizeOfImage o) (2 ^ 22 + 5325)
  (o ++ List.replicate (n - o.length) 0).take n
/-- Lines of the area that are read of an image with the causes C: those of its header; then those of PUBKEY, unless MAGIC to SLOT reject
it; then all of it, unless KEY to DEBUG do (R429). -/
def linesRead (s : State) (C : List Octet → Nat → Prop) (n : Nat) : Prop :=
  let h (k : Nat) : List Octet := areaOctets s (63 * k)
  let ends (k : Nat) : Prop := ¬areaRead s k ∨ ∃ c, C (fullOf (h k)) c ∧ c ≤ if signed (h k) = true ∧ k < 32 then 7 else 10
  let k := if signed (h 2) = true then 32 else 2
  (ends 2 → n = 2) ∧ (¬ends 2 → ends k → n = k) ∧ (¬ends 2 → ¬ends k → n = max k (((fullOf (h 2)).length + 62) / 63))
def areaAsked (s s' : State) (n : Nat) : Prop :=
  (∃ j, j < n ∧ (∀ i, i ≤ j → areaOk s i) ∧ ∀ u, ¬hasVisited s .umbra (areaAt s + j) u) → s' = { s with dchans := s'.dchans }
def imageOk (s : State) (n : Nat) : Prop := ∀ j, j < n → areaOk s j
/-- The image in the first n lines of the area. -/
def imageIn (s : State) (n : Nat) : List Octet := fullOf (areaOctets s (63 * n))
/-- Cause of a LUMEN image for slice i: that of the first named cluster whose allotment rejects it (R435). -/
def loadCause (s : State) (i : Nat) (named : Nat → Prop) (im : List Octet) (c : Nat) : Prop :=
  (∃ k, named k ∧ causeIs s 2 (ext (s.reg (shAt i k + 4)) 16 8 * 256) im c ∧
    ∀ d, d < k → named d → imgPasses s 2 (ext (s.reg (shAt i d + 4)) 16 8 * 256) im) ∨ ((∀ k, ¬named k) ∧ causeIs s 2 (2 ^ 32) im c)
/-- Operation op is in progress; it has ended so. -/
def mbRuns (s : State) (op : Nat) : Prop := bitOf (s.reg (seAt 0x2C)) 4 = true ∧ s.boot.mbox = none ∧ ext (s.reg (seAt 0x20)) 3 0 = op
def mbEnds (s' : State) (code detail res : Nat) : Prop :=
  s'.boot.mbox = some (BitVec.ofNat 4 code, BitVec.ofNat 4 detail, BitVec.ofNat 28 res)
/-- Nothing but the memory controller's own counts and the mailbox result changes. -/
def onlyMailbox (s s' : State) : Prop :=
  s'.boot = { s.boot with mbox := s'.boot.mbox } ∧ s'.imem = s.imem ∧ s'.threads = s.threads ∧ s'.lines = s.lines ∧ s'.slices = s.slices ∧
    ∀ o, seAt 0 ≤ o → o < 0x3400000 → s'.reg o = s.reg o
/-- A transition to code t is listed, with what it requires (R441). -/
def mayMove (s : State) (t : Nat) (token : Bool) : Prop :=
  let lc := lcOf s.boot.otp
  ext (s.reg 0xC) 2 0 ≠ 3 ∧ ((lc = 0 ∧ (t = 1 ∨ t = 2) ∧ ∃ i, i < 4 ∧ slotValid s.boot.otp i) ∨ (lc = 1 ∧ (t = 2 ∨ t = 3)) ∨
    (lc = 2 ∧ t = 3 ∧ token = true) ∨ (lc ≠ 4 ∧ t = 4))
/-- The device has moved to state t and reset itself (R442). -/
def movedTo (s s' : State) (t : Nat) (uds : BitVec 256) : Prop :=
  let o := s.boot.otp
  sysKept s s' ∧ sysRecorded s s' ∧
    bootRuns s' { o with uds := if lcOf o = 0 then uds else o.uds, started := o.started ||| BitVec.ofNat 4 (2 ^ (t - 1)) } (s.reg 0x14).toNat
/-- The TOKEN has been recorded: RMA, or REVOKE of a slot with the signing slot (R434, R441). -/
def tokenPassed (s s' : State) (im : List Octet) : Prop :=
  let act := oct (bodyOf im) 0 1
  s'.boot.tokenRma = (s.boot.tokenRma || decide (act = 1)) ∧
    s'.boot.tokenRevoke = s.boot.tokenRevoke ++ (if act = 2 then [(oct (bodyOf im) 1 1, oct im 7 1)] else [])
/-- Slot i may be revoked, with these tokens of the boot: slot and signing slot (R434). -/
def mayRevoke (s : State) (i : Nat) (tokens : List (Nat × Nat)) : Prop :=
  (∃ k, k < 4 ∧ k ≠ i ∧ slotGood s.boot.otp k) ∧ (lcOf s.boot.otp = 2 → ∃ k, k ≠ i ∧ (i, k) ∈ tokens)
/-- The staging value of MEAS_DATA. -/
def stagedOf (s : State) : Nat := ((List.range 19).map fun i => (SMap.get 0 s.boot.staging i).toNat * 2 ^ (28 * i)).sum % 2 ^ 512
/-- The write of a fuse register leaves its fields, and its result in SEC_STATUS. -/
def fuseWrite (s s' : State) (o keep code : Nat) (v : Pair) : Prop :=
  s'.reg (seAt o) = BitVec.ofNat 28 (v.toNat % keep) ∧ ext (s'.reg (seAt 0x18)) 1 0 = code ∧ s' = { s with csr := s'.csr, boot := s'.boot } ∧
    s'.boot = { s.boot with otp := s'.boot.otp } ∧ ∀ p, p ≠ seAt o → p ≠ seAt 0x18 → s'.reg p = s.reg p
/-- Allotment of slice i in cluster c: first instruction and number of instructions (R364). -/
def allotAt (s : State) (i c : Nat) : Nat := ext (s.reg (shAt i c + 4)) 7 0 * 256
def allotLen (s : State) (i c : Nat) : Nat := ext (s.reg (shAt i c + 4)) 16 8 * 256
/-- Octets 0 to 703 of the report (Table 17.7). -/
def isReport (s : State) (r : List Octet) : Prop :=
  let v := bitOf (s.reg (seAt 0x20)) 18
  let i := ext (s.reg (seAt 0x20)) 9 4
  let k := if i = 0 then 2 else 64 + i
  let n (b : Bool) : Nat := if b then 1 else 0
  r.length = 704 ∧ oct r 0 4 = 0x1440A77E ∧ oct r 4 2 = 1 ∧ oct r 6 1 = lcOf s.boot.otp ∧ oct r 7 1 = ext (s.reg (seAt 0)) 21 20 ∧
    oct r 8 4 = 0x5A71440 ∧ oct r 12 1 = ext (s.reg 4) 7 0 ∧ oct r 13 1 = s.boot.otp.svn.toNat ∧ oct r 14 1 = (if v then i else 0xFF) ∧
    oct r 15 1 = n v + 2 * n (SMap.get false s.boot.unsignedMark (if v then k else 2)) + 4 * n (v && SMap.get false s.boot.restoredMark k) +
      8 * ext (s.reg (seAt 4)) 8 8 + 16 * ext (s.reg (seAt 0)) 22 22 ∧ oct r 16 7 = s.tick.toNat ∧ oct r 23 1 = 0 ∧ oct r 24 8 = 0 ∧
    (r.drop 32).take 32 = idDigestOf s ∧ (∀ j, j < 8 → oct r (64 + 64 * j) 64 = (s.meas j).toNat) ∧
    oct r 576 64 = (if v then (s.meas (64 + i)).toNat else 0) ∧ r.drop 640 = areaOctets s 64

end Sys2Proof.Spec

/-- R426, R432 to R434, R436, R441 to R443, Tables 17.5, 17.8: LC_REQ, REVOKE, SVN_SET, KEY_PROG and EXTEND: what is accepted, which fuse it
blows, what is refused with SEC_STATUS REFUSED; nothing where Umbra does not act. What a transition's reset leaves beyond the rules is the
model's (log 5, log 16). -/
def Obligations.FuseRequestsAreChecked : Prop :=
  ∀ (s : State) (v : Pair),
    (umbraHolds s → (∀ u, exec (.lcReq v u) s = .next s) ∧ exec (.revoke v) s = .next s ∧ exec (.svnSet v) s = .next s ∧
      exec (.keyProg v) s = .next s ∧ exec (.extend v) s = .next s) ∧
    (¬umbraHolds s →
      (∀ uds : BitVec 256, let t := ext v 2 0
        (bitOf v 3 = false → ∃ s' : State, exec (.lcReq v uds) s = .next s' ∧ onlyRegs s s' ∧ s'.reg (seAt 8) = BitVec.ofNat 28 t ∧
          ∀ o, o ≠ seAt 8 → s'.reg o = s.reg o) ∧
        (bitOf v 3 = true → ¬mayMove s t s.boot.tokenRma → ∃ s' : State, exec (.lcReq v uds) s = .next s' ∧ fuseWrite s s' 8 8 1 v ∧ s'.boot = s.boot) ∧
        (bitOf v 3 = true → mayMove s t s.boot.tokenRma → SMap.rises s.csr = true →
          ∃ s' : State, exec (.lcReq v uds) s = .next s' ∧ movedTo s s' t uds)) ∧
      (let i := ext v 1 0
       let ok := mayRevoke s i s.boot.tokenRevoke
       (bitOf v 2 = false → ∃ s' : State, exec (.revoke v) s = .next s' ∧ onlyRegs s s' ∧ s'.reg (seAt 0xC) = BitVec.ofNat 28 i ∧
         ∀ o, o ≠ seAt 0xC → s'.reg o = s.reg o) ∧
       (bitOf v 2 = true → ¬ok → ∃ s' : State, exec (.revoke v) s = .next s' ∧ fuseWrite s s' 0xC 4 1 v ∧ s'.boot = s.boot) ∧
       (bitOf v 2 = true → ok → ∃ s' : State, exec (.revoke v) s = .next s' ∧ fuseWrite s s' 0xC 4 0 v ∧
         s'.boot.otp = { s.boot.otp with revoked := s.boot.otp.revoked ||| BitVec.ofNat 4 (2 ^ i) })) ∧
      (let n := ext v 6 0
       let ok := s.boot.otp.svn.toNat ≤ n ∧ n ≤ s.boot.fwSvn.toNat
       (bitOf v 7 = false → ∃ s' : State, exec (.svnSet v) s = .next s' ∧ onlyRegs s s' ∧ s'.reg (seAt 0x10) = BitVec.ofNat 28 n ∧
         ∀ o, o ≠ seAt 0x10 → s'.reg o = s.reg o) ∧
       (bitOf v 7 = true → ¬ok → ∃ s' : State, exec (.svnSet v) s = .next s' ∧ fuseWrite s s' 0x10 128 1 v ∧ s'.boot = s.boot) ∧
       (bitOf v 7 = true → ok → ∃ s' : State, exec (.svnSet v) s = .next s' ∧ fuseWrite s s' 0x10 128 0 v ∧
         s'.boot.otp = { s.boot.otp with svn := BitVec.ofNat 7 n })) ∧
      (let i := ext v 1 0
       let ok := lcOf s.boot.otp = 0 ∧ ¬slotValid s.boot.otp i
       (bitOf v 2 = false → ∃ s' : State, exec (.keyProg v) s = .next s' ∧ onlyRegs s s' ∧ s'.reg (seAt 0x14) = BitVec.ofNat 28 i ∧
         ∀ o, o ≠ seAt 0x14 → s'.reg o = s.reg o) ∧
       (bitOf v 2 = true → ¬ok → ∃ s' : State, exec (.keyProg v) s = .next s' ∧ fuseWrite s s' 0x14 4 1 v ∧ s'.boot = s.boot) ∧
       (bitOf v 2 = true → ok → ∃ s' : State, exec (.keyProg v) s = .next s' ∧ fuseWrite s s' 0x14 4 0 v ∧
         s'.boot.otp = { s.boot.otp with keys := s'.boot.otp.keys } ∧
         ∀ j, SMap.get 0 s'.boot.otp.keys j = if j = i then BitVec.ofNat 256 (stagedOf s) else SMap.get 0 s.boot.otp.keys j)) ∧
      (let k := ext v 6 0
       ∃ s' : State, exec (.extend v) s = .next s' ∧ s'.reg (seAt 0x80) = BitVec.ofNat 28 k ∧ s' = { s with csr := s'.csr, boot := s'.boot } ∧
         s'.boot = { s.boot with meas := s'.boot.meas } ∧ (∀ o, o ≠ seAt 0x80 → s'.reg o = s.reg o) ∧
         (bitOf v 7 = true → 3 ≤ k → k ≤ 7 → extended s s' k (octetsOf 64 (stagedOf s)) ∧ ∀ j, j ≠ k → s'.meas j = s.meas j) ∧
         (bitOf v 7 = false ∨ k < 3 ∨ 7 < k → s'.boot.meas = s.boot.meas)))

/-- R429, R430, R434 to R439, R441, R442, Tables 17.3, 17.6, 17.7: MBOX_CMD, the operations LOAD, ATTEST, LC and REVOKE with what ends
them, and the completion. That Umbra's requests for the lines of the area wait at their channels and its operation goes on when they have
been served is the model's (log 9); so are ML-DSA as opaque functions and the UDS that LC draws (log 4), which fields end with RSVD and
that a TOKEN is read only where it is needed (log 18), and what a transition's reset leaves (log 16). -/
def Obligations.MailboxOperationsEndAsTabled : Prop :=
  ∀ s : State,
    let i := ext (s.reg (seAt 0x20)) 9 4
    let named (c : Nat) : Prop := c < 8 ∧ bitOf (s.reg (seAt 0x20)) (10 + c) = true
    let cause := loadCause s i named
    (∀ (v : BitVec 32), writesReg s (seAt 0x20) →
      let op := ext v 3 0
      let rsvd := op = 0 ∨ 5 ≤ op ∨ ext v 27 19 ≠ 0 ∨ (op ≠ 2 ∧ bitOf v 18 = true) ∨ (op ≠ 1 ∧ ext v 17 10 ≠ 0)
      ∃ s' : State, exec (.csrWrite .host .bar0 (BitVec.ofNat 26 (seAt 0x20)) v 0) s = .next s' ∧
      s'.threads = s.threads ∧ s'.mem = s.mem ∧ s'.lines = s.lines ∧
      (bitOf (s.reg (seAt 0x2C)) 4 = true → bitOf (s'.reg (seAt 0x2C)) 5 = true ∧ s'.boot = s.boot ∧ s'.reg (seAt 0x20) = s.reg (seAt 0x20)) ∧
      (bitOf (s.reg (seAt 0x2C)) 4 = false → bitOf (s'.reg (seAt 0x2C)) 4 = true ∧ s'.reg (seAt 0x20) = BitVec.ofNat 28 (v.toNat % 2 ^ 19) ∧
        (¬rsvd → s'.boot.mbox = none) ∧ (rsvd → mbEnds s' 1 0 0))) ∧
    (∀ r, (¬mbRuns s 1 → exec .load s = .next s) ∧ (¬mbRuns s 2 → exec (.attest r) s = .next s) ∧ (¬mbRuns s 3 → exec .mboxLc s = .next s) ∧
      (¬mbRuns s 4 → exec .mboxRevoke s = .next s)) ∧
    (mbRuns s 1 →
      let away := i ≠ 0 ∧ stOf s i ≠ 1 ∧ stOf s i ≠ 5
      let live := i ≠ 0 ∧ ∃ t, inSlice s i t ∧ named (t / 128) ∧ (s.thread t).st ≠ .waitTask
      let k := if i = 0 then 2 else 64 + i
      (away → ∃ s' : State, exec .load s = .next s' ∧ onlyMailbox s s' ∧ mbEnds s' 3 0 0) ∧
      (¬away → live → ∃ s' : State, exec .load s = .next s' ∧ onlyMailbox s s' ∧ mbEnds s' 5 0 0) ∧
      (¬away → ¬live → ∀ n, linesRead s cause n →
        let im := imageIn s n
        (∃ s' : State, exec .load s = .next s' ∧ areaAsked s s' n) ∧
        (areaSeen s n → ¬imageOk s n → ∃ s' : State, exec .load s = .next s' ∧ onlyMailbox s s' ∧ mbEnds s' 4 0 0) ∧
        (areaSeen s n → imageOk s n →
          (∀ c, cause im c → ∃ s' : State, exec .load s = .next s' ∧ onlyMailbox s s' ∧ mbEnds s' 2 c 0) ∧
          ((∀ c, ¬cause im c) → (∀ c, named c → allotAt s i c + allotLen s i c ≤ 65536) → ∃ s' : State, exec .load s = .next s' ∧
            mbEnds s' 0 0 (oct im 20 4) ∧ extended s s' k (digestOf im) ∧ (∀ j, j ≠ k → s'.meas j = s.meas j) ∧ s'.threads = s.threads ∧
            s'.lines = s.lines ∧ s'.boot.otp = s.boot.otp ∧
            (∀ j, SMap.get false s'.boot.unsignedMark j = (SMap.get false s.boot.unsignedMark j || (decide (j = k) && !signed im))) ∧
            ∀ a, let c := a / 65536
              let j := a % 65536 - (allotAt s i c + oct im 16 4)
              let mine := named c ∧ allotAt s i c + oct im 16 4 ≤ a % 65536 ∧ j < oct im 20 4
              (mine → SMap.get 0 s'.imem a = BitVec.ofNat 28 (oct (bodyOf im) (4 * j) 4)) ∧ (¬mine → SMap.get 0 s'.imem a = SMap.get 0 s.imem a))))) ∧
    (∀ rnd : BitVec 256, mbRuns s 2 →
      let v := bitOf (s.reg (seAt 0x20)) 18
      let area := ∀ j, j < 64 → areaOk s j
      (s.boot.seed = none → ∃ s' : State, exec (.attest rnd) s = .next s' ∧ onlyMailbox s s' ∧ mbEnds s' 3 0 0) ∧
      (∀ x, s.boot.seed = some x →
        (v = true → 62 < i → ∃ s' : State, exec (.attest rnd) s = .next s' ∧ onlyMailbox s s' ∧ mbEnds s' 1 0 0) ∧
        (v = false ∨ i ≤ 62 → ∃ s' : State, exec (.attest rnd) s = .next s' ∧ areaAsked s s' 64) ∧
        (v = false ∨ i ≤ 62 → areaSeen s 64 → ¬area → ∃ s' : State, exec (.attest rnd) s = .next s' ∧ onlyMailbox s s' ∧ mbEnds s' 4 0 0) ∧
        (v = false ∨ i ≤ 62 → areaSeen s 64 → area → ∃ r, isReport s r ∧
          (Config.mldsaSign x (shake256 r 64) rnd = none → ∃ s' : State, exec (.attest rnd) s = .next s' ∧ onlyMailbox s s' ∧ mbEnds s' 6 0 0) ∧
          ∀ sig, Config.mldsaSign x (shake256 r 64) rnd = some sig → sig.length = 3309 → ∃ s' : State, exec (.attest rnd) s = .next s' ∧
            mbEnds s' 0 0 4013 ∧ areaOctets s' 4032 = r ++ sig ++ List.replicate 19 0 ∧ (∀ j, j < 64 → (s'.line (areaAt s + j)).slice = 0 ∧
              (s'.line (areaAt s + j)).kind = 2) ∧ (∀ l, l < areaAt s ∨ areaAt s + 64 ≤ l → s'.line l = s.line l) ∧ s'.threads = s.threads ∧
            s'.boot = { s.boot with mbox := s'.boot.mbox }))) ∧
    (mbRuns s 3 → SMap.rises s.csr = true →
      let t := i % 8
      let need := lcOf s.boot.otp = 2 ∧ t = 3 ∧ s.boot.tokenRma = false
      let refused (s' : State) : Prop := mbEnds s' 7 0 0 ∧ ext (s'.reg (seAt 0x18)) 1 0 = 1 ∧ s'.boot.otp = s.boot.otp ∧ s'.threads = s.threads
      (need → ∀ n, linesRead s (causeIs s 4 0) n →
        let im := imageIn s n
        let token := decide (oct (bodyOf im) 0 1 = 1)
        (∃ s' : State, exec .mboxLc s = .next s' ∧ areaAsked s s' n) ∧
        (areaSeen s n → ¬imageOk s n → ∃ s' : State, exec .mboxLc s = .next s' ∧ onlyMailbox s s' ∧ mbEnds s' 4 0 0) ∧
        (areaSeen s n → imageOk s n → ∀ c, causeIs s 4 0 im c → ∃ s' : State, exec .mboxLc s = .next s' ∧ onlyMailbox s s' ∧ mbEnds s' 2 c 0) ∧
        (areaSeen s n → imageOk s n → imgPasses s 4 0 im →
          (mayMove s t token → ∃ s' u, exec .mboxLc s = .next s' ∧ movedTo s s' t u) ∧
          (¬mayMove s t token → ∃ s' : State, exec .mboxLc s = .next s' ∧ refused s' ∧ tokenPassed s s' im))) ∧
      (¬need → (mayMove s t s.boot.tokenRma → ∃ s' u, exec .mboxLc s = .next s' ∧ movedTo s s' t u) ∧
        (¬mayMove s t s.boot.tokenRma → ∃ s' : State, exec .mboxLc s = .next s' ∧ refused s'))) ∧
    (mbRuns s 4 →
      let n := i % 4
      let had := s.boot.tokenRevoke
      let need := lcOf s.boot.otp = 2 ∧ ∀ k, k ≠ n → (n, k) ∉ had
      let done (s' : State) (l : List (Nat × Nat)) : Prop := s'.boot.tokenRevoke = l ∧ s'.threads = s.threads ∧
        (mayRevoke s n l → mbEnds s' 0 0 0 ∧ s'.boot.otp = { s.boot.otp with revoked := s.boot.otp.revoked ||| BitVec.ofNat 4 (2 ^ n) } ∧
          ext (s'.reg (seAt 0x18)) 1 0 = 0) ∧
        (¬mayRevoke s n l → mbEnds s' 7 0 0 ∧ s'.boot.otp = s.boot.otp ∧ ext (s'.reg (seAt 0x18)) 1 0 = 1)
      (need → ∀ k, linesRead s (causeIs s 4 0) k →
        let im := imageIn s k
        (∃ s' : State, exec .mboxRevoke s = .next s' ∧ areaAsked s s' k) ∧
        (areaSeen s k → ¬imageOk s k → ∃ s' : State, exec .mboxRevoke s = .next s' ∧ onlyMailbox s s' ∧ mbEnds s' 4 0 0) ∧
        (areaSeen s k → imageOk s k → ∀ c, causeIs s 4 0 im c → ∃ s' : State, exec .mboxRevoke s = .next s' ∧ onlyMailbox s s' ∧ mbEnds s' 2 c 0) ∧
        (areaSeen s k → imageOk s k → imgPasses s 4 0 im → ∃ s' : State, exec .mboxRevoke s = .next s' ∧ tokenPassed s s' im ∧
          done s' s'.boot.tokenRevoke)) ∧
      (¬need → ∃ s' : State, exec .mboxRevoke s = .next s' ∧ done s' had)) ∧
    (s.boot.mbox = none → exec .mailboxComplete s = .next s) ∧
    (∀ code detail res, s.boot.mbox = some (code, detail, res) → ∃ s' : State, exec .mailboxComplete s = .next s' ∧
      s' = { s with csr := s'.csr, boot := { s.boot with mbox := none }, pba := s'.pba, out := s'.out } ∧ ext (s'.reg (seAt 0x2C)) 3 0 = code.toNat ∧
      bitOf (s'.reg (seAt 0x2C)) 4 = false ∧ ext (s'.reg (seAt 0x2C)) 9 6 = detail.toNat ∧ s'.reg (seAt 0x30) = res ∧ vectorSent s s' 0 28 ∧
      ∀ o, o ≠ seAt 0x2C → o ≠ seAt 0x30 → s'.reg o = s.reg o)

namespace Sys2Proof.Spec

/-- Wake limit of a state, and entry time of a state of domain d, in ticks (Table 16.2). -/
def wakeTime (t : Nat) : Nat := if t = 1 then 800 else if t = 2 then 20000 else if t = 3 then 80000 else if t = 4 then 40000 else 0
def entryTime (d t : Nat) : Nat := if t = 1 then 32 else if t = 2 then (if d ≤ 6 then 12000 else 800) else if t = 3 ∨ t = 4 then 2000 else 0
/-- What domain d adds to a wake limit: an entry in progress runs to its end first (R418). -/
def wakeShare (s : State) (d : Nat) : Nat := match s.power.entering with
  | some (e, t) => if e = d then entryTime d t.toNat + wakeTime t.toNat else wakeTime (s.dom d)
  | none => wakeTime (s.dom d)
/-- A period of CCLK passes (R25, R37, R468): the four clocks and the copy of the tick counter. -/
def periodPasses (s s' : State) : Prop :=
  let n := 4 * s.tick.toNat + s.quarter
  s'.tick = s.tick + (if s.quarter = 3 then 1 else 0) ∧ s'.quarter = (s.quarter + 1) % 4 ∧
    s'.cclk = s.cclk + (if s.pins.cclkLost then 0 else 1) ∧ s'.hclk + 5 * n / 8 = s.hclk + 5 * (n + 1) / 8 ∧
    s'.uclk = s.uclk + (if n % 8 = 7 then 1 else 0) ∧
    (s'.copy = s.copy ∨ s'.copy = s'.tick ∨ (s'.tick ≠ 0 ∧ s'.copy = s'.tick - 1))
/-- A DSP.CMD command ends 24 CCLK after its write (R169), and a packet that waits for a slot is counted (R166). -/
def dspClocked (s s' : State) (q : Nat) : Prop :=
  let d := s.dspQ q
  (∀ w sub c h, d.cmdAt = some (w, sub) → d.res = some (c, h) → w + 24 ≤ s'.cclk →
    ext (s'.reg (dsAt q 0xC)) 3 0 = c.toNat ∧ bitOf (s'.reg (dsAt q 0xC)) 4 = false ∧ (sub = true → ext (s'.reg (dsAt q 0x10)) 13 0 = h.toNat) ∧
      s'.dspQ q = { d with cmdAt := none, res := none }) ∧
  ((∀ w sub c h, d.cmdAt = some (w, sub) → d.res = some (c, h) → s'.cclk < w + 24) →
    s'.dspQ q = d ∧ s'.reg (dsAt q 0xC) = s.reg (dsAt q 0xC) ∧ s'.reg (dsAt q 0x10) = s.reg (dsAt q 0x10)) ∧
  ((∃ j, j < 10 ∧ SMap.get [] d.reqs j ≠ []) → counts s s' (dsAt q 0x324) 1) ∧
  ((∀ j, j < 10 → SMap.get [] d.reqs j = []) → s'.reg (dsAt q 0x324) = s.reg (dsAt q 0x324))
/-- Boot ends once every channel has passed and no link that CONFIG lists is awaited (Table 17.4, step 10). -/
def bootEnds (s s' : State) : Prop :=
  let ready := ext (s.reg 0xC) 2 0 = 1 ∧ (∀ k, k < 16 → (s.dchan k).trained = true) ∧ linksSettled s
  (¬ready → s' = s) ∧ (ready → onlyRegs s s' ∧ ext (s'.reg 0xC) 2 0 = 2 ∧ ∀ o, o ≠ 0xC → s'.reg o = s.reg o)
/-- What a period does in the quadrants: nothing in one that is not clocked (R414); in the others commands end, waiting packets are counted,
and a flush goes on (R157). -/
def quadsClocked (s s' : State) : Prop :=
  let flushes (q : Nat) : Prop := (s.fwdQ q).flush ≠ none
  (∀ q, q < 4 → s.dom (3 + q) ≠ 0 → s'.dspQ q = s.dspQ q ∧ s'.fwdQ q = s.fwdQ q) ∧
  (∀ q, q < 4 → s.dom (3 + q) = 0 → dspClocked s s' q ∧ (¬flushes q → s'.fwdQ q = s.fwdQ q) ∧
    ((∀ r, r < 4 → r ≠ q → ¬flushes r) → s'.fwdQ q = (s.flushStep q).fwdQ q)) ∧
  ((∀ q, q < 4 → ¬flushes q) → s' = { s with csr := s'.csr, dsp := s'.dsp })
/-- The run of stalled CCLK of each slice: it grows while a live thread's slice is stalled, unless STALL has been declared for it, and
returns to 0 once the condition has failed (R263, R264). -/
def stallRuns (s s' : State) : Prop :=
  s' = { s with slices := s'.slices } ∧ (∀ i, 64 ≤ i → s'.slice i = s.slice i) ∧
  ∀ i, i < 64 →
    let x := s.slice i
    let on := (∃ y ∈ s.threads, y.2.live = true ∧ s.assigned y.1 i = true) ∧ s.stalled i = true
    (on → s'.slice i = { x with stallRun := if x.stallShut then 0 else x.stallRun + 1 }) ∧
    (¬on → s'.slice i = { x with stallRun := 0, stallShut := false })

end Sys2Proof.Spec

/-- A step takes the command at the front of the queue and runs it with the queue's rest; no command stops the block. On an empty queue
one period of CCLK passes (the model's choice, log 2): the clocks advance (R25, R37, R468), the wake limit of an access that has begun to
wait is noted (R418), boot ends (R431), HALT flits that have left are recorded (R453); then, unless CCLK is lost, in each quadrant that is
clocked (R414) DSP commands end (R169), waiting packets are counted (R166) and a flush scans its next bucket (R157), runs of stalled CCLK
grow or return to 0 (R263, R264), and what waits for a capture (R378) or a RESTORE (R389) goes on. -/
def Obligations.StepRunsTheFrontCommand : Prop :=
  (∀ (s : State) (c : Instr) (rest : List Instr), s.pending = c :: rest → step s = exec c { s with pending := rest }) ∧
  (∀ (c : Instr) (s : State), ∃ s' : State, exec c s = .next s') ∧
  ∀ s : State, s.pending = [] → ∃ s1 s2 s3 s4 s5 s' : State, step s = .next s' ∧
    periodPasses s s1 ∧ s1 = { s with tick := s1.tick, quarter := s1.quarter, copy := s1.copy, cclk := s1.cclk, hclk := s1.hclk, uclk := s1.uclk,
                                      free := s1.free, power := { s.power with limits := s1.power.limits } } ∧
    (∀ w d, d < 15 → waitsDom s d w → (∀ e, e < 15 → waitsDom s e w → e = d) → (∃ e, e < 15 ∧ s.domOn e = false) →
      notedLimit s1 w = some ((notedLimit s w).getD (s.tick.toNat + wakeShare s d + if d < 3 then 0 else wakeShare s 1))) ∧
    bootEnds s1 s2 ∧ haltsLeave s2 s3 ∧ (s.pins.cclkLost = true → s' = s3) ∧
    (s.pins.cclkLost = false → quadsClocked s3 s4 ∧ stallRuns s4 s5 ∧
      ((∀ x ∈ s5.slices, x.2.capQueue = []) → s' = s5.restoreGo false) ∧
      ((∀ c, s5.slcCmd = some c → c.op ≠ 9 ∨ c.loaded = true) →
        ((∀ x ∈ s5.slices, x.2.capQueue = []) → s' = s5) ∧
        ∀ x, (s5.slices.filter fun y => !decide (y.2.capQueue = [])) = [x] → s' = s5.captureDue false x.1))

/-- R35, R37, R42, R131, R184, R307, R324, R362, R425, R458: what reset leaves, and every store is in canonical form. That a thread's
registers, which have no reset value, are 0 is the model's (log 5). -/
def Obligations.ResetStateHoldsTheResetValues : Prop :=
  State.reset.Canon ∧ State.reset.pending = [] ∧ State.reset.tick = 0 ∧ (∀ o, State.reset.reg o = (regInfo o).reset) ∧
    (∀ t, State.reset.thread t = {} ∧ (State.reset.thread t).st = .waitTask) ∧ (∀ n, (State.reset.sem n).owner = 0x3000 ∧ (State.reset.sem n).held = false) ∧
    stOf State.reset 0 = 1 ∧ (∀ i, i ≠ 0 → stOf State.reset i = 0) ∧ State.reset.reg 0 = 0x5A71440 ∧ ext (State.reset.reg 0xC) 2 0 = 0 ∧
    State.reset.reg (pwAt 0x200) = 1 ∧ State.reset.reg (pwAt 0x208) = 1 ∧ (∀ d : Fin 15, State.reset.reg (pwAt (0x140 + 4 * d.val)) = 0x18) ∧
    State.reset.reg (pwAt 0x224) = 95 * 256 ∧ State.reset.reg 0x3400004 = 0x601 ∧ State.reset.reg 0x3400030 = 100 ∧ State.reset.fatal = 0 ∧
    State.reset.out = []

/-- Every step keeps every store, and the stores inside a store, in canonical form, so that stores that read alike are equal data. -/
def Obligations.EveryStepKeepsCanonicalForm : Prop :=
  ∀ s s' : State, s.Canon → step s = .next s' → s'.Canon

/-- R426, R433, R434, R442: no step, a reset included, clears a fuse, lowers the security version, changes a programmed key slot, or
draws a second UDS; and no command touches the queue of commands that wait. -/
def Obligations.EveryStepKeepsBlownFuses : Prop :=
  (∀ s s' : State, step s = .next s' → Otp.kept s.boot.otp s'.boot.otp) ∧
  ∀ (c : Instr) (s s' : State), exec c s = .next s' → Otp.kept s.boot.otp s'.boot.otp ∧ s'.pending = s.pending
end

