-- ==== Sys2Proof/Laws/Dispatch.lean ====
section
/-! SUPPORT. Dispatch.lean: each arm of exec, so that no proof evaluates the match over all commands. -/

namespace Sys2Proof.Machine

@[simp] theorem exec_csrWrite (m : Master) (sp : Space) (off : Off) (v : BitVec 32) (ev : Pair) (s : State) : exec (.csrWrite m sp off v ev) s = execCsrWrite m sp off v ev s := rfl
@[simp] theorem exec_rcRead (m : Master) (sp : Space) (off : Off) (ev : Pair) (s : State) : exec (.rcRead m sp off ev) s = execRcRead m sp off ev s := rfl
@[simp] theorem exec_csrBadAccess (wr : Bool) (sp : Space) (off : Off) (x : Access) (s : State) : exec (.csrBadAccess wr sp off x) s = execCsrBadAccess wr sp off x s := rfl
@[simp] theorem exec_tickLoRead (s : State) : exec .tickLoRead s = execTickLoRead s := rfl
@[simp] theorem exec_epochLoRead (s : State) : exec .epochLoRead s = execEpochLoRead s := rfl
@[simp] theorem exec_counterLoRead (p : Fin 32) (n : Fin 22) (s : State) : exec (.counterLoRead p n) s = execCounterLoRead p n s := rfl
@[simp] theorem exec_runArm (s : State) : exec .runArm s = execRunArm s := rfl
@[simp] theorem exec_runStop (s : State) : exec .runStop s = execRunStop s := rfl
@[simp] theorem exec_ctlHalt (s : State) : exec .ctlHalt s = execCtlHalt s := rfl
@[simp] theorem exec_commit (s : State) : exec .commit s = execCommit s := rfl
@[simp] theorem exec_epochStart (s : State) : exec .epochStart s = execEpochStart s := rfl
@[simp] theorem exec_phaseStart (i : Fin 16) (s : State) : exec (.phaseStart i) s = execPhaseStart i s := rfl
@[simp] theorem exec_goDecision (s : State) : exec .goDecision s = execGoDecision s := rfl
@[simp] theorem exec_announceSend (s : State) : exec .announceSend s = execAnnounceSend s := rfl
@[simp] theorem exec_pinPulseSend (s : State) : exec .pinPulseSend s = execPinPulseSend s := rfl
@[simp] theorem exec_announceReceive (p : Fin 32) (stop : Bool) (n : Epoch) (remain : Pair) (a : Tick) (s : State) : exec (.announceReceive p stop n remain a) s = execAnnounceReceive p stop n remain a s := rfl
@[simp] theorem exec_beaconPulseReceive (edge : Tick) (width : Nat) (s : State) : exec (.beaconPulseReceive edge width) s = execBeaconPulseReceive edge width s := rfl
@[simp] theorem exec_announceTimeout (s : State) : exec .announceTimeout s = execAnnounceTimeout s := rfl
@[simp] theorem exec_delayReqSend (p : Fin 32) (s : State) : exec (.delayReqSend p) s = execDelayReqSend p s := rfl
@[simp] theorem exec_delayReqReceive (p : Fin 32) (tag : Word) (a : Tick) (s : State) : exec (.delayReqReceive p tag a) s = execDelayReqReceive p tag a s := rfl
@[simp] theorem exec_delayRspReceive (p : Fin 32) (tag : Word) (residence : Pair) (t4 : Tick) (s : State) : exec (.delayRspReceive p tag residence t4) s = execDelayRspReceive p tag residence t4 s := rfl
@[simp] theorem exec_delayMeasurementDrop (p : Fin 32) (s : State) : exec (.delayMeasurementDrop p) s = execDelayMeasurementDrop p s := rfl
@[simp] theorem exec_refLost (s : State) : exec .refLost s = execRefLost s := rfl
@[simp] theorem exec_waveArrival (p : Fin 32) (s : State) : exec (.waveArrival p) s = execWaveArrival p s := rfl
@[simp] theorem exec_deadline (o : Nat) (s : State) : exec (.deadline o) s = execDeadline o s := rfl
@[simp] theorem exec_taskLate (q : Fin 4) (slot : Fin 4096) (s : State) : exec (.taskLate q slot) s = execTaskLate q slot s := rfl
@[simp] theorem exec_lastLate (p : Fin 32) (s : State) : exec (.lastLate p) s = execLastLate p s := rfl
@[simp] theorem exec_arrival (p : Fin 32) (s : State) : exec (.arrival p) s = execArrival p s := rfl
@[simp] theorem exec_haltFlitReceive (p : Fin 32) (cause : BitVec 5) (e : Epoch) (s : State) : exec (.haltFlitReceive p cause e) s = execHaltFlitReceive p cause e s := rfl
@[simp] theorem exec_epochStop (s : State) : exec .epochStop s = execEpochStop s := rfl
@[simp] theorem exec_outputRelease (o : Nat) (s : State) : exec (.outputRelease o) s = execOutputRelease o s := rfl
@[simp] theorem exec_egressStart (p : Fin 32) (s : State) : exec (.egressStart p) s = execEgressStart p s := rfl
@[simp] theorem exec_lastWaveSend (p : Fin 32) (s : State) : exec (.lastWaveSend p) s = execLastWaveSend p s := rfl
@[simp] theorem exec_nonwaveEgress (p : Fin 32) (s : State) : exec (.nonwaveEgress p) s = execNonwaveEgress p s := rfl
@[simp] theorem exec_portEnable (p : Fin 32) (s : State) : exec (.portEnable p) s = execPortEnable p s := rfl
@[simp] theorem exec_portDisable (p : Fin 32) (s : State) : exec (.portDisable p) s = execPortDisable p s := rfl
@[simp] theorem exec_modeWrite (p : Fin 32) (mode : BitVec 3) (s : State) : exec (.modeWrite p mode) s = execModeWrite p mode s := rfl
@[simp] theorem exec_retrain (p : Fin 32) (s : State) : exec (.retrain p) s = execRetrain p s := rfl
@[simp] theorem exec_clrCnt (p : Fin 32) (s : State) : exec (.clrCnt p) s = execClrCnt p s := rfl
@[simp] theorem exec_signalDetect (p : Fin 32) (s : State) : exec (.signalDetect p) s = execSignalDetect p s := rfl
@[simp] theorem exec_eqComplete (p : Fin 32) (s : State) : exec (.eqComplete p) s = execEqComplete p s := rfl
@[simp] theorem exec_tsReceive (p : Fin 32) (lane : Fin 4) (ts : TsArrival) (s : State) : exec (.tsReceive p lane ts) s = execTsReceive p lane ts s := rfl
@[simp] theorem exec_trainingTimeout (p : Fin 32) (s : State) : exec (.trainingTimeout p) s = execTrainingTimeout p s := rfl
@[simp] theorem exec_lossOfSignal (p : Fin 32) (s : State) : exec (.lossOfSignal p) s = execLossOfSignal p s := rfl
@[simp] theorem exec_flitTransmit (p : Fin 32) (s : State) : exec (.flitTransmit p) s = execFlitTransmit p s := rfl
@[simp] theorem exec_flitReceive (p : Fin 32) (l0 l1 l2 l3 : LaneBits) (s : State) : exec (.flitReceive p l0 l1 l2 l3) s = execFlitReceive p l0 l1 l2 l3 s := rfl
@[simp] theorem exec_checkFlitReceive (p : Fin 32) (lo hi : LaneBits × LaneBits) (s : State) : exec (.checkFlitReceive p lo hi) s = execCheckFlitReceive p lo hi s := rfl
@[simp] theorem exec_replayTimeout (p : Fin 32) (s : State) : exec (.replayTimeout p) s = execReplayTimeout p s := rfl
@[simp] theorem exec_ethFrameReceive (p : Fin 32) (octets : List Octet) (corr : Nat) (uncorr : Nat) (s : State) : exec (.ethFrameReceive p octets corr uncorr) s = execEthFrameReceive p octets corr uncorr s := rfl
@[simp] theorem exec_contextTake (q : Fin 4) (s : State) : exec (.contextTake q) s = execContextTake q s := rfl
@[simp] theorem exec_passStart (k : Nat) (s : State) : exec (.passStart k) s = execPassStart k s := rfl
@[simp] theorem exec_prsEnd (k : Nat) (s : State) : exec (.prsEnd k) s = execPrsEnd k s := rfl
@[simp] theorem exec_prsExtract (k : Nat) (s : State) : exec (.prsExtract k) s = execPrsExtract k s := rfl
@[simp] theorem exec_prsMatch (k : Nat) (s : State) : exec (.prsMatch k) s = execPrsMatch k s := rfl
@[simp] theorem exec_prsAdvance (k : Nat) (s : State) : exec (.prsAdvance k) s = execPrsAdvance k s := rfl
@[simp] theorem exec_prsSet (k : Nat) (s : State) : exec (.prsSet k) s = execPrsSet k s := rfl
@[simp] theorem exec_prsEtype (k : Nat) (s : State) : exec (.prsEtype k) s = execPrsEtype k s := rfl
@[simp] theorem exec_prsIpv4 (k : Nat) (s : State) : exec (.prsIpv4 k) s = execPrsIpv4 k s := rfl
@[simp] theorem exec_prsIpv6 (k : Nat) (s : State) : exec (.prsIpv6 k) s = execPrsIpv6 k s := rfl
@[simp] theorem exec_prsStop (k : Nat) (s : State) : exec (.prsStop k) s = execPrsStop k s := rfl
@[simp] theorem exec_ruleMatch (k : Nat) (s : State) : exec (.ruleMatch k) s = execRuleMatch k s := rfl
@[simp] theorem exec_forwardLookup (k : Nat) (s : State) : exec (.forwardLookup k) s = execForwardLookup k s := rfl
@[simp] theorem exec_resultRelease (p : Fin 32) (s : State) : exec (.resultRelease p) s = execResultRelease p s := rfl
@[simp] theorem exec_bucketRefill (s : State) : exec .bucketRefill s = execBucketRefill s := rfl
@[simp] theorem exec_swap (q : Fin 4) (v : Pair) (s : State) : exec (.swap q v) s = execSwap q v s := rfl
@[simp] theorem exec_bankDrained (q : Fin 4) (bank : Bool) (s : State) : exec (.bankDrained q bank) s = execBankDrained q bank s := rfl
@[simp] theorem exec_ruleRead (q : Fin 4) (v : Pair) (s : State) : exec (.ruleRead q v) s = execRuleRead q v s := rfl
@[simp] theorem exec_ruleWrite (q : Fin 4) (v : Pair) (s : State) : exec (.ruleWrite q v) s = execRuleWrite q v s := rfl
@[simp] theorem exec_ruleInvalidate (q : Fin 4) (v : Pair) (s : State) : exec (.ruleInvalidate q v) s = execRuleInvalidate q v s := rfl
@[simp] theorem exec_stepRead (q : Fin 4) (v : Pair) (s : State) : exec (.stepRead q v) s = execStepRead q v s := rfl
@[simp] theorem exec_stepWrite (q : Fin 4) (v : Pair) (s : State) : exec (.stepWrite q v) s = execStepWrite q v s := rfl
@[simp] theorem exec_spRateWrite (q : Fin 4) (k : Fin 16) (v : Pair) (s : State) : exec (.spRateWrite q k v) s = execSpRateWrite q k v s := rfl
@[simp] theorem exec_learnInsert (q : Fin 4) (s : State) : exec (.learnInsert q) s = execLearnInsert q s := rfl
@[simp] theorem exec_search (q : Fin 4) (v : Pair) (s : State) : exec (.search q v) s = execSearch q v s := rfl
@[simp] theorem exec_next (q : Fin 4) (v : Pair) (s : State) : exec (.next q v) s = execNext q v s := rfl
@[simp] theorem exec_insert (q : Fin 4) (v : Pair) (s : State) : exec (.insert q v) s = execInsert q v s := rfl
@[simp] theorem exec_delete (q : Fin 4) (v : Pair) (s : State) : exec (.delete q v) s = execDelete q v s := rfl
@[simp] theorem exec_flushPort (q : Fin 4) (v : Pair) (s : State) : exec (.flushPort q v) s = execFlushPort q v s := rfl
@[simp] theorem exec_fwdCmdEnd (q : Fin 4) (s : State) : exec (.fwdCmdEnd q) s = execFwdCmdEnd q s := rfl
@[simp] theorem exec_hashSeedWrite (q : Fin 4) (hi : Bool) (v : Pair) (s : State) : exec (.hashSeedWrite q hi v) s = execHashSeedWrite q hi v s := rfl
@[simp] theorem exec_ageingStrobe (s : State) : exec .ageingStrobe s = execAgeingStrobe s := rfl
@[simp] theorem exec_ageingVisit (q : Fin 4) (b : BitVec 17) (hit : BitVec 8) (s : State) : exec (.ageingVisit q b hit) s = execAgeingVisit q b hit s := rfl
@[simp] theorem exec_evtInfoRead (q : Fin 4) (s : State) : exec (.evtInfoRead q) s = execEvtInfoRead q s := rfl
@[simp] theorem exec_flushOnDown (p : Fin 32) (s : State) : exec (.flushOnDown p) s = execFlushOnDown p s := rfl
@[simp] theorem exec_submit (src : DspSrc) (s : State) : exec (.submit src) s = execSubmit src s := rfl
@[simp] theorem exec_release (src : DspSrc) (s : State) : exec (.release src) s = execRelease src s := rfl
@[simp] theorem exec_cancel (c : Cancel) (s : State) : exec (.cancel c) s = execCancel c s := rfl
@[simp] theorem exec_slotAllocation (q : Fin 4) (s : State) : exec (.slotAllocation q) s = execSlotAllocation q s := rfl
@[simp] theorem exec_dispatch (q : Fin 4) (s : State) : exec (.dispatch q) s = execDispatch q s := rfl
@[simp] theorem exec_deadlineClamp (q : Fin 4) (slot : Fin 4096) (s : State) : exec (.deadlineClamp q slot) s = execDeadlineClamp q slot s := rfl
@[simp] theorem exec_add (t : Fin 1024) (s : State) : exec (.add t) s = execAdd t s := rfl
@[simp] theorem exec_addc (t : Fin 1024) (s : State) : exec (.addc t) s = execAddc t s := rfl
@[simp] theorem exec_sub (t : Fin 1024) (s : State) : exec (.sub t) s = execSub t s := rfl
@[simp] theorem exec_subc (t : Fin 1024) (s : State) : exec (.subc t) s = execSubc t s := rfl
@[simp] theorem exec_and (t : Fin 1024) (s : State) : exec (.and t) s = execAnd t s := rfl
@[simp] theorem exec_or (t : Fin 1024) (s : State) : exec (.or t) s = execOr t s := rfl
@[simp] theorem exec_xor (t : Fin 1024) (s : State) : exec (.xor t) s = execXor t s := rfl
@[simp] theorem exec_andn (t : Fin 1024) (s : State) : exec (.andn t) s = execAndn t s := rfl
@[simp] theorem exec_shl (t : Fin 1024) (s : State) : exec (.shl t) s = execShl t s := rfl
@[simp] theorem exec_shr (t : Fin 1024) (s : State) : exec (.shr t) s = execShr t s := rfl
@[simp] theorem exec_sar (t : Fin 1024) (s : State) : exec (.sar t) s = execSar t s := rfl
@[simp] theorem exec_rol (t : Fin 1024) (s : State) : exec (.rol t) s = execRol t s := rfl
@[simp] theorem exec_cmp (t : Fin 1024) (s : State) : exec (.cmp t) s = execCmp t s := rfl
@[simp] theorem exec_tst (t : Fin 1024) (s : State) : exec (.tst t) s = execTst t s := rfl
@[simp] theorem exec_mov (t : Fin 1024) (s : State) : exec (.mov t) s = execMov t s := rfl
@[simp] theorem exec_addp (t : Fin 1024) (s : State) : exec (.addp t) s = execAddp t s := rfl
@[simp] theorem exec_subp (t : Fin 1024) (s : State) : exec (.subp t) s = execSubp t s := rfl
@[simp] theorem exec_andp (t : Fin 1024) (s : State) : exec (.andp t) s = execAndp t s := rfl
@[simp] theorem exec_orp (t : Fin 1024) (s : State) : exec (.orp t) s = execOrp t s := rfl
@[simp] theorem exec_xorp (t : Fin 1024) (s : State) : exec (.xorp t) s = execXorp t s := rfl
@[simp] theorem exec_shlp (t : Fin 1024) (s : State) : exec (.shlp t) s = execShlp t s := rfl
@[simp] theorem exec_shrp (t : Fin 1024) (s : State) : exec (.shrp t) s = execShrp t s := rfl
@[simp] theorem exec_sarp (t : Fin 1024) (s : State) : exec (.sarp t) s = execSarp t s := rfl
@[simp] theorem exec_rolp (t : Fin 1024) (s : State) : exec (.rolp t) s = execRolp t s := rfl
@[simp] theorem exec_cmpp (t : Fin 1024) (s : State) : exec (.cmpp t) s = execCmpp t s := rfl
@[simp] theorem exec_movp (t : Fin 1024) (s : State) : exec (.movp t) s = execMovp t s := rfl
@[simp] theorem exec_nop (t : Fin 1024) (s : State) : exec (.nop t) s = execNop t s := rfl
@[simp] theorem exec_addi (t : Fin 1024) (s : State) : exec (.addi t) s = execAddi t s := rfl
@[simp] theorem exec_andi (t : Fin 1024) (s : State) : exec (.andi t) s = execAndi t s := rfl
@[simp] theorem exec_ori (t : Fin 1024) (s : State) : exec (.ori t) s = execOri t s := rfl
@[simp] theorem exec_xori (t : Fin 1024) (s : State) : exec (.xori t) s = execXori t s := rfl
@[simp] theorem exec_cmpi (t : Fin 1024) (s : State) : exec (.cmpi t) s = execCmpi t s := rfl
@[simp] theorem exec_shi (t : Fin 1024) (s : State) : exec (.shi t) s = execShi t s := rfl
@[simp] theorem exec_movi (t : Fin 1024) (s : State) : exec (.movi t) s = execMovi t s := rfl
@[simp] theorem exec_mul (t : Fin 1024) (s : State) : exec (.mul t) s = execMul t s := rfl
@[simp] theorem exec_bfx (t : Fin 1024) (s : State) : exec (.bfx t) s = execBfx t s := rfl
@[simp] theorem exec_bfi (t : Fin 1024) (s : State) : exec (.bfi t) s = execBfi t s := rfl
@[simp] theorem exec_clz (t : Fin 1024) (s : State) : exec (.clz t) s = execClz t s := rfl
@[simp] theorem exec_perm (t : Fin 1024) (s : State) : exec (.perm t) s = execPerm t s := rfl
@[simp] theorem exec_wire (t : Fin 1024) (s : State) : exec (.wire t) s = execWire t s := rfl
@[simp] theorem exec_wand (t : Fin 1024) (s : State) : exec (.wand t) s = execWand t s := rfl
@[simp] theorem exec_wor (t : Fin 1024) (s : State) : exec (.wor t) s = execWor t s := rfl
@[simp] theorem exec_and4 (t : Fin 1024) (s : State) : exec (.and4 t) s = execAnd4 t s := rfl
@[simp] theorem exec_or4 (t : Fin 1024) (s : State) : exec (.or4 t) s = execOr4 t s := rfl
@[simp] theorem exec_xor4 (t : Fin 1024) (s : State) : exec (.xor4 t) s = execXor4 t s := rfl
@[simp] theorem exec_not4 (t : Fin 1024) (s : State) : exec (.not4 t) s = execNot4 t s := rfl
@[simp] theorem exec_to2 (t : Fin 1024) (s : State) : exec (.to2 t) s = execTo2 t s := rfl
@[simp] theorem exec_from2 (t : Fin 1024) (s : State) : exec (.from2 t) s = execFrom2 t s := rfl
@[simp] theorem exec_ld (t : Fin 1024) (s : State) : exec (.ld t) s = execLd t s := rfl
@[simp] theorem exec_st (t : Fin 1024) (s : State) : exec (.st t) s = execSt t s := rfl
@[simp] theorem exec_ldp (t : Fin 1024) (s : State) : exec (.ldp t) s = execLdp t s := rfl
@[simp] theorem exec_stp (t : Fin 1024) (s : State) : exec (.stp t) s = execStp t s := rfl
@[simp] theorem exec_lspi (t : Fin 1024) (s : State) : exec (.lspi t) s = execLspi t s := rfl
@[simp] theorem exec_loadResponse (t : Fin 1024) (s : State) : exec (.loadResponse t) s = execLoadResponse t s := rfl
@[simp] theorem exec_storeAnswer (t : Fin 1024) (i : Fin 16) (s : State) : exec (.storeAnswer t i) s = execStoreAnswer t i s := rfl
@[simp] theorem exec_mtb (t : Fin 1024) (s : State) : exec (.mtb t) s = execMtb t s := rfl
@[simp] theorem exec_mfb (t : Fin 1024) (s : State) : exec (.mfb t) s = execMfb t s := rfl
@[simp] theorem exec_bcc (t : Fin 1024) (s : State) : exec (.bcc t) s = execBcc t s := rfl
@[simp] theorem exec_bra (t : Fin 1024) (s : State) : exec (.bra t) s = execBra t s := rfl
@[simp] theorem exec_call (t : Fin 1024) (s : State) : exec (.call t) s = execCall t s := rfl
@[simp] theorem exec_jr (t : Fin 1024) (s : State) : exec (.jr t) s = execJr t s := rfl
@[simp] theorem exec_callr (t : Fin 1024) (s : State) : exec (.callr t) s = execCallr t s := rfl
@[simp] theorem exec_ret (t : Fin 1024) (s : State) : exec (.ret t) s = execRet t s := rfl
@[simp] theorem exec_eret (t : Fin 1024) (s : State) : exec (.eret t) s = execEret t s := rfl
@[simp] theorem exec_loop (t : Fin 1024) (s : State) : exec (.loop t) s = execLoop t s := rfl
@[simp] theorem exec_rep (t : Fin 1024) (s : State) : exec (.rep t) s = execRep t s := rfl
@[simp] theorem exec_task (t : Fin 1024) (s : State) : exec (.task t) s = execTask t s := rfl
@[simp] theorem exec_done (t : Fin 1024) (s : State) : exec (.done t) s = execDone t s := rfl
@[simp] theorem exec_gather (t : Fin 1024) (s : State) : exec (.gather t) s = execGather t s := rfl
@[simp] theorem exec_out (t : Fin 1024) (s : State) : exec (.out t) s = execOut t s := rfl
@[simp] theorem exec_fork (t : Fin 1024) (lost : Bool) (squashed : Bool) (s : State) : exec (.fork t lost squashed) s = execFork t lost squashed s := rfl
@[simp] theorem exec_join (t : Fin 1024) (s : State) : exec (.join t) s = execJoin t s := rfl
@[simp] theorem exec_joinWake (t : Fin 1024) (s : State) : exec (.joinWake t) s = execJoinWake t s := rfl
@[simp] theorem exec_chr (t : Fin 1024) (s : State) : exec (.chr t) s = execChr t s := rfl
@[simp] theorem exec_chw (t : Fin 1024) (s : State) : exec (.chw t) s = execChw t s := rfl
@[simp] theorem exec_chc (t : Fin 1024) (s : State) : exec (.chc t) s = execChc t s := rfl
@[simp] theorem exec_channelAccept (ch : Fin 512) (s : State) : exec (.channelAccept ch) s = execChannelAccept ch s := rfl
@[simp] theorem exec_messageTake (ch : Fin 512) (s : State) : exec (.messageTake ch) s = execMessageTake ch s := rfl
@[simp] theorem exec_hostMessageAccept (qp : Qp) (s : State) : exec (.hostMessageAccept qp) s = execHostMessageAccept qp s := rfl
@[simp] theorem exec_wfe (t : Fin 1024) (s : State) : exec (.wfe t) s = execWfe t s := rfl
@[simp] theorem exec_wfeWake (t : Fin 1024) (s : State) : exec (.wfeWake t) s = execWfeWake t s := rfl
@[simp] theorem exec_sev (t : Fin 1024) (s : State) : exec (.sev t) s = execSev t s := rfl
@[simp] theorem exec_cpl (t : Fin 1024) (s : State) : exec (.cpl t) s = execCpl t s := rfl
@[simp] theorem exec_contextGrant (c : Fin 8) (u : Fin 3) (s : State) : exec (.contextGrant c u) s = execContextGrant c u s := rfl
@[simp] theorem exec_cpu (t : Fin 1024) (s : State) : exec (.cpu t) s = execCpu t s := rfl
@[simp] theorem exec_contextRelease (c : Fin 8) (u : Fin 3) (k : Fin 4) (s : State) : exec (.contextRelease c u k) s = execContextRelease c u k s := rfl
@[simp] theorem exec_cpq (t : Fin 1024) (squashed : Bool) (s : State) : exec (.cpq t squashed) s = execCpq t squashed s := rfl
@[simp] theorem exec_cpm (t : Fin 1024) (squashed : Bool) (s : State) : exec (.cpm t squashed) s = execCpm t squashed s := rfl
@[simp] theorem exec_cps (t : Fin 1024) (s : State) : exec (.cps t) s = execCps t s := rfl
@[simp] theorem exec_copCompletion (c : Fin 8) (u : Fin 3) (s : State) : exec (.copCompletion c u) s = execCopCompletion c u s := rfl
@[simp] theorem exec_cas (t : Fin 1024) (s : State) : exec (.cas t) s = execCas t s := rfl
@[simp] theorem exec_rdf (t : Fin 1024) (s : State) : exec (.rdf t) s = execRdf t s := rfl
@[simp] theorem exec_mfs (t : Fin 1024) (s : State) : exec (.mfs t) s = execMfs t s := rfl
@[simp] theorem exec_mts (t : Fin 1024) (s : State) : exec (.mts t) s = execMts t s := rfl
@[simp] theorem exec_timerExpiry (t : Fin 1024) (s : State) : exec (.timerExpiry t) s = execTimerExpiry t s := rfl
@[simp] theorem exec_stall (sl : Fin 64) (s : State) : exec (.stall sl) s = execStall sl s := rfl
@[simp] theorem exec_halt (t : Fin 1024) (s : State) : exec (.halt t) s = execHalt t s := rfl
@[simp] theorem exec_resume (t : Fin 1024) (s : State) : exec (.resume t) s = execResume t s := rfl
@[simp] theorem exec_kill (t : Fin 1024) (s : State) : exec (.kill t) s = execKill t s := rfl
@[simp] theorem exec_step (t : Fin 1024) (s : State) : exec (.step t) s = execStep t s := rfl
@[simp] theorem exec_dbgDataAccess (wr : Bool) (v : Pair) (s : State) : exec (.dbgDataAccess wr v) s = execDbgDataAccess wr v s := rfl
@[simp] theorem exec_chanCfgWrite (ch : Fin 512) (v : Pair) (s : State) : exec (.chanCfgWrite ch v) s = execChanCfgWrite ch v s := rfl
@[simp] theorem exec_chanClear (ch : Fin 512) (s : State) : exec (.chanClear ch) s = execChanClear ch s := rfl
@[simp] theorem exec_enc (c : Fin 8) (k : Fin 4) (s : State) : exec (.enc c k) s = execEnc c k s := rfl
@[simp] theorem exec_dec (c : Fin 8) (k : Fin 4) (s : State) : exec (.dec c k) s = execDec c k s := rfl
@[simp] theorem exec_vwire (c : Fin 8) (k : Fin 4) (s : State) : exec (.vwire c k) s = execVwire c k s := rfl
@[simp] theorem exec_vwand (c : Fin 8) (k : Fin 4) (s : State) : exec (.vwand c k) s = execVwand c k s := rfl
@[simp] theorem exec_vwor (c : Fin 8) (k : Fin 4) (s : State) : exec (.vwor c k) s = execVwor c k s := rfl
@[simp] theorem exec_vand4 (c : Fin 8) (k : Fin 4) (s : State) : exec (.vand4 c k) s = execVand4 c k s := rfl
@[simp] theorem exec_vor4 (c : Fin 8) (k : Fin 4) (s : State) : exec (.vor4 c k) s = execVor4 c k s := rfl
@[simp] theorem exec_vxor4 (c : Fin 8) (k : Fin 4) (s : State) : exec (.vxor4 c k) s = execVxor4 c k s := rfl
@[simp] theorem exec_vnot4 (c : Fin 8) (k : Fin 4) (s : State) : exec (.vnot4 c k) s = execVnot4 c k s := rfl
@[simp] theorem exec_vto2 (c : Fin 8) (k : Fin 4) (s : State) : exec (.vto2 c k) s = execVto2 c k s := rfl
@[simp] theorem exec_vfrom2 (c : Fin 8) (k : Fin 4) (s : State) : exec (.vfrom2 c k) s = execVfrom2 c k s := rfl
@[simp] theorem exec_xcount (c : Fin 8) (k : Fin 4) (s : State) : exec (.xcount c k) s = execXcount c k s := rfl
@[simp] theorem exec_xevMatch (c : Fin 8) (k : Fin 4) (s : State) : exec (.xevMatch c k) s = execXevMatch c k s := rfl
@[simp] theorem exec_wirek (c : Fin 8) (k : Fin 4) (s : State) : exec (.wirek c k) s = execWirek c k s := rfl
@[simp] theorem exec_sinit (c : Fin 8) (k : Fin 4) (s : State) : exec (.sinit c k) s = execSinit c k s := rfl
@[simp] theorem exec_absorb (c : Fin 8) (k : Fin 4) (s : State) : exec (.absorb c k) s = execAbsorb c k s := rfl
@[simp] theorem exec_final (c : Fin 8) (k : Fin 4) (s : State) : exec (.final c k) s = execFinal c k s := rfl
@[simp] theorem exec_squeeze (c : Fin 8) (k : Fin 4) (s : State) : exec (.squeeze c k) s = execSqueeze c k s := rfl
@[simp] theorem exec_crc (c : Fin 8) (k : Fin 4) (s : State) : exec (.crc c k) s = execCrc c k s := rfl
@[simp] theorem exec_ringStart (r : Fin 256) (s : State) : exec (.ringStart r) s = execRingStart r s := rfl
@[simp] theorem exec_ringStop (r : Fin 256) (s : State) : exec (.ringStop r) s = execRingStop r s := rfl
@[simp] theorem exec_ringTrig (x : RingTrig) (s : State) : exec (.ringTrig x) s = execRingTrig x s := rfl
@[simp] theorem exec_ringFlush (r : Fin 256) (s : State) : exec (.ringFlush r) s = execRingFlush r s := rfl
@[simp] theorem exec_ringRdWrite (r : Fin 256) (v : Pair) (s : State) : exec (.ringRdWrite r v) s = execRingRdWrite r v s := rfl
@[simp] theorem exec_recordAppend (src : Fin 14) (s : State) : exec (.recordAppend src) s = execRecordAppend src s := rfl
@[simp] theorem exec_acquire (m : SemMaster) (i : Fin 4096) (s : State) : exec (.acquire m i) s = execAcquire m i s := rfl
@[simp] theorem exec_semRelease (m : SemMaster) (i : Fin 4096) (s : State) : exec (.semRelease m i) s = execSemRelease m i s := rfl
@[simp] theorem exec_renew (m : SemMaster) (i : Fin 4096) (s : State) : exec (.renew m i) s = execRenew m i s := rfl
@[simp] theorem exec_query (m : SemMaster) (i : Fin 4096) (s : State) : exec (.query m i) s = execQuery m i s := rfl
@[simp] theorem exec_leaseStrobe (s : State) : exec .leaseStrobe s = execLeaseStrobe s := rfl
@[simp] theorem exec_force (v : Pair) (s : State) : exec (.force v) s = execForce v s := rfl
@[simp] theorem exec_dramAccess (k : Fin 16) (sc : Bool) (ecc : Ecc) (s : State) : exec (.dramAccess k sc ecc) s = execDramAccess k sc ecc s := rfl
@[simp] theorem exec_refreshDue (k : Fin 16) (sc : Bool) (rk : Fin 4) (s : State) : exec (.refreshDue k sc rk) s = execRefreshDue k sc rk s := rfl
@[simp] theorem exec_owedRefresh (k : Fin 16) (sc : Bool) (rk : Fin 4) (s : State) : exec (.owedRefresh k sc rk) s = execOwedRefresh k sc rk s := rfl
@[simp] theorem exec_tempReading (k : Fin 16) (t0 : BitVec 8) (t1 : BitVec 8) (s : State) : exec (.tempReading k t0 t1) s = execTempReading k t0 t1 s := rfl
@[simp] theorem exec_sweepEnd (k : Fin 16) (sc : Bool) (rk : Fin 4) (bank : Fin 32) (s : State) : exec (.sweepEnd k sc rk bank) s = execSweepEnd k sc rk bank s := rfl
@[simp] theorem exec_shadowClear (k : Fin 16) (sc : Bool) (rk : Fin 4) (s : State) : exec (.shadowClear k sc rk) s = execShadowClear k sc rk s := rfl
@[simp] theorem exec_writeTimingCheck (k : Fin 16) (rk : Fin 4) (osc : Int) (s : State) : exec (.writeTimingCheck k rk osc) s = execWriteTimingCheck k rk osc s := rfl
@[simp] theorem exec_censusStart (k : Fin 16) (s : State) : exec (.censusStart k) s = execCensusStart k s := rfl
@[simp] theorem exec_censusStop (k : Fin 16) (s : State) : exec (.censusStop k) s = execCensusStop k s := rfl
@[simp] theorem exec_censusClear (k : Fin 16) (s : State) : exec (.censusClear k) s = execCensusClear k s := rfl
@[simp] theorem exec_censusWindowEnd (k : Fin 16) (s : State) : exec (.censusWindowEnd k) s = execCensusWindowEnd k s := rfl
@[simp] theorem exec_trainStart (k : Fin 16) (v : Pair) (spd : Spd) (s : State) : exec (.trainStart k v spd) s = execTrainStart k v spd s := rfl
@[simp] theorem exec_trainEnd (k : Fin 16) (o : List TrainPoint) (s : State) : exec (.trainEnd k o) s = execTrainEnd k o s := rfl
@[simp] theorem exec_wipeAll (v : Pair) (s : State) : exec (.wipeAll v) s = execWipeAll v s := rfl
@[simp] theorem exec_wipeExtent (v : Pair) (s : State) : exec (.wipeExtent v) s = execWipeExtent v s := rfl
@[simp] theorem exec_wipeEnd (s : State) : exec .wipeEnd s = execWipeEnd s := rfl
@[simp] theorem exec_scrub (k : Fin 16) (ecc : Ecc) (s : State) : exec (.scrub k ecc) s = execScrub k ecc s := rfl
@[simp] theorem exec_extentMoveEnd (x : Fin 4096) (s : State) : exec (.extentMoveEnd x) s = execExtentMoveEnd x s := rfl
@[simp] theorem exec_create (v : Pair) (s : State) : exec (.create v) s = execCreate v s := rfl
@[simp] theorem exec_destroy (v : Pair) (s : State) : exec (.destroy v) s = execDestroy v s := rfl
@[simp] theorem exec_grantExt (v : Pair) (s : State) : exec (.grantExt v) s = execGrantExt v s := rfl
@[simp] theorem exec_returnExt (v : Pair) (s : State) : exec (.returnExt v) s = execReturnExt v s := rfl
@[simp] theorem exec_arm (v : Pair) (s : State) : exec (.arm v) s = execArm v s := rfl
@[simp] theorem exec_disarm (v : Pair) (s : State) : exec (.disarm v) s = execDisarm v s := rfl
@[simp] theorem exec_thaw (v : Pair) (s : State) : exec (.thaw v) s = execThaw v s := rfl
@[simp] theorem exec_save (v : Pair) (s : State) : exec (.save v) s = execSave v s := rfl
@[simp] theorem exec_saveComplete (s : State) : exec .saveComplete s = execSaveComplete s := rfl
@[simp] theorem exec_restore (v : Pair) (s : State) : exec (.restore v) s = execRestore v s := rfl
@[simp] theorem exec_restoreLoadDone (s : State) : exec .restoreLoadDone s = execRestoreLoadDone s := rfl
@[simp] theorem exec_restoreLimit (s : State) : exec .restoreLimit s = execRestoreLimit s := rfl
@[simp] theorem exec_reset (v : Pair) (s : State) : exec (.reset v) s = execReset v s := rfl
@[simp] theorem exec_resetComplete (sl : Fin 64) (s : State) : exec (.resetComplete sl) s = execResetComplete sl s := rfl
@[simp] theorem exec_freezeComplete (sl : Fin 64) (s : State) : exec (.freezeComplete sl) s = execFreezeComplete sl s := rfl
@[simp] theorem exec_freezeLimit (sl : Fin 64) (s : State) : exec (.freezeLimit sl) s = execFreezeLimit sl s := rfl
@[simp] theorem exec_shareWrite (sl : Fin 64) (c : Fin 8) (v : Pair) (s : State) : exec (.shareWrite sl c v) s = execShareWrite sl c v s := rfl
@[simp] theorem exec_coreIdle (core : Fin 128) (s : State) : exec (.coreIdle core) s = execCoreIdle core s := rfl
@[simp] theorem exec_sqTail (qp : Qp) (v : Pair) (s : State) : exec (.sqTail qp v) s = execSqTail qp v s := rfl
@[simp] theorem exec_cqHead (qp : Qp) (v : Pair) (s : State) : exec (.cqHead qp v) s = execCqHead qp v s := rfl
@[simp] theorem exec_rqHead (qp : Qp) (v : Pair) (s : State) : exec (.rqHead qp v) s = execRqHead qp v s := rfl
@[simp] theorem exec_qpEnable (qp : Qp) (v : Pair) (s : State) : exec (.qpEnable qp v) s = execQpEnable qp v s := rfl
@[simp] theorem exec_qpStop (qp : Qp) (s : State) : exec (.qpStop qp) s = execQpStop qp s := rfl
@[simp] theorem exec_entryFetch (entry : BitVec 512) (s : State) : exec (.entryFetch entry) s = execEntryFetch entry s := rfl
@[simp] theorem exec_entryNop (qp : Qp) (s : State) : exec (.entryNop qp) s = execEntryNop qp s := rfl
@[simp] theorem exec_entryTask (qp : Qp) (s : State) : exec (.entryTask qp) s = execEntryTask qp s := rfl
@[simp] theorem exec_dmaWr (qp : Qp) (data : HostData) (s : State) : exec (.dmaWr qp data) s = execDmaWr qp data s := rfl
@[simp] theorem exec_dmaRd (qp : Qp) (s : State) : exec (.dmaRd qp) s = execDmaRd qp s := rfl
@[simp] theorem exec_dmaComplete (qp : Qp) (s : State) : exec (.dmaComplete qp) s = execDmaComplete qp s := rfl
@[simp] theorem exec_entryChan (qp : Qp) (s : State) : exec (.entryChan qp) s = execEntryChan qp s := rfl
@[simp] theorem exec_entrySem (qp : Qp) (s : State) : exec (.entrySem qp) s = execEntrySem qp s := rfl
@[simp] theorem exec_entryCas (qp : Qp) (s : State) : exec (.entryCas qp) s = execEntryCas qp s := rfl
@[simp] theorem exec_msixUnmask (fn : Fin 64) (v : Fin 32) (s : State) : exec (.msixUnmask fn v) s = execMsixUnmask fn v s := rfl
@[simp] theorem exec_flr (fn : Fin 64) (s : State) : exec (.flr fn) s = execFlr fn s := rfl
@[simp] theorem exec_vfEnableClear (s : State) : exec .vfEnableClear s = execVfEnableClear s := rfl
@[simp] theorem exec_perst (s : State) : exec .perst s = execPerst s := rfl
@[simp] theorem exec_powerEntry (m : Master) (v : Pair) (s : State) : exec (.powerEntry m v) s = execPowerEntry m v s := rfl
@[simp] theorem exec_powerWake (m : Master) (v : Pair) (s : State) : exec (.powerWake m v) s = execPowerWake m v s := rfl
@[simp] theorem exec_domainEntryComplete (d : Fin 15) (s : State) : exec (.domainEntryComplete d) s = execDomainEntryComplete d s := rfl
@[simp] theorem exec_domainWakeComplete (d : Fin 15) (crcOk : Bool) (s : State) : exec (.domainWakeComplete d crcOk) s = execDomainWakeComplete d crcOk s := rfl
@[simp] theorem exec_wakeTimeout (d : Fin 15) (s : State) : exec (.wakeTimeout d) s = execWakeTimeout d s := rfl
@[simp] theorem exec_glint (src : Fin 14) (d : Fin 15) (s : State) : exec (.glint src d) s = execGlint src d s := rfl
@[simp] theorem exec_wakeTimer (s : State) : exec .wakeTimer s = execWakeTimer s := rfl
@[simp] theorem exec_glintTest (v : Pair) (s : State) : exec (.glintTest v) s = execGlintTest v s := rfl
@[simp] theorem exec_thermalSample (temp : BitVec 8) (s : State) : exec (.thermalSample temp) s = execThermalSample temp s := rfl
@[simp] theorem exec_porAssert (s : State) : exec .porAssert s = execPorAssert s := rfl
@[simp] theorem exec_porRelease (straps : BitVec 8) (s : State) : exec (.porRelease straps) s = execPorRelease straps s := rfl
@[simp] theorem exec_sysResetAssert (s : State) : exec .sysResetAssert s = execSysResetAssert s := rfl
@[simp] theorem exec_sysResetRelease (s : State) : exec .sysResetRelease s = execSysResetRelease s := rfl
@[simp] theorem exec_vaonLow (s : State) : exec .vaonLow s = execVaonLow s := rfl
@[simp] theorem exec_firmwareStart (flash : List Octet) (s : State) : exec (.firmwareStart flash) s = execFirmwareStart flash s := rfl
@[simp] theorem exec_bootStop (flash : List Octet) (s : State) : exec (.bootStop flash) s = execBootStop flash s := rfl
@[simp] theorem exec_load (s : State) : exec .load s = execLoad s := rfl
@[simp] theorem exec_attest (rnd : BitVec 256) (s : State) : exec (.attest rnd) s = execAttest rnd s := rfl
@[simp] theorem exec_mboxLc (s : State) : exec .mboxLc s = execMboxLc s := rfl
@[simp] theorem exec_mboxRevoke (s : State) : exec .mboxRevoke s = execMboxRevoke s := rfl
@[simp] theorem exec_mailboxComplete (s : State) : exec .mailboxComplete s = execMailboxComplete s := rfl
@[simp] theorem exec_lcReq (v : Pair) (uds : BitVec 256) (s : State) : exec (.lcReq v uds) s = execLcReq v uds s := rfl
@[simp] theorem exec_revoke (v : Pair) (s : State) : exec (.revoke v) s = execRevoke v s := rfl
@[simp] theorem exec_svnSet (v : Pair) (s : State) : exec (.svnSet v) s = execSvnSet v s := rfl
@[simp] theorem exec_keyProg (v : Pair) (s : State) : exec (.keyProg v) s = execKeyProg v s := rfl
@[simp] theorem exec_extend (v : Pair) (s : State) : exec (.extend v) s = execExtend v s := rfl
@[simp] theorem exec_hostRdWrite (v : Pair) (s : State) : exec (.hostRdWrite v) s = execHostRdWrite v s := rfl
@[simp] theorem exec_umbRdWrite (v : Pair) (s : State) : exec (.umbRdWrite v) s = execUmbRdWrite v s := rfl
@[simp] theorem exec_post (v : Pair) (s : State) : exec (.post v) s = execPost v s := rfl
@[simp] theorem exec_kick (s : State) : exec .kick s = execKick s := rfl
@[simp] theorem exec_wdog (s : State) : exec .wdog s = execWdog s := rfl
@[simp] theorem exec_fatalRequest (s : State) : exec .fatalRequest s = execFatalRequest s := rfl
@[simp] theorem exec_umbraDoubleFault (s : State) : exec .umbraDoubleFault s = execUmbraDoubleFault s := rfl
@[simp] theorem exec_fatalSrComplete (trained : BitVec 16) (s : State) : exec (.fatalSrComplete trained) s = execFatalSrComplete trained s := rfl
@[simp] theorem exec_sramError (item : Sram) (ue : Bool) (s : State) : exec (.sramError item ue) s = execSramError item ue s := rfl
@[simp] theorem exec_refclkLnLoss (q : Fin 4) (s : State) : exec (.refclkLnLoss q) s = execRefclkLnLoss q s := rfl
@[simp] theorem exec_refclkSysLoss (s : State) : exec .refclkSysLoss s = execRefclkSysLoss s := rfl
@[simp] theorem exec_illOp (t : Fin 1024) (s : State) : exec (.illOp t) s = execIllOp t s := rfl
@[simp] theorem exec_ethLinkTraining (p : Fin 32) (up : Option (BitVec 4)) (s : State) : exec (.ethLinkTraining p up) s = execEthLinkTraining p up s := rfl
@[simp] theorem exec_perstRelease (s : State) : exec .perstRelease s = execPerstRelease s := rfl
@[simp] theorem exec_d3hot (fn : Fin 64) (on : Bool) (s : State) : exec (.d3hot fn on) s = execD3hot fn on s := rfl

end Sys2Proof.Machine
end

