-- ==== Sys2Proof/Laws/SMap.lean ====
section
/-! SUPPORT. SMap.lean: the laws of sparse tables: a read after a write, and every update keeps the canonical form. -/

namespace Sys2Proof.Machine.SMap

variable {α : Type}

/-! ## Reads after writes, on tables whose keys rise -/

theorem risesFrom_mono {m : List (Nat × α)} {a b : Nat} (h : risesFrom b m = true) (hab : a ≤ b) : risesFrom a m = true := by
  cases m with
  | nil => rfl
  | cons x m =>
    simp only [risesFrom, Bool.and_eq_true, decide_eq_true_eq] at h ⊢
    exact ⟨hab.trans h.1, h.2⟩

theorem risesFrom_cons {x : Nat × α} {m : List (Nat × α)} {lo : Nat} :
    risesFrom lo (x :: m) = true ↔ lo ≤ x.1 ∧ risesFrom (x.1 + 1) m = true := by
  simp [risesFrom]

theorem risesFrom_del {lo k : Nat} {m : List (Nat × α)} (h : risesFrom lo m = true) : risesFrom lo (del k m) = true := by
  induction m generalizing lo with
  | nil => rfl
  | cons x m ih =>
    rw [risesFrom_cons] at h
    simp only [del]
    split
    · exact ih (risesFrom_mono h.2 (by omega))
    · rw [risesFrom_cons]
      exact ⟨h.1, ih h.2⟩

theorem risesFrom_put {lo k : Nat} {v : α} {m : List (Nat × α)} (h : risesFrom lo m = true) (hk : lo ≤ k) :
    risesFrom lo (put k v m) = true := by
  induction m generalizing lo with
  | nil => simp [put, risesFrom, hk]
  | cons x m ih =>
    rw [risesFrom_cons] at h
    simp only [put]
    split
    · rw [risesFrom_cons, risesFrom_cons]
      exact ⟨hk, by omega, h.2⟩
    · split
      · next hx =>
        rw [risesFrom_cons]
        exact ⟨hk, hx ▸ h.2⟩
      · rw [risesFrom_cons]
        exact ⟨h.1, ih h.2 (by omega)⟩

theorem risesFrom_filter {lo : Nat} {p : Nat × α → Bool} {m : List (Nat × α)} (h : risesFrom lo m = true) :
    risesFrom lo (m.filter p) = true := by
  induction m generalizing lo with
  | nil => rfl
  | cons x m ih =>
    rw [risesFrom_cons] at h
    simp only [List.filter]
    split
    · rw [risesFrom_cons]
      exact ⟨h.1, ih h.2⟩
    · exact risesFrom_mono (ih h.2) (by omega)

theorem rises_put {k : Nat} {v : α} {m : List (Nat × α)} (h : rises m = true) : rises (put k v m) = true :=
  risesFrom_put h (Nat.zero_le _)

theorem rises_del {k : Nat} {m : List (Nat × α)} (h : rises m = true) : rises (del k m) = true := risesFrom_del h

theorem rises_filter {p : Nat × α → Bool} {m : List (Nat × α)} (h : rises m = true) : rises (m.filter p) = true :=
  risesFrom_filter h

theorem get_eq_of_lt {d : α} {m : List (Nat × α)} {lo k : Nat} (h : risesFrom lo m = true) (hk : k < lo) : get d m k = d := by
  induction m generalizing lo with
  | nil => rfl
  | cons x m ih =>
    rw [risesFrom_cons] at h
    have : x.1 ≠ k := by omega
    simp only [get, this, if_false]
    exact ih h.2 (by omega)

theorem get_put_self {d v : α} {k : Nat} (m : List (Nat × α)) : get d (put k v m) k = v := by
  induction m with
  | nil => simp [put, get]
  | cons x m ih =>
    simp only [put]
    split
    · simp [get]
    · split
      · simp [get]
      · have : x.1 ≠ k := by omega
        simp [get, this, ih]

theorem get_put_ne {d v : α} {k j : Nat} (m : List (Nat × α)) (h : j ≠ k) : get d (put k v m) j = get d m j := by
  induction m with
  | nil => simp [put, get, Ne.symm h]
  | cons x m ih =>
    simp only [put]
    split
    · simp [get, Ne.symm h]
    · split
      · next hk => simp [get, ← hk, Ne.symm h]
      · simp [get, ih]

theorem get_del_ne {d : α} {k j : Nat} (m : List (Nat × α)) (h : j ≠ k) : get d (del k m) j = get d m j := by
  induction m with
  | nil => rfl
  | cons x m ih =>
    simp only [del]
    split
    · next hk => simp [get, hk, Ne.symm h, ih]
    · simp [get, ih]

theorem get_del_self {d : α} {k : Nat} (m : List (Nat × α)) : get d (del k m) k = d := by
  induction m with
  | nil => rfl
  | cons x m ih =>
    simp only [del]
    split
    · exact ih
    · next hk => simp only [get, hk, if_false]; exact ih

theorem get_set_ne [DecidableEq α] {d v : α} {k j : Nat} (m : List (Nat × α)) (h : j ≠ k) :
    get d (set d m k v) j = get d m j := by
  simp only [set]
  split
  · exact get_del_ne m h
  · exact get_put_ne m h

theorem get_set_self [DecidableEq α] {d v : α} {k : Nat} (m : List (Nat × α)) :
    get d (set d m k v) k = v := by
  simp only [set]
  split
  · next hv => rw [hv]; exact get_del_self m
  · exact get_put_self m

theorem get_modify_ne [DecidableEq α] {d : α} {f : α → α} {k j : Nat} (m : List (Nat × α)) (h : j ≠ k) :
    get d (modify d m k f) j = get d m j := get_set_ne m h

theorem get_modify_self [DecidableEq α] {d : α} {f : α → α} {k : Nat} (m : List (Nat × α)) :
    get d (modify d m k f) k = f (get d m k) := get_set_self m

/-- Reading key k with a default of its own after a write of key j with another default. -/
theorem get_set_ne' [DecidableEq α] {d e v : α} {k j : Nat} (m : List (Nat × α)) (h : j ≠ k) :
    get e (set d m k v) j = get e m j := by
  simp only [set]
  split
  · exact get_del_ne m h
  · exact get_put_ne m h

/-! ## The canonical form -/

variable [DecidableEq α]

theorem rises_of_wfFrom {d : Nat → α} {lo : Nat} {m : List (Nat × α)} (h : wfFrom d lo m = true) : risesFrom lo m = true := by
  induction m generalizing lo with
  | nil => rfl
  | cons x m ih =>
    simp only [wfFrom, Bool.and_eq_true, decide_eq_true_eq] at h
    rw [risesFrom_cons]
    exact ⟨h.1.1, ih h.2⟩

theorem rises_of_wf {d : Nat → α} {m : List (Nat × α)} (h : wf d m = true) : rises m = true := rises_of_wfFrom h

theorem wfFrom_mono {d : Nat → α} {a b : Nat} {m : List (Nat × α)} (h : wfFrom d b m = true) (hab : a ≤ b) :
    wfFrom d a m = true := by
  cases m with
  | nil => rfl
  | cons x m =>
    simp only [wfFrom, Bool.and_eq_true, decide_eq_true_eq] at h ⊢
    exact ⟨⟨hab.trans h.1.1, h.1.2⟩, h.2⟩

theorem wfFrom_del {d : Nat → α} {lo k : Nat} {m : List (Nat × α)} (h : wfFrom d lo m = true) :
    wfFrom d lo (del k m) = true := by
  induction m generalizing lo with
  | nil => rfl
  | cons x m ih =>
    simp only [wfFrom, Bool.and_eq_true, decide_eq_true_eq] at h
    simp only [del]
    split
    · exact ih (wfFrom_mono h.2 (by omega))
    · simp only [wfFrom, Bool.and_eq_true, decide_eq_true_eq]
      exact ⟨h.1, ih h.2⟩

theorem wfFrom_put {d : Nat → α} {lo k : Nat} {v : α} {m : List (Nat × α)} (h : wfFrom d lo m = true) (hk : lo ≤ k)
    (hv : v ≠ d k) : wfFrom d lo (put k v m) = true := by
  induction m generalizing lo with
  | nil => simp [put, wfFrom, hk, hv]
  | cons x m ih =>
    simp only [wfFrom, Bool.and_eq_true, decide_eq_true_eq] at h
    simp only [put]
    split
    · simp only [wfFrom, Bool.and_eq_true, decide_eq_true_eq]
      exact ⟨⟨hk, hv⟩, ⟨by omega, h.1.2⟩, h.2⟩
    · split
      · next hx =>
        simp only [wfFrom, Bool.and_eq_true, decide_eq_true_eq]
        exact ⟨⟨hk, hv⟩, hx ▸ h.2⟩
      · simp only [wfFrom, Bool.and_eq_true, decide_eq_true_eq]
        exact ⟨h.1, ih h.2 (by omega)⟩

/-- A write keeps the canonical form. -/
theorem wf_set {d : Nat → α} {k : Nat} {v : α} {m : List (Nat × α)} (h : wf d m = true) : wf d (set (d k) m k v) = true := by
  simp only [set]
  split
  · exact wfFrom_del h
  · next hv => exact wfFrom_put h (Nat.zero_le _) hv

theorem wf_modify {d : Nat → α} {k : Nat} {f : α → α} {m : List (Nat × α)} (h : wf d m = true) :
    wf d (modify (d k) m k f) = true := wf_set h

theorem wf_del {d : Nat → α} {k : Nat} {m : List (Nat × α)} (h : wf d m = true) : wf d (del k m) = true := wfFrom_del h

theorem wfFrom_filter {d : Nat → α} {lo : Nat} {p : Nat × α → Bool} {m : List (Nat × α)} (h : wfFrom d lo m = true) :
    wfFrom d lo (m.filter p) = true := by
  induction m generalizing lo with
  | nil => rfl
  | cons x m ih =>
    simp only [wfFrom, Bool.and_eq_true, decide_eq_true_eq] at h
    simp only [List.filter]
    split
    · simp only [wfFrom, Bool.and_eq_true, decide_eq_true_eq]
      exact ⟨h.1, ih h.2⟩
    · exact wfFrom_mono (ih h.2) (by omega)

/-- Dropping pairs keeps the canonical form. -/
theorem wf_filter {d : Nat → α} {p : Nat × α → Bool} {m : List (Nat × α)} (h : wf d m = true) : wf d (m.filter p) = true :=
  wfFrom_filter h

theorem wf_keep {d : Nat → α} {p : Nat → α → Bool} {m : List (Nat × α)} (h : wf d m = true) : wf d (keep p m) = true :=
  wfFrom_filter h

theorem rises_set {k : Nat} {d v : α} {m : List (Nat × α)} (h : rises m = true) : rises (set d m k v) = true := by
  simp only [set]
  split
  · exact risesFrom_del h
  · exact risesFrom_put h (Nat.zero_le _)

theorem wf_mapVals {d : α} {f : α → α} {m : List (Nat × α)} (h : rises m = true) : wf (fun _ => d) (mapVals d f m) = true := by
  suffices ∀ lo, risesFrom lo m = true → wfFrom (fun _ => d) lo (mapVals d f m) = true from this 0 h
  clear h
  induction m with
  | nil => intro _ _; rfl
  | cons x m ih =>
    intro lo h
    simp only [risesFrom, Bool.and_eq_true, decide_eq_true_eq] at h
    by_cases hx : f x.2 = d
    · have := ih (x.1 + 1) h.2
      simp only [mapVals, List.map_cons, List.filter_cons, hx, decide_true, Bool.not_true, Bool.false_eq_true, if_false]
      exact wfFrom_mono this (by omega)
    · simp only [mapVals, List.map_cons, List.filter_cons, hx, decide_false, Bool.not_false, if_true, wfFrom, Bool.and_eq_true,
        decide_eq_true_eq]
      exact ⟨⟨h.1, hx⟩, ih (x.1 + 1) h.2⟩

/-- Two tables in canonical form that read alike everywhere are one table. -/
theorem ext_of_wf {d : Nat → α} {lo : Nat} {m n : List (Nat × α)} (hm : wfFrom d lo m = true) (hn : wfFrom d lo n = true)
    (h : ∀ k, get (d k) m k = get (d k) n k) : m = n := by
  induction m generalizing lo n with
  | nil =>
    cases n with
    | nil => rfl
    | cons y n =>
      simp only [wfFrom, Bool.and_eq_true, decide_eq_true_eq] at hn
      have := h y.1
      simp [get] at this
      exact absurd this.symm hn.1.2
  | cons x m ih =>
    have hm' := hm
    simp only [wfFrom, Bool.and_eq_true, decide_eq_true_eq] at hm
    cases n with
    | nil =>
      have := h x.1
      simp [get] at this
      exact absurd this hm.1.2
    | cons y n =>
      have hn' := hn
      simp only [wfFrom, Bool.and_eq_true, decide_eq_true_eq] at hn
      have rm := rises_of_wfFrom hm.2
      have rn := rises_of_wfFrom hn.2
      have key : x.1 = y.1 := by
        rcases Nat.lt_trichotomy x.1 y.1 with hlt | heq | hgt
        · have := h x.1
          have hne : y.1 ≠ x.1 := by omega
          simp only [get, if_true, hne, if_false] at this
          rw [get_eq_of_lt rn (by omega)] at this
          exact absurd this hm.1.2
        · exact heq
        · have := h y.1
          have hne : x.1 ≠ y.1 := by omega
          simp only [get, if_true, hne, if_false] at this
          rw [get_eq_of_lt rm (by omega)] at this
          exact absurd this.symm hn.1.2
      have hv : x.2 = y.2 := by
        have := h x.1
        simpa [get, key] using this
      have hxy : x = y := Prod.ext key hv
      subst hxy
      congr 1
      refine ih hm.2 hn.2 fun k => ?_
      by_cases hk : k ≤ x.1
      · rw [get_eq_of_lt rm (by omega), get_eq_of_lt rn (by omega)]
      · have := h k
        have hne : x.1 ≠ k := by omega
        simpa [get, hne] using this

end Sys2Proof.Machine.SMap
end

