-- ==== Sys2Proof/Laws/State.lean ====
section
/-! SUPPORT. State.lean: what each named update leaves alone: one lemma per field per update, true by rfl, so that no proof
unfolds a record update. -/

namespace Sys2Proof.Machine


@[simp] theorem State.setReg_pending (s : State) (o : Nat) (v : Pair) : (s.setReg o v).pending = s.pending := rfl
@[simp] theorem State.setReg_tick (s : State) (o : Nat) (v : Pair) : (s.setReg o v).tick = s.tick := rfl
@[simp] theorem State.setReg_quarter (s : State) (o : Nat) (v : Pair) : (s.setReg o v).quarter = s.quarter := rfl
@[simp] theorem State.setReg_copy (s : State) (o : Nat) (v : Pair) : (s.setReg o v).copy = s.copy := rfl
@[simp] theorem State.setReg_cclk (s : State) (o : Nat) (v : Pair) : (s.setReg o v).cclk = s.cclk := rfl
@[simp] theorem State.setReg_hclk (s : State) (o : Nat) (v : Pair) : (s.setReg o v).hclk = s.hclk := rfl
@[simp] theorem State.setReg_uclk (s : State) (o : Nat) (v : Pair) : (s.setReg o v).uclk = s.uclk := rfl
@[simp] theorem State.setReg_bucketAt (s : State) (o : Nat) (v : Pair) : (s.setReg o v).bucketAt = s.bucketAt := rfl
@[simp] theorem State.setReg_ageingAt (s : State) (o : Nat) (v : Pair) : (s.setReg o v).ageingAt = s.ageingAt := rfl
@[simp] theorem State.setReg_leaseAt (s : State) (o : Nat) (v : Pair) : (s.setReg o v).leaseAt = s.leaseAt := rfl
@[simp] theorem State.setReg_thermalAt (s : State) (o : Nat) (v : Pair) : (s.setReg o v).thermalAt = s.thermalAt := rfl
@[simp] theorem State.setReg_free (s : State) (o : Nat) (v : Pair) : (s.setReg o v).free = s.free := rfl
@[simp] theorem State.setReg_nextId (s : State) (o : Nat) (v : Pair) : (s.setReg o v).nextId = s.nextId := rfl
@[simp] theorem State.setReg_page (s : State) (o : Nat) (v : Pair) : (s.setReg o v).page = s.page := rfl
@[simp] theorem State.setReg_readData (s : State) (o : Nat) (v : Pair) : (s.setReg o v).readData = s.readData := rfl
@[simp] theorem State.setReg_epc (s : State) (o : Nat) (v : Pair) : (s.setReg o v).epc = s.epc := rfl
@[simp] theorem State.setReg_ports (s : State) (o : Nat) (v : Pair) : (s.setReg o v).ports = s.ports := rfl
@[simp] theorem State.setReg_pkts (s : State) (o : Nat) (v : Pair) : (s.setReg o v).pkts = s.pkts := rfl
@[simp] theorem State.setReg_eouts (s : State) (o : Nat) (v : Pair) : (s.setReg o v).eouts = s.eouts := rfl
@[simp] theorem State.setReg_prs (s : State) (o : Nat) (v : Pair) : (s.setReg o v).prs = s.prs := rfl
@[simp] theorem State.setReg_fwd (s : State) (o : Nat) (v : Pair) : (s.setReg o v).fwd = s.fwd := rfl
@[simp] theorem State.setReg_dsp (s : State) (o : Nat) (v : Pair) : (s.setReg o v).dsp = s.dsp := rfl
@[simp] theorem State.setReg_threads (s : State) (o : Nat) (v : Pair) : (s.setReg o v).threads = s.threads := rfl
@[simp] theorem State.setReg_cores (s : State) (o : Nat) (v : Pair) : (s.setReg o v).cores = s.cores := rfl
@[simp] theorem State.setReg_imem (s : State) (o : Nat) (v : Pair) : (s.setReg o v).imem = s.imem := rfl
@[simp] theorem State.setReg_mem (s : State) (o : Nat) (v : Pair) : (s.setReg o v).mem = s.mem := rfl
@[simp] theorem State.setReg_poison (s : State) (o : Nat) (v : Pair) : (s.setReg o v).poison = s.poison := rfl
@[simp] theorem State.setReg_chans (s : State) (o : Nat) (v : Pair) : (s.setReg o v).chans = s.chans := rfl
@[simp] theorem State.setReg_units (s : State) (o : Nat) (v : Pair) : (s.setReg o v).units = s.units := rfl
@[simp] theorem State.setReg_offers (s : State) (o : Nat) (v : Pair) : (s.setReg o v).offers = s.offers := rfl
@[simp] theorem State.setReg_rings (s : State) (o : Nat) (v : Pair) : (s.setReg o v).rings = s.rings := rfl
@[simp] theorem State.setReg_sems (s : State) (o : Nat) (v : Pair) : (s.setReg o v).sems = s.sems := rfl
@[simp] theorem State.setReg_umbraSem (s : State) (o : Nat) (v : Pair) : (s.setReg o v).umbraSem = s.umbraSem := rfl
@[simp] theorem State.setReg_lines (s : State) (o : Nat) (v : Pair) : (s.setReg o v).lines = s.lines := rfl
@[simp] theorem State.setReg_exts (s : State) (o : Nat) (v : Pair) : (s.setReg o v).exts = s.exts := rfl
@[simp] theorem State.setReg_dchans (s : State) (o : Nat) (v : Pair) : (s.setReg o v).dchans = s.dchans := rfl
@[simp] theorem State.setReg_wipe (s : State) (o : Nat) (v : Pair) : (s.setReg o v).wipe = s.wipe := rfl
@[simp] theorem State.setReg_slices (s : State) (o : Nat) (v : Pair) : (s.setReg o v).slices = s.slices := rfl
@[simp] theorem State.setReg_slcCmd (s : State) (o : Nat) (v : Pair) : (s.setReg o v).slcCmd = s.slcCmd := rfl
@[simp] theorem State.setReg_qps (s : State) (o : Nat) (v : Pair) : (s.setReg o v).qps = s.qps := rfl
@[simp] theorem State.setReg_unmasked (s : State) (o : Nat) (v : Pair) : (s.setReg o v).unmasked = s.unmasked := rfl
@[simp] theorem State.setReg_vectors (s : State) (o : Nat) (v : Pair) : (s.setReg o v).vectors = s.vectors := rfl
@[simp] theorem State.setReg_pba (s : State) (o : Nat) (v : Pair) : (s.setReg o v).pba = s.pba := rfl
@[simp] theorem State.setReg_d3 (s : State) (o : Nat) (v : Pair) : (s.setReg o v).d3 = s.d3 := rfl
@[simp] theorem State.setReg_power (s : State) (o : Nat) (v : Pair) : (s.setReg o v).power = s.power := rfl
@[simp] theorem State.setReg_boot (s : State) (o : Nat) (v : Pair) : (s.setReg o v).boot = s.boot := rfl
@[simp] theorem State.setReg_pins (s : State) (o : Nat) (v : Pair) : (s.setReg o v).pins = s.pins := rfl
@[simp] theorem State.setReg_errSeq (s : State) (o : Nat) (v : Pair) : (s.setReg o v).errSeq = s.errSeq := rfl
@[simp] theorem State.setReg_fatal (s : State) (o : Nat) (v : Pair) : (s.setReg o v).fatal = s.fatal := rfl
@[simp] theorem State.setReg_savedExts (s : State) (o : Nat) (v : Pair) : (s.setReg o v).savedExts = s.savedExts := rfl
@[simp] theorem State.setReg_semDone (s : State) (o : Nat) (v : Pair) : (s.setReg o v).semDone = s.semDone := rfl
@[simp] theorem State.setReg_errAt (s : State) (o : Nat) (v : Pair) : (s.setReg o v).errAt = s.errAt := rfl
@[simp] theorem State.setReg_alertAt (s : State) (o : Nat) (v : Pair) : (s.setReg o v).alertAt = s.alertAt := rfl
@[simp] theorem State.setReg_halts (s : State) (o : Nat) (v : Pair) : (s.setReg o v).halts = s.halts := rfl
@[simp] theorem State.setReg_dcmds (s : State) (o : Nat) (v : Pair) : (s.setReg o v).dcmds = s.dcmds := rfl
@[simp] theorem State.setReg_out (s : State) (o : Nat) (v : Pair) : (s.setReg o v).out = s.out := rfl

@[simp] theorem State.setFld_pending (s : State) (f : Fld) (n : Nat) : (s.setFld f n).pending = s.pending := rfl
@[simp] theorem State.setFld_tick (s : State) (f : Fld) (n : Nat) : (s.setFld f n).tick = s.tick := rfl
@[simp] theorem State.setFld_quarter (s : State) (f : Fld) (n : Nat) : (s.setFld f n).quarter = s.quarter := rfl
@[simp] theorem State.setFld_copy (s : State) (f : Fld) (n : Nat) : (s.setFld f n).copy = s.copy := rfl
@[simp] theorem State.setFld_cclk (s : State) (f : Fld) (n : Nat) : (s.setFld f n).cclk = s.cclk := rfl
@[simp] theorem State.setFld_hclk (s : State) (f : Fld) (n : Nat) : (s.setFld f n).hclk = s.hclk := rfl
@[simp] theorem State.setFld_uclk (s : State) (f : Fld) (n : Nat) : (s.setFld f n).uclk = s.uclk := rfl
@[simp] theorem State.setFld_bucketAt (s : State) (f : Fld) (n : Nat) : (s.setFld f n).bucketAt = s.bucketAt := rfl
@[simp] theorem State.setFld_ageingAt (s : State) (f : Fld) (n : Nat) : (s.setFld f n).ageingAt = s.ageingAt := rfl
@[simp] theorem State.setFld_leaseAt (s : State) (f : Fld) (n : Nat) : (s.setFld f n).leaseAt = s.leaseAt := rfl
@[simp] theorem State.setFld_thermalAt (s : State) (f : Fld) (n : Nat) : (s.setFld f n).thermalAt = s.thermalAt := rfl
@[simp] theorem State.setFld_free (s : State) (f : Fld) (n : Nat) : (s.setFld f n).free = s.free := rfl
@[simp] theorem State.setFld_nextId (s : State) (f : Fld) (n : Nat) : (s.setFld f n).nextId = s.nextId := rfl
@[simp] theorem State.setFld_page (s : State) (f : Fld) (n : Nat) : (s.setFld f n).page = s.page := rfl
@[simp] theorem State.setFld_readData (s : State) (f : Fld) (n : Nat) : (s.setFld f n).readData = s.readData := rfl
@[simp] theorem State.setFld_epc (s : State) (f : Fld) (n : Nat) : (s.setFld f n).epc = s.epc := rfl
@[simp] theorem State.setFld_ports (s : State) (f : Fld) (n : Nat) : (s.setFld f n).ports = s.ports := rfl
@[simp] theorem State.setFld_pkts (s : State) (f : Fld) (n : Nat) : (s.setFld f n).pkts = s.pkts := rfl
@[simp] theorem State.setFld_eouts (s : State) (f : Fld) (n : Nat) : (s.setFld f n).eouts = s.eouts := rfl
@[simp] theorem State.setFld_prs (s : State) (f : Fld) (n : Nat) : (s.setFld f n).prs = s.prs := rfl
@[simp] theorem State.setFld_fwd (s : State) (f : Fld) (n : Nat) : (s.setFld f n).fwd = s.fwd := rfl
@[simp] theorem State.setFld_dsp (s : State) (f : Fld) (n : Nat) : (s.setFld f n).dsp = s.dsp := rfl
@[simp] theorem State.setFld_threads (s : State) (f : Fld) (n : Nat) : (s.setFld f n).threads = s.threads := rfl
@[simp] theorem State.setFld_cores (s : State) (f : Fld) (n : Nat) : (s.setFld f n).cores = s.cores := rfl
@[simp] theorem State.setFld_imem (s : State) (f : Fld) (n : Nat) : (s.setFld f n).imem = s.imem := rfl
@[simp] theorem State.setFld_mem (s : State) (f : Fld) (n : Nat) : (s.setFld f n).mem = s.mem := rfl
@[simp] theorem State.setFld_poison (s : State) (f : Fld) (n : Nat) : (s.setFld f n).poison = s.poison := rfl
@[simp] theorem State.setFld_chans (s : State) (f : Fld) (n : Nat) : (s.setFld f n).chans = s.chans := rfl
@[simp] theorem State.setFld_units (s : State) (f : Fld) (n : Nat) : (s.setFld f n).units = s.units := rfl
@[simp] theorem State.setFld_offers (s : State) (f : Fld) (n : Nat) : (s.setFld f n).offers = s.offers := rfl
@[simp] theorem State.setFld_rings (s : State) (f : Fld) (n : Nat) : (s.setFld f n).rings = s.rings := rfl
@[simp] theorem State.setFld_sems (s : State) (f : Fld) (n : Nat) : (s.setFld f n).sems = s.sems := rfl
@[simp] theorem State.setFld_umbraSem (s : State) (f : Fld) (n : Nat) : (s.setFld f n).umbraSem = s.umbraSem := rfl
@[simp] theorem State.setFld_lines (s : State) (f : Fld) (n : Nat) : (s.setFld f n).lines = s.lines := rfl
@[simp] theorem State.setFld_exts (s : State) (f : Fld) (n : Nat) : (s.setFld f n).exts = s.exts := rfl
@[simp] theorem State.setFld_dchans (s : State) (f : Fld) (n : Nat) : (s.setFld f n).dchans = s.dchans := rfl
@[simp] theorem State.setFld_wipe (s : State) (f : Fld) (n : Nat) : (s.setFld f n).wipe = s.wipe := rfl
@[simp] theorem State.setFld_slices (s : State) (f : Fld) (n : Nat) : (s.setFld f n).slices = s.slices := rfl
@[simp] theorem State.setFld_slcCmd (s : State) (f : Fld) (n : Nat) : (s.setFld f n).slcCmd = s.slcCmd := rfl
@[simp] theorem State.setFld_qps (s : State) (f : Fld) (n : Nat) : (s.setFld f n).qps = s.qps := rfl
@[simp] theorem State.setFld_unmasked (s : State) (f : Fld) (n : Nat) : (s.setFld f n).unmasked = s.unmasked := rfl
@[simp] theorem State.setFld_vectors (s : State) (f : Fld) (n : Nat) : (s.setFld f n).vectors = s.vectors := rfl
@[simp] theorem State.setFld_pba (s : State) (f : Fld) (n : Nat) : (s.setFld f n).pba = s.pba := rfl
@[simp] theorem State.setFld_d3 (s : State) (f : Fld) (n : Nat) : (s.setFld f n).d3 = s.d3 := rfl
@[simp] theorem State.setFld_power (s : State) (f : Fld) (n : Nat) : (s.setFld f n).power = s.power := rfl
@[simp] theorem State.setFld_boot (s : State) (f : Fld) (n : Nat) : (s.setFld f n).boot = s.boot := rfl
@[simp] theorem State.setFld_pins (s : State) (f : Fld) (n : Nat) : (s.setFld f n).pins = s.pins := rfl
@[simp] theorem State.setFld_errSeq (s : State) (f : Fld) (n : Nat) : (s.setFld f n).errSeq = s.errSeq := rfl
@[simp] theorem State.setFld_fatal (s : State) (f : Fld) (n : Nat) : (s.setFld f n).fatal = s.fatal := rfl
@[simp] theorem State.setFld_savedExts (s : State) (f : Fld) (n : Nat) : (s.setFld f n).savedExts = s.savedExts := rfl
@[simp] theorem State.setFld_semDone (s : State) (f : Fld) (n : Nat) : (s.setFld f n).semDone = s.semDone := rfl
@[simp] theorem State.setFld_errAt (s : State) (f : Fld) (n : Nat) : (s.setFld f n).errAt = s.errAt := rfl
@[simp] theorem State.setFld_alertAt (s : State) (f : Fld) (n : Nat) : (s.setFld f n).alertAt = s.alertAt := rfl
@[simp] theorem State.setFld_halts (s : State) (f : Fld) (n : Nat) : (s.setFld f n).halts = s.halts := rfl
@[simp] theorem State.setFld_dcmds (s : State) (f : Fld) (n : Nat) : (s.setFld f n).dcmds = s.dcmds := rfl
@[simp] theorem State.setFld_out (s : State) (f : Fld) (n : Nat) : (s.setFld f n).out = s.out := rfl

@[simp] theorem State.bumpFld_pending (s : State) (f : Fld) (n : Nat) : (s.bumpFld f n).pending = s.pending := rfl
@[simp] theorem State.bumpFld_tick (s : State) (f : Fld) (n : Nat) : (s.bumpFld f n).tick = s.tick := rfl
@[simp] theorem State.bumpFld_quarter (s : State) (f : Fld) (n : Nat) : (s.bumpFld f n).quarter = s.quarter := rfl
@[simp] theorem State.bumpFld_copy (s : State) (f : Fld) (n : Nat) : (s.bumpFld f n).copy = s.copy := rfl
@[simp] theorem State.bumpFld_cclk (s : State) (f : Fld) (n : Nat) : (s.bumpFld f n).cclk = s.cclk := rfl
@[simp] theorem State.bumpFld_hclk (s : State) (f : Fld) (n : Nat) : (s.bumpFld f n).hclk = s.hclk := rfl
@[simp] theorem State.bumpFld_uclk (s : State) (f : Fld) (n : Nat) : (s.bumpFld f n).uclk = s.uclk := rfl
@[simp] theorem State.bumpFld_bucketAt (s : State) (f : Fld) (n : Nat) : (s.bumpFld f n).bucketAt = s.bucketAt := rfl
@[simp] theorem State.bumpFld_ageingAt (s : State) (f : Fld) (n : Nat) : (s.bumpFld f n).ageingAt = s.ageingAt := rfl
@[simp] theorem State.bumpFld_leaseAt (s : State) (f : Fld) (n : Nat) : (s.bumpFld f n).leaseAt = s.leaseAt := rfl
@[simp] theorem State.bumpFld_thermalAt (s : State) (f : Fld) (n : Nat) : (s.bumpFld f n).thermalAt = s.thermalAt := rfl
@[simp] theorem State.bumpFld_free (s : State) (f : Fld) (n : Nat) : (s.bumpFld f n).free = s.free := rfl
@[simp] theorem State.bumpFld_nextId (s : State) (f : Fld) (n : Nat) : (s.bumpFld f n).nextId = s.nextId := rfl
@[simp] theorem State.bumpFld_page (s : State) (f : Fld) (n : Nat) : (s.bumpFld f n).page = s.page := rfl
@[simp] theorem State.bumpFld_readData (s : State) (f : Fld) (n : Nat) : (s.bumpFld f n).readData = s.readData := rfl
@[simp] theorem State.bumpFld_epc (s : State) (f : Fld) (n : Nat) : (s.bumpFld f n).epc = s.epc := rfl
@[simp] theorem State.bumpFld_ports (s : State) (f : Fld) (n : Nat) : (s.bumpFld f n).ports = s.ports := rfl
@[simp] theorem State.bumpFld_pkts (s : State) (f : Fld) (n : Nat) : (s.bumpFld f n).pkts = s.pkts := rfl
@[simp] theorem State.bumpFld_eouts (s : State) (f : Fld) (n : Nat) : (s.bumpFld f n).eouts = s.eouts := rfl
@[simp] theorem State.bumpFld_prs (s : State) (f : Fld) (n : Nat) : (s.bumpFld f n).prs = s.prs := rfl
@[simp] theorem State.bumpFld_fwd (s : State) (f : Fld) (n : Nat) : (s.bumpFld f n).fwd = s.fwd := rfl
@[simp] theorem State.bumpFld_dsp (s : State) (f : Fld) (n : Nat) : (s.bumpFld f n).dsp = s.dsp := rfl
@[simp] theorem State.bumpFld_threads (s : State) (f : Fld) (n : Nat) : (s.bumpFld f n).threads = s.threads := rfl
@[simp] theorem State.bumpFld_cores (s : State) (f : Fld) (n : Nat) : (s.bumpFld f n).cores = s.cores := rfl
@[simp] theorem State.bumpFld_imem (s : State) (f : Fld) (n : Nat) : (s.bumpFld f n).imem = s.imem := rfl
@[simp] theorem State.bumpFld_mem (s : State) (f : Fld) (n : Nat) : (s.bumpFld f n).mem = s.mem := rfl
@[simp] theorem State.bumpFld_poison (s : State) (f : Fld) (n : Nat) : (s.bumpFld f n).poison = s.poison := rfl
@[simp] theorem State.bumpFld_chans (s : State) (f : Fld) (n : Nat) : (s.bumpFld f n).chans = s.chans := rfl
@[simp] theorem State.bumpFld_units (s : State) (f : Fld) (n : Nat) : (s.bumpFld f n).units = s.units := rfl
@[simp] theorem State.bumpFld_offers (s : State) (f : Fld) (n : Nat) : (s.bumpFld f n).offers = s.offers := rfl
@[simp] theorem State.bumpFld_rings (s : State) (f : Fld) (n : Nat) : (s.bumpFld f n).rings = s.rings := rfl
@[simp] theorem State.bumpFld_sems (s : State) (f : Fld) (n : Nat) : (s.bumpFld f n).sems = s.sems := rfl
@[simp] theorem State.bumpFld_umbraSem (s : State) (f : Fld) (n : Nat) : (s.bumpFld f n).umbraSem = s.umbraSem := rfl
@[simp] theorem State.bumpFld_lines (s : State) (f : Fld) (n : Nat) : (s.bumpFld f n).lines = s.lines := rfl
@[simp] theorem State.bumpFld_exts (s : State) (f : Fld) (n : Nat) : (s.bumpFld f n).exts = s.exts := rfl
@[simp] theorem State.bumpFld_dchans (s : State) (f : Fld) (n : Nat) : (s.bumpFld f n).dchans = s.dchans := rfl
@[simp] theorem State.bumpFld_wipe (s : State) (f : Fld) (n : Nat) : (s.bumpFld f n).wipe = s.wipe := rfl
@[simp] theorem State.bumpFld_slices (s : State) (f : Fld) (n : Nat) : (s.bumpFld f n).slices = s.slices := rfl
@[simp] theorem State.bumpFld_slcCmd (s : State) (f : Fld) (n : Nat) : (s.bumpFld f n).slcCmd = s.slcCmd := rfl
@[simp] theorem State.bumpFld_qps (s : State) (f : Fld) (n : Nat) : (s.bumpFld f n).qps = s.qps := rfl
@[simp] theorem State.bumpFld_unmasked (s : State) (f : Fld) (n : Nat) : (s.bumpFld f n).unmasked = s.unmasked := rfl
@[simp] theorem State.bumpFld_vectors (s : State) (f : Fld) (n : Nat) : (s.bumpFld f n).vectors = s.vectors := rfl
@[simp] theorem State.bumpFld_pba (s : State) (f : Fld) (n : Nat) : (s.bumpFld f n).pba = s.pba := rfl
@[simp] theorem State.bumpFld_d3 (s : State) (f : Fld) (n : Nat) : (s.bumpFld f n).d3 = s.d3 := rfl
@[simp] theorem State.bumpFld_power (s : State) (f : Fld) (n : Nat) : (s.bumpFld f n).power = s.power := rfl
@[simp] theorem State.bumpFld_boot (s : State) (f : Fld) (n : Nat) : (s.bumpFld f n).boot = s.boot := rfl
@[simp] theorem State.bumpFld_pins (s : State) (f : Fld) (n : Nat) : (s.bumpFld f n).pins = s.pins := rfl
@[simp] theorem State.bumpFld_errSeq (s : State) (f : Fld) (n : Nat) : (s.bumpFld f n).errSeq = s.errSeq := rfl
@[simp] theorem State.bumpFld_fatal (s : State) (f : Fld) (n : Nat) : (s.bumpFld f n).fatal = s.fatal := rfl
@[simp] theorem State.bumpFld_savedExts (s : State) (f : Fld) (n : Nat) : (s.bumpFld f n).savedExts = s.savedExts := rfl
@[simp] theorem State.bumpFld_semDone (s : State) (f : Fld) (n : Nat) : (s.bumpFld f n).semDone = s.semDone := rfl
@[simp] theorem State.bumpFld_errAt (s : State) (f : Fld) (n : Nat) : (s.bumpFld f n).errAt = s.errAt := rfl
@[simp] theorem State.bumpFld_alertAt (s : State) (f : Fld) (n : Nat) : (s.bumpFld f n).alertAt = s.alertAt := rfl
@[simp] theorem State.bumpFld_halts (s : State) (f : Fld) (n : Nat) : (s.bumpFld f n).halts = s.halts := rfl
@[simp] theorem State.bumpFld_dcmds (s : State) (f : Fld) (n : Nat) : (s.bumpFld f n).dcmds = s.dcmds := rfl
@[simp] theorem State.bumpFld_out (s : State) (f : Fld) (n : Nat) : (s.bumpFld f n).out = s.out := rfl

@[simp] theorem State.setPageReg_pending (s : State) (a o : Nat) (v : Pair) : (s.setPageReg a o v).pending = s.pending := rfl
@[simp] theorem State.setPageReg_tick (s : State) (a o : Nat) (v : Pair) : (s.setPageReg a o v).tick = s.tick := rfl
@[simp] theorem State.setPageReg_quarter (s : State) (a o : Nat) (v : Pair) : (s.setPageReg a o v).quarter = s.quarter := rfl
@[simp] theorem State.setPageReg_copy (s : State) (a o : Nat) (v : Pair) : (s.setPageReg a o v).copy = s.copy := rfl
@[simp] theorem State.setPageReg_cclk (s : State) (a o : Nat) (v : Pair) : (s.setPageReg a o v).cclk = s.cclk := rfl
@[simp] theorem State.setPageReg_hclk (s : State) (a o : Nat) (v : Pair) : (s.setPageReg a o v).hclk = s.hclk := rfl
@[simp] theorem State.setPageReg_uclk (s : State) (a o : Nat) (v : Pair) : (s.setPageReg a o v).uclk = s.uclk := rfl
@[simp] theorem State.setPageReg_bucketAt (s : State) (a o : Nat) (v : Pair) : (s.setPageReg a o v).bucketAt = s.bucketAt := rfl
@[simp] theorem State.setPageReg_ageingAt (s : State) (a o : Nat) (v : Pair) : (s.setPageReg a o v).ageingAt = s.ageingAt := rfl
@[simp] theorem State.setPageReg_leaseAt (s : State) (a o : Nat) (v : Pair) : (s.setPageReg a o v).leaseAt = s.leaseAt := rfl
@[simp] theorem State.setPageReg_thermalAt (s : State) (a o : Nat) (v : Pair) : (s.setPageReg a o v).thermalAt = s.thermalAt := rfl
@[simp] theorem State.setPageReg_free (s : State) (a o : Nat) (v : Pair) : (s.setPageReg a o v).free = s.free := rfl
@[simp] theorem State.setPageReg_nextId (s : State) (a o : Nat) (v : Pair) : (s.setPageReg a o v).nextId = s.nextId := rfl
@[simp] theorem State.setPageReg_csr (s : State) (a o : Nat) (v : Pair) : (s.setPageReg a o v).csr = s.csr := rfl
@[simp] theorem State.setPageReg_readData (s : State) (a o : Nat) (v : Pair) : (s.setPageReg a o v).readData = s.readData := rfl
@[simp] theorem State.setPageReg_epc (s : State) (a o : Nat) (v : Pair) : (s.setPageReg a o v).epc = s.epc := rfl
@[simp] theorem State.setPageReg_ports (s : State) (a o : Nat) (v : Pair) : (s.setPageReg a o v).ports = s.ports := rfl
@[simp] theorem State.setPageReg_pkts (s : State) (a o : Nat) (v : Pair) : (s.setPageReg a o v).pkts = s.pkts := rfl
@[simp] theorem State.setPageReg_eouts (s : State) (a o : Nat) (v : Pair) : (s.setPageReg a o v).eouts = s.eouts := rfl
@[simp] theorem State.setPageReg_prs (s : State) (a o : Nat) (v : Pair) : (s.setPageReg a o v).prs = s.prs := rfl
@[simp] theorem State.setPageReg_fwd (s : State) (a o : Nat) (v : Pair) : (s.setPageReg a o v).fwd = s.fwd := rfl
@[simp] theorem State.setPageReg_dsp (s : State) (a o : Nat) (v : Pair) : (s.setPageReg a o v).dsp = s.dsp := rfl
@[simp] theorem State.setPageReg_threads (s : State) (a o : Nat) (v : Pair) : (s.setPageReg a o v).threads = s.threads := rfl
@[simp] theorem State.setPageReg_cores (s : State) (a o : Nat) (v : Pair) : (s.setPageReg a o v).cores = s.cores := rfl
@[simp] theorem State.setPageReg_imem (s : State) (a o : Nat) (v : Pair) : (s.setPageReg a o v).imem = s.imem := rfl
@[simp] theorem State.setPageReg_mem (s : State) (a o : Nat) (v : Pair) : (s.setPageReg a o v).mem = s.mem := rfl
@[simp] theorem State.setPageReg_poison (s : State) (a o : Nat) (v : Pair) : (s.setPageReg a o v).poison = s.poison := rfl
@[simp] theorem State.setPageReg_chans (s : State) (a o : Nat) (v : Pair) : (s.setPageReg a o v).chans = s.chans := rfl
@[simp] theorem State.setPageReg_units (s : State) (a o : Nat) (v : Pair) : (s.setPageReg a o v).units = s.units := rfl
@[simp] theorem State.setPageReg_offers (s : State) (a o : Nat) (v : Pair) : (s.setPageReg a o v).offers = s.offers := rfl
@[simp] theorem State.setPageReg_rings (s : State) (a o : Nat) (v : Pair) : (s.setPageReg a o v).rings = s.rings := rfl
@[simp] theorem State.setPageReg_sems (s : State) (a o : Nat) (v : Pair) : (s.setPageReg a o v).sems = s.sems := rfl
@[simp] theorem State.setPageReg_umbraSem (s : State) (a o : Nat) (v : Pair) : (s.setPageReg a o v).umbraSem = s.umbraSem := rfl
@[simp] theorem State.setPageReg_lines (s : State) (a o : Nat) (v : Pair) : (s.setPageReg a o v).lines = s.lines := rfl
@[simp] theorem State.setPageReg_exts (s : State) (a o : Nat) (v : Pair) : (s.setPageReg a o v).exts = s.exts := rfl
@[simp] theorem State.setPageReg_dchans (s : State) (a o : Nat) (v : Pair) : (s.setPageReg a o v).dchans = s.dchans := rfl
@[simp] theorem State.setPageReg_wipe (s : State) (a o : Nat) (v : Pair) : (s.setPageReg a o v).wipe = s.wipe := rfl
@[simp] theorem State.setPageReg_slices (s : State) (a o : Nat) (v : Pair) : (s.setPageReg a o v).slices = s.slices := rfl
@[simp] theorem State.setPageReg_slcCmd (s : State) (a o : Nat) (v : Pair) : (s.setPageReg a o v).slcCmd = s.slcCmd := rfl
@[simp] theorem State.setPageReg_qps (s : State) (a o : Nat) (v : Pair) : (s.setPageReg a o v).qps = s.qps := rfl
@[simp] theorem State.setPageReg_unmasked (s : State) (a o : Nat) (v : Pair) : (s.setPageReg a o v).unmasked = s.unmasked := rfl
@[simp] theorem State.setPageReg_vectors (s : State) (a o : Nat) (v : Pair) : (s.setPageReg a o v).vectors = s.vectors := rfl
@[simp] theorem State.setPageReg_pba (s : State) (a o : Nat) (v : Pair) : (s.setPageReg a o v).pba = s.pba := rfl
@[simp] theorem State.setPageReg_d3 (s : State) (a o : Nat) (v : Pair) : (s.setPageReg a o v).d3 = s.d3 := rfl
@[simp] theorem State.setPageReg_power (s : State) (a o : Nat) (v : Pair) : (s.setPageReg a o v).power = s.power := rfl
@[simp] theorem State.setPageReg_boot (s : State) (a o : Nat) (v : Pair) : (s.setPageReg a o v).boot = s.boot := rfl
@[simp] theorem State.setPageReg_pins (s : State) (a o : Nat) (v : Pair) : (s.setPageReg a o v).pins = s.pins := rfl
@[simp] theorem State.setPageReg_errSeq (s : State) (a o : Nat) (v : Pair) : (s.setPageReg a o v).errSeq = s.errSeq := rfl
@[simp] theorem State.setPageReg_fatal (s : State) (a o : Nat) (v : Pair) : (s.setPageReg a o v).fatal = s.fatal := rfl
@[simp] theorem State.setPageReg_savedExts (s : State) (a o : Nat) (v : Pair) : (s.setPageReg a o v).savedExts = s.savedExts := rfl
@[simp] theorem State.setPageReg_semDone (s : State) (a o : Nat) (v : Pair) : (s.setPageReg a o v).semDone = s.semDone := rfl
@[simp] theorem State.setPageReg_errAt (s : State) (a o : Nat) (v : Pair) : (s.setPageReg a o v).errAt = s.errAt := rfl
@[simp] theorem State.setPageReg_alertAt (s : State) (a o : Nat) (v : Pair) : (s.setPageReg a o v).alertAt = s.alertAt := rfl
@[simp] theorem State.setPageReg_halts (s : State) (a o : Nat) (v : Pair) : (s.setPageReg a o v).halts = s.halts := rfl
@[simp] theorem State.setPageReg_dcmds (s : State) (a o : Nat) (v : Pair) : (s.setPageReg a o v).dcmds = s.dcmds := rfl
@[simp] theorem State.setPageReg_out (s : State) (a o : Nat) (v : Pair) : (s.setPageReg a o v).out = s.out := rfl

@[simp] theorem State.setPageFld_pending (s : State) (a : Nat) (f : Fld) (n : Nat) : (s.setPageFld a f n).pending = s.pending := rfl
@[simp] theorem State.setPageFld_tick (s : State) (a : Nat) (f : Fld) (n : Nat) : (s.setPageFld a f n).tick = s.tick := rfl
@[simp] theorem State.setPageFld_quarter (s : State) (a : Nat) (f : Fld) (n : Nat) : (s.setPageFld a f n).quarter = s.quarter := rfl
@[simp] theorem State.setPageFld_copy (s : State) (a : Nat) (f : Fld) (n : Nat) : (s.setPageFld a f n).copy = s.copy := rfl
@[simp] theorem State.setPageFld_cclk (s : State) (a : Nat) (f : Fld) (n : Nat) : (s.setPageFld a f n).cclk = s.cclk := rfl
@[simp] theorem State.setPageFld_hclk (s : State) (a : Nat) (f : Fld) (n : Nat) : (s.setPageFld a f n).hclk = s.hclk := rfl
@[simp] theorem State.setPageFld_uclk (s : State) (a : Nat) (f : Fld) (n : Nat) : (s.setPageFld a f n).uclk = s.uclk := rfl
@[simp] theorem State.setPageFld_bucketAt (s : State) (a : Nat) (f : Fld) (n : Nat) : (s.setPageFld a f n).bucketAt = s.bucketAt := rfl
@[simp] theorem State.setPageFld_ageingAt (s : State) (a : Nat) (f : Fld) (n : Nat) : (s.setPageFld a f n).ageingAt = s.ageingAt := rfl
@[simp] theorem State.setPageFld_leaseAt (s : State) (a : Nat) (f : Fld) (n : Nat) : (s.setPageFld a f n).leaseAt = s.leaseAt := rfl
@[simp] theorem State.setPageFld_thermalAt (s : State) (a : Nat) (f : Fld) (n : Nat) : (s.setPageFld a f n).thermalAt = s.thermalAt := rfl
@[simp] theorem State.setPageFld_free (s : State) (a : Nat) (f : Fld) (n : Nat) : (s.setPageFld a f n).free = s.free := rfl
@[simp] theorem State.setPageFld_nextId (s : State) (a : Nat) (f : Fld) (n : Nat) : (s.setPageFld a f n).nextId = s.nextId := rfl
@[simp] theorem State.setPageFld_csr (s : State) (a : Nat) (f : Fld) (n : Nat) : (s.setPageFld a f n).csr = s.csr := rfl
@[simp] theorem State.setPageFld_readData (s : State) (a : Nat) (f : Fld) (n : Nat) : (s.setPageFld a f n).readData = s.readData := rfl
@[simp] theorem State.setPageFld_epc (s : State) (a : Nat) (f : Fld) (n : Nat) : (s.setPageFld a f n).epc = s.epc := rfl
@[simp] theorem State.setPageFld_ports (s : State) (a : Nat) (f : Fld) (n : Nat) : (s.setPageFld a f n).ports = s.ports := rfl
@[simp] theorem State.setPageFld_pkts (s : State) (a : Nat) (f : Fld) (n : Nat) : (s.setPageFld a f n).pkts = s.pkts := rfl
@[simp] theorem State.setPageFld_eouts (s : State) (a : Nat) (f : Fld) (n : Nat) : (s.setPageFld a f n).eouts = s.eouts := rfl
@[simp] theorem State.setPageFld_prs (s : State) (a : Nat) (f : Fld) (n : Nat) : (s.setPageFld a f n).prs = s.prs := rfl
@[simp] theorem State.setPageFld_fwd (s : State) (a : Nat) (f : Fld) (n : Nat) : (s.setPageFld a f n).fwd = s.fwd := rfl
@[simp] theorem State.setPageFld_dsp (s : State) (a : Nat) (f : Fld) (n : Nat) : (s.setPageFld a f n).dsp = s.dsp := rfl
@[simp] theorem State.setPageFld_threads (s : State) (a : Nat) (f : Fld) (n : Nat) : (s.setPageFld a f n).threads = s.threads := rfl
@[simp] theorem State.setPageFld_cores (s : State) (a : Nat) (f : Fld) (n : Nat) : (s.setPageFld a f n).cores = s.cores := rfl
@[simp] theorem State.setPageFld_imem (s : State) (a : Nat) (f : Fld) (n : Nat) : (s.setPageFld a f n).imem = s.imem := rfl
@[simp] theorem State.setPageFld_mem (s : State) (a : Nat) (f : Fld) (n : Nat) : (s.setPageFld a f n).mem = s.mem := rfl
@[simp] theorem State.setPageFld_poison (s : State) (a : Nat) (f : Fld) (n : Nat) : (s.setPageFld a f n).poison = s.poison := rfl
@[simp] theorem State.setPageFld_chans (s : State) (a : Nat) (f : Fld) (n : Nat) : (s.setPageFld a f n).chans = s.chans := rfl
@[simp] theorem State.setPageFld_units (s : State) (a : Nat) (f : Fld) (n : Nat) : (s.setPageFld a f n).units = s.units := rfl
@[simp] theorem State.setPageFld_offers (s : State) (a : Nat) (f : Fld) (n : Nat) : (s.setPageFld a f n).offers = s.offers := rfl
@[simp] theorem State.setPageFld_rings (s : State) (a : Nat) (f : Fld) (n : Nat) : (s.setPageFld a f n).rings = s.rings := rfl
@[simp] theorem State.setPageFld_sems (s : State) (a : Nat) (f : Fld) (n : Nat) : (s.setPageFld a f n).sems = s.sems := rfl
@[simp] theorem State.setPageFld_umbraSem (s : State) (a : Nat) (f : Fld) (n : Nat) : (s.setPageFld a f n).umbraSem = s.umbraSem := rfl
@[simp] theorem State.setPageFld_lines (s : State) (a : Nat) (f : Fld) (n : Nat) : (s.setPageFld a f n).lines = s.lines := rfl
@[simp] theorem State.setPageFld_exts (s : State) (a : Nat) (f : Fld) (n : Nat) : (s.setPageFld a f n).exts = s.exts := rfl
@[simp] theorem State.setPageFld_dchans (s : State) (a : Nat) (f : Fld) (n : Nat) : (s.setPageFld a f n).dchans = s.dchans := rfl
@[simp] theorem State.setPageFld_wipe (s : State) (a : Nat) (f : Fld) (n : Nat) : (s.setPageFld a f n).wipe = s.wipe := rfl
@[simp] theorem State.setPageFld_slices (s : State) (a : Nat) (f : Fld) (n : Nat) : (s.setPageFld a f n).slices = s.slices := rfl
@[simp] theorem State.setPageFld_slcCmd (s : State) (a : Nat) (f : Fld) (n : Nat) : (s.setPageFld a f n).slcCmd = s.slcCmd := rfl
@[simp] theorem State.setPageFld_qps (s : State) (a : Nat) (f : Fld) (n : Nat) : (s.setPageFld a f n).qps = s.qps := rfl
@[simp] theorem State.setPageFld_unmasked (s : State) (a : Nat) (f : Fld) (n : Nat) : (s.setPageFld a f n).unmasked = s.unmasked := rfl
@[simp] theorem State.setPageFld_vectors (s : State) (a : Nat) (f : Fld) (n : Nat) : (s.setPageFld a f n).vectors = s.vectors := rfl
@[simp] theorem State.setPageFld_pba (s : State) (a : Nat) (f : Fld) (n : Nat) : (s.setPageFld a f n).pba = s.pba := rfl
@[simp] theorem State.setPageFld_d3 (s : State) (a : Nat) (f : Fld) (n : Nat) : (s.setPageFld a f n).d3 = s.d3 := rfl
@[simp] theorem State.setPageFld_power (s : State) (a : Nat) (f : Fld) (n : Nat) : (s.setPageFld a f n).power = s.power := rfl
@[simp] theorem State.setPageFld_boot (s : State) (a : Nat) (f : Fld) (n : Nat) : (s.setPageFld a f n).boot = s.boot := rfl
@[simp] theorem State.setPageFld_pins (s : State) (a : Nat) (f : Fld) (n : Nat) : (s.setPageFld a f n).pins = s.pins := rfl
@[simp] theorem State.setPageFld_errSeq (s : State) (a : Nat) (f : Fld) (n : Nat) : (s.setPageFld a f n).errSeq = s.errSeq := rfl
@[simp] theorem State.setPageFld_fatal (s : State) (a : Nat) (f : Fld) (n : Nat) : (s.setPageFld a f n).fatal = s.fatal := rfl
@[simp] theorem State.setPageFld_savedExts (s : State) (a : Nat) (f : Fld) (n : Nat) : (s.setPageFld a f n).savedExts = s.savedExts := rfl
@[simp] theorem State.setPageFld_semDone (s : State) (a : Nat) (f : Fld) (n : Nat) : (s.setPageFld a f n).semDone = s.semDone := rfl
@[simp] theorem State.setPageFld_errAt (s : State) (a : Nat) (f : Fld) (n : Nat) : (s.setPageFld a f n).errAt = s.errAt := rfl
@[simp] theorem State.setPageFld_alertAt (s : State) (a : Nat) (f : Fld) (n : Nat) : (s.setPageFld a f n).alertAt = s.alertAt := rfl
@[simp] theorem State.setPageFld_halts (s : State) (a : Nat) (f : Fld) (n : Nat) : (s.setPageFld a f n).halts = s.halts := rfl
@[simp] theorem State.setPageFld_dcmds (s : State) (a : Nat) (f : Fld) (n : Nat) : (s.setPageFld a f n).dcmds = s.dcmds := rfl
@[simp] theorem State.setPageFld_out (s : State) (a : Nat) (f : Fld) (n : Nat) : (s.setPageFld a f n).out = s.out := rfl

@[simp] theorem State.modThread_pending (s : State) (t : Nat) (f : Thread → Thread) : (s.modThread t f).pending = s.pending := rfl
@[simp] theorem State.modThread_tick (s : State) (t : Nat) (f : Thread → Thread) : (s.modThread t f).tick = s.tick := rfl
@[simp] theorem State.modThread_quarter (s : State) (t : Nat) (f : Thread → Thread) : (s.modThread t f).quarter = s.quarter := rfl
@[simp] theorem State.modThread_copy (s : State) (t : Nat) (f : Thread → Thread) : (s.modThread t f).copy = s.copy := rfl
@[simp] theorem State.modThread_cclk (s : State) (t : Nat) (f : Thread → Thread) : (s.modThread t f).cclk = s.cclk := rfl
@[simp] theorem State.modThread_hclk (s : State) (t : Nat) (f : Thread → Thread) : (s.modThread t f).hclk = s.hclk := rfl
@[simp] theorem State.modThread_uclk (s : State) (t : Nat) (f : Thread → Thread) : (s.modThread t f).uclk = s.uclk := rfl
@[simp] theorem State.modThread_bucketAt (s : State) (t : Nat) (f : Thread → Thread) : (s.modThread t f).bucketAt = s.bucketAt := rfl
@[simp] theorem State.modThread_ageingAt (s : State) (t : Nat) (f : Thread → Thread) : (s.modThread t f).ageingAt = s.ageingAt := rfl
@[simp] theorem State.modThread_leaseAt (s : State) (t : Nat) (f : Thread → Thread) : (s.modThread t f).leaseAt = s.leaseAt := rfl
@[simp] theorem State.modThread_thermalAt (s : State) (t : Nat) (f : Thread → Thread) : (s.modThread t f).thermalAt = s.thermalAt := rfl
@[simp] theorem State.modThread_free (s : State) (t : Nat) (f : Thread → Thread) : (s.modThread t f).free = s.free := rfl
@[simp] theorem State.modThread_nextId (s : State) (t : Nat) (f : Thread → Thread) : (s.modThread t f).nextId = s.nextId := rfl
@[simp] theorem State.modThread_csr (s : State) (t : Nat) (f : Thread → Thread) : (s.modThread t f).csr = s.csr := rfl
@[simp] theorem State.modThread_page (s : State) (t : Nat) (f : Thread → Thread) : (s.modThread t f).page = s.page := rfl
@[simp] theorem State.modThread_readData (s : State) (t : Nat) (f : Thread → Thread) : (s.modThread t f).readData = s.readData := rfl
@[simp] theorem State.modThread_epc (s : State) (t : Nat) (f : Thread → Thread) : (s.modThread t f).epc = s.epc := rfl
@[simp] theorem State.modThread_ports (s : State) (t : Nat) (f : Thread → Thread) : (s.modThread t f).ports = s.ports := rfl
@[simp] theorem State.modThread_pkts (s : State) (t : Nat) (f : Thread → Thread) : (s.modThread t f).pkts = s.pkts := rfl
@[simp] theorem State.modThread_eouts (s : State) (t : Nat) (f : Thread → Thread) : (s.modThread t f).eouts = s.eouts := rfl
@[simp] theorem State.modThread_prs (s : State) (t : Nat) (f : Thread → Thread) : (s.modThread t f).prs = s.prs := rfl
@[simp] theorem State.modThread_fwd (s : State) (t : Nat) (f : Thread → Thread) : (s.modThread t f).fwd = s.fwd := rfl
@[simp] theorem State.modThread_dsp (s : State) (t : Nat) (f : Thread → Thread) : (s.modThread t f).dsp = s.dsp := rfl
@[simp] theorem State.modThread_cores (s : State) (t : Nat) (f : Thread → Thread) : (s.modThread t f).cores = s.cores := rfl
@[simp] theorem State.modThread_imem (s : State) (t : Nat) (f : Thread → Thread) : (s.modThread t f).imem = s.imem := rfl
@[simp] theorem State.modThread_mem (s : State) (t : Nat) (f : Thread → Thread) : (s.modThread t f).mem = s.mem := rfl
@[simp] theorem State.modThread_poison (s : State) (t : Nat) (f : Thread → Thread) : (s.modThread t f).poison = s.poison := rfl
@[simp] theorem State.modThread_chans (s : State) (t : Nat) (f : Thread → Thread) : (s.modThread t f).chans = s.chans := rfl
@[simp] theorem State.modThread_units (s : State) (t : Nat) (f : Thread → Thread) : (s.modThread t f).units = s.units := rfl
@[simp] theorem State.modThread_offers (s : State) (t : Nat) (f : Thread → Thread) : (s.modThread t f).offers = s.offers := rfl
@[simp] theorem State.modThread_rings (s : State) (t : Nat) (f : Thread → Thread) : (s.modThread t f).rings = s.rings := rfl
@[simp] theorem State.modThread_sems (s : State) (t : Nat) (f : Thread → Thread) : (s.modThread t f).sems = s.sems := rfl
@[simp] theorem State.modThread_umbraSem (s : State) (t : Nat) (f : Thread → Thread) : (s.modThread t f).umbraSem = s.umbraSem := rfl
@[simp] theorem State.modThread_lines (s : State) (t : Nat) (f : Thread → Thread) : (s.modThread t f).lines = s.lines := rfl
@[simp] theorem State.modThread_exts (s : State) (t : Nat) (f : Thread → Thread) : (s.modThread t f).exts = s.exts := rfl
@[simp] theorem State.modThread_dchans (s : State) (t : Nat) (f : Thread → Thread) : (s.modThread t f).dchans = s.dchans := rfl
@[simp] theorem State.modThread_wipe (s : State) (t : Nat) (f : Thread → Thread) : (s.modThread t f).wipe = s.wipe := rfl
@[simp] theorem State.modThread_slices (s : State) (t : Nat) (f : Thread → Thread) : (s.modThread t f).slices = s.slices := rfl
@[simp] theorem State.modThread_slcCmd (s : State) (t : Nat) (f : Thread → Thread) : (s.modThread t f).slcCmd = s.slcCmd := rfl
@[simp] theorem State.modThread_qps (s : State) (t : Nat) (f : Thread → Thread) : (s.modThread t f).qps = s.qps := rfl
@[simp] theorem State.modThread_unmasked (s : State) (t : Nat) (f : Thread → Thread) : (s.modThread t f).unmasked = s.unmasked := rfl
@[simp] theorem State.modThread_vectors (s : State) (t : Nat) (f : Thread → Thread) : (s.modThread t f).vectors = s.vectors := rfl
@[simp] theorem State.modThread_pba (s : State) (t : Nat) (f : Thread → Thread) : (s.modThread t f).pba = s.pba := rfl
@[simp] theorem State.modThread_d3 (s : State) (t : Nat) (f : Thread → Thread) : (s.modThread t f).d3 = s.d3 := rfl
@[simp] theorem State.modThread_power (s : State) (t : Nat) (f : Thread → Thread) : (s.modThread t f).power = s.power := rfl
@[simp] theorem State.modThread_boot (s : State) (t : Nat) (f : Thread → Thread) : (s.modThread t f).boot = s.boot := rfl
@[simp] theorem State.modThread_pins (s : State) (t : Nat) (f : Thread → Thread) : (s.modThread t f).pins = s.pins := rfl
@[simp] theorem State.modThread_errSeq (s : State) (t : Nat) (f : Thread → Thread) : (s.modThread t f).errSeq = s.errSeq := rfl
@[simp] theorem State.modThread_fatal (s : State) (t : Nat) (f : Thread → Thread) : (s.modThread t f).fatal = s.fatal := rfl
@[simp] theorem State.modThread_savedExts (s : State) (t : Nat) (f : Thread → Thread) : (s.modThread t f).savedExts = s.savedExts := rfl
@[simp] theorem State.modThread_semDone (s : State) (t : Nat) (f : Thread → Thread) : (s.modThread t f).semDone = s.semDone := rfl
@[simp] theorem State.modThread_errAt (s : State) (t : Nat) (f : Thread → Thread) : (s.modThread t f).errAt = s.errAt := rfl
@[simp] theorem State.modThread_alertAt (s : State) (t : Nat) (f : Thread → Thread) : (s.modThread t f).alertAt = s.alertAt := rfl
@[simp] theorem State.modThread_halts (s : State) (t : Nat) (f : Thread → Thread) : (s.modThread t f).halts = s.halts := rfl
@[simp] theorem State.modThread_dcmds (s : State) (t : Nat) (f : Thread → Thread) : (s.modThread t f).dcmds = s.dcmds := rfl
@[simp] theorem State.modThread_out (s : State) (t : Nat) (f : Thread → Thread) : (s.modThread t f).out = s.out := rfl

@[simp] theorem State.modPort_pending (s : State) (p : Nat) (f : Port → Port) : (s.modPort p f).pending = s.pending := rfl
@[simp] theorem State.modPort_tick (s : State) (p : Nat) (f : Port → Port) : (s.modPort p f).tick = s.tick := rfl
@[simp] theorem State.modPort_quarter (s : State) (p : Nat) (f : Port → Port) : (s.modPort p f).quarter = s.quarter := rfl
@[simp] theorem State.modPort_copy (s : State) (p : Nat) (f : Port → Port) : (s.modPort p f).copy = s.copy := rfl
@[simp] theorem State.modPort_cclk (s : State) (p : Nat) (f : Port → Port) : (s.modPort p f).cclk = s.cclk := rfl
@[simp] theorem State.modPort_hclk (s : State) (p : Nat) (f : Port → Port) : (s.modPort p f).hclk = s.hclk := rfl
@[simp] theorem State.modPort_uclk (s : State) (p : Nat) (f : Port → Port) : (s.modPort p f).uclk = s.uclk := rfl
@[simp] theorem State.modPort_bucketAt (s : State) (p : Nat) (f : Port → Port) : (s.modPort p f).bucketAt = s.bucketAt := rfl
@[simp] theorem State.modPort_ageingAt (s : State) (p : Nat) (f : Port → Port) : (s.modPort p f).ageingAt = s.ageingAt := rfl
@[simp] theorem State.modPort_leaseAt (s : State) (p : Nat) (f : Port → Port) : (s.modPort p f).leaseAt = s.leaseAt := rfl
@[simp] theorem State.modPort_thermalAt (s : State) (p : Nat) (f : Port → Port) : (s.modPort p f).thermalAt = s.thermalAt := rfl
@[simp] theorem State.modPort_free (s : State) (p : Nat) (f : Port → Port) : (s.modPort p f).free = s.free := rfl
@[simp] theorem State.modPort_nextId (s : State) (p : Nat) (f : Port → Port) : (s.modPort p f).nextId = s.nextId := rfl
@[simp] theorem State.modPort_csr (s : State) (p : Nat) (f : Port → Port) : (s.modPort p f).csr = s.csr := rfl
@[simp] theorem State.modPort_page (s : State) (p : Nat) (f : Port → Port) : (s.modPort p f).page = s.page := rfl
@[simp] theorem State.modPort_readData (s : State) (p : Nat) (f : Port → Port) : (s.modPort p f).readData = s.readData := rfl
@[simp] theorem State.modPort_epc (s : State) (p : Nat) (f : Port → Port) : (s.modPort p f).epc = s.epc := rfl
@[simp] theorem State.modPort_pkts (s : State) (p : Nat) (f : Port → Port) : (s.modPort p f).pkts = s.pkts := rfl
@[simp] theorem State.modPort_eouts (s : State) (p : Nat) (f : Port → Port) : (s.modPort p f).eouts = s.eouts := rfl
@[simp] theorem State.modPort_prs (s : State) (p : Nat) (f : Port → Port) : (s.modPort p f).prs = s.prs := rfl
@[simp] theorem State.modPort_fwd (s : State) (p : Nat) (f : Port → Port) : (s.modPort p f).fwd = s.fwd := rfl
@[simp] theorem State.modPort_dsp (s : State) (p : Nat) (f : Port → Port) : (s.modPort p f).dsp = s.dsp := rfl
@[simp] theorem State.modPort_threads (s : State) (p : Nat) (f : Port → Port) : (s.modPort p f).threads = s.threads := rfl
@[simp] theorem State.modPort_cores (s : State) (p : Nat) (f : Port → Port) : (s.modPort p f).cores = s.cores := rfl
@[simp] theorem State.modPort_imem (s : State) (p : Nat) (f : Port → Port) : (s.modPort p f).imem = s.imem := rfl
@[simp] theorem State.modPort_mem (s : State) (p : Nat) (f : Port → Port) : (s.modPort p f).mem = s.mem := rfl
@[simp] theorem State.modPort_poison (s : State) (p : Nat) (f : Port → Port) : (s.modPort p f).poison = s.poison := rfl
@[simp] theorem State.modPort_chans (s : State) (p : Nat) (f : Port → Port) : (s.modPort p f).chans = s.chans := rfl
@[simp] theorem State.modPort_units (s : State) (p : Nat) (f : Port → Port) : (s.modPort p f).units = s.units := rfl
@[simp] theorem State.modPort_offers (s : State) (p : Nat) (f : Port → Port) : (s.modPort p f).offers = s.offers := rfl
@[simp] theorem State.modPort_rings (s : State) (p : Nat) (f : Port → Port) : (s.modPort p f).rings = s.rings := rfl
@[simp] theorem State.modPort_sems (s : State) (p : Nat) (f : Port → Port) : (s.modPort p f).sems = s.sems := rfl
@[simp] theorem State.modPort_umbraSem (s : State) (p : Nat) (f : Port → Port) : (s.modPort p f).umbraSem = s.umbraSem := rfl
@[simp] theorem State.modPort_lines (s : State) (p : Nat) (f : Port → Port) : (s.modPort p f).lines = s.lines := rfl
@[simp] theorem State.modPort_exts (s : State) (p : Nat) (f : Port → Port) : (s.modPort p f).exts = s.exts := rfl
@[simp] theorem State.modPort_dchans (s : State) (p : Nat) (f : Port → Port) : (s.modPort p f).dchans = s.dchans := rfl
@[simp] theorem State.modPort_wipe (s : State) (p : Nat) (f : Port → Port) : (s.modPort p f).wipe = s.wipe := rfl
@[simp] theorem State.modPort_slices (s : State) (p : Nat) (f : Port → Port) : (s.modPort p f).slices = s.slices := rfl
@[simp] theorem State.modPort_slcCmd (s : State) (p : Nat) (f : Port → Port) : (s.modPort p f).slcCmd = s.slcCmd := rfl
@[simp] theorem State.modPort_qps (s : State) (p : Nat) (f : Port → Port) : (s.modPort p f).qps = s.qps := rfl
@[simp] theorem State.modPort_unmasked (s : State) (p : Nat) (f : Port → Port) : (s.modPort p f).unmasked = s.unmasked := rfl
@[simp] theorem State.modPort_vectors (s : State) (p : Nat) (f : Port → Port) : (s.modPort p f).vectors = s.vectors := rfl
@[simp] theorem State.modPort_pba (s : State) (p : Nat) (f : Port → Port) : (s.modPort p f).pba = s.pba := rfl
@[simp] theorem State.modPort_d3 (s : State) (p : Nat) (f : Port → Port) : (s.modPort p f).d3 = s.d3 := rfl
@[simp] theorem State.modPort_power (s : State) (p : Nat) (f : Port → Port) : (s.modPort p f).power = s.power := rfl
@[simp] theorem State.modPort_boot (s : State) (p : Nat) (f : Port → Port) : (s.modPort p f).boot = s.boot := rfl
@[simp] theorem State.modPort_pins (s : State) (p : Nat) (f : Port → Port) : (s.modPort p f).pins = s.pins := rfl
@[simp] theorem State.modPort_errSeq (s : State) (p : Nat) (f : Port → Port) : (s.modPort p f).errSeq = s.errSeq := rfl
@[simp] theorem State.modPort_fatal (s : State) (p : Nat) (f : Port → Port) : (s.modPort p f).fatal = s.fatal := rfl
@[simp] theorem State.modPort_savedExts (s : State) (p : Nat) (f : Port → Port) : (s.modPort p f).savedExts = s.savedExts := rfl
@[simp] theorem State.modPort_semDone (s : State) (p : Nat) (f : Port → Port) : (s.modPort p f).semDone = s.semDone := rfl
@[simp] theorem State.modPort_errAt (s : State) (p : Nat) (f : Port → Port) : (s.modPort p f).errAt = s.errAt := rfl
@[simp] theorem State.modPort_alertAt (s : State) (p : Nat) (f : Port → Port) : (s.modPort p f).alertAt = s.alertAt := rfl
@[simp] theorem State.modPort_halts (s : State) (p : Nat) (f : Port → Port) : (s.modPort p f).halts = s.halts := rfl
@[simp] theorem State.modPort_dcmds (s : State) (p : Nat) (f : Port → Port) : (s.modPort p f).dcmds = s.dcmds := rfl
@[simp] theorem State.modPort_out (s : State) (p : Nat) (f : Port → Port) : (s.modPort p f).out = s.out := rfl

@[simp] theorem State.modEpc_pending (s : State) (f : Epc → Epc) : (s.modEpc f).pending = s.pending := rfl
@[simp] theorem State.modEpc_tick (s : State) (f : Epc → Epc) : (s.modEpc f).tick = s.tick := rfl
@[simp] theorem State.modEpc_quarter (s : State) (f : Epc → Epc) : (s.modEpc f).quarter = s.quarter := rfl
@[simp] theorem State.modEpc_copy (s : State) (f : Epc → Epc) : (s.modEpc f).copy = s.copy := rfl
@[simp] theorem State.modEpc_cclk (s : State) (f : Epc → Epc) : (s.modEpc f).cclk = s.cclk := rfl
@[simp] theorem State.modEpc_hclk (s : State) (f : Epc → Epc) : (s.modEpc f).hclk = s.hclk := rfl
@[simp] theorem State.modEpc_uclk (s : State) (f : Epc → Epc) : (s.modEpc f).uclk = s.uclk := rfl
@[simp] theorem State.modEpc_bucketAt (s : State) (f : Epc → Epc) : (s.modEpc f).bucketAt = s.bucketAt := rfl
@[simp] theorem State.modEpc_ageingAt (s : State) (f : Epc → Epc) : (s.modEpc f).ageingAt = s.ageingAt := rfl
@[simp] theorem State.modEpc_leaseAt (s : State) (f : Epc → Epc) : (s.modEpc f).leaseAt = s.leaseAt := rfl
@[simp] theorem State.modEpc_thermalAt (s : State) (f : Epc → Epc) : (s.modEpc f).thermalAt = s.thermalAt := rfl
@[simp] theorem State.modEpc_free (s : State) (f : Epc → Epc) : (s.modEpc f).free = s.free := rfl
@[simp] theorem State.modEpc_nextId (s : State) (f : Epc → Epc) : (s.modEpc f).nextId = s.nextId := rfl
@[simp] theorem State.modEpc_csr (s : State) (f : Epc → Epc) : (s.modEpc f).csr = s.csr := rfl
@[simp] theorem State.modEpc_page (s : State) (f : Epc → Epc) : (s.modEpc f).page = s.page := rfl
@[simp] theorem State.modEpc_readData (s : State) (f : Epc → Epc) : (s.modEpc f).readData = s.readData := rfl
@[simp] theorem State.modEpc_ports (s : State) (f : Epc → Epc) : (s.modEpc f).ports = s.ports := rfl
@[simp] theorem State.modEpc_pkts (s : State) (f : Epc → Epc) : (s.modEpc f).pkts = s.pkts := rfl
@[simp] theorem State.modEpc_eouts (s : State) (f : Epc → Epc) : (s.modEpc f).eouts = s.eouts := rfl
@[simp] theorem State.modEpc_prs (s : State) (f : Epc → Epc) : (s.modEpc f).prs = s.prs := rfl
@[simp] theorem State.modEpc_fwd (s : State) (f : Epc → Epc) : (s.modEpc f).fwd = s.fwd := rfl
@[simp] theorem State.modEpc_dsp (s : State) (f : Epc → Epc) : (s.modEpc f).dsp = s.dsp := rfl
@[simp] theorem State.modEpc_threads (s : State) (f : Epc → Epc) : (s.modEpc f).threads = s.threads := rfl
@[simp] theorem State.modEpc_cores (s : State) (f : Epc → Epc) : (s.modEpc f).cores = s.cores := rfl
@[simp] theorem State.modEpc_imem (s : State) (f : Epc → Epc) : (s.modEpc f).imem = s.imem := rfl
@[simp] theorem State.modEpc_mem (s : State) (f : Epc → Epc) : (s.modEpc f).mem = s.mem := rfl
@[simp] theorem State.modEpc_poison (s : State) (f : Epc → Epc) : (s.modEpc f).poison = s.poison := rfl
@[simp] theorem State.modEpc_chans (s : State) (f : Epc → Epc) : (s.modEpc f).chans = s.chans := rfl
@[simp] theorem State.modEpc_units (s : State) (f : Epc → Epc) : (s.modEpc f).units = s.units := rfl
@[simp] theorem State.modEpc_offers (s : State) (f : Epc → Epc) : (s.modEpc f).offers = s.offers := rfl
@[simp] theorem State.modEpc_rings (s : State) (f : Epc → Epc) : (s.modEpc f).rings = s.rings := rfl
@[simp] theorem State.modEpc_sems (s : State) (f : Epc → Epc) : (s.modEpc f).sems = s.sems := rfl
@[simp] theorem State.modEpc_umbraSem (s : State) (f : Epc → Epc) : (s.modEpc f).umbraSem = s.umbraSem := rfl
@[simp] theorem State.modEpc_lines (s : State) (f : Epc → Epc) : (s.modEpc f).lines = s.lines := rfl
@[simp] theorem State.modEpc_exts (s : State) (f : Epc → Epc) : (s.modEpc f).exts = s.exts := rfl
@[simp] theorem State.modEpc_dchans (s : State) (f : Epc → Epc) : (s.modEpc f).dchans = s.dchans := rfl
@[simp] theorem State.modEpc_wipe (s : State) (f : Epc → Epc) : (s.modEpc f).wipe = s.wipe := rfl
@[simp] theorem State.modEpc_slices (s : State) (f : Epc → Epc) : (s.modEpc f).slices = s.slices := rfl
@[simp] theorem State.modEpc_slcCmd (s : State) (f : Epc → Epc) : (s.modEpc f).slcCmd = s.slcCmd := rfl
@[simp] theorem State.modEpc_qps (s : State) (f : Epc → Epc) : (s.modEpc f).qps = s.qps := rfl
@[simp] theorem State.modEpc_unmasked (s : State) (f : Epc → Epc) : (s.modEpc f).unmasked = s.unmasked := rfl
@[simp] theorem State.modEpc_vectors (s : State) (f : Epc → Epc) : (s.modEpc f).vectors = s.vectors := rfl
@[simp] theorem State.modEpc_pba (s : State) (f : Epc → Epc) : (s.modEpc f).pba = s.pba := rfl
@[simp] theorem State.modEpc_d3 (s : State) (f : Epc → Epc) : (s.modEpc f).d3 = s.d3 := rfl
@[simp] theorem State.modEpc_power (s : State) (f : Epc → Epc) : (s.modEpc f).power = s.power := rfl
@[simp] theorem State.modEpc_boot (s : State) (f : Epc → Epc) : (s.modEpc f).boot = s.boot := rfl
@[simp] theorem State.modEpc_pins (s : State) (f : Epc → Epc) : (s.modEpc f).pins = s.pins := rfl
@[simp] theorem State.modEpc_errSeq (s : State) (f : Epc → Epc) : (s.modEpc f).errSeq = s.errSeq := rfl
@[simp] theorem State.modEpc_fatal (s : State) (f : Epc → Epc) : (s.modEpc f).fatal = s.fatal := rfl
@[simp] theorem State.modEpc_savedExts (s : State) (f : Epc → Epc) : (s.modEpc f).savedExts = s.savedExts := rfl
@[simp] theorem State.modEpc_semDone (s : State) (f : Epc → Epc) : (s.modEpc f).semDone = s.semDone := rfl
@[simp] theorem State.modEpc_errAt (s : State) (f : Epc → Epc) : (s.modEpc f).errAt = s.errAt := rfl
@[simp] theorem State.modEpc_alertAt (s : State) (f : Epc → Epc) : (s.modEpc f).alertAt = s.alertAt := rfl
@[simp] theorem State.modEpc_halts (s : State) (f : Epc → Epc) : (s.modEpc f).halts = s.halts := rfl
@[simp] theorem State.modEpc_dcmds (s : State) (f : Epc → Epc) : (s.modEpc f).dcmds = s.dcmds := rfl
@[simp] theorem State.modEpc_out (s : State) (f : Epc → Epc) : (s.modEpc f).out = s.out := rfl

@[simp] theorem State.modEPort_pending (s : State) (p : Nat) (f : EPort → EPort) : (s.modEPort p f).pending = s.pending := rfl
@[simp] theorem State.modEPort_tick (s : State) (p : Nat) (f : EPort → EPort) : (s.modEPort p f).tick = s.tick := rfl
@[simp] theorem State.modEPort_quarter (s : State) (p : Nat) (f : EPort → EPort) : (s.modEPort p f).quarter = s.quarter := rfl
@[simp] theorem State.modEPort_copy (s : State) (p : Nat) (f : EPort → EPort) : (s.modEPort p f).copy = s.copy := rfl
@[simp] theorem State.modEPort_cclk (s : State) (p : Nat) (f : EPort → EPort) : (s.modEPort p f).cclk = s.cclk := rfl
@[simp] theorem State.modEPort_hclk (s : State) (p : Nat) (f : EPort → EPort) : (s.modEPort p f).hclk = s.hclk := rfl
@[simp] theorem State.modEPort_uclk (s : State) (p : Nat) (f : EPort → EPort) : (s.modEPort p f).uclk = s.uclk := rfl
@[simp] theorem State.modEPort_bucketAt (s : State) (p : Nat) (f : EPort → EPort) : (s.modEPort p f).bucketAt = s.bucketAt := rfl
@[simp] theorem State.modEPort_ageingAt (s : State) (p : Nat) (f : EPort → EPort) : (s.modEPort p f).ageingAt = s.ageingAt := rfl
@[simp] theorem State.modEPort_leaseAt (s : State) (p : Nat) (f : EPort → EPort) : (s.modEPort p f).leaseAt = s.leaseAt := rfl
@[simp] theorem State.modEPort_thermalAt (s : State) (p : Nat) (f : EPort → EPort) : (s.modEPort p f).thermalAt = s.thermalAt := rfl
@[simp] theorem State.modEPort_free (s : State) (p : Nat) (f : EPort → EPort) : (s.modEPort p f).free = s.free := rfl
@[simp] theorem State.modEPort_nextId (s : State) (p : Nat) (f : EPort → EPort) : (s.modEPort p f).nextId = s.nextId := rfl
@[simp] theorem State.modEPort_csr (s : State) (p : Nat) (f : EPort → EPort) : (s.modEPort p f).csr = s.csr := rfl
@[simp] theorem State.modEPort_page (s : State) (p : Nat) (f : EPort → EPort) : (s.modEPort p f).page = s.page := rfl
@[simp] theorem State.modEPort_readData (s : State) (p : Nat) (f : EPort → EPort) : (s.modEPort p f).readData = s.readData := rfl
@[simp] theorem State.modEPort_ports (s : State) (p : Nat) (f : EPort → EPort) : (s.modEPort p f).ports = s.ports := rfl
@[simp] theorem State.modEPort_pkts (s : State) (p : Nat) (f : EPort → EPort) : (s.modEPort p f).pkts = s.pkts := rfl
@[simp] theorem State.modEPort_eouts (s : State) (p : Nat) (f : EPort → EPort) : (s.modEPort p f).eouts = s.eouts := rfl
@[simp] theorem State.modEPort_prs (s : State) (p : Nat) (f : EPort → EPort) : (s.modEPort p f).prs = s.prs := rfl
@[simp] theorem State.modEPort_fwd (s : State) (p : Nat) (f : EPort → EPort) : (s.modEPort p f).fwd = s.fwd := rfl
@[simp] theorem State.modEPort_dsp (s : State) (p : Nat) (f : EPort → EPort) : (s.modEPort p f).dsp = s.dsp := rfl
@[simp] theorem State.modEPort_threads (s : State) (p : Nat) (f : EPort → EPort) : (s.modEPort p f).threads = s.threads := rfl
@[simp] theorem State.modEPort_cores (s : State) (p : Nat) (f : EPort → EPort) : (s.modEPort p f).cores = s.cores := rfl
@[simp] theorem State.modEPort_imem (s : State) (p : Nat) (f : EPort → EPort) : (s.modEPort p f).imem = s.imem := rfl
@[simp] theorem State.modEPort_mem (s : State) (p : Nat) (f : EPort → EPort) : (s.modEPort p f).mem = s.mem := rfl
@[simp] theorem State.modEPort_poison (s : State) (p : Nat) (f : EPort → EPort) : (s.modEPort p f).poison = s.poison := rfl
@[simp] theorem State.modEPort_chans (s : State) (p : Nat) (f : EPort → EPort) : (s.modEPort p f).chans = s.chans := rfl
@[simp] theorem State.modEPort_units (s : State) (p : Nat) (f : EPort → EPort) : (s.modEPort p f).units = s.units := rfl
@[simp] theorem State.modEPort_offers (s : State) (p : Nat) (f : EPort → EPort) : (s.modEPort p f).offers = s.offers := rfl
@[simp] theorem State.modEPort_rings (s : State) (p : Nat) (f : EPort → EPort) : (s.modEPort p f).rings = s.rings := rfl
@[simp] theorem State.modEPort_sems (s : State) (p : Nat) (f : EPort → EPort) : (s.modEPort p f).sems = s.sems := rfl
@[simp] theorem State.modEPort_umbraSem (s : State) (p : Nat) (f : EPort → EPort) : (s.modEPort p f).umbraSem = s.umbraSem := rfl
@[simp] theorem State.modEPort_lines (s : State) (p : Nat) (f : EPort → EPort) : (s.modEPort p f).lines = s.lines := rfl
@[simp] theorem State.modEPort_exts (s : State) (p : Nat) (f : EPort → EPort) : (s.modEPort p f).exts = s.exts := rfl
@[simp] theorem State.modEPort_dchans (s : State) (p : Nat) (f : EPort → EPort) : (s.modEPort p f).dchans = s.dchans := rfl
@[simp] theorem State.modEPort_wipe (s : State) (p : Nat) (f : EPort → EPort) : (s.modEPort p f).wipe = s.wipe := rfl
@[simp] theorem State.modEPort_slices (s : State) (p : Nat) (f : EPort → EPort) : (s.modEPort p f).slices = s.slices := rfl
@[simp] theorem State.modEPort_slcCmd (s : State) (p : Nat) (f : EPort → EPort) : (s.modEPort p f).slcCmd = s.slcCmd := rfl
@[simp] theorem State.modEPort_qps (s : State) (p : Nat) (f : EPort → EPort) : (s.modEPort p f).qps = s.qps := rfl
@[simp] theorem State.modEPort_unmasked (s : State) (p : Nat) (f : EPort → EPort) : (s.modEPort p f).unmasked = s.unmasked := rfl
@[simp] theorem State.modEPort_vectors (s : State) (p : Nat) (f : EPort → EPort) : (s.modEPort p f).vectors = s.vectors := rfl
@[simp] theorem State.modEPort_pba (s : State) (p : Nat) (f : EPort → EPort) : (s.modEPort p f).pba = s.pba := rfl
@[simp] theorem State.modEPort_d3 (s : State) (p : Nat) (f : EPort → EPort) : (s.modEPort p f).d3 = s.d3 := rfl
@[simp] theorem State.modEPort_power (s : State) (p : Nat) (f : EPort → EPort) : (s.modEPort p f).power = s.power := rfl
@[simp] theorem State.modEPort_boot (s : State) (p : Nat) (f : EPort → EPort) : (s.modEPort p f).boot = s.boot := rfl
@[simp] theorem State.modEPort_pins (s : State) (p : Nat) (f : EPort → EPort) : (s.modEPort p f).pins = s.pins := rfl
@[simp] theorem State.modEPort_errSeq (s : State) (p : Nat) (f : EPort → EPort) : (s.modEPort p f).errSeq = s.errSeq := rfl
@[simp] theorem State.modEPort_fatal (s : State) (p : Nat) (f : EPort → EPort) : (s.modEPort p f).fatal = s.fatal := rfl
@[simp] theorem State.modEPort_savedExts (s : State) (p : Nat) (f : EPort → EPort) : (s.modEPort p f).savedExts = s.savedExts := rfl
@[simp] theorem State.modEPort_semDone (s : State) (p : Nat) (f : EPort → EPort) : (s.modEPort p f).semDone = s.semDone := rfl
@[simp] theorem State.modEPort_errAt (s : State) (p : Nat) (f : EPort → EPort) : (s.modEPort p f).errAt = s.errAt := rfl
@[simp] theorem State.modEPort_alertAt (s : State) (p : Nat) (f : EPort → EPort) : (s.modEPort p f).alertAt = s.alertAt := rfl
@[simp] theorem State.modEPort_halts (s : State) (p : Nat) (f : EPort → EPort) : (s.modEPort p f).halts = s.halts := rfl
@[simp] theorem State.modEPort_dcmds (s : State) (p : Nat) (f : EPort → EPort) : (s.modEPort p f).dcmds = s.dcmds := rfl
@[simp] theorem State.modEPort_out (s : State) (p : Nat) (f : EPort → EPort) : (s.modEPort p f).out = s.out := rfl

@[simp] theorem State.modPrs_pending (s : State) (q : Nat) (f : Prs → Prs) : (s.modPrs q f).pending = s.pending := rfl
@[simp] theorem State.modPrs_tick (s : State) (q : Nat) (f : Prs → Prs) : (s.modPrs q f).tick = s.tick := rfl
@[simp] theorem State.modPrs_quarter (s : State) (q : Nat) (f : Prs → Prs) : (s.modPrs q f).quarter = s.quarter := rfl
@[simp] theorem State.modPrs_copy (s : State) (q : Nat) (f : Prs → Prs) : (s.modPrs q f).copy = s.copy := rfl
@[simp] theorem State.modPrs_cclk (s : State) (q : Nat) (f : Prs → Prs) : (s.modPrs q f).cclk = s.cclk := rfl
@[simp] theorem State.modPrs_hclk (s : State) (q : Nat) (f : Prs → Prs) : (s.modPrs q f).hclk = s.hclk := rfl
@[simp] theorem State.modPrs_uclk (s : State) (q : Nat) (f : Prs → Prs) : (s.modPrs q f).uclk = s.uclk := rfl
@[simp] theorem State.modPrs_bucketAt (s : State) (q : Nat) (f : Prs → Prs) : (s.modPrs q f).bucketAt = s.bucketAt := rfl
@[simp] theorem State.modPrs_ageingAt (s : State) (q : Nat) (f : Prs → Prs) : (s.modPrs q f).ageingAt = s.ageingAt := rfl
@[simp] theorem State.modPrs_leaseAt (s : State) (q : Nat) (f : Prs → Prs) : (s.modPrs q f).leaseAt = s.leaseAt := rfl
@[simp] theorem State.modPrs_thermalAt (s : State) (q : Nat) (f : Prs → Prs) : (s.modPrs q f).thermalAt = s.thermalAt := rfl
@[simp] theorem State.modPrs_free (s : State) (q : Nat) (f : Prs → Prs) : (s.modPrs q f).free = s.free := rfl
@[simp] theorem State.modPrs_nextId (s : State) (q : Nat) (f : Prs → Prs) : (s.modPrs q f).nextId = s.nextId := rfl
@[simp] theorem State.modPrs_csr (s : State) (q : Nat) (f : Prs → Prs) : (s.modPrs q f).csr = s.csr := rfl
@[simp] theorem State.modPrs_page (s : State) (q : Nat) (f : Prs → Prs) : (s.modPrs q f).page = s.page := rfl
@[simp] theorem State.modPrs_readData (s : State) (q : Nat) (f : Prs → Prs) : (s.modPrs q f).readData = s.readData := rfl
@[simp] theorem State.modPrs_epc (s : State) (q : Nat) (f : Prs → Prs) : (s.modPrs q f).epc = s.epc := rfl
@[simp] theorem State.modPrs_ports (s : State) (q : Nat) (f : Prs → Prs) : (s.modPrs q f).ports = s.ports := rfl
@[simp] theorem State.modPrs_pkts (s : State) (q : Nat) (f : Prs → Prs) : (s.modPrs q f).pkts = s.pkts := rfl
@[simp] theorem State.modPrs_eouts (s : State) (q : Nat) (f : Prs → Prs) : (s.modPrs q f).eouts = s.eouts := rfl
@[simp] theorem State.modPrs_fwd (s : State) (q : Nat) (f : Prs → Prs) : (s.modPrs q f).fwd = s.fwd := rfl
@[simp] theorem State.modPrs_dsp (s : State) (q : Nat) (f : Prs → Prs) : (s.modPrs q f).dsp = s.dsp := rfl
@[simp] theorem State.modPrs_threads (s : State) (q : Nat) (f : Prs → Prs) : (s.modPrs q f).threads = s.threads := rfl
@[simp] theorem State.modPrs_cores (s : State) (q : Nat) (f : Prs → Prs) : (s.modPrs q f).cores = s.cores := rfl
@[simp] theorem State.modPrs_imem (s : State) (q : Nat) (f : Prs → Prs) : (s.modPrs q f).imem = s.imem := rfl
@[simp] theorem State.modPrs_mem (s : State) (q : Nat) (f : Prs → Prs) : (s.modPrs q f).mem = s.mem := rfl
@[simp] theorem State.modPrs_poison (s : State) (q : Nat) (f : Prs → Prs) : (s.modPrs q f).poison = s.poison := rfl
@[simp] theorem State.modPrs_chans (s : State) (q : Nat) (f : Prs → Prs) : (s.modPrs q f).chans = s.chans := rfl
@[simp] theorem State.modPrs_units (s : State) (q : Nat) (f : Prs → Prs) : (s.modPrs q f).units = s.units := rfl
@[simp] theorem State.modPrs_offers (s : State) (q : Nat) (f : Prs → Prs) : (s.modPrs q f).offers = s.offers := rfl
@[simp] theorem State.modPrs_rings (s : State) (q : Nat) (f : Prs → Prs) : (s.modPrs q f).rings = s.rings := rfl
@[simp] theorem State.modPrs_sems (s : State) (q : Nat) (f : Prs → Prs) : (s.modPrs q f).sems = s.sems := rfl
@[simp] theorem State.modPrs_umbraSem (s : State) (q : Nat) (f : Prs → Prs) : (s.modPrs q f).umbraSem = s.umbraSem := rfl
@[simp] theorem State.modPrs_lines (s : State) (q : Nat) (f : Prs → Prs) : (s.modPrs q f).lines = s.lines := rfl
@[simp] theorem State.modPrs_exts (s : State) (q : Nat) (f : Prs → Prs) : (s.modPrs q f).exts = s.exts := rfl
@[simp] theorem State.modPrs_dchans (s : State) (q : Nat) (f : Prs → Prs) : (s.modPrs q f).dchans = s.dchans := rfl
@[simp] theorem State.modPrs_wipe (s : State) (q : Nat) (f : Prs → Prs) : (s.modPrs q f).wipe = s.wipe := rfl
@[simp] theorem State.modPrs_slices (s : State) (q : Nat) (f : Prs → Prs) : (s.modPrs q f).slices = s.slices := rfl
@[simp] theorem State.modPrs_slcCmd (s : State) (q : Nat) (f : Prs → Prs) : (s.modPrs q f).slcCmd = s.slcCmd := rfl
@[simp] theorem State.modPrs_qps (s : State) (q : Nat) (f : Prs → Prs) : (s.modPrs q f).qps = s.qps := rfl
@[simp] theorem State.modPrs_unmasked (s : State) (q : Nat) (f : Prs → Prs) : (s.modPrs q f).unmasked = s.unmasked := rfl
@[simp] theorem State.modPrs_vectors (s : State) (q : Nat) (f : Prs → Prs) : (s.modPrs q f).vectors = s.vectors := rfl
@[simp] theorem State.modPrs_pba (s : State) (q : Nat) (f : Prs → Prs) : (s.modPrs q f).pba = s.pba := rfl
@[simp] theorem State.modPrs_d3 (s : State) (q : Nat) (f : Prs → Prs) : (s.modPrs q f).d3 = s.d3 := rfl
@[simp] theorem State.modPrs_power (s : State) (q : Nat) (f : Prs → Prs) : (s.modPrs q f).power = s.power := rfl
@[simp] theorem State.modPrs_boot (s : State) (q : Nat) (f : Prs → Prs) : (s.modPrs q f).boot = s.boot := rfl
@[simp] theorem State.modPrs_pins (s : State) (q : Nat) (f : Prs → Prs) : (s.modPrs q f).pins = s.pins := rfl
@[simp] theorem State.modPrs_errSeq (s : State) (q : Nat) (f : Prs → Prs) : (s.modPrs q f).errSeq = s.errSeq := rfl
@[simp] theorem State.modPrs_fatal (s : State) (q : Nat) (f : Prs → Prs) : (s.modPrs q f).fatal = s.fatal := rfl
@[simp] theorem State.modPrs_savedExts (s : State) (q : Nat) (f : Prs → Prs) : (s.modPrs q f).savedExts = s.savedExts := rfl
@[simp] theorem State.modPrs_semDone (s : State) (q : Nat) (f : Prs → Prs) : (s.modPrs q f).semDone = s.semDone := rfl
@[simp] theorem State.modPrs_errAt (s : State) (q : Nat) (f : Prs → Prs) : (s.modPrs q f).errAt = s.errAt := rfl
@[simp] theorem State.modPrs_alertAt (s : State) (q : Nat) (f : Prs → Prs) : (s.modPrs q f).alertAt = s.alertAt := rfl
@[simp] theorem State.modPrs_halts (s : State) (q : Nat) (f : Prs → Prs) : (s.modPrs q f).halts = s.halts := rfl
@[simp] theorem State.modPrs_dcmds (s : State) (q : Nat) (f : Prs → Prs) : (s.modPrs q f).dcmds = s.dcmds := rfl
@[simp] theorem State.modPrs_out (s : State) (q : Nat) (f : Prs → Prs) : (s.modPrs q f).out = s.out := rfl

@[simp] theorem State.modFwd_pending (s : State) (q : Nat) (f : Fwd → Fwd) : (s.modFwd q f).pending = s.pending := rfl
@[simp] theorem State.modFwd_tick (s : State) (q : Nat) (f : Fwd → Fwd) : (s.modFwd q f).tick = s.tick := rfl
@[simp] theorem State.modFwd_quarter (s : State) (q : Nat) (f : Fwd → Fwd) : (s.modFwd q f).quarter = s.quarter := rfl
@[simp] theorem State.modFwd_copy (s : State) (q : Nat) (f : Fwd → Fwd) : (s.modFwd q f).copy = s.copy := rfl
@[simp] theorem State.modFwd_cclk (s : State) (q : Nat) (f : Fwd → Fwd) : (s.modFwd q f).cclk = s.cclk := rfl
@[simp] theorem State.modFwd_hclk (s : State) (q : Nat) (f : Fwd → Fwd) : (s.modFwd q f).hclk = s.hclk := rfl
@[simp] theorem State.modFwd_uclk (s : State) (q : Nat) (f : Fwd → Fwd) : (s.modFwd q f).uclk = s.uclk := rfl
@[simp] theorem State.modFwd_bucketAt (s : State) (q : Nat) (f : Fwd → Fwd) : (s.modFwd q f).bucketAt = s.bucketAt := rfl
@[simp] theorem State.modFwd_ageingAt (s : State) (q : Nat) (f : Fwd → Fwd) : (s.modFwd q f).ageingAt = s.ageingAt := rfl
@[simp] theorem State.modFwd_leaseAt (s : State) (q : Nat) (f : Fwd → Fwd) : (s.modFwd q f).leaseAt = s.leaseAt := rfl
@[simp] theorem State.modFwd_thermalAt (s : State) (q : Nat) (f : Fwd → Fwd) : (s.modFwd q f).thermalAt = s.thermalAt := rfl
@[simp] theorem State.modFwd_free (s : State) (q : Nat) (f : Fwd → Fwd) : (s.modFwd q f).free = s.free := rfl
@[simp] theorem State.modFwd_nextId (s : State) (q : Nat) (f : Fwd → Fwd) : (s.modFwd q f).nextId = s.nextId := rfl
@[simp] theorem State.modFwd_csr (s : State) (q : Nat) (f : Fwd → Fwd) : (s.modFwd q f).csr = s.csr := rfl
@[simp] theorem State.modFwd_page (s : State) (q : Nat) (f : Fwd → Fwd) : (s.modFwd q f).page = s.page := rfl
@[simp] theorem State.modFwd_readData (s : State) (q : Nat) (f : Fwd → Fwd) : (s.modFwd q f).readData = s.readData := rfl
@[simp] theorem State.modFwd_epc (s : State) (q : Nat) (f : Fwd → Fwd) : (s.modFwd q f).epc = s.epc := rfl
@[simp] theorem State.modFwd_ports (s : State) (q : Nat) (f : Fwd → Fwd) : (s.modFwd q f).ports = s.ports := rfl
@[simp] theorem State.modFwd_pkts (s : State) (q : Nat) (f : Fwd → Fwd) : (s.modFwd q f).pkts = s.pkts := rfl
@[simp] theorem State.modFwd_eouts (s : State) (q : Nat) (f : Fwd → Fwd) : (s.modFwd q f).eouts = s.eouts := rfl
@[simp] theorem State.modFwd_prs (s : State) (q : Nat) (f : Fwd → Fwd) : (s.modFwd q f).prs = s.prs := rfl
@[simp] theorem State.modFwd_dsp (s : State) (q : Nat) (f : Fwd → Fwd) : (s.modFwd q f).dsp = s.dsp := rfl
@[simp] theorem State.modFwd_threads (s : State) (q : Nat) (f : Fwd → Fwd) : (s.modFwd q f).threads = s.threads := rfl
@[simp] theorem State.modFwd_cores (s : State) (q : Nat) (f : Fwd → Fwd) : (s.modFwd q f).cores = s.cores := rfl
@[simp] theorem State.modFwd_imem (s : State) (q : Nat) (f : Fwd → Fwd) : (s.modFwd q f).imem = s.imem := rfl
@[simp] theorem State.modFwd_mem (s : State) (q : Nat) (f : Fwd → Fwd) : (s.modFwd q f).mem = s.mem := rfl
@[simp] theorem State.modFwd_poison (s : State) (q : Nat) (f : Fwd → Fwd) : (s.modFwd q f).poison = s.poison := rfl
@[simp] theorem State.modFwd_chans (s : State) (q : Nat) (f : Fwd → Fwd) : (s.modFwd q f).chans = s.chans := rfl
@[simp] theorem State.modFwd_units (s : State) (q : Nat) (f : Fwd → Fwd) : (s.modFwd q f).units = s.units := rfl
@[simp] theorem State.modFwd_offers (s : State) (q : Nat) (f : Fwd → Fwd) : (s.modFwd q f).offers = s.offers := rfl
@[simp] theorem State.modFwd_rings (s : State) (q : Nat) (f : Fwd → Fwd) : (s.modFwd q f).rings = s.rings := rfl
@[simp] theorem State.modFwd_sems (s : State) (q : Nat) (f : Fwd → Fwd) : (s.modFwd q f).sems = s.sems := rfl
@[simp] theorem State.modFwd_umbraSem (s : State) (q : Nat) (f : Fwd → Fwd) : (s.modFwd q f).umbraSem = s.umbraSem := rfl
@[simp] theorem State.modFwd_lines (s : State) (q : Nat) (f : Fwd → Fwd) : (s.modFwd q f).lines = s.lines := rfl
@[simp] theorem State.modFwd_exts (s : State) (q : Nat) (f : Fwd → Fwd) : (s.modFwd q f).exts = s.exts := rfl
@[simp] theorem State.modFwd_dchans (s : State) (q : Nat) (f : Fwd → Fwd) : (s.modFwd q f).dchans = s.dchans := rfl
@[simp] theorem State.modFwd_wipe (s : State) (q : Nat) (f : Fwd → Fwd) : (s.modFwd q f).wipe = s.wipe := rfl
@[simp] theorem State.modFwd_slices (s : State) (q : Nat) (f : Fwd → Fwd) : (s.modFwd q f).slices = s.slices := rfl
@[simp] theorem State.modFwd_slcCmd (s : State) (q : Nat) (f : Fwd → Fwd) : (s.modFwd q f).slcCmd = s.slcCmd := rfl
@[simp] theorem State.modFwd_qps (s : State) (q : Nat) (f : Fwd → Fwd) : (s.modFwd q f).qps = s.qps := rfl
@[simp] theorem State.modFwd_unmasked (s : State) (q : Nat) (f : Fwd → Fwd) : (s.modFwd q f).unmasked = s.unmasked := rfl
@[simp] theorem State.modFwd_vectors (s : State) (q : Nat) (f : Fwd → Fwd) : (s.modFwd q f).vectors = s.vectors := rfl
@[simp] theorem State.modFwd_pba (s : State) (q : Nat) (f : Fwd → Fwd) : (s.modFwd q f).pba = s.pba := rfl
@[simp] theorem State.modFwd_d3 (s : State) (q : Nat) (f : Fwd → Fwd) : (s.modFwd q f).d3 = s.d3 := rfl
@[simp] theorem State.modFwd_power (s : State) (q : Nat) (f : Fwd → Fwd) : (s.modFwd q f).power = s.power := rfl
@[simp] theorem State.modFwd_boot (s : State) (q : Nat) (f : Fwd → Fwd) : (s.modFwd q f).boot = s.boot := rfl
@[simp] theorem State.modFwd_pins (s : State) (q : Nat) (f : Fwd → Fwd) : (s.modFwd q f).pins = s.pins := rfl
@[simp] theorem State.modFwd_errSeq (s : State) (q : Nat) (f : Fwd → Fwd) : (s.modFwd q f).errSeq = s.errSeq := rfl
@[simp] theorem State.modFwd_fatal (s : State) (q : Nat) (f : Fwd → Fwd) : (s.modFwd q f).fatal = s.fatal := rfl
@[simp] theorem State.modFwd_savedExts (s : State) (q : Nat) (f : Fwd → Fwd) : (s.modFwd q f).savedExts = s.savedExts := rfl
@[simp] theorem State.modFwd_semDone (s : State) (q : Nat) (f : Fwd → Fwd) : (s.modFwd q f).semDone = s.semDone := rfl
@[simp] theorem State.modFwd_errAt (s : State) (q : Nat) (f : Fwd → Fwd) : (s.modFwd q f).errAt = s.errAt := rfl
@[simp] theorem State.modFwd_alertAt (s : State) (q : Nat) (f : Fwd → Fwd) : (s.modFwd q f).alertAt = s.alertAt := rfl
@[simp] theorem State.modFwd_halts (s : State) (q : Nat) (f : Fwd → Fwd) : (s.modFwd q f).halts = s.halts := rfl
@[simp] theorem State.modFwd_dcmds (s : State) (q : Nat) (f : Fwd → Fwd) : (s.modFwd q f).dcmds = s.dcmds := rfl
@[simp] theorem State.modFwd_out (s : State) (q : Nat) (f : Fwd → Fwd) : (s.modFwd q f).out = s.out := rfl

@[simp] theorem State.modDsp_pending (s : State) (q : Nat) (f : Dsp → Dsp) : (s.modDsp q f).pending = s.pending := rfl
@[simp] theorem State.modDsp_tick (s : State) (q : Nat) (f : Dsp → Dsp) : (s.modDsp q f).tick = s.tick := rfl
@[simp] theorem State.modDsp_quarter (s : State) (q : Nat) (f : Dsp → Dsp) : (s.modDsp q f).quarter = s.quarter := rfl
@[simp] theorem State.modDsp_copy (s : State) (q : Nat) (f : Dsp → Dsp) : (s.modDsp q f).copy = s.copy := rfl
@[simp] theorem State.modDsp_cclk (s : State) (q : Nat) (f : Dsp → Dsp) : (s.modDsp q f).cclk = s.cclk := rfl
@[simp] theorem State.modDsp_hclk (s : State) (q : Nat) (f : Dsp → Dsp) : (s.modDsp q f).hclk = s.hclk := rfl
@[simp] theorem State.modDsp_uclk (s : State) (q : Nat) (f : Dsp → Dsp) : (s.modDsp q f).uclk = s.uclk := rfl
@[simp] theorem State.modDsp_bucketAt (s : State) (q : Nat) (f : Dsp → Dsp) : (s.modDsp q f).bucketAt = s.bucketAt := rfl
@[simp] theorem State.modDsp_ageingAt (s : State) (q : Nat) (f : Dsp → Dsp) : (s.modDsp q f).ageingAt = s.ageingAt := rfl
@[simp] theorem State.modDsp_leaseAt (s : State) (q : Nat) (f : Dsp → Dsp) : (s.modDsp q f).leaseAt = s.leaseAt := rfl
@[simp] theorem State.modDsp_thermalAt (s : State) (q : Nat) (f : Dsp → Dsp) : (s.modDsp q f).thermalAt = s.thermalAt := rfl
@[simp] theorem State.modDsp_free (s : State) (q : Nat) (f : Dsp → Dsp) : (s.modDsp q f).free = s.free := rfl
@[simp] theorem State.modDsp_nextId (s : State) (q : Nat) (f : Dsp → Dsp) : (s.modDsp q f).nextId = s.nextId := rfl
@[simp] theorem State.modDsp_csr (s : State) (q : Nat) (f : Dsp → Dsp) : (s.modDsp q f).csr = s.csr := rfl
@[simp] theorem State.modDsp_page (s : State) (q : Nat) (f : Dsp → Dsp) : (s.modDsp q f).page = s.page := rfl
@[simp] theorem State.modDsp_readData (s : State) (q : Nat) (f : Dsp → Dsp) : (s.modDsp q f).readData = s.readData := rfl
@[simp] theorem State.modDsp_epc (s : State) (q : Nat) (f : Dsp → Dsp) : (s.modDsp q f).epc = s.epc := rfl
@[simp] theorem State.modDsp_ports (s : State) (q : Nat) (f : Dsp → Dsp) : (s.modDsp q f).ports = s.ports := rfl
@[simp] theorem State.modDsp_pkts (s : State) (q : Nat) (f : Dsp → Dsp) : (s.modDsp q f).pkts = s.pkts := rfl
@[simp] theorem State.modDsp_eouts (s : State) (q : Nat) (f : Dsp → Dsp) : (s.modDsp q f).eouts = s.eouts := rfl
@[simp] theorem State.modDsp_prs (s : State) (q : Nat) (f : Dsp → Dsp) : (s.modDsp q f).prs = s.prs := rfl
@[simp] theorem State.modDsp_fwd (s : State) (q : Nat) (f : Dsp → Dsp) : (s.modDsp q f).fwd = s.fwd := rfl
@[simp] theorem State.modDsp_threads (s : State) (q : Nat) (f : Dsp → Dsp) : (s.modDsp q f).threads = s.threads := rfl
@[simp] theorem State.modDsp_cores (s : State) (q : Nat) (f : Dsp → Dsp) : (s.modDsp q f).cores = s.cores := rfl
@[simp] theorem State.modDsp_imem (s : State) (q : Nat) (f : Dsp → Dsp) : (s.modDsp q f).imem = s.imem := rfl
@[simp] theorem State.modDsp_mem (s : State) (q : Nat) (f : Dsp → Dsp) : (s.modDsp q f).mem = s.mem := rfl
@[simp] theorem State.modDsp_poison (s : State) (q : Nat) (f : Dsp → Dsp) : (s.modDsp q f).poison = s.poison := rfl
@[simp] theorem State.modDsp_chans (s : State) (q : Nat) (f : Dsp → Dsp) : (s.modDsp q f).chans = s.chans := rfl
@[simp] theorem State.modDsp_units (s : State) (q : Nat) (f : Dsp → Dsp) : (s.modDsp q f).units = s.units := rfl
@[simp] theorem State.modDsp_offers (s : State) (q : Nat) (f : Dsp → Dsp) : (s.modDsp q f).offers = s.offers := rfl
@[simp] theorem State.modDsp_rings (s : State) (q : Nat) (f : Dsp → Dsp) : (s.modDsp q f).rings = s.rings := rfl
@[simp] theorem State.modDsp_sems (s : State) (q : Nat) (f : Dsp → Dsp) : (s.modDsp q f).sems = s.sems := rfl
@[simp] theorem State.modDsp_umbraSem (s : State) (q : Nat) (f : Dsp → Dsp) : (s.modDsp q f).umbraSem = s.umbraSem := rfl
@[simp] theorem State.modDsp_lines (s : State) (q : Nat) (f : Dsp → Dsp) : (s.modDsp q f).lines = s.lines := rfl
@[simp] theorem State.modDsp_exts (s : State) (q : Nat) (f : Dsp → Dsp) : (s.modDsp q f).exts = s.exts := rfl
@[simp] theorem State.modDsp_dchans (s : State) (q : Nat) (f : Dsp → Dsp) : (s.modDsp q f).dchans = s.dchans := rfl
@[simp] theorem State.modDsp_wipe (s : State) (q : Nat) (f : Dsp → Dsp) : (s.modDsp q f).wipe = s.wipe := rfl
@[simp] theorem State.modDsp_slices (s : State) (q : Nat) (f : Dsp → Dsp) : (s.modDsp q f).slices = s.slices := rfl
@[simp] theorem State.modDsp_slcCmd (s : State) (q : Nat) (f : Dsp → Dsp) : (s.modDsp q f).slcCmd = s.slcCmd := rfl
@[simp] theorem State.modDsp_qps (s : State) (q : Nat) (f : Dsp → Dsp) : (s.modDsp q f).qps = s.qps := rfl
@[simp] theorem State.modDsp_unmasked (s : State) (q : Nat) (f : Dsp → Dsp) : (s.modDsp q f).unmasked = s.unmasked := rfl
@[simp] theorem State.modDsp_vectors (s : State) (q : Nat) (f : Dsp → Dsp) : (s.modDsp q f).vectors = s.vectors := rfl
@[simp] theorem State.modDsp_pba (s : State) (q : Nat) (f : Dsp → Dsp) : (s.modDsp q f).pba = s.pba := rfl
@[simp] theorem State.modDsp_d3 (s : State) (q : Nat) (f : Dsp → Dsp) : (s.modDsp q f).d3 = s.d3 := rfl
@[simp] theorem State.modDsp_power (s : State) (q : Nat) (f : Dsp → Dsp) : (s.modDsp q f).power = s.power := rfl
@[simp] theorem State.modDsp_boot (s : State) (q : Nat) (f : Dsp → Dsp) : (s.modDsp q f).boot = s.boot := rfl
@[simp] theorem State.modDsp_pins (s : State) (q : Nat) (f : Dsp → Dsp) : (s.modDsp q f).pins = s.pins := rfl
@[simp] theorem State.modDsp_errSeq (s : State) (q : Nat) (f : Dsp → Dsp) : (s.modDsp q f).errSeq = s.errSeq := rfl
@[simp] theorem State.modDsp_fatal (s : State) (q : Nat) (f : Dsp → Dsp) : (s.modDsp q f).fatal = s.fatal := rfl
@[simp] theorem State.modDsp_savedExts (s : State) (q : Nat) (f : Dsp → Dsp) : (s.modDsp q f).savedExts = s.savedExts := rfl
@[simp] theorem State.modDsp_semDone (s : State) (q : Nat) (f : Dsp → Dsp) : (s.modDsp q f).semDone = s.semDone := rfl
@[simp] theorem State.modDsp_errAt (s : State) (q : Nat) (f : Dsp → Dsp) : (s.modDsp q f).errAt = s.errAt := rfl
@[simp] theorem State.modDsp_alertAt (s : State) (q : Nat) (f : Dsp → Dsp) : (s.modDsp q f).alertAt = s.alertAt := rfl
@[simp] theorem State.modDsp_halts (s : State) (q : Nat) (f : Dsp → Dsp) : (s.modDsp q f).halts = s.halts := rfl
@[simp] theorem State.modDsp_dcmds (s : State) (q : Nat) (f : Dsp → Dsp) : (s.modDsp q f).dcmds = s.dcmds := rfl
@[simp] theorem State.modDsp_out (s : State) (q : Nat) (f : Dsp → Dsp) : (s.modDsp q f).out = s.out := rfl

@[simp] theorem State.modSlot_pending (s : State) (q i : Nat) (f : Slot → Slot) : (s.modSlot q i f).pending = s.pending := rfl
@[simp] theorem State.modSlot_tick (s : State) (q i : Nat) (f : Slot → Slot) : (s.modSlot q i f).tick = s.tick := rfl
@[simp] theorem State.modSlot_quarter (s : State) (q i : Nat) (f : Slot → Slot) : (s.modSlot q i f).quarter = s.quarter := rfl
@[simp] theorem State.modSlot_copy (s : State) (q i : Nat) (f : Slot → Slot) : (s.modSlot q i f).copy = s.copy := rfl
@[simp] theorem State.modSlot_cclk (s : State) (q i : Nat) (f : Slot → Slot) : (s.modSlot q i f).cclk = s.cclk := rfl
@[simp] theorem State.modSlot_hclk (s : State) (q i : Nat) (f : Slot → Slot) : (s.modSlot q i f).hclk = s.hclk := rfl
@[simp] theorem State.modSlot_uclk (s : State) (q i : Nat) (f : Slot → Slot) : (s.modSlot q i f).uclk = s.uclk := rfl
@[simp] theorem State.modSlot_bucketAt (s : State) (q i : Nat) (f : Slot → Slot) : (s.modSlot q i f).bucketAt = s.bucketAt := rfl
@[simp] theorem State.modSlot_ageingAt (s : State) (q i : Nat) (f : Slot → Slot) : (s.modSlot q i f).ageingAt = s.ageingAt := rfl
@[simp] theorem State.modSlot_leaseAt (s : State) (q i : Nat) (f : Slot → Slot) : (s.modSlot q i f).leaseAt = s.leaseAt := rfl
@[simp] theorem State.modSlot_thermalAt (s : State) (q i : Nat) (f : Slot → Slot) : (s.modSlot q i f).thermalAt = s.thermalAt := rfl
@[simp] theorem State.modSlot_free (s : State) (q i : Nat) (f : Slot → Slot) : (s.modSlot q i f).free = s.free := rfl
@[simp] theorem State.modSlot_nextId (s : State) (q i : Nat) (f : Slot → Slot) : (s.modSlot q i f).nextId = s.nextId := rfl
@[simp] theorem State.modSlot_csr (s : State) (q i : Nat) (f : Slot → Slot) : (s.modSlot q i f).csr = s.csr := rfl
@[simp] theorem State.modSlot_page (s : State) (q i : Nat) (f : Slot → Slot) : (s.modSlot q i f).page = s.page := rfl
@[simp] theorem State.modSlot_readData (s : State) (q i : Nat) (f : Slot → Slot) : (s.modSlot q i f).readData = s.readData := rfl
@[simp] theorem State.modSlot_epc (s : State) (q i : Nat) (f : Slot → Slot) : (s.modSlot q i f).epc = s.epc := rfl
@[simp] theorem State.modSlot_ports (s : State) (q i : Nat) (f : Slot → Slot) : (s.modSlot q i f).ports = s.ports := rfl
@[simp] theorem State.modSlot_pkts (s : State) (q i : Nat) (f : Slot → Slot) : (s.modSlot q i f).pkts = s.pkts := rfl
@[simp] theorem State.modSlot_eouts (s : State) (q i : Nat) (f : Slot → Slot) : (s.modSlot q i f).eouts = s.eouts := rfl
@[simp] theorem State.modSlot_prs (s : State) (q i : Nat) (f : Slot → Slot) : (s.modSlot q i f).prs = s.prs := rfl
@[simp] theorem State.modSlot_fwd (s : State) (q i : Nat) (f : Slot → Slot) : (s.modSlot q i f).fwd = s.fwd := rfl
@[simp] theorem State.modSlot_threads (s : State) (q i : Nat) (f : Slot → Slot) : (s.modSlot q i f).threads = s.threads := rfl
@[simp] theorem State.modSlot_cores (s : State) (q i : Nat) (f : Slot → Slot) : (s.modSlot q i f).cores = s.cores := rfl
@[simp] theorem State.modSlot_imem (s : State) (q i : Nat) (f : Slot → Slot) : (s.modSlot q i f).imem = s.imem := rfl
@[simp] theorem State.modSlot_mem (s : State) (q i : Nat) (f : Slot → Slot) : (s.modSlot q i f).mem = s.mem := rfl
@[simp] theorem State.modSlot_poison (s : State) (q i : Nat) (f : Slot → Slot) : (s.modSlot q i f).poison = s.poison := rfl
@[simp] theorem State.modSlot_chans (s : State) (q i : Nat) (f : Slot → Slot) : (s.modSlot q i f).chans = s.chans := rfl
@[simp] theorem State.modSlot_units (s : State) (q i : Nat) (f : Slot → Slot) : (s.modSlot q i f).units = s.units := rfl
@[simp] theorem State.modSlot_offers (s : State) (q i : Nat) (f : Slot → Slot) : (s.modSlot q i f).offers = s.offers := rfl
@[simp] theorem State.modSlot_rings (s : State) (q i : Nat) (f : Slot → Slot) : (s.modSlot q i f).rings = s.rings := rfl
@[simp] theorem State.modSlot_sems (s : State) (q i : Nat) (f : Slot → Slot) : (s.modSlot q i f).sems = s.sems := rfl
@[simp] theorem State.modSlot_umbraSem (s : State) (q i : Nat) (f : Slot → Slot) : (s.modSlot q i f).umbraSem = s.umbraSem := rfl
@[simp] theorem State.modSlot_lines (s : State) (q i : Nat) (f : Slot → Slot) : (s.modSlot q i f).lines = s.lines := rfl
@[simp] theorem State.modSlot_exts (s : State) (q i : Nat) (f : Slot → Slot) : (s.modSlot q i f).exts = s.exts := rfl
@[simp] theorem State.modSlot_dchans (s : State) (q i : Nat) (f : Slot → Slot) : (s.modSlot q i f).dchans = s.dchans := rfl
@[simp] theorem State.modSlot_wipe (s : State) (q i : Nat) (f : Slot → Slot) : (s.modSlot q i f).wipe = s.wipe := rfl
@[simp] theorem State.modSlot_slices (s : State) (q i : Nat) (f : Slot → Slot) : (s.modSlot q i f).slices = s.slices := rfl
@[simp] theorem State.modSlot_slcCmd (s : State) (q i : Nat) (f : Slot → Slot) : (s.modSlot q i f).slcCmd = s.slcCmd := rfl
@[simp] theorem State.modSlot_qps (s : State) (q i : Nat) (f : Slot → Slot) : (s.modSlot q i f).qps = s.qps := rfl
@[simp] theorem State.modSlot_unmasked (s : State) (q i : Nat) (f : Slot → Slot) : (s.modSlot q i f).unmasked = s.unmasked := rfl
@[simp] theorem State.modSlot_vectors (s : State) (q i : Nat) (f : Slot → Slot) : (s.modSlot q i f).vectors = s.vectors := rfl
@[simp] theorem State.modSlot_pba (s : State) (q i : Nat) (f : Slot → Slot) : (s.modSlot q i f).pba = s.pba := rfl
@[simp] theorem State.modSlot_d3 (s : State) (q i : Nat) (f : Slot → Slot) : (s.modSlot q i f).d3 = s.d3 := rfl
@[simp] theorem State.modSlot_power (s : State) (q i : Nat) (f : Slot → Slot) : (s.modSlot q i f).power = s.power := rfl
@[simp] theorem State.modSlot_boot (s : State) (q i : Nat) (f : Slot → Slot) : (s.modSlot q i f).boot = s.boot := rfl
@[simp] theorem State.modSlot_pins (s : State) (q i : Nat) (f : Slot → Slot) : (s.modSlot q i f).pins = s.pins := rfl
@[simp] theorem State.modSlot_errSeq (s : State) (q i : Nat) (f : Slot → Slot) : (s.modSlot q i f).errSeq = s.errSeq := rfl
@[simp] theorem State.modSlot_fatal (s : State) (q i : Nat) (f : Slot → Slot) : (s.modSlot q i f).fatal = s.fatal := rfl
@[simp] theorem State.modSlot_savedExts (s : State) (q i : Nat) (f : Slot → Slot) : (s.modSlot q i f).savedExts = s.savedExts := rfl
@[simp] theorem State.modSlot_semDone (s : State) (q i : Nat) (f : Slot → Slot) : (s.modSlot q i f).semDone = s.semDone := rfl
@[simp] theorem State.modSlot_errAt (s : State) (q i : Nat) (f : Slot → Slot) : (s.modSlot q i f).errAt = s.errAt := rfl
@[simp] theorem State.modSlot_alertAt (s : State) (q i : Nat) (f : Slot → Slot) : (s.modSlot q i f).alertAt = s.alertAt := rfl
@[simp] theorem State.modSlot_halts (s : State) (q i : Nat) (f : Slot → Slot) : (s.modSlot q i f).halts = s.halts := rfl
@[simp] theorem State.modSlot_dcmds (s : State) (q i : Nat) (f : Slot → Slot) : (s.modSlot q i f).dcmds = s.dcmds := rfl
@[simp] theorem State.modSlot_out (s : State) (q i : Nat) (f : Slot → Slot) : (s.modSlot q i f).out = s.out := rfl

@[simp] theorem State.modChan_pending (s : State) (c : Nat) (f : Chan → Chan) : (s.modChan c f).pending = s.pending := rfl
@[simp] theorem State.modChan_tick (s : State) (c : Nat) (f : Chan → Chan) : (s.modChan c f).tick = s.tick := rfl
@[simp] theorem State.modChan_quarter (s : State) (c : Nat) (f : Chan → Chan) : (s.modChan c f).quarter = s.quarter := rfl
@[simp] theorem State.modChan_copy (s : State) (c : Nat) (f : Chan → Chan) : (s.modChan c f).copy = s.copy := rfl
@[simp] theorem State.modChan_cclk (s : State) (c : Nat) (f : Chan → Chan) : (s.modChan c f).cclk = s.cclk := rfl
@[simp] theorem State.modChan_hclk (s : State) (c : Nat) (f : Chan → Chan) : (s.modChan c f).hclk = s.hclk := rfl
@[simp] theorem State.modChan_uclk (s : State) (c : Nat) (f : Chan → Chan) : (s.modChan c f).uclk = s.uclk := rfl
@[simp] theorem State.modChan_bucketAt (s : State) (c : Nat) (f : Chan → Chan) : (s.modChan c f).bucketAt = s.bucketAt := rfl
@[simp] theorem State.modChan_ageingAt (s : State) (c : Nat) (f : Chan → Chan) : (s.modChan c f).ageingAt = s.ageingAt := rfl
@[simp] theorem State.modChan_leaseAt (s : State) (c : Nat) (f : Chan → Chan) : (s.modChan c f).leaseAt = s.leaseAt := rfl
@[simp] theorem State.modChan_thermalAt (s : State) (c : Nat) (f : Chan → Chan) : (s.modChan c f).thermalAt = s.thermalAt := rfl
@[simp] theorem State.modChan_free (s : State) (c : Nat) (f : Chan → Chan) : (s.modChan c f).free = s.free := rfl
@[simp] theorem State.modChan_nextId (s : State) (c : Nat) (f : Chan → Chan) : (s.modChan c f).nextId = s.nextId := rfl
@[simp] theorem State.modChan_csr (s : State) (c : Nat) (f : Chan → Chan) : (s.modChan c f).csr = s.csr := rfl
@[simp] theorem State.modChan_page (s : State) (c : Nat) (f : Chan → Chan) : (s.modChan c f).page = s.page := rfl
@[simp] theorem State.modChan_readData (s : State) (c : Nat) (f : Chan → Chan) : (s.modChan c f).readData = s.readData := rfl
@[simp] theorem State.modChan_epc (s : State) (c : Nat) (f : Chan → Chan) : (s.modChan c f).epc = s.epc := rfl
@[simp] theorem State.modChan_ports (s : State) (c : Nat) (f : Chan → Chan) : (s.modChan c f).ports = s.ports := rfl
@[simp] theorem State.modChan_pkts (s : State) (c : Nat) (f : Chan → Chan) : (s.modChan c f).pkts = s.pkts := rfl
@[simp] theorem State.modChan_eouts (s : State) (c : Nat) (f : Chan → Chan) : (s.modChan c f).eouts = s.eouts := rfl
@[simp] theorem State.modChan_prs (s : State) (c : Nat) (f : Chan → Chan) : (s.modChan c f).prs = s.prs := rfl
@[simp] theorem State.modChan_fwd (s : State) (c : Nat) (f : Chan → Chan) : (s.modChan c f).fwd = s.fwd := rfl
@[simp] theorem State.modChan_dsp (s : State) (c : Nat) (f : Chan → Chan) : (s.modChan c f).dsp = s.dsp := rfl
@[simp] theorem State.modChan_threads (s : State) (c : Nat) (f : Chan → Chan) : (s.modChan c f).threads = s.threads := rfl
@[simp] theorem State.modChan_cores (s : State) (c : Nat) (f : Chan → Chan) : (s.modChan c f).cores = s.cores := rfl
@[simp] theorem State.modChan_imem (s : State) (c : Nat) (f : Chan → Chan) : (s.modChan c f).imem = s.imem := rfl
@[simp] theorem State.modChan_mem (s : State) (c : Nat) (f : Chan → Chan) : (s.modChan c f).mem = s.mem := rfl
@[simp] theorem State.modChan_poison (s : State) (c : Nat) (f : Chan → Chan) : (s.modChan c f).poison = s.poison := rfl
@[simp] theorem State.modChan_units (s : State) (c : Nat) (f : Chan → Chan) : (s.modChan c f).units = s.units := rfl
@[simp] theorem State.modChan_offers (s : State) (c : Nat) (f : Chan → Chan) : (s.modChan c f).offers = s.offers := rfl
@[simp] theorem State.modChan_rings (s : State) (c : Nat) (f : Chan → Chan) : (s.modChan c f).rings = s.rings := rfl
@[simp] theorem State.modChan_sems (s : State) (c : Nat) (f : Chan → Chan) : (s.modChan c f).sems = s.sems := rfl
@[simp] theorem State.modChan_umbraSem (s : State) (c : Nat) (f : Chan → Chan) : (s.modChan c f).umbraSem = s.umbraSem := rfl
@[simp] theorem State.modChan_lines (s : State) (c : Nat) (f : Chan → Chan) : (s.modChan c f).lines = s.lines := rfl
@[simp] theorem State.modChan_exts (s : State) (c : Nat) (f : Chan → Chan) : (s.modChan c f).exts = s.exts := rfl
@[simp] theorem State.modChan_dchans (s : State) (c : Nat) (f : Chan → Chan) : (s.modChan c f).dchans = s.dchans := rfl
@[simp] theorem State.modChan_wipe (s : State) (c : Nat) (f : Chan → Chan) : (s.modChan c f).wipe = s.wipe := rfl
@[simp] theorem State.modChan_slices (s : State) (c : Nat) (f : Chan → Chan) : (s.modChan c f).slices = s.slices := rfl
@[simp] theorem State.modChan_slcCmd (s : State) (c : Nat) (f : Chan → Chan) : (s.modChan c f).slcCmd = s.slcCmd := rfl
@[simp] theorem State.modChan_qps (s : State) (c : Nat) (f : Chan → Chan) : (s.modChan c f).qps = s.qps := rfl
@[simp] theorem State.modChan_unmasked (s : State) (c : Nat) (f : Chan → Chan) : (s.modChan c f).unmasked = s.unmasked := rfl
@[simp] theorem State.modChan_vectors (s : State) (c : Nat) (f : Chan → Chan) : (s.modChan c f).vectors = s.vectors := rfl
@[simp] theorem State.modChan_pba (s : State) (c : Nat) (f : Chan → Chan) : (s.modChan c f).pba = s.pba := rfl
@[simp] theorem State.modChan_d3 (s : State) (c : Nat) (f : Chan → Chan) : (s.modChan c f).d3 = s.d3 := rfl
@[simp] theorem State.modChan_power (s : State) (c : Nat) (f : Chan → Chan) : (s.modChan c f).power = s.power := rfl
@[simp] theorem State.modChan_boot (s : State) (c : Nat) (f : Chan → Chan) : (s.modChan c f).boot = s.boot := rfl
@[simp] theorem State.modChan_pins (s : State) (c : Nat) (f : Chan → Chan) : (s.modChan c f).pins = s.pins := rfl
@[simp] theorem State.modChan_errSeq (s : State) (c : Nat) (f : Chan → Chan) : (s.modChan c f).errSeq = s.errSeq := rfl
@[simp] theorem State.modChan_fatal (s : State) (c : Nat) (f : Chan → Chan) : (s.modChan c f).fatal = s.fatal := rfl
@[simp] theorem State.modChan_savedExts (s : State) (c : Nat) (f : Chan → Chan) : (s.modChan c f).savedExts = s.savedExts := rfl
@[simp] theorem State.modChan_semDone (s : State) (c : Nat) (f : Chan → Chan) : (s.modChan c f).semDone = s.semDone := rfl
@[simp] theorem State.modChan_errAt (s : State) (c : Nat) (f : Chan → Chan) : (s.modChan c f).errAt = s.errAt := rfl
@[simp] theorem State.modChan_alertAt (s : State) (c : Nat) (f : Chan → Chan) : (s.modChan c f).alertAt = s.alertAt := rfl
@[simp] theorem State.modChan_halts (s : State) (c : Nat) (f : Chan → Chan) : (s.modChan c f).halts = s.halts := rfl
@[simp] theorem State.modChan_dcmds (s : State) (c : Nat) (f : Chan → Chan) : (s.modChan c f).dcmds = s.dcmds := rfl
@[simp] theorem State.modChan_out (s : State) (c : Nat) (f : Chan → Chan) : (s.modChan c f).out = s.out := rfl

@[simp] theorem State.modUnit_pending (s : State) (n : Nat) (f : CopUnit → CopUnit) : (s.modUnit n f).pending = s.pending := rfl
@[simp] theorem State.modUnit_tick (s : State) (n : Nat) (f : CopUnit → CopUnit) : (s.modUnit n f).tick = s.tick := rfl
@[simp] theorem State.modUnit_quarter (s : State) (n : Nat) (f : CopUnit → CopUnit) : (s.modUnit n f).quarter = s.quarter := rfl
@[simp] theorem State.modUnit_copy (s : State) (n : Nat) (f : CopUnit → CopUnit) : (s.modUnit n f).copy = s.copy := rfl
@[simp] theorem State.modUnit_cclk (s : State) (n : Nat) (f : CopUnit → CopUnit) : (s.modUnit n f).cclk = s.cclk := rfl
@[simp] theorem State.modUnit_hclk (s : State) (n : Nat) (f : CopUnit → CopUnit) : (s.modUnit n f).hclk = s.hclk := rfl
@[simp] theorem State.modUnit_uclk (s : State) (n : Nat) (f : CopUnit → CopUnit) : (s.modUnit n f).uclk = s.uclk := rfl
@[simp] theorem State.modUnit_bucketAt (s : State) (n : Nat) (f : CopUnit → CopUnit) : (s.modUnit n f).bucketAt = s.bucketAt := rfl
@[simp] theorem State.modUnit_ageingAt (s : State) (n : Nat) (f : CopUnit → CopUnit) : (s.modUnit n f).ageingAt = s.ageingAt := rfl
@[simp] theorem State.modUnit_leaseAt (s : State) (n : Nat) (f : CopUnit → CopUnit) : (s.modUnit n f).leaseAt = s.leaseAt := rfl
@[simp] theorem State.modUnit_thermalAt (s : State) (n : Nat) (f : CopUnit → CopUnit) : (s.modUnit n f).thermalAt = s.thermalAt := rfl
@[simp] theorem State.modUnit_free (s : State) (n : Nat) (f : CopUnit → CopUnit) : (s.modUnit n f).free = s.free := rfl
@[simp] theorem State.modUnit_nextId (s : State) (n : Nat) (f : CopUnit → CopUnit) : (s.modUnit n f).nextId = s.nextId := rfl
@[simp] theorem State.modUnit_csr (s : State) (n : Nat) (f : CopUnit → CopUnit) : (s.modUnit n f).csr = s.csr := rfl
@[simp] theorem State.modUnit_page (s : State) (n : Nat) (f : CopUnit → CopUnit) : (s.modUnit n f).page = s.page := rfl
@[simp] theorem State.modUnit_readData (s : State) (n : Nat) (f : CopUnit → CopUnit) : (s.modUnit n f).readData = s.readData := rfl
@[simp] theorem State.modUnit_epc (s : State) (n : Nat) (f : CopUnit → CopUnit) : (s.modUnit n f).epc = s.epc := rfl
@[simp] theorem State.modUnit_ports (s : State) (n : Nat) (f : CopUnit → CopUnit) : (s.modUnit n f).ports = s.ports := rfl
@[simp] theorem State.modUnit_pkts (s : State) (n : Nat) (f : CopUnit → CopUnit) : (s.modUnit n f).pkts = s.pkts := rfl
@[simp] theorem State.modUnit_eouts (s : State) (n : Nat) (f : CopUnit → CopUnit) : (s.modUnit n f).eouts = s.eouts := rfl
@[simp] theorem State.modUnit_prs (s : State) (n : Nat) (f : CopUnit → CopUnit) : (s.modUnit n f).prs = s.prs := rfl
@[simp] theorem State.modUnit_fwd (s : State) (n : Nat) (f : CopUnit → CopUnit) : (s.modUnit n f).fwd = s.fwd := rfl
@[simp] theorem State.modUnit_dsp (s : State) (n : Nat) (f : CopUnit → CopUnit) : (s.modUnit n f).dsp = s.dsp := rfl
@[simp] theorem State.modUnit_threads (s : State) (n : Nat) (f : CopUnit → CopUnit) : (s.modUnit n f).threads = s.threads := rfl
@[simp] theorem State.modUnit_cores (s : State) (n : Nat) (f : CopUnit → CopUnit) : (s.modUnit n f).cores = s.cores := rfl
@[simp] theorem State.modUnit_imem (s : State) (n : Nat) (f : CopUnit → CopUnit) : (s.modUnit n f).imem = s.imem := rfl
@[simp] theorem State.modUnit_mem (s : State) (n : Nat) (f : CopUnit → CopUnit) : (s.modUnit n f).mem = s.mem := rfl
@[simp] theorem State.modUnit_poison (s : State) (n : Nat) (f : CopUnit → CopUnit) : (s.modUnit n f).poison = s.poison := rfl
@[simp] theorem State.modUnit_chans (s : State) (n : Nat) (f : CopUnit → CopUnit) : (s.modUnit n f).chans = s.chans := rfl
@[simp] theorem State.modUnit_offers (s : State) (n : Nat) (f : CopUnit → CopUnit) : (s.modUnit n f).offers = s.offers := rfl
@[simp] theorem State.modUnit_rings (s : State) (n : Nat) (f : CopUnit → CopUnit) : (s.modUnit n f).rings = s.rings := rfl
@[simp] theorem State.modUnit_sems (s : State) (n : Nat) (f : CopUnit → CopUnit) : (s.modUnit n f).sems = s.sems := rfl
@[simp] theorem State.modUnit_umbraSem (s : State) (n : Nat) (f : CopUnit → CopUnit) : (s.modUnit n f).umbraSem = s.umbraSem := rfl
@[simp] theorem State.modUnit_lines (s : State) (n : Nat) (f : CopUnit → CopUnit) : (s.modUnit n f).lines = s.lines := rfl
@[simp] theorem State.modUnit_exts (s : State) (n : Nat) (f : CopUnit → CopUnit) : (s.modUnit n f).exts = s.exts := rfl
@[simp] theorem State.modUnit_dchans (s : State) (n : Nat) (f : CopUnit → CopUnit) : (s.modUnit n f).dchans = s.dchans := rfl
@[simp] theorem State.modUnit_wipe (s : State) (n : Nat) (f : CopUnit → CopUnit) : (s.modUnit n f).wipe = s.wipe := rfl
@[simp] theorem State.modUnit_slices (s : State) (n : Nat) (f : CopUnit → CopUnit) : (s.modUnit n f).slices = s.slices := rfl
@[simp] theorem State.modUnit_slcCmd (s : State) (n : Nat) (f : CopUnit → CopUnit) : (s.modUnit n f).slcCmd = s.slcCmd := rfl
@[simp] theorem State.modUnit_qps (s : State) (n : Nat) (f : CopUnit → CopUnit) : (s.modUnit n f).qps = s.qps := rfl
@[simp] theorem State.modUnit_unmasked (s : State) (n : Nat) (f : CopUnit → CopUnit) : (s.modUnit n f).unmasked = s.unmasked := rfl
@[simp] theorem State.modUnit_vectors (s : State) (n : Nat) (f : CopUnit → CopUnit) : (s.modUnit n f).vectors = s.vectors := rfl
@[simp] theorem State.modUnit_pba (s : State) (n : Nat) (f : CopUnit → CopUnit) : (s.modUnit n f).pba = s.pba := rfl
@[simp] theorem State.modUnit_d3 (s : State) (n : Nat) (f : CopUnit → CopUnit) : (s.modUnit n f).d3 = s.d3 := rfl
@[simp] theorem State.modUnit_power (s : State) (n : Nat) (f : CopUnit → CopUnit) : (s.modUnit n f).power = s.power := rfl
@[simp] theorem State.modUnit_boot (s : State) (n : Nat) (f : CopUnit → CopUnit) : (s.modUnit n f).boot = s.boot := rfl
@[simp] theorem State.modUnit_pins (s : State) (n : Nat) (f : CopUnit → CopUnit) : (s.modUnit n f).pins = s.pins := rfl
@[simp] theorem State.modUnit_errSeq (s : State) (n : Nat) (f : CopUnit → CopUnit) : (s.modUnit n f).errSeq = s.errSeq := rfl
@[simp] theorem State.modUnit_fatal (s : State) (n : Nat) (f : CopUnit → CopUnit) : (s.modUnit n f).fatal = s.fatal := rfl
@[simp] theorem State.modUnit_savedExts (s : State) (n : Nat) (f : CopUnit → CopUnit) : (s.modUnit n f).savedExts = s.savedExts := rfl
@[simp] theorem State.modUnit_semDone (s : State) (n : Nat) (f : CopUnit → CopUnit) : (s.modUnit n f).semDone = s.semDone := rfl
@[simp] theorem State.modUnit_errAt (s : State) (n : Nat) (f : CopUnit → CopUnit) : (s.modUnit n f).errAt = s.errAt := rfl
@[simp] theorem State.modUnit_alertAt (s : State) (n : Nat) (f : CopUnit → CopUnit) : (s.modUnit n f).alertAt = s.alertAt := rfl
@[simp] theorem State.modUnit_halts (s : State) (n : Nat) (f : CopUnit → CopUnit) : (s.modUnit n f).halts = s.halts := rfl
@[simp] theorem State.modUnit_dcmds (s : State) (n : Nat) (f : CopUnit → CopUnit) : (s.modUnit n f).dcmds = s.dcmds := rfl
@[simp] theorem State.modUnit_out (s : State) (n : Nat) (f : CopUnit → CopUnit) : (s.modUnit n f).out = s.out := rfl

@[simp] theorem State.modRing_pending (s : State) (r : Nat) (f : Ring → Ring) : (s.modRing r f).pending = s.pending := rfl
@[simp] theorem State.modRing_tick (s : State) (r : Nat) (f : Ring → Ring) : (s.modRing r f).tick = s.tick := rfl
@[simp] theorem State.modRing_quarter (s : State) (r : Nat) (f : Ring → Ring) : (s.modRing r f).quarter = s.quarter := rfl
@[simp] theorem State.modRing_copy (s : State) (r : Nat) (f : Ring → Ring) : (s.modRing r f).copy = s.copy := rfl
@[simp] theorem State.modRing_cclk (s : State) (r : Nat) (f : Ring → Ring) : (s.modRing r f).cclk = s.cclk := rfl
@[simp] theorem State.modRing_hclk (s : State) (r : Nat) (f : Ring → Ring) : (s.modRing r f).hclk = s.hclk := rfl
@[simp] theorem State.modRing_uclk (s : State) (r : Nat) (f : Ring → Ring) : (s.modRing r f).uclk = s.uclk := rfl
@[simp] theorem State.modRing_bucketAt (s : State) (r : Nat) (f : Ring → Ring) : (s.modRing r f).bucketAt = s.bucketAt := rfl
@[simp] theorem State.modRing_ageingAt (s : State) (r : Nat) (f : Ring → Ring) : (s.modRing r f).ageingAt = s.ageingAt := rfl
@[simp] theorem State.modRing_leaseAt (s : State) (r : Nat) (f : Ring → Ring) : (s.modRing r f).leaseAt = s.leaseAt := rfl
@[simp] theorem State.modRing_thermalAt (s : State) (r : Nat) (f : Ring → Ring) : (s.modRing r f).thermalAt = s.thermalAt := rfl
@[simp] theorem State.modRing_free (s : State) (r : Nat) (f : Ring → Ring) : (s.modRing r f).free = s.free := rfl
@[simp] theorem State.modRing_nextId (s : State) (r : Nat) (f : Ring → Ring) : (s.modRing r f).nextId = s.nextId := rfl
@[simp] theorem State.modRing_csr (s : State) (r : Nat) (f : Ring → Ring) : (s.modRing r f).csr = s.csr := rfl
@[simp] theorem State.modRing_page (s : State) (r : Nat) (f : Ring → Ring) : (s.modRing r f).page = s.page := rfl
@[simp] theorem State.modRing_readData (s : State) (r : Nat) (f : Ring → Ring) : (s.modRing r f).readData = s.readData := rfl
@[simp] theorem State.modRing_epc (s : State) (r : Nat) (f : Ring → Ring) : (s.modRing r f).epc = s.epc := rfl
@[simp] theorem State.modRing_ports (s : State) (r : Nat) (f : Ring → Ring) : (s.modRing r f).ports = s.ports := rfl
@[simp] theorem State.modRing_pkts (s : State) (r : Nat) (f : Ring → Ring) : (s.modRing r f).pkts = s.pkts := rfl
@[simp] theorem State.modRing_eouts (s : State) (r : Nat) (f : Ring → Ring) : (s.modRing r f).eouts = s.eouts := rfl
@[simp] theorem State.modRing_prs (s : State) (r : Nat) (f : Ring → Ring) : (s.modRing r f).prs = s.prs := rfl
@[simp] theorem State.modRing_fwd (s : State) (r : Nat) (f : Ring → Ring) : (s.modRing r f).fwd = s.fwd := rfl
@[simp] theorem State.modRing_dsp (s : State) (r : Nat) (f : Ring → Ring) : (s.modRing r f).dsp = s.dsp := rfl
@[simp] theorem State.modRing_threads (s : State) (r : Nat) (f : Ring → Ring) : (s.modRing r f).threads = s.threads := rfl
@[simp] theorem State.modRing_cores (s : State) (r : Nat) (f : Ring → Ring) : (s.modRing r f).cores = s.cores := rfl
@[simp] theorem State.modRing_imem (s : State) (r : Nat) (f : Ring → Ring) : (s.modRing r f).imem = s.imem := rfl
@[simp] theorem State.modRing_mem (s : State) (r : Nat) (f : Ring → Ring) : (s.modRing r f).mem = s.mem := rfl
@[simp] theorem State.modRing_poison (s : State) (r : Nat) (f : Ring → Ring) : (s.modRing r f).poison = s.poison := rfl
@[simp] theorem State.modRing_chans (s : State) (r : Nat) (f : Ring → Ring) : (s.modRing r f).chans = s.chans := rfl
@[simp] theorem State.modRing_units (s : State) (r : Nat) (f : Ring → Ring) : (s.modRing r f).units = s.units := rfl
@[simp] theorem State.modRing_offers (s : State) (r : Nat) (f : Ring → Ring) : (s.modRing r f).offers = s.offers := rfl
@[simp] theorem State.modRing_sems (s : State) (r : Nat) (f : Ring → Ring) : (s.modRing r f).sems = s.sems := rfl
@[simp] theorem State.modRing_umbraSem (s : State) (r : Nat) (f : Ring → Ring) : (s.modRing r f).umbraSem = s.umbraSem := rfl
@[simp] theorem State.modRing_lines (s : State) (r : Nat) (f : Ring → Ring) : (s.modRing r f).lines = s.lines := rfl
@[simp] theorem State.modRing_exts (s : State) (r : Nat) (f : Ring → Ring) : (s.modRing r f).exts = s.exts := rfl
@[simp] theorem State.modRing_dchans (s : State) (r : Nat) (f : Ring → Ring) : (s.modRing r f).dchans = s.dchans := rfl
@[simp] theorem State.modRing_wipe (s : State) (r : Nat) (f : Ring → Ring) : (s.modRing r f).wipe = s.wipe := rfl
@[simp] theorem State.modRing_slices (s : State) (r : Nat) (f : Ring → Ring) : (s.modRing r f).slices = s.slices := rfl
@[simp] theorem State.modRing_slcCmd (s : State) (r : Nat) (f : Ring → Ring) : (s.modRing r f).slcCmd = s.slcCmd := rfl
@[simp] theorem State.modRing_qps (s : State) (r : Nat) (f : Ring → Ring) : (s.modRing r f).qps = s.qps := rfl
@[simp] theorem State.modRing_unmasked (s : State) (r : Nat) (f : Ring → Ring) : (s.modRing r f).unmasked = s.unmasked := rfl
@[simp] theorem State.modRing_vectors (s : State) (r : Nat) (f : Ring → Ring) : (s.modRing r f).vectors = s.vectors := rfl
@[simp] theorem State.modRing_pba (s : State) (r : Nat) (f : Ring → Ring) : (s.modRing r f).pba = s.pba := rfl
@[simp] theorem State.modRing_d3 (s : State) (r : Nat) (f : Ring → Ring) : (s.modRing r f).d3 = s.d3 := rfl
@[simp] theorem State.modRing_power (s : State) (r : Nat) (f : Ring → Ring) : (s.modRing r f).power = s.power := rfl
@[simp] theorem State.modRing_boot (s : State) (r : Nat) (f : Ring → Ring) : (s.modRing r f).boot = s.boot := rfl
@[simp] theorem State.modRing_pins (s : State) (r : Nat) (f : Ring → Ring) : (s.modRing r f).pins = s.pins := rfl
@[simp] theorem State.modRing_errSeq (s : State) (r : Nat) (f : Ring → Ring) : (s.modRing r f).errSeq = s.errSeq := rfl
@[simp] theorem State.modRing_fatal (s : State) (r : Nat) (f : Ring → Ring) : (s.modRing r f).fatal = s.fatal := rfl
@[simp] theorem State.modRing_savedExts (s : State) (r : Nat) (f : Ring → Ring) : (s.modRing r f).savedExts = s.savedExts := rfl
@[simp] theorem State.modRing_semDone (s : State) (r : Nat) (f : Ring → Ring) : (s.modRing r f).semDone = s.semDone := rfl
@[simp] theorem State.modRing_errAt (s : State) (r : Nat) (f : Ring → Ring) : (s.modRing r f).errAt = s.errAt := rfl
@[simp] theorem State.modRing_alertAt (s : State) (r : Nat) (f : Ring → Ring) : (s.modRing r f).alertAt = s.alertAt := rfl
@[simp] theorem State.modRing_halts (s : State) (r : Nat) (f : Ring → Ring) : (s.modRing r f).halts = s.halts := rfl
@[simp] theorem State.modRing_dcmds (s : State) (r : Nat) (f : Ring → Ring) : (s.modRing r f).dcmds = s.dcmds := rfl
@[simp] theorem State.modRing_out (s : State) (r : Nat) (f : Ring → Ring) : (s.modRing r f).out = s.out := rfl

@[simp] theorem State.modSem_pending (s : State) (i : Nat) (f : Sem → Sem) : (s.modSem i f).pending = s.pending := rfl
@[simp] theorem State.modSem_tick (s : State) (i : Nat) (f : Sem → Sem) : (s.modSem i f).tick = s.tick := rfl
@[simp] theorem State.modSem_quarter (s : State) (i : Nat) (f : Sem → Sem) : (s.modSem i f).quarter = s.quarter := rfl
@[simp] theorem State.modSem_copy (s : State) (i : Nat) (f : Sem → Sem) : (s.modSem i f).copy = s.copy := rfl
@[simp] theorem State.modSem_cclk (s : State) (i : Nat) (f : Sem → Sem) : (s.modSem i f).cclk = s.cclk := rfl
@[simp] theorem State.modSem_hclk (s : State) (i : Nat) (f : Sem → Sem) : (s.modSem i f).hclk = s.hclk := rfl
@[simp] theorem State.modSem_uclk (s : State) (i : Nat) (f : Sem → Sem) : (s.modSem i f).uclk = s.uclk := rfl
@[simp] theorem State.modSem_bucketAt (s : State) (i : Nat) (f : Sem → Sem) : (s.modSem i f).bucketAt = s.bucketAt := rfl
@[simp] theorem State.modSem_ageingAt (s : State) (i : Nat) (f : Sem → Sem) : (s.modSem i f).ageingAt = s.ageingAt := rfl
@[simp] theorem State.modSem_leaseAt (s : State) (i : Nat) (f : Sem → Sem) : (s.modSem i f).leaseAt = s.leaseAt := rfl
@[simp] theorem State.modSem_thermalAt (s : State) (i : Nat) (f : Sem → Sem) : (s.modSem i f).thermalAt = s.thermalAt := rfl
@[simp] theorem State.modSem_free (s : State) (i : Nat) (f : Sem → Sem) : (s.modSem i f).free = s.free := rfl
@[simp] theorem State.modSem_nextId (s : State) (i : Nat) (f : Sem → Sem) : (s.modSem i f).nextId = s.nextId := rfl
@[simp] theorem State.modSem_csr (s : State) (i : Nat) (f : Sem → Sem) : (s.modSem i f).csr = s.csr := rfl
@[simp] theorem State.modSem_page (s : State) (i : Nat) (f : Sem → Sem) : (s.modSem i f).page = s.page := rfl
@[simp] theorem State.modSem_readData (s : State) (i : Nat) (f : Sem → Sem) : (s.modSem i f).readData = s.readData := rfl
@[simp] theorem State.modSem_epc (s : State) (i : Nat) (f : Sem → Sem) : (s.modSem i f).epc = s.epc := rfl
@[simp] theorem State.modSem_ports (s : State) (i : Nat) (f : Sem → Sem) : (s.modSem i f).ports = s.ports := rfl
@[simp] theorem State.modSem_pkts (s : State) (i : Nat) (f : Sem → Sem) : (s.modSem i f).pkts = s.pkts := rfl
@[simp] theorem State.modSem_eouts (s : State) (i : Nat) (f : Sem → Sem) : (s.modSem i f).eouts = s.eouts := rfl
@[simp] theorem State.modSem_prs (s : State) (i : Nat) (f : Sem → Sem) : (s.modSem i f).prs = s.prs := rfl
@[simp] theorem State.modSem_fwd (s : State) (i : Nat) (f : Sem → Sem) : (s.modSem i f).fwd = s.fwd := rfl
@[simp] theorem State.modSem_dsp (s : State) (i : Nat) (f : Sem → Sem) : (s.modSem i f).dsp = s.dsp := rfl
@[simp] theorem State.modSem_threads (s : State) (i : Nat) (f : Sem → Sem) : (s.modSem i f).threads = s.threads := rfl
@[simp] theorem State.modSem_cores (s : State) (i : Nat) (f : Sem → Sem) : (s.modSem i f).cores = s.cores := rfl
@[simp] theorem State.modSem_imem (s : State) (i : Nat) (f : Sem → Sem) : (s.modSem i f).imem = s.imem := rfl
@[simp] theorem State.modSem_mem (s : State) (i : Nat) (f : Sem → Sem) : (s.modSem i f).mem = s.mem := rfl
@[simp] theorem State.modSem_poison (s : State) (i : Nat) (f : Sem → Sem) : (s.modSem i f).poison = s.poison := rfl
@[simp] theorem State.modSem_chans (s : State) (i : Nat) (f : Sem → Sem) : (s.modSem i f).chans = s.chans := rfl
@[simp] theorem State.modSem_units (s : State) (i : Nat) (f : Sem → Sem) : (s.modSem i f).units = s.units := rfl
@[simp] theorem State.modSem_offers (s : State) (i : Nat) (f : Sem → Sem) : (s.modSem i f).offers = s.offers := rfl
@[simp] theorem State.modSem_rings (s : State) (i : Nat) (f : Sem → Sem) : (s.modSem i f).rings = s.rings := rfl
@[simp] theorem State.modSem_umbraSem (s : State) (i : Nat) (f : Sem → Sem) : (s.modSem i f).umbraSem = s.umbraSem := rfl
@[simp] theorem State.modSem_lines (s : State) (i : Nat) (f : Sem → Sem) : (s.modSem i f).lines = s.lines := rfl
@[simp] theorem State.modSem_exts (s : State) (i : Nat) (f : Sem → Sem) : (s.modSem i f).exts = s.exts := rfl
@[simp] theorem State.modSem_dchans (s : State) (i : Nat) (f : Sem → Sem) : (s.modSem i f).dchans = s.dchans := rfl
@[simp] theorem State.modSem_wipe (s : State) (i : Nat) (f : Sem → Sem) : (s.modSem i f).wipe = s.wipe := rfl
@[simp] theorem State.modSem_slices (s : State) (i : Nat) (f : Sem → Sem) : (s.modSem i f).slices = s.slices := rfl
@[simp] theorem State.modSem_slcCmd (s : State) (i : Nat) (f : Sem → Sem) : (s.modSem i f).slcCmd = s.slcCmd := rfl
@[simp] theorem State.modSem_qps (s : State) (i : Nat) (f : Sem → Sem) : (s.modSem i f).qps = s.qps := rfl
@[simp] theorem State.modSem_unmasked (s : State) (i : Nat) (f : Sem → Sem) : (s.modSem i f).unmasked = s.unmasked := rfl
@[simp] theorem State.modSem_vectors (s : State) (i : Nat) (f : Sem → Sem) : (s.modSem i f).vectors = s.vectors := rfl
@[simp] theorem State.modSem_pba (s : State) (i : Nat) (f : Sem → Sem) : (s.modSem i f).pba = s.pba := rfl
@[simp] theorem State.modSem_d3 (s : State) (i : Nat) (f : Sem → Sem) : (s.modSem i f).d3 = s.d3 := rfl
@[simp] theorem State.modSem_power (s : State) (i : Nat) (f : Sem → Sem) : (s.modSem i f).power = s.power := rfl
@[simp] theorem State.modSem_boot (s : State) (i : Nat) (f : Sem → Sem) : (s.modSem i f).boot = s.boot := rfl
@[simp] theorem State.modSem_pins (s : State) (i : Nat) (f : Sem → Sem) : (s.modSem i f).pins = s.pins := rfl
@[simp] theorem State.modSem_errSeq (s : State) (i : Nat) (f : Sem → Sem) : (s.modSem i f).errSeq = s.errSeq := rfl
@[simp] theorem State.modSem_fatal (s : State) (i : Nat) (f : Sem → Sem) : (s.modSem i f).fatal = s.fatal := rfl
@[simp] theorem State.modSem_savedExts (s : State) (i : Nat) (f : Sem → Sem) : (s.modSem i f).savedExts = s.savedExts := rfl
@[simp] theorem State.modSem_semDone (s : State) (i : Nat) (f : Sem → Sem) : (s.modSem i f).semDone = s.semDone := rfl
@[simp] theorem State.modSem_errAt (s : State) (i : Nat) (f : Sem → Sem) : (s.modSem i f).errAt = s.errAt := rfl
@[simp] theorem State.modSem_alertAt (s : State) (i : Nat) (f : Sem → Sem) : (s.modSem i f).alertAt = s.alertAt := rfl
@[simp] theorem State.modSem_halts (s : State) (i : Nat) (f : Sem → Sem) : (s.modSem i f).halts = s.halts := rfl
@[simp] theorem State.modSem_dcmds (s : State) (i : Nat) (f : Sem → Sem) : (s.modSem i f).dcmds = s.dcmds := rfl
@[simp] theorem State.modSem_out (s : State) (i : Nat) (f : Sem → Sem) : (s.modSem i f).out = s.out := rfl

@[simp] theorem State.modLine_pending (s : State) (l : Nat) (f : Line → Line) : (s.modLine l f).pending = s.pending := rfl
@[simp] theorem State.modLine_tick (s : State) (l : Nat) (f : Line → Line) : (s.modLine l f).tick = s.tick := rfl
@[simp] theorem State.modLine_quarter (s : State) (l : Nat) (f : Line → Line) : (s.modLine l f).quarter = s.quarter := rfl
@[simp] theorem State.modLine_copy (s : State) (l : Nat) (f : Line → Line) : (s.modLine l f).copy = s.copy := rfl
@[simp] theorem State.modLine_cclk (s : State) (l : Nat) (f : Line → Line) : (s.modLine l f).cclk = s.cclk := rfl
@[simp] theorem State.modLine_hclk (s : State) (l : Nat) (f : Line → Line) : (s.modLine l f).hclk = s.hclk := rfl
@[simp] theorem State.modLine_uclk (s : State) (l : Nat) (f : Line → Line) : (s.modLine l f).uclk = s.uclk := rfl
@[simp] theorem State.modLine_bucketAt (s : State) (l : Nat) (f : Line → Line) : (s.modLine l f).bucketAt = s.bucketAt := rfl
@[simp] theorem State.modLine_ageingAt (s : State) (l : Nat) (f : Line → Line) : (s.modLine l f).ageingAt = s.ageingAt := rfl
@[simp] theorem State.modLine_leaseAt (s : State) (l : Nat) (f : Line → Line) : (s.modLine l f).leaseAt = s.leaseAt := rfl
@[simp] theorem State.modLine_thermalAt (s : State) (l : Nat) (f : Line → Line) : (s.modLine l f).thermalAt = s.thermalAt := rfl
@[simp] theorem State.modLine_free (s : State) (l : Nat) (f : Line → Line) : (s.modLine l f).free = s.free := rfl
@[simp] theorem State.modLine_nextId (s : State) (l : Nat) (f : Line → Line) : (s.modLine l f).nextId = s.nextId := rfl
@[simp] theorem State.modLine_csr (s : State) (l : Nat) (f : Line → Line) : (s.modLine l f).csr = s.csr := rfl
@[simp] theorem State.modLine_page (s : State) (l : Nat) (f : Line → Line) : (s.modLine l f).page = s.page := rfl
@[simp] theorem State.modLine_readData (s : State) (l : Nat) (f : Line → Line) : (s.modLine l f).readData = s.readData := rfl
@[simp] theorem State.modLine_epc (s : State) (l : Nat) (f : Line → Line) : (s.modLine l f).epc = s.epc := rfl
@[simp] theorem State.modLine_ports (s : State) (l : Nat) (f : Line → Line) : (s.modLine l f).ports = s.ports := rfl
@[simp] theorem State.modLine_pkts (s : State) (l : Nat) (f : Line → Line) : (s.modLine l f).pkts = s.pkts := rfl
@[simp] theorem State.modLine_eouts (s : State) (l : Nat) (f : Line → Line) : (s.modLine l f).eouts = s.eouts := rfl
@[simp] theorem State.modLine_prs (s : State) (l : Nat) (f : Line → Line) : (s.modLine l f).prs = s.prs := rfl
@[simp] theorem State.modLine_fwd (s : State) (l : Nat) (f : Line → Line) : (s.modLine l f).fwd = s.fwd := rfl
@[simp] theorem State.modLine_dsp (s : State) (l : Nat) (f : Line → Line) : (s.modLine l f).dsp = s.dsp := rfl
@[simp] theorem State.modLine_threads (s : State) (l : Nat) (f : Line → Line) : (s.modLine l f).threads = s.threads := rfl
@[simp] theorem State.modLine_cores (s : State) (l : Nat) (f : Line → Line) : (s.modLine l f).cores = s.cores := rfl
@[simp] theorem State.modLine_imem (s : State) (l : Nat) (f : Line → Line) : (s.modLine l f).imem = s.imem := rfl
@[simp] theorem State.modLine_mem (s : State) (l : Nat) (f : Line → Line) : (s.modLine l f).mem = s.mem := rfl
@[simp] theorem State.modLine_poison (s : State) (l : Nat) (f : Line → Line) : (s.modLine l f).poison = s.poison := rfl
@[simp] theorem State.modLine_chans (s : State) (l : Nat) (f : Line → Line) : (s.modLine l f).chans = s.chans := rfl
@[simp] theorem State.modLine_units (s : State) (l : Nat) (f : Line → Line) : (s.modLine l f).units = s.units := rfl
@[simp] theorem State.modLine_offers (s : State) (l : Nat) (f : Line → Line) : (s.modLine l f).offers = s.offers := rfl
@[simp] theorem State.modLine_rings (s : State) (l : Nat) (f : Line → Line) : (s.modLine l f).rings = s.rings := rfl
@[simp] theorem State.modLine_sems (s : State) (l : Nat) (f : Line → Line) : (s.modLine l f).sems = s.sems := rfl
@[simp] theorem State.modLine_umbraSem (s : State) (l : Nat) (f : Line → Line) : (s.modLine l f).umbraSem = s.umbraSem := rfl
@[simp] theorem State.modLine_exts (s : State) (l : Nat) (f : Line → Line) : (s.modLine l f).exts = s.exts := rfl
@[simp] theorem State.modLine_dchans (s : State) (l : Nat) (f : Line → Line) : (s.modLine l f).dchans = s.dchans := rfl
@[simp] theorem State.modLine_wipe (s : State) (l : Nat) (f : Line → Line) : (s.modLine l f).wipe = s.wipe := rfl
@[simp] theorem State.modLine_slices (s : State) (l : Nat) (f : Line → Line) : (s.modLine l f).slices = s.slices := rfl
@[simp] theorem State.modLine_slcCmd (s : State) (l : Nat) (f : Line → Line) : (s.modLine l f).slcCmd = s.slcCmd := rfl
@[simp] theorem State.modLine_qps (s : State) (l : Nat) (f : Line → Line) : (s.modLine l f).qps = s.qps := rfl
@[simp] theorem State.modLine_unmasked (s : State) (l : Nat) (f : Line → Line) : (s.modLine l f).unmasked = s.unmasked := rfl
@[simp] theorem State.modLine_vectors (s : State) (l : Nat) (f : Line → Line) : (s.modLine l f).vectors = s.vectors := rfl
@[simp] theorem State.modLine_pba (s : State) (l : Nat) (f : Line → Line) : (s.modLine l f).pba = s.pba := rfl
@[simp] theorem State.modLine_d3 (s : State) (l : Nat) (f : Line → Line) : (s.modLine l f).d3 = s.d3 := rfl
@[simp] theorem State.modLine_power (s : State) (l : Nat) (f : Line → Line) : (s.modLine l f).power = s.power := rfl
@[simp] theorem State.modLine_boot (s : State) (l : Nat) (f : Line → Line) : (s.modLine l f).boot = s.boot := rfl
@[simp] theorem State.modLine_pins (s : State) (l : Nat) (f : Line → Line) : (s.modLine l f).pins = s.pins := rfl
@[simp] theorem State.modLine_errSeq (s : State) (l : Nat) (f : Line → Line) : (s.modLine l f).errSeq = s.errSeq := rfl
@[simp] theorem State.modLine_fatal (s : State) (l : Nat) (f : Line → Line) : (s.modLine l f).fatal = s.fatal := rfl
@[simp] theorem State.modLine_savedExts (s : State) (l : Nat) (f : Line → Line) : (s.modLine l f).savedExts = s.savedExts := rfl
@[simp] theorem State.modLine_semDone (s : State) (l : Nat) (f : Line → Line) : (s.modLine l f).semDone = s.semDone := rfl
@[simp] theorem State.modLine_errAt (s : State) (l : Nat) (f : Line → Line) : (s.modLine l f).errAt = s.errAt := rfl
@[simp] theorem State.modLine_alertAt (s : State) (l : Nat) (f : Line → Line) : (s.modLine l f).alertAt = s.alertAt := rfl
@[simp] theorem State.modLine_halts (s : State) (l : Nat) (f : Line → Line) : (s.modLine l f).halts = s.halts := rfl
@[simp] theorem State.modLine_dcmds (s : State) (l : Nat) (f : Line → Line) : (s.modLine l f).dcmds = s.dcmds := rfl
@[simp] theorem State.modLine_out (s : State) (l : Nat) (f : Line → Line) : (s.modLine l f).out = s.out := rfl

@[simp] theorem State.modExtent_pending (s : State) (x : Nat) (f : Extent → Extent) : (s.modExtent x f).pending = s.pending := rfl
@[simp] theorem State.modExtent_tick (s : State) (x : Nat) (f : Extent → Extent) : (s.modExtent x f).tick = s.tick := rfl
@[simp] theorem State.modExtent_quarter (s : State) (x : Nat) (f : Extent → Extent) : (s.modExtent x f).quarter = s.quarter := rfl
@[simp] theorem State.modExtent_copy (s : State) (x : Nat) (f : Extent → Extent) : (s.modExtent x f).copy = s.copy := rfl
@[simp] theorem State.modExtent_cclk (s : State) (x : Nat) (f : Extent → Extent) : (s.modExtent x f).cclk = s.cclk := rfl
@[simp] theorem State.modExtent_hclk (s : State) (x : Nat) (f : Extent → Extent) : (s.modExtent x f).hclk = s.hclk := rfl
@[simp] theorem State.modExtent_uclk (s : State) (x : Nat) (f : Extent → Extent) : (s.modExtent x f).uclk = s.uclk := rfl
@[simp] theorem State.modExtent_bucketAt (s : State) (x : Nat) (f : Extent → Extent) : (s.modExtent x f).bucketAt = s.bucketAt := rfl
@[simp] theorem State.modExtent_ageingAt (s : State) (x : Nat) (f : Extent → Extent) : (s.modExtent x f).ageingAt = s.ageingAt := rfl
@[simp] theorem State.modExtent_leaseAt (s : State) (x : Nat) (f : Extent → Extent) : (s.modExtent x f).leaseAt = s.leaseAt := rfl
@[simp] theorem State.modExtent_thermalAt (s : State) (x : Nat) (f : Extent → Extent) : (s.modExtent x f).thermalAt = s.thermalAt := rfl
@[simp] theorem State.modExtent_free (s : State) (x : Nat) (f : Extent → Extent) : (s.modExtent x f).free = s.free := rfl
@[simp] theorem State.modExtent_nextId (s : State) (x : Nat) (f : Extent → Extent) : (s.modExtent x f).nextId = s.nextId := rfl
@[simp] theorem State.modExtent_csr (s : State) (x : Nat) (f : Extent → Extent) : (s.modExtent x f).csr = s.csr := rfl
@[simp] theorem State.modExtent_page (s : State) (x : Nat) (f : Extent → Extent) : (s.modExtent x f).page = s.page := rfl
@[simp] theorem State.modExtent_readData (s : State) (x : Nat) (f : Extent → Extent) : (s.modExtent x f).readData = s.readData := rfl
@[simp] theorem State.modExtent_epc (s : State) (x : Nat) (f : Extent → Extent) : (s.modExtent x f).epc = s.epc := rfl
@[simp] theorem State.modExtent_ports (s : State) (x : Nat) (f : Extent → Extent) : (s.modExtent x f).ports = s.ports := rfl
@[simp] theorem State.modExtent_pkts (s : State) (x : Nat) (f : Extent → Extent) : (s.modExtent x f).pkts = s.pkts := rfl
@[simp] theorem State.modExtent_eouts (s : State) (x : Nat) (f : Extent → Extent) : (s.modExtent x f).eouts = s.eouts := rfl
@[simp] theorem State.modExtent_prs (s : State) (x : Nat) (f : Extent → Extent) : (s.modExtent x f).prs = s.prs := rfl
@[simp] theorem State.modExtent_fwd (s : State) (x : Nat) (f : Extent → Extent) : (s.modExtent x f).fwd = s.fwd := rfl
@[simp] theorem State.modExtent_dsp (s : State) (x : Nat) (f : Extent → Extent) : (s.modExtent x f).dsp = s.dsp := rfl
@[simp] theorem State.modExtent_threads (s : State) (x : Nat) (f : Extent → Extent) : (s.modExtent x f).threads = s.threads := rfl
@[simp] theorem State.modExtent_cores (s : State) (x : Nat) (f : Extent → Extent) : (s.modExtent x f).cores = s.cores := rfl
@[simp] theorem State.modExtent_imem (s : State) (x : Nat) (f : Extent → Extent) : (s.modExtent x f).imem = s.imem := rfl
@[simp] theorem State.modExtent_mem (s : State) (x : Nat) (f : Extent → Extent) : (s.modExtent x f).mem = s.mem := rfl
@[simp] theorem State.modExtent_poison (s : State) (x : Nat) (f : Extent → Extent) : (s.modExtent x f).poison = s.poison := rfl
@[simp] theorem State.modExtent_chans (s : State) (x : Nat) (f : Extent → Extent) : (s.modExtent x f).chans = s.chans := rfl
@[simp] theorem State.modExtent_units (s : State) (x : Nat) (f : Extent → Extent) : (s.modExtent x f).units = s.units := rfl
@[simp] theorem State.modExtent_offers (s : State) (x : Nat) (f : Extent → Extent) : (s.modExtent x f).offers = s.offers := rfl
@[simp] theorem State.modExtent_rings (s : State) (x : Nat) (f : Extent → Extent) : (s.modExtent x f).rings = s.rings := rfl
@[simp] theorem State.modExtent_sems (s : State) (x : Nat) (f : Extent → Extent) : (s.modExtent x f).sems = s.sems := rfl
@[simp] theorem State.modExtent_umbraSem (s : State) (x : Nat) (f : Extent → Extent) : (s.modExtent x f).umbraSem = s.umbraSem := rfl
@[simp] theorem State.modExtent_lines (s : State) (x : Nat) (f : Extent → Extent) : (s.modExtent x f).lines = s.lines := rfl
@[simp] theorem State.modExtent_dchans (s : State) (x : Nat) (f : Extent → Extent) : (s.modExtent x f).dchans = s.dchans := rfl
@[simp] theorem State.modExtent_wipe (s : State) (x : Nat) (f : Extent → Extent) : (s.modExtent x f).wipe = s.wipe := rfl
@[simp] theorem State.modExtent_slices (s : State) (x : Nat) (f : Extent → Extent) : (s.modExtent x f).slices = s.slices := rfl
@[simp] theorem State.modExtent_slcCmd (s : State) (x : Nat) (f : Extent → Extent) : (s.modExtent x f).slcCmd = s.slcCmd := rfl
@[simp] theorem State.modExtent_qps (s : State) (x : Nat) (f : Extent → Extent) : (s.modExtent x f).qps = s.qps := rfl
@[simp] theorem State.modExtent_unmasked (s : State) (x : Nat) (f : Extent → Extent) : (s.modExtent x f).unmasked = s.unmasked := rfl
@[simp] theorem State.modExtent_vectors (s : State) (x : Nat) (f : Extent → Extent) : (s.modExtent x f).vectors = s.vectors := rfl
@[simp] theorem State.modExtent_pba (s : State) (x : Nat) (f : Extent → Extent) : (s.modExtent x f).pba = s.pba := rfl
@[simp] theorem State.modExtent_d3 (s : State) (x : Nat) (f : Extent → Extent) : (s.modExtent x f).d3 = s.d3 := rfl
@[simp] theorem State.modExtent_power (s : State) (x : Nat) (f : Extent → Extent) : (s.modExtent x f).power = s.power := rfl
@[simp] theorem State.modExtent_boot (s : State) (x : Nat) (f : Extent → Extent) : (s.modExtent x f).boot = s.boot := rfl
@[simp] theorem State.modExtent_pins (s : State) (x : Nat) (f : Extent → Extent) : (s.modExtent x f).pins = s.pins := rfl
@[simp] theorem State.modExtent_errSeq (s : State) (x : Nat) (f : Extent → Extent) : (s.modExtent x f).errSeq = s.errSeq := rfl
@[simp] theorem State.modExtent_fatal (s : State) (x : Nat) (f : Extent → Extent) : (s.modExtent x f).fatal = s.fatal := rfl
@[simp] theorem State.modExtent_savedExts (s : State) (x : Nat) (f : Extent → Extent) : (s.modExtent x f).savedExts = s.savedExts := rfl
@[simp] theorem State.modExtent_semDone (s : State) (x : Nat) (f : Extent → Extent) : (s.modExtent x f).semDone = s.semDone := rfl
@[simp] theorem State.modExtent_errAt (s : State) (x : Nat) (f : Extent → Extent) : (s.modExtent x f).errAt = s.errAt := rfl
@[simp] theorem State.modExtent_alertAt (s : State) (x : Nat) (f : Extent → Extent) : (s.modExtent x f).alertAt = s.alertAt := rfl
@[simp] theorem State.modExtent_halts (s : State) (x : Nat) (f : Extent → Extent) : (s.modExtent x f).halts = s.halts := rfl
@[simp] theorem State.modExtent_dcmds (s : State) (x : Nat) (f : Extent → Extent) : (s.modExtent x f).dcmds = s.dcmds := rfl
@[simp] theorem State.modExtent_out (s : State) (x : Nat) (f : Extent → Extent) : (s.modExtent x f).out = s.out := rfl

@[simp] theorem State.modDchan_pending (s : State) (k : Nat) (f : DChan → DChan) : (s.modDchan k f).pending = s.pending := rfl
@[simp] theorem State.modDchan_tick (s : State) (k : Nat) (f : DChan → DChan) : (s.modDchan k f).tick = s.tick := rfl
@[simp] theorem State.modDchan_quarter (s : State) (k : Nat) (f : DChan → DChan) : (s.modDchan k f).quarter = s.quarter := rfl
@[simp] theorem State.modDchan_copy (s : State) (k : Nat) (f : DChan → DChan) : (s.modDchan k f).copy = s.copy := rfl
@[simp] theorem State.modDchan_cclk (s : State) (k : Nat) (f : DChan → DChan) : (s.modDchan k f).cclk = s.cclk := rfl
@[simp] theorem State.modDchan_hclk (s : State) (k : Nat) (f : DChan → DChan) : (s.modDchan k f).hclk = s.hclk := rfl
@[simp] theorem State.modDchan_uclk (s : State) (k : Nat) (f : DChan → DChan) : (s.modDchan k f).uclk = s.uclk := rfl
@[simp] theorem State.modDchan_bucketAt (s : State) (k : Nat) (f : DChan → DChan) : (s.modDchan k f).bucketAt = s.bucketAt := rfl
@[simp] theorem State.modDchan_ageingAt (s : State) (k : Nat) (f : DChan → DChan) : (s.modDchan k f).ageingAt = s.ageingAt := rfl
@[simp] theorem State.modDchan_leaseAt (s : State) (k : Nat) (f : DChan → DChan) : (s.modDchan k f).leaseAt = s.leaseAt := rfl
@[simp] theorem State.modDchan_thermalAt (s : State) (k : Nat) (f : DChan → DChan) : (s.modDchan k f).thermalAt = s.thermalAt := rfl
@[simp] theorem State.modDchan_free (s : State) (k : Nat) (f : DChan → DChan) : (s.modDchan k f).free = s.free := rfl
@[simp] theorem State.modDchan_nextId (s : State) (k : Nat) (f : DChan → DChan) : (s.modDchan k f).nextId = s.nextId := rfl
@[simp] theorem State.modDchan_csr (s : State) (k : Nat) (f : DChan → DChan) : (s.modDchan k f).csr = s.csr := rfl
@[simp] theorem State.modDchan_page (s : State) (k : Nat) (f : DChan → DChan) : (s.modDchan k f).page = s.page := rfl
@[simp] theorem State.modDchan_readData (s : State) (k : Nat) (f : DChan → DChan) : (s.modDchan k f).readData = s.readData := rfl
@[simp] theorem State.modDchan_epc (s : State) (k : Nat) (f : DChan → DChan) : (s.modDchan k f).epc = s.epc := rfl
@[simp] theorem State.modDchan_ports (s : State) (k : Nat) (f : DChan → DChan) : (s.modDchan k f).ports = s.ports := rfl
@[simp] theorem State.modDchan_pkts (s : State) (k : Nat) (f : DChan → DChan) : (s.modDchan k f).pkts = s.pkts := rfl
@[simp] theorem State.modDchan_eouts (s : State) (k : Nat) (f : DChan → DChan) : (s.modDchan k f).eouts = s.eouts := rfl
@[simp] theorem State.modDchan_prs (s : State) (k : Nat) (f : DChan → DChan) : (s.modDchan k f).prs = s.prs := rfl
@[simp] theorem State.modDchan_fwd (s : State) (k : Nat) (f : DChan → DChan) : (s.modDchan k f).fwd = s.fwd := rfl
@[simp] theorem State.modDchan_dsp (s : State) (k : Nat) (f : DChan → DChan) : (s.modDchan k f).dsp = s.dsp := rfl
@[simp] theorem State.modDchan_threads (s : State) (k : Nat) (f : DChan → DChan) : (s.modDchan k f).threads = s.threads := rfl
@[simp] theorem State.modDchan_cores (s : State) (k : Nat) (f : DChan → DChan) : (s.modDchan k f).cores = s.cores := rfl
@[simp] theorem State.modDchan_imem (s : State) (k : Nat) (f : DChan → DChan) : (s.modDchan k f).imem = s.imem := rfl
@[simp] theorem State.modDchan_mem (s : State) (k : Nat) (f : DChan → DChan) : (s.modDchan k f).mem = s.mem := rfl
@[simp] theorem State.modDchan_poison (s : State) (k : Nat) (f : DChan → DChan) : (s.modDchan k f).poison = s.poison := rfl
@[simp] theorem State.modDchan_chans (s : State) (k : Nat) (f : DChan → DChan) : (s.modDchan k f).chans = s.chans := rfl
@[simp] theorem State.modDchan_units (s : State) (k : Nat) (f : DChan → DChan) : (s.modDchan k f).units = s.units := rfl
@[simp] theorem State.modDchan_offers (s : State) (k : Nat) (f : DChan → DChan) : (s.modDchan k f).offers = s.offers := rfl
@[simp] theorem State.modDchan_rings (s : State) (k : Nat) (f : DChan → DChan) : (s.modDchan k f).rings = s.rings := rfl
@[simp] theorem State.modDchan_sems (s : State) (k : Nat) (f : DChan → DChan) : (s.modDchan k f).sems = s.sems := rfl
@[simp] theorem State.modDchan_umbraSem (s : State) (k : Nat) (f : DChan → DChan) : (s.modDchan k f).umbraSem = s.umbraSem := rfl
@[simp] theorem State.modDchan_lines (s : State) (k : Nat) (f : DChan → DChan) : (s.modDchan k f).lines = s.lines := rfl
@[simp] theorem State.modDchan_exts (s : State) (k : Nat) (f : DChan → DChan) : (s.modDchan k f).exts = s.exts := rfl
@[simp] theorem State.modDchan_wipe (s : State) (k : Nat) (f : DChan → DChan) : (s.modDchan k f).wipe = s.wipe := rfl
@[simp] theorem State.modDchan_slices (s : State) (k : Nat) (f : DChan → DChan) : (s.modDchan k f).slices = s.slices := rfl
@[simp] theorem State.modDchan_slcCmd (s : State) (k : Nat) (f : DChan → DChan) : (s.modDchan k f).slcCmd = s.slcCmd := rfl
@[simp] theorem State.modDchan_qps (s : State) (k : Nat) (f : DChan → DChan) : (s.modDchan k f).qps = s.qps := rfl
@[simp] theorem State.modDchan_unmasked (s : State) (k : Nat) (f : DChan → DChan) : (s.modDchan k f).unmasked = s.unmasked := rfl
@[simp] theorem State.modDchan_vectors (s : State) (k : Nat) (f : DChan → DChan) : (s.modDchan k f).vectors = s.vectors := rfl
@[simp] theorem State.modDchan_pba (s : State) (k : Nat) (f : DChan → DChan) : (s.modDchan k f).pba = s.pba := rfl
@[simp] theorem State.modDchan_d3 (s : State) (k : Nat) (f : DChan → DChan) : (s.modDchan k f).d3 = s.d3 := rfl
@[simp] theorem State.modDchan_power (s : State) (k : Nat) (f : DChan → DChan) : (s.modDchan k f).power = s.power := rfl
@[simp] theorem State.modDchan_boot (s : State) (k : Nat) (f : DChan → DChan) : (s.modDchan k f).boot = s.boot := rfl
@[simp] theorem State.modDchan_pins (s : State) (k : Nat) (f : DChan → DChan) : (s.modDchan k f).pins = s.pins := rfl
@[simp] theorem State.modDchan_errSeq (s : State) (k : Nat) (f : DChan → DChan) : (s.modDchan k f).errSeq = s.errSeq := rfl
@[simp] theorem State.modDchan_fatal (s : State) (k : Nat) (f : DChan → DChan) : (s.modDchan k f).fatal = s.fatal := rfl
@[simp] theorem State.modDchan_savedExts (s : State) (k : Nat) (f : DChan → DChan) : (s.modDchan k f).savedExts = s.savedExts := rfl
@[simp] theorem State.modDchan_semDone (s : State) (k : Nat) (f : DChan → DChan) : (s.modDchan k f).semDone = s.semDone := rfl
@[simp] theorem State.modDchan_errAt (s : State) (k : Nat) (f : DChan → DChan) : (s.modDchan k f).errAt = s.errAt := rfl
@[simp] theorem State.modDchan_alertAt (s : State) (k : Nat) (f : DChan → DChan) : (s.modDchan k f).alertAt = s.alertAt := rfl
@[simp] theorem State.modDchan_halts (s : State) (k : Nat) (f : DChan → DChan) : (s.modDchan k f).halts = s.halts := rfl
@[simp] theorem State.modDchan_dcmds (s : State) (k : Nat) (f : DChan → DChan) : (s.modDchan k f).dcmds = s.dcmds := rfl
@[simp] theorem State.modDchan_out (s : State) (k : Nat) (f : DChan → DChan) : (s.modDchan k f).out = s.out := rfl

@[simp] theorem State.modQp_pending (s : State) (n : Nat) (f : QpState → QpState) : (s.modQp n f).pending = s.pending := rfl
@[simp] theorem State.modQp_tick (s : State) (n : Nat) (f : QpState → QpState) : (s.modQp n f).tick = s.tick := rfl
@[simp] theorem State.modQp_quarter (s : State) (n : Nat) (f : QpState → QpState) : (s.modQp n f).quarter = s.quarter := rfl
@[simp] theorem State.modQp_copy (s : State) (n : Nat) (f : QpState → QpState) : (s.modQp n f).copy = s.copy := rfl
@[simp] theorem State.modQp_cclk (s : State) (n : Nat) (f : QpState → QpState) : (s.modQp n f).cclk = s.cclk := rfl
@[simp] theorem State.modQp_hclk (s : State) (n : Nat) (f : QpState → QpState) : (s.modQp n f).hclk = s.hclk := rfl
@[simp] theorem State.modQp_uclk (s : State) (n : Nat) (f : QpState → QpState) : (s.modQp n f).uclk = s.uclk := rfl
@[simp] theorem State.modQp_bucketAt (s : State) (n : Nat) (f : QpState → QpState) : (s.modQp n f).bucketAt = s.bucketAt := rfl
@[simp] theorem State.modQp_ageingAt (s : State) (n : Nat) (f : QpState → QpState) : (s.modQp n f).ageingAt = s.ageingAt := rfl
@[simp] theorem State.modQp_leaseAt (s : State) (n : Nat) (f : QpState → QpState) : (s.modQp n f).leaseAt = s.leaseAt := rfl
@[simp] theorem State.modQp_thermalAt (s : State) (n : Nat) (f : QpState → QpState) : (s.modQp n f).thermalAt = s.thermalAt := rfl
@[simp] theorem State.modQp_free (s : State) (n : Nat) (f : QpState → QpState) : (s.modQp n f).free = s.free := rfl
@[simp] theorem State.modQp_nextId (s : State) (n : Nat) (f : QpState → QpState) : (s.modQp n f).nextId = s.nextId := rfl
@[simp] theorem State.modQp_csr (s : State) (n : Nat) (f : QpState → QpState) : (s.modQp n f).csr = s.csr := rfl
@[simp] theorem State.modQp_page (s : State) (n : Nat) (f : QpState → QpState) : (s.modQp n f).page = s.page := rfl
@[simp] theorem State.modQp_readData (s : State) (n : Nat) (f : QpState → QpState) : (s.modQp n f).readData = s.readData := rfl
@[simp] theorem State.modQp_epc (s : State) (n : Nat) (f : QpState → QpState) : (s.modQp n f).epc = s.epc := rfl
@[simp] theorem State.modQp_ports (s : State) (n : Nat) (f : QpState → QpState) : (s.modQp n f).ports = s.ports := rfl
@[simp] theorem State.modQp_pkts (s : State) (n : Nat) (f : QpState → QpState) : (s.modQp n f).pkts = s.pkts := rfl
@[simp] theorem State.modQp_eouts (s : State) (n : Nat) (f : QpState → QpState) : (s.modQp n f).eouts = s.eouts := rfl
@[simp] theorem State.modQp_prs (s : State) (n : Nat) (f : QpState → QpState) : (s.modQp n f).prs = s.prs := rfl
@[simp] theorem State.modQp_fwd (s : State) (n : Nat) (f : QpState → QpState) : (s.modQp n f).fwd = s.fwd := rfl
@[simp] theorem State.modQp_dsp (s : State) (n : Nat) (f : QpState → QpState) : (s.modQp n f).dsp = s.dsp := rfl
@[simp] theorem State.modQp_threads (s : State) (n : Nat) (f : QpState → QpState) : (s.modQp n f).threads = s.threads := rfl
@[simp] theorem State.modQp_cores (s : State) (n : Nat) (f : QpState → QpState) : (s.modQp n f).cores = s.cores := rfl
@[simp] theorem State.modQp_imem (s : State) (n : Nat) (f : QpState → QpState) : (s.modQp n f).imem = s.imem := rfl
@[simp] theorem State.modQp_mem (s : State) (n : Nat) (f : QpState → QpState) : (s.modQp n f).mem = s.mem := rfl
@[simp] theorem State.modQp_poison (s : State) (n : Nat) (f : QpState → QpState) : (s.modQp n f).poison = s.poison := rfl
@[simp] theorem State.modQp_chans (s : State) (n : Nat) (f : QpState → QpState) : (s.modQp n f).chans = s.chans := rfl
@[simp] theorem State.modQp_units (s : State) (n : Nat) (f : QpState → QpState) : (s.modQp n f).units = s.units := rfl
@[simp] theorem State.modQp_offers (s : State) (n : Nat) (f : QpState → QpState) : (s.modQp n f).offers = s.offers := rfl
@[simp] theorem State.modQp_rings (s : State) (n : Nat) (f : QpState → QpState) : (s.modQp n f).rings = s.rings := rfl
@[simp] theorem State.modQp_sems (s : State) (n : Nat) (f : QpState → QpState) : (s.modQp n f).sems = s.sems := rfl
@[simp] theorem State.modQp_umbraSem (s : State) (n : Nat) (f : QpState → QpState) : (s.modQp n f).umbraSem = s.umbraSem := rfl
@[simp] theorem State.modQp_lines (s : State) (n : Nat) (f : QpState → QpState) : (s.modQp n f).lines = s.lines := rfl
@[simp] theorem State.modQp_exts (s : State) (n : Nat) (f : QpState → QpState) : (s.modQp n f).exts = s.exts := rfl
@[simp] theorem State.modQp_dchans (s : State) (n : Nat) (f : QpState → QpState) : (s.modQp n f).dchans = s.dchans := rfl
@[simp] theorem State.modQp_wipe (s : State) (n : Nat) (f : QpState → QpState) : (s.modQp n f).wipe = s.wipe := rfl
@[simp] theorem State.modQp_slices (s : State) (n : Nat) (f : QpState → QpState) : (s.modQp n f).slices = s.slices := rfl
@[simp] theorem State.modQp_slcCmd (s : State) (n : Nat) (f : QpState → QpState) : (s.modQp n f).slcCmd = s.slcCmd := rfl
@[simp] theorem State.modQp_unmasked (s : State) (n : Nat) (f : QpState → QpState) : (s.modQp n f).unmasked = s.unmasked := rfl
@[simp] theorem State.modQp_vectors (s : State) (n : Nat) (f : QpState → QpState) : (s.modQp n f).vectors = s.vectors := rfl
@[simp] theorem State.modQp_pba (s : State) (n : Nat) (f : QpState → QpState) : (s.modQp n f).pba = s.pba := rfl
@[simp] theorem State.modQp_d3 (s : State) (n : Nat) (f : QpState → QpState) : (s.modQp n f).d3 = s.d3 := rfl
@[simp] theorem State.modQp_power (s : State) (n : Nat) (f : QpState → QpState) : (s.modQp n f).power = s.power := rfl
@[simp] theorem State.modQp_boot (s : State) (n : Nat) (f : QpState → QpState) : (s.modQp n f).boot = s.boot := rfl
@[simp] theorem State.modQp_pins (s : State) (n : Nat) (f : QpState → QpState) : (s.modQp n f).pins = s.pins := rfl
@[simp] theorem State.modQp_errSeq (s : State) (n : Nat) (f : QpState → QpState) : (s.modQp n f).errSeq = s.errSeq := rfl
@[simp] theorem State.modQp_fatal (s : State) (n : Nat) (f : QpState → QpState) : (s.modQp n f).fatal = s.fatal := rfl
@[simp] theorem State.modQp_savedExts (s : State) (n : Nat) (f : QpState → QpState) : (s.modQp n f).savedExts = s.savedExts := rfl
@[simp] theorem State.modQp_semDone (s : State) (n : Nat) (f : QpState → QpState) : (s.modQp n f).semDone = s.semDone := rfl
@[simp] theorem State.modQp_errAt (s : State) (n : Nat) (f : QpState → QpState) : (s.modQp n f).errAt = s.errAt := rfl
@[simp] theorem State.modQp_alertAt (s : State) (n : Nat) (f : QpState → QpState) : (s.modQp n f).alertAt = s.alertAt := rfl
@[simp] theorem State.modQp_halts (s : State) (n : Nat) (f : QpState → QpState) : (s.modQp n f).halts = s.halts := rfl
@[simp] theorem State.modQp_dcmds (s : State) (n : Nat) (f : QpState → QpState) : (s.modQp n f).dcmds = s.dcmds := rfl
@[simp] theorem State.modQp_out (s : State) (n : Nat) (f : QpState → QpState) : (s.modQp n f).out = s.out := rfl

@[simp] theorem State.modSlice_pending (s : State) (i : Nat) (f : Slice → Slice) : (s.modSlice i f).pending = s.pending := rfl
@[simp] theorem State.modSlice_tick (s : State) (i : Nat) (f : Slice → Slice) : (s.modSlice i f).tick = s.tick := rfl
@[simp] theorem State.modSlice_quarter (s : State) (i : Nat) (f : Slice → Slice) : (s.modSlice i f).quarter = s.quarter := rfl
@[simp] theorem State.modSlice_copy (s : State) (i : Nat) (f : Slice → Slice) : (s.modSlice i f).copy = s.copy := rfl
@[simp] theorem State.modSlice_cclk (s : State) (i : Nat) (f : Slice → Slice) : (s.modSlice i f).cclk = s.cclk := rfl
@[simp] theorem State.modSlice_hclk (s : State) (i : Nat) (f : Slice → Slice) : (s.modSlice i f).hclk = s.hclk := rfl
@[simp] theorem State.modSlice_uclk (s : State) (i : Nat) (f : Slice → Slice) : (s.modSlice i f).uclk = s.uclk := rfl
@[simp] theorem State.modSlice_bucketAt (s : State) (i : Nat) (f : Slice → Slice) : (s.modSlice i f).bucketAt = s.bucketAt := rfl
@[simp] theorem State.modSlice_ageingAt (s : State) (i : Nat) (f : Slice → Slice) : (s.modSlice i f).ageingAt = s.ageingAt := rfl
@[simp] theorem State.modSlice_leaseAt (s : State) (i : Nat) (f : Slice → Slice) : (s.modSlice i f).leaseAt = s.leaseAt := rfl
@[simp] theorem State.modSlice_thermalAt (s : State) (i : Nat) (f : Slice → Slice) : (s.modSlice i f).thermalAt = s.thermalAt := rfl
@[simp] theorem State.modSlice_free (s : State) (i : Nat) (f : Slice → Slice) : (s.modSlice i f).free = s.free := rfl
@[simp] theorem State.modSlice_nextId (s : State) (i : Nat) (f : Slice → Slice) : (s.modSlice i f).nextId = s.nextId := rfl
@[simp] theorem State.modSlice_csr (s : State) (i : Nat) (f : Slice → Slice) : (s.modSlice i f).csr = s.csr := rfl
@[simp] theorem State.modSlice_page (s : State) (i : Nat) (f : Slice → Slice) : (s.modSlice i f).page = s.page := rfl
@[simp] theorem State.modSlice_readData (s : State) (i : Nat) (f : Slice → Slice) : (s.modSlice i f).readData = s.readData := rfl
@[simp] theorem State.modSlice_epc (s : State) (i : Nat) (f : Slice → Slice) : (s.modSlice i f).epc = s.epc := rfl
@[simp] theorem State.modSlice_ports (s : State) (i : Nat) (f : Slice → Slice) : (s.modSlice i f).ports = s.ports := rfl
@[simp] theorem State.modSlice_pkts (s : State) (i : Nat) (f : Slice → Slice) : (s.modSlice i f).pkts = s.pkts := rfl
@[simp] theorem State.modSlice_eouts (s : State) (i : Nat) (f : Slice → Slice) : (s.modSlice i f).eouts = s.eouts := rfl
@[simp] theorem State.modSlice_prs (s : State) (i : Nat) (f : Slice → Slice) : (s.modSlice i f).prs = s.prs := rfl
@[simp] theorem State.modSlice_fwd (s : State) (i : Nat) (f : Slice → Slice) : (s.modSlice i f).fwd = s.fwd := rfl
@[simp] theorem State.modSlice_dsp (s : State) (i : Nat) (f : Slice → Slice) : (s.modSlice i f).dsp = s.dsp := rfl
@[simp] theorem State.modSlice_threads (s : State) (i : Nat) (f : Slice → Slice) : (s.modSlice i f).threads = s.threads := rfl
@[simp] theorem State.modSlice_cores (s : State) (i : Nat) (f : Slice → Slice) : (s.modSlice i f).cores = s.cores := rfl
@[simp] theorem State.modSlice_imem (s : State) (i : Nat) (f : Slice → Slice) : (s.modSlice i f).imem = s.imem := rfl
@[simp] theorem State.modSlice_mem (s : State) (i : Nat) (f : Slice → Slice) : (s.modSlice i f).mem = s.mem := rfl
@[simp] theorem State.modSlice_poison (s : State) (i : Nat) (f : Slice → Slice) : (s.modSlice i f).poison = s.poison := rfl
@[simp] theorem State.modSlice_chans (s : State) (i : Nat) (f : Slice → Slice) : (s.modSlice i f).chans = s.chans := rfl
@[simp] theorem State.modSlice_units (s : State) (i : Nat) (f : Slice → Slice) : (s.modSlice i f).units = s.units := rfl
@[simp] theorem State.modSlice_offers (s : State) (i : Nat) (f : Slice → Slice) : (s.modSlice i f).offers = s.offers := rfl
@[simp] theorem State.modSlice_rings (s : State) (i : Nat) (f : Slice → Slice) : (s.modSlice i f).rings = s.rings := rfl
@[simp] theorem State.modSlice_sems (s : State) (i : Nat) (f : Slice → Slice) : (s.modSlice i f).sems = s.sems := rfl
@[simp] theorem State.modSlice_umbraSem (s : State) (i : Nat) (f : Slice → Slice) : (s.modSlice i f).umbraSem = s.umbraSem := rfl
@[simp] theorem State.modSlice_lines (s : State) (i : Nat) (f : Slice → Slice) : (s.modSlice i f).lines = s.lines := rfl
@[simp] theorem State.modSlice_exts (s : State) (i : Nat) (f : Slice → Slice) : (s.modSlice i f).exts = s.exts := rfl
@[simp] theorem State.modSlice_dchans (s : State) (i : Nat) (f : Slice → Slice) : (s.modSlice i f).dchans = s.dchans := rfl
@[simp] theorem State.modSlice_wipe (s : State) (i : Nat) (f : Slice → Slice) : (s.modSlice i f).wipe = s.wipe := rfl
@[simp] theorem State.modSlice_slcCmd (s : State) (i : Nat) (f : Slice → Slice) : (s.modSlice i f).slcCmd = s.slcCmd := rfl
@[simp] theorem State.modSlice_qps (s : State) (i : Nat) (f : Slice → Slice) : (s.modSlice i f).qps = s.qps := rfl
@[simp] theorem State.modSlice_unmasked (s : State) (i : Nat) (f : Slice → Slice) : (s.modSlice i f).unmasked = s.unmasked := rfl
@[simp] theorem State.modSlice_vectors (s : State) (i : Nat) (f : Slice → Slice) : (s.modSlice i f).vectors = s.vectors := rfl
@[simp] theorem State.modSlice_pba (s : State) (i : Nat) (f : Slice → Slice) : (s.modSlice i f).pba = s.pba := rfl
@[simp] theorem State.modSlice_d3 (s : State) (i : Nat) (f : Slice → Slice) : (s.modSlice i f).d3 = s.d3 := rfl
@[simp] theorem State.modSlice_power (s : State) (i : Nat) (f : Slice → Slice) : (s.modSlice i f).power = s.power := rfl
@[simp] theorem State.modSlice_boot (s : State) (i : Nat) (f : Slice → Slice) : (s.modSlice i f).boot = s.boot := rfl
@[simp] theorem State.modSlice_pins (s : State) (i : Nat) (f : Slice → Slice) : (s.modSlice i f).pins = s.pins := rfl
@[simp] theorem State.modSlice_errSeq (s : State) (i : Nat) (f : Slice → Slice) : (s.modSlice i f).errSeq = s.errSeq := rfl
@[simp] theorem State.modSlice_fatal (s : State) (i : Nat) (f : Slice → Slice) : (s.modSlice i f).fatal = s.fatal := rfl
@[simp] theorem State.modSlice_savedExts (s : State) (i : Nat) (f : Slice → Slice) : (s.modSlice i f).savedExts = s.savedExts := rfl
@[simp] theorem State.modSlice_semDone (s : State) (i : Nat) (f : Slice → Slice) : (s.modSlice i f).semDone = s.semDone := rfl
@[simp] theorem State.modSlice_errAt (s : State) (i : Nat) (f : Slice → Slice) : (s.modSlice i f).errAt = s.errAt := rfl
@[simp] theorem State.modSlice_alertAt (s : State) (i : Nat) (f : Slice → Slice) : (s.modSlice i f).alertAt = s.alertAt := rfl
@[simp] theorem State.modSlice_halts (s : State) (i : Nat) (f : Slice → Slice) : (s.modSlice i f).halts = s.halts := rfl
@[simp] theorem State.modSlice_dcmds (s : State) (i : Nat) (f : Slice → Slice) : (s.modSlice i f).dcmds = s.dcmds := rfl
@[simp] theorem State.modSlice_out (s : State) (i : Nat) (f : Slice → Slice) : (s.modSlice i f).out = s.out := rfl

@[simp] theorem State.modCore_pending (s : State) (n : Nat) (f : Core → Core) : (s.modCore n f).pending = s.pending := rfl
@[simp] theorem State.modCore_tick (s : State) (n : Nat) (f : Core → Core) : (s.modCore n f).tick = s.tick := rfl
@[simp] theorem State.modCore_quarter (s : State) (n : Nat) (f : Core → Core) : (s.modCore n f).quarter = s.quarter := rfl
@[simp] theorem State.modCore_copy (s : State) (n : Nat) (f : Core → Core) : (s.modCore n f).copy = s.copy := rfl
@[simp] theorem State.modCore_cclk (s : State) (n : Nat) (f : Core → Core) : (s.modCore n f).cclk = s.cclk := rfl
@[simp] theorem State.modCore_hclk (s : State) (n : Nat) (f : Core → Core) : (s.modCore n f).hclk = s.hclk := rfl
@[simp] theorem State.modCore_uclk (s : State) (n : Nat) (f : Core → Core) : (s.modCore n f).uclk = s.uclk := rfl
@[simp] theorem State.modCore_bucketAt (s : State) (n : Nat) (f : Core → Core) : (s.modCore n f).bucketAt = s.bucketAt := rfl
@[simp] theorem State.modCore_ageingAt (s : State) (n : Nat) (f : Core → Core) : (s.modCore n f).ageingAt = s.ageingAt := rfl
@[simp] theorem State.modCore_leaseAt (s : State) (n : Nat) (f : Core → Core) : (s.modCore n f).leaseAt = s.leaseAt := rfl
@[simp] theorem State.modCore_thermalAt (s : State) (n : Nat) (f : Core → Core) : (s.modCore n f).thermalAt = s.thermalAt := rfl
@[simp] theorem State.modCore_free (s : State) (n : Nat) (f : Core → Core) : (s.modCore n f).free = s.free := rfl
@[simp] theorem State.modCore_nextId (s : State) (n : Nat) (f : Core → Core) : (s.modCore n f).nextId = s.nextId := rfl
@[simp] theorem State.modCore_csr (s : State) (n : Nat) (f : Core → Core) : (s.modCore n f).csr = s.csr := rfl
@[simp] theorem State.modCore_page (s : State) (n : Nat) (f : Core → Core) : (s.modCore n f).page = s.page := rfl
@[simp] theorem State.modCore_readData (s : State) (n : Nat) (f : Core → Core) : (s.modCore n f).readData = s.readData := rfl
@[simp] theorem State.modCore_epc (s : State) (n : Nat) (f : Core → Core) : (s.modCore n f).epc = s.epc := rfl
@[simp] theorem State.modCore_ports (s : State) (n : Nat) (f : Core → Core) : (s.modCore n f).ports = s.ports := rfl
@[simp] theorem State.modCore_pkts (s : State) (n : Nat) (f : Core → Core) : (s.modCore n f).pkts = s.pkts := rfl
@[simp] theorem State.modCore_eouts (s : State) (n : Nat) (f : Core → Core) : (s.modCore n f).eouts = s.eouts := rfl
@[simp] theorem State.modCore_prs (s : State) (n : Nat) (f : Core → Core) : (s.modCore n f).prs = s.prs := rfl
@[simp] theorem State.modCore_fwd (s : State) (n : Nat) (f : Core → Core) : (s.modCore n f).fwd = s.fwd := rfl
@[simp] theorem State.modCore_dsp (s : State) (n : Nat) (f : Core → Core) : (s.modCore n f).dsp = s.dsp := rfl
@[simp] theorem State.modCore_threads (s : State) (n : Nat) (f : Core → Core) : (s.modCore n f).threads = s.threads := rfl
@[simp] theorem State.modCore_imem (s : State) (n : Nat) (f : Core → Core) : (s.modCore n f).imem = s.imem := rfl
@[simp] theorem State.modCore_mem (s : State) (n : Nat) (f : Core → Core) : (s.modCore n f).mem = s.mem := rfl
@[simp] theorem State.modCore_poison (s : State) (n : Nat) (f : Core → Core) : (s.modCore n f).poison = s.poison := rfl
@[simp] theorem State.modCore_chans (s : State) (n : Nat) (f : Core → Core) : (s.modCore n f).chans = s.chans := rfl
@[simp] theorem State.modCore_units (s : State) (n : Nat) (f : Core → Core) : (s.modCore n f).units = s.units := rfl
@[simp] theorem State.modCore_offers (s : State) (n : Nat) (f : Core → Core) : (s.modCore n f).offers = s.offers := rfl
@[simp] theorem State.modCore_rings (s : State) (n : Nat) (f : Core → Core) : (s.modCore n f).rings = s.rings := rfl
@[simp] theorem State.modCore_sems (s : State) (n : Nat) (f : Core → Core) : (s.modCore n f).sems = s.sems := rfl
@[simp] theorem State.modCore_umbraSem (s : State) (n : Nat) (f : Core → Core) : (s.modCore n f).umbraSem = s.umbraSem := rfl
@[simp] theorem State.modCore_lines (s : State) (n : Nat) (f : Core → Core) : (s.modCore n f).lines = s.lines := rfl
@[simp] theorem State.modCore_exts (s : State) (n : Nat) (f : Core → Core) : (s.modCore n f).exts = s.exts := rfl
@[simp] theorem State.modCore_dchans (s : State) (n : Nat) (f : Core → Core) : (s.modCore n f).dchans = s.dchans := rfl
@[simp] theorem State.modCore_wipe (s : State) (n : Nat) (f : Core → Core) : (s.modCore n f).wipe = s.wipe := rfl
@[simp] theorem State.modCore_slices (s : State) (n : Nat) (f : Core → Core) : (s.modCore n f).slices = s.slices := rfl
@[simp] theorem State.modCore_slcCmd (s : State) (n : Nat) (f : Core → Core) : (s.modCore n f).slcCmd = s.slcCmd := rfl
@[simp] theorem State.modCore_qps (s : State) (n : Nat) (f : Core → Core) : (s.modCore n f).qps = s.qps := rfl
@[simp] theorem State.modCore_unmasked (s : State) (n : Nat) (f : Core → Core) : (s.modCore n f).unmasked = s.unmasked := rfl
@[simp] theorem State.modCore_vectors (s : State) (n : Nat) (f : Core → Core) : (s.modCore n f).vectors = s.vectors := rfl
@[simp] theorem State.modCore_pba (s : State) (n : Nat) (f : Core → Core) : (s.modCore n f).pba = s.pba := rfl
@[simp] theorem State.modCore_d3 (s : State) (n : Nat) (f : Core → Core) : (s.modCore n f).d3 = s.d3 := rfl
@[simp] theorem State.modCore_power (s : State) (n : Nat) (f : Core → Core) : (s.modCore n f).power = s.power := rfl
@[simp] theorem State.modCore_boot (s : State) (n : Nat) (f : Core → Core) : (s.modCore n f).boot = s.boot := rfl
@[simp] theorem State.modCore_pins (s : State) (n : Nat) (f : Core → Core) : (s.modCore n f).pins = s.pins := rfl
@[simp] theorem State.modCore_errSeq (s : State) (n : Nat) (f : Core → Core) : (s.modCore n f).errSeq = s.errSeq := rfl
@[simp] theorem State.modCore_fatal (s : State) (n : Nat) (f : Core → Core) : (s.modCore n f).fatal = s.fatal := rfl
@[simp] theorem State.modCore_savedExts (s : State) (n : Nat) (f : Core → Core) : (s.modCore n f).savedExts = s.savedExts := rfl
@[simp] theorem State.modCore_semDone (s : State) (n : Nat) (f : Core → Core) : (s.modCore n f).semDone = s.semDone := rfl
@[simp] theorem State.modCore_errAt (s : State) (n : Nat) (f : Core → Core) : (s.modCore n f).errAt = s.errAt := rfl
@[simp] theorem State.modCore_alertAt (s : State) (n : Nat) (f : Core → Core) : (s.modCore n f).alertAt = s.alertAt := rfl
@[simp] theorem State.modCore_halts (s : State) (n : Nat) (f : Core → Core) : (s.modCore n f).halts = s.halts := rfl
@[simp] theorem State.modCore_dcmds (s : State) (n : Nat) (f : Core → Core) : (s.modCore n f).dcmds = s.dcmds := rfl
@[simp] theorem State.modCore_out (s : State) (n : Nat) (f : Core → Core) : (s.modCore n f).out = s.out := rfl

@[simp] theorem State.setPkt_pending (s : State) (k : Nat) (p : Pkt) : (s.setPkt k p).pending = s.pending := rfl
@[simp] theorem State.setPkt_tick (s : State) (k : Nat) (p : Pkt) : (s.setPkt k p).tick = s.tick := rfl
@[simp] theorem State.setPkt_quarter (s : State) (k : Nat) (p : Pkt) : (s.setPkt k p).quarter = s.quarter := rfl
@[simp] theorem State.setPkt_copy (s : State) (k : Nat) (p : Pkt) : (s.setPkt k p).copy = s.copy := rfl
@[simp] theorem State.setPkt_cclk (s : State) (k : Nat) (p : Pkt) : (s.setPkt k p).cclk = s.cclk := rfl
@[simp] theorem State.setPkt_hclk (s : State) (k : Nat) (p : Pkt) : (s.setPkt k p).hclk = s.hclk := rfl
@[simp] theorem State.setPkt_uclk (s : State) (k : Nat) (p : Pkt) : (s.setPkt k p).uclk = s.uclk := rfl
@[simp] theorem State.setPkt_bucketAt (s : State) (k : Nat) (p : Pkt) : (s.setPkt k p).bucketAt = s.bucketAt := rfl
@[simp] theorem State.setPkt_ageingAt (s : State) (k : Nat) (p : Pkt) : (s.setPkt k p).ageingAt = s.ageingAt := rfl
@[simp] theorem State.setPkt_leaseAt (s : State) (k : Nat) (p : Pkt) : (s.setPkt k p).leaseAt = s.leaseAt := rfl
@[simp] theorem State.setPkt_thermalAt (s : State) (k : Nat) (p : Pkt) : (s.setPkt k p).thermalAt = s.thermalAt := rfl
@[simp] theorem State.setPkt_free (s : State) (k : Nat) (p : Pkt) : (s.setPkt k p).free = s.free := rfl
@[simp] theorem State.setPkt_nextId (s : State) (k : Nat) (p : Pkt) : (s.setPkt k p).nextId = s.nextId := rfl
@[simp] theorem State.setPkt_csr (s : State) (k : Nat) (p : Pkt) : (s.setPkt k p).csr = s.csr := rfl
@[simp] theorem State.setPkt_page (s : State) (k : Nat) (p : Pkt) : (s.setPkt k p).page = s.page := rfl
@[simp] theorem State.setPkt_readData (s : State) (k : Nat) (p : Pkt) : (s.setPkt k p).readData = s.readData := rfl
@[simp] theorem State.setPkt_epc (s : State) (k : Nat) (p : Pkt) : (s.setPkt k p).epc = s.epc := rfl
@[simp] theorem State.setPkt_ports (s : State) (k : Nat) (p : Pkt) : (s.setPkt k p).ports = s.ports := rfl
@[simp] theorem State.setPkt_eouts (s : State) (k : Nat) (p : Pkt) : (s.setPkt k p).eouts = s.eouts := rfl
@[simp] theorem State.setPkt_prs (s : State) (k : Nat) (p : Pkt) : (s.setPkt k p).prs = s.prs := rfl
@[simp] theorem State.setPkt_fwd (s : State) (k : Nat) (p : Pkt) : (s.setPkt k p).fwd = s.fwd := rfl
@[simp] theorem State.setPkt_dsp (s : State) (k : Nat) (p : Pkt) : (s.setPkt k p).dsp = s.dsp := rfl
@[simp] theorem State.setPkt_threads (s : State) (k : Nat) (p : Pkt) : (s.setPkt k p).threads = s.threads := rfl
@[simp] theorem State.setPkt_cores (s : State) (k : Nat) (p : Pkt) : (s.setPkt k p).cores = s.cores := rfl
@[simp] theorem State.setPkt_imem (s : State) (k : Nat) (p : Pkt) : (s.setPkt k p).imem = s.imem := rfl
@[simp] theorem State.setPkt_mem (s : State) (k : Nat) (p : Pkt) : (s.setPkt k p).mem = s.mem := rfl
@[simp] theorem State.setPkt_poison (s : State) (k : Nat) (p : Pkt) : (s.setPkt k p).poison = s.poison := rfl
@[simp] theorem State.setPkt_chans (s : State) (k : Nat) (p : Pkt) : (s.setPkt k p).chans = s.chans := rfl
@[simp] theorem State.setPkt_units (s : State) (k : Nat) (p : Pkt) : (s.setPkt k p).units = s.units := rfl
@[simp] theorem State.setPkt_offers (s : State) (k : Nat) (p : Pkt) : (s.setPkt k p).offers = s.offers := rfl
@[simp] theorem State.setPkt_rings (s : State) (k : Nat) (p : Pkt) : (s.setPkt k p).rings = s.rings := rfl
@[simp] theorem State.setPkt_sems (s : State) (k : Nat) (p : Pkt) : (s.setPkt k p).sems = s.sems := rfl
@[simp] theorem State.setPkt_umbraSem (s : State) (k : Nat) (p : Pkt) : (s.setPkt k p).umbraSem = s.umbraSem := rfl
@[simp] theorem State.setPkt_lines (s : State) (k : Nat) (p : Pkt) : (s.setPkt k p).lines = s.lines := rfl
@[simp] theorem State.setPkt_exts (s : State) (k : Nat) (p : Pkt) : (s.setPkt k p).exts = s.exts := rfl
@[simp] theorem State.setPkt_dchans (s : State) (k : Nat) (p : Pkt) : (s.setPkt k p).dchans = s.dchans := rfl
@[simp] theorem State.setPkt_wipe (s : State) (k : Nat) (p : Pkt) : (s.setPkt k p).wipe = s.wipe := rfl
@[simp] theorem State.setPkt_slices (s : State) (k : Nat) (p : Pkt) : (s.setPkt k p).slices = s.slices := rfl
@[simp] theorem State.setPkt_slcCmd (s : State) (k : Nat) (p : Pkt) : (s.setPkt k p).slcCmd = s.slcCmd := rfl
@[simp] theorem State.setPkt_qps (s : State) (k : Nat) (p : Pkt) : (s.setPkt k p).qps = s.qps := rfl
@[simp] theorem State.setPkt_unmasked (s : State) (k : Nat) (p : Pkt) : (s.setPkt k p).unmasked = s.unmasked := rfl
@[simp] theorem State.setPkt_vectors (s : State) (k : Nat) (p : Pkt) : (s.setPkt k p).vectors = s.vectors := rfl
@[simp] theorem State.setPkt_pba (s : State) (k : Nat) (p : Pkt) : (s.setPkt k p).pba = s.pba := rfl
@[simp] theorem State.setPkt_d3 (s : State) (k : Nat) (p : Pkt) : (s.setPkt k p).d3 = s.d3 := rfl
@[simp] theorem State.setPkt_power (s : State) (k : Nat) (p : Pkt) : (s.setPkt k p).power = s.power := rfl
@[simp] theorem State.setPkt_boot (s : State) (k : Nat) (p : Pkt) : (s.setPkt k p).boot = s.boot := rfl
@[simp] theorem State.setPkt_pins (s : State) (k : Nat) (p : Pkt) : (s.setPkt k p).pins = s.pins := rfl
@[simp] theorem State.setPkt_errSeq (s : State) (k : Nat) (p : Pkt) : (s.setPkt k p).errSeq = s.errSeq := rfl
@[simp] theorem State.setPkt_fatal (s : State) (k : Nat) (p : Pkt) : (s.setPkt k p).fatal = s.fatal := rfl
@[simp] theorem State.setPkt_savedExts (s : State) (k : Nat) (p : Pkt) : (s.setPkt k p).savedExts = s.savedExts := rfl
@[simp] theorem State.setPkt_semDone (s : State) (k : Nat) (p : Pkt) : (s.setPkt k p).semDone = s.semDone := rfl
@[simp] theorem State.setPkt_errAt (s : State) (k : Nat) (p : Pkt) : (s.setPkt k p).errAt = s.errAt := rfl
@[simp] theorem State.setPkt_alertAt (s : State) (k : Nat) (p : Pkt) : (s.setPkt k p).alertAt = s.alertAt := rfl
@[simp] theorem State.setPkt_halts (s : State) (k : Nat) (p : Pkt) : (s.setPkt k p).halts = s.halts := rfl
@[simp] theorem State.setPkt_dcmds (s : State) (k : Nat) (p : Pkt) : (s.setPkt k p).dcmds = s.dcmds := rfl
@[simp] theorem State.setPkt_out (s : State) (k : Nat) (p : Pkt) : (s.setPkt k p).out = s.out := rfl

@[simp] theorem State.delPkt_pending (s : State) (k : Nat) : (s.delPkt k).pending = s.pending := rfl
@[simp] theorem State.delPkt_tick (s : State) (k : Nat) : (s.delPkt k).tick = s.tick := rfl
@[simp] theorem State.delPkt_quarter (s : State) (k : Nat) : (s.delPkt k).quarter = s.quarter := rfl
@[simp] theorem State.delPkt_copy (s : State) (k : Nat) : (s.delPkt k).copy = s.copy := rfl
@[simp] theorem State.delPkt_cclk (s : State) (k : Nat) : (s.delPkt k).cclk = s.cclk := rfl
@[simp] theorem State.delPkt_hclk (s : State) (k : Nat) : (s.delPkt k).hclk = s.hclk := rfl
@[simp] theorem State.delPkt_uclk (s : State) (k : Nat) : (s.delPkt k).uclk = s.uclk := rfl
@[simp] theorem State.delPkt_bucketAt (s : State) (k : Nat) : (s.delPkt k).bucketAt = s.bucketAt := rfl
@[simp] theorem State.delPkt_ageingAt (s : State) (k : Nat) : (s.delPkt k).ageingAt = s.ageingAt := rfl
@[simp] theorem State.delPkt_leaseAt (s : State) (k : Nat) : (s.delPkt k).leaseAt = s.leaseAt := rfl
@[simp] theorem State.delPkt_thermalAt (s : State) (k : Nat) : (s.delPkt k).thermalAt = s.thermalAt := rfl
@[simp] theorem State.delPkt_free (s : State) (k : Nat) : (s.delPkt k).free = s.free := rfl
@[simp] theorem State.delPkt_nextId (s : State) (k : Nat) : (s.delPkt k).nextId = s.nextId := rfl
@[simp] theorem State.delPkt_csr (s : State) (k : Nat) : (s.delPkt k).csr = s.csr := rfl
@[simp] theorem State.delPkt_page (s : State) (k : Nat) : (s.delPkt k).page = s.page := rfl
@[simp] theorem State.delPkt_readData (s : State) (k : Nat) : (s.delPkt k).readData = s.readData := rfl
@[simp] theorem State.delPkt_epc (s : State) (k : Nat) : (s.delPkt k).epc = s.epc := rfl
@[simp] theorem State.delPkt_ports (s : State) (k : Nat) : (s.delPkt k).ports = s.ports := rfl
@[simp] theorem State.delPkt_eouts (s : State) (k : Nat) : (s.delPkt k).eouts = s.eouts := rfl
@[simp] theorem State.delPkt_prs (s : State) (k : Nat) : (s.delPkt k).prs = s.prs := rfl
@[simp] theorem State.delPkt_fwd (s : State) (k : Nat) : (s.delPkt k).fwd = s.fwd := rfl
@[simp] theorem State.delPkt_dsp (s : State) (k : Nat) : (s.delPkt k).dsp = s.dsp := rfl
@[simp] theorem State.delPkt_threads (s : State) (k : Nat) : (s.delPkt k).threads = s.threads := rfl
@[simp] theorem State.delPkt_cores (s : State) (k : Nat) : (s.delPkt k).cores = s.cores := rfl
@[simp] theorem State.delPkt_imem (s : State) (k : Nat) : (s.delPkt k).imem = s.imem := rfl
@[simp] theorem State.delPkt_mem (s : State) (k : Nat) : (s.delPkt k).mem = s.mem := rfl
@[simp] theorem State.delPkt_poison (s : State) (k : Nat) : (s.delPkt k).poison = s.poison := rfl
@[simp] theorem State.delPkt_chans (s : State) (k : Nat) : (s.delPkt k).chans = s.chans := rfl
@[simp] theorem State.delPkt_units (s : State) (k : Nat) : (s.delPkt k).units = s.units := rfl
@[simp] theorem State.delPkt_offers (s : State) (k : Nat) : (s.delPkt k).offers = s.offers := rfl
@[simp] theorem State.delPkt_rings (s : State) (k : Nat) : (s.delPkt k).rings = s.rings := rfl
@[simp] theorem State.delPkt_sems (s : State) (k : Nat) : (s.delPkt k).sems = s.sems := rfl
@[simp] theorem State.delPkt_umbraSem (s : State) (k : Nat) : (s.delPkt k).umbraSem = s.umbraSem := rfl
@[simp] theorem State.delPkt_lines (s : State) (k : Nat) : (s.delPkt k).lines = s.lines := rfl
@[simp] theorem State.delPkt_exts (s : State) (k : Nat) : (s.delPkt k).exts = s.exts := rfl
@[simp] theorem State.delPkt_dchans (s : State) (k : Nat) : (s.delPkt k).dchans = s.dchans := rfl
@[simp] theorem State.delPkt_wipe (s : State) (k : Nat) : (s.delPkt k).wipe = s.wipe := rfl
@[simp] theorem State.delPkt_slices (s : State) (k : Nat) : (s.delPkt k).slices = s.slices := rfl
@[simp] theorem State.delPkt_slcCmd (s : State) (k : Nat) : (s.delPkt k).slcCmd = s.slcCmd := rfl
@[simp] theorem State.delPkt_qps (s : State) (k : Nat) : (s.delPkt k).qps = s.qps := rfl
@[simp] theorem State.delPkt_unmasked (s : State) (k : Nat) : (s.delPkt k).unmasked = s.unmasked := rfl
@[simp] theorem State.delPkt_vectors (s : State) (k : Nat) : (s.delPkt k).vectors = s.vectors := rfl
@[simp] theorem State.delPkt_pba (s : State) (k : Nat) : (s.delPkt k).pba = s.pba := rfl
@[simp] theorem State.delPkt_d3 (s : State) (k : Nat) : (s.delPkt k).d3 = s.d3 := rfl
@[simp] theorem State.delPkt_power (s : State) (k : Nat) : (s.delPkt k).power = s.power := rfl
@[simp] theorem State.delPkt_boot (s : State) (k : Nat) : (s.delPkt k).boot = s.boot := rfl
@[simp] theorem State.delPkt_pins (s : State) (k : Nat) : (s.delPkt k).pins = s.pins := rfl
@[simp] theorem State.delPkt_errSeq (s : State) (k : Nat) : (s.delPkt k).errSeq = s.errSeq := rfl
@[simp] theorem State.delPkt_fatal (s : State) (k : Nat) : (s.delPkt k).fatal = s.fatal := rfl
@[simp] theorem State.delPkt_savedExts (s : State) (k : Nat) : (s.delPkt k).savedExts = s.savedExts := rfl
@[simp] theorem State.delPkt_semDone (s : State) (k : Nat) : (s.delPkt k).semDone = s.semDone := rfl
@[simp] theorem State.delPkt_errAt (s : State) (k : Nat) : (s.delPkt k).errAt = s.errAt := rfl
@[simp] theorem State.delPkt_alertAt (s : State) (k : Nat) : (s.delPkt k).alertAt = s.alertAt := rfl
@[simp] theorem State.delPkt_halts (s : State) (k : Nat) : (s.delPkt k).halts = s.halts := rfl
@[simp] theorem State.delPkt_dcmds (s : State) (k : Nat) : (s.delPkt k).dcmds = s.dcmds := rfl
@[simp] theorem State.delPkt_out (s : State) (k : Nat) : (s.delPkt k).out = s.out := rfl

@[simp] theorem State.setEOut_pending (s : State) (k : Nat) (o : EOut) : (s.setEOut k o).pending = s.pending := rfl
@[simp] theorem State.setEOut_tick (s : State) (k : Nat) (o : EOut) : (s.setEOut k o).tick = s.tick := rfl
@[simp] theorem State.setEOut_quarter (s : State) (k : Nat) (o : EOut) : (s.setEOut k o).quarter = s.quarter := rfl
@[simp] theorem State.setEOut_copy (s : State) (k : Nat) (o : EOut) : (s.setEOut k o).copy = s.copy := rfl
@[simp] theorem State.setEOut_cclk (s : State) (k : Nat) (o : EOut) : (s.setEOut k o).cclk = s.cclk := rfl
@[simp] theorem State.setEOut_hclk (s : State) (k : Nat) (o : EOut) : (s.setEOut k o).hclk = s.hclk := rfl
@[simp] theorem State.setEOut_uclk (s : State) (k : Nat) (o : EOut) : (s.setEOut k o).uclk = s.uclk := rfl
@[simp] theorem State.setEOut_bucketAt (s : State) (k : Nat) (o : EOut) : (s.setEOut k o).bucketAt = s.bucketAt := rfl
@[simp] theorem State.setEOut_ageingAt (s : State) (k : Nat) (o : EOut) : (s.setEOut k o).ageingAt = s.ageingAt := rfl
@[simp] theorem State.setEOut_leaseAt (s : State) (k : Nat) (o : EOut) : (s.setEOut k o).leaseAt = s.leaseAt := rfl
@[simp] theorem State.setEOut_thermalAt (s : State) (k : Nat) (o : EOut) : (s.setEOut k o).thermalAt = s.thermalAt := rfl
@[simp] theorem State.setEOut_free (s : State) (k : Nat) (o : EOut) : (s.setEOut k o).free = s.free := rfl
@[simp] theorem State.setEOut_nextId (s : State) (k : Nat) (o : EOut) : (s.setEOut k o).nextId = s.nextId := rfl
@[simp] theorem State.setEOut_csr (s : State) (k : Nat) (o : EOut) : (s.setEOut k o).csr = s.csr := rfl
@[simp] theorem State.setEOut_page (s : State) (k : Nat) (o : EOut) : (s.setEOut k o).page = s.page := rfl
@[simp] theorem State.setEOut_readData (s : State) (k : Nat) (o : EOut) : (s.setEOut k o).readData = s.readData := rfl
@[simp] theorem State.setEOut_epc (s : State) (k : Nat) (o : EOut) : (s.setEOut k o).epc = s.epc := rfl
@[simp] theorem State.setEOut_ports (s : State) (k : Nat) (o : EOut) : (s.setEOut k o).ports = s.ports := rfl
@[simp] theorem State.setEOut_pkts (s : State) (k : Nat) (o : EOut) : (s.setEOut k o).pkts = s.pkts := rfl
@[simp] theorem State.setEOut_prs (s : State) (k : Nat) (o : EOut) : (s.setEOut k o).prs = s.prs := rfl
@[simp] theorem State.setEOut_fwd (s : State) (k : Nat) (o : EOut) : (s.setEOut k o).fwd = s.fwd := rfl
@[simp] theorem State.setEOut_dsp (s : State) (k : Nat) (o : EOut) : (s.setEOut k o).dsp = s.dsp := rfl
@[simp] theorem State.setEOut_threads (s : State) (k : Nat) (o : EOut) : (s.setEOut k o).threads = s.threads := rfl
@[simp] theorem State.setEOut_cores (s : State) (k : Nat) (o : EOut) : (s.setEOut k o).cores = s.cores := rfl
@[simp] theorem State.setEOut_imem (s : State) (k : Nat) (o : EOut) : (s.setEOut k o).imem = s.imem := rfl
@[simp] theorem State.setEOut_mem (s : State) (k : Nat) (o : EOut) : (s.setEOut k o).mem = s.mem := rfl
@[simp] theorem State.setEOut_poison (s : State) (k : Nat) (o : EOut) : (s.setEOut k o).poison = s.poison := rfl
@[simp] theorem State.setEOut_chans (s : State) (k : Nat) (o : EOut) : (s.setEOut k o).chans = s.chans := rfl
@[simp] theorem State.setEOut_units (s : State) (k : Nat) (o : EOut) : (s.setEOut k o).units = s.units := rfl
@[simp] theorem State.setEOut_offers (s : State) (k : Nat) (o : EOut) : (s.setEOut k o).offers = s.offers := rfl
@[simp] theorem State.setEOut_rings (s : State) (k : Nat) (o : EOut) : (s.setEOut k o).rings = s.rings := rfl
@[simp] theorem State.setEOut_sems (s : State) (k : Nat) (o : EOut) : (s.setEOut k o).sems = s.sems := rfl
@[simp] theorem State.setEOut_umbraSem (s : State) (k : Nat) (o : EOut) : (s.setEOut k o).umbraSem = s.umbraSem := rfl
@[simp] theorem State.setEOut_lines (s : State) (k : Nat) (o : EOut) : (s.setEOut k o).lines = s.lines := rfl
@[simp] theorem State.setEOut_exts (s : State) (k : Nat) (o : EOut) : (s.setEOut k o).exts = s.exts := rfl
@[simp] theorem State.setEOut_dchans (s : State) (k : Nat) (o : EOut) : (s.setEOut k o).dchans = s.dchans := rfl
@[simp] theorem State.setEOut_wipe (s : State) (k : Nat) (o : EOut) : (s.setEOut k o).wipe = s.wipe := rfl
@[simp] theorem State.setEOut_slices (s : State) (k : Nat) (o : EOut) : (s.setEOut k o).slices = s.slices := rfl
@[simp] theorem State.setEOut_slcCmd (s : State) (k : Nat) (o : EOut) : (s.setEOut k o).slcCmd = s.slcCmd := rfl
@[simp] theorem State.setEOut_qps (s : State) (k : Nat) (o : EOut) : (s.setEOut k o).qps = s.qps := rfl
@[simp] theorem State.setEOut_unmasked (s : State) (k : Nat) (o : EOut) : (s.setEOut k o).unmasked = s.unmasked := rfl
@[simp] theorem State.setEOut_vectors (s : State) (k : Nat) (o : EOut) : (s.setEOut k o).vectors = s.vectors := rfl
@[simp] theorem State.setEOut_pba (s : State) (k : Nat) (o : EOut) : (s.setEOut k o).pba = s.pba := rfl
@[simp] theorem State.setEOut_d3 (s : State) (k : Nat) (o : EOut) : (s.setEOut k o).d3 = s.d3 := rfl
@[simp] theorem State.setEOut_power (s : State) (k : Nat) (o : EOut) : (s.setEOut k o).power = s.power := rfl
@[simp] theorem State.setEOut_boot (s : State) (k : Nat) (o : EOut) : (s.setEOut k o).boot = s.boot := rfl
@[simp] theorem State.setEOut_pins (s : State) (k : Nat) (o : EOut) : (s.setEOut k o).pins = s.pins := rfl
@[simp] theorem State.setEOut_errSeq (s : State) (k : Nat) (o : EOut) : (s.setEOut k o).errSeq = s.errSeq := rfl
@[simp] theorem State.setEOut_fatal (s : State) (k : Nat) (o : EOut) : (s.setEOut k o).fatal = s.fatal := rfl
@[simp] theorem State.setEOut_savedExts (s : State) (k : Nat) (o : EOut) : (s.setEOut k o).savedExts = s.savedExts := rfl
@[simp] theorem State.setEOut_semDone (s : State) (k : Nat) (o : EOut) : (s.setEOut k o).semDone = s.semDone := rfl
@[simp] theorem State.setEOut_errAt (s : State) (k : Nat) (o : EOut) : (s.setEOut k o).errAt = s.errAt := rfl
@[simp] theorem State.setEOut_alertAt (s : State) (k : Nat) (o : EOut) : (s.setEOut k o).alertAt = s.alertAt := rfl
@[simp] theorem State.setEOut_halts (s : State) (k : Nat) (o : EOut) : (s.setEOut k o).halts = s.halts := rfl
@[simp] theorem State.setEOut_dcmds (s : State) (k : Nat) (o : EOut) : (s.setEOut k o).dcmds = s.dcmds := rfl
@[simp] theorem State.setEOut_out (s : State) (k : Nat) (o : EOut) : (s.setEOut k o).out = s.out := rfl

@[simp] theorem State.delEOut_pending (s : State) (k : Nat) : (s.delEOut k).pending = s.pending := rfl
@[simp] theorem State.delEOut_tick (s : State) (k : Nat) : (s.delEOut k).tick = s.tick := rfl
@[simp] theorem State.delEOut_quarter (s : State) (k : Nat) : (s.delEOut k).quarter = s.quarter := rfl
@[simp] theorem State.delEOut_copy (s : State) (k : Nat) : (s.delEOut k).copy = s.copy := rfl
@[simp] theorem State.delEOut_cclk (s : State) (k : Nat) : (s.delEOut k).cclk = s.cclk := rfl
@[simp] theorem State.delEOut_hclk (s : State) (k : Nat) : (s.delEOut k).hclk = s.hclk := rfl
@[simp] theorem State.delEOut_uclk (s : State) (k : Nat) : (s.delEOut k).uclk = s.uclk := rfl
@[simp] theorem State.delEOut_bucketAt (s : State) (k : Nat) : (s.delEOut k).bucketAt = s.bucketAt := rfl
@[simp] theorem State.delEOut_ageingAt (s : State) (k : Nat) : (s.delEOut k).ageingAt = s.ageingAt := rfl
@[simp] theorem State.delEOut_leaseAt (s : State) (k : Nat) : (s.delEOut k).leaseAt = s.leaseAt := rfl
@[simp] theorem State.delEOut_thermalAt (s : State) (k : Nat) : (s.delEOut k).thermalAt = s.thermalAt := rfl
@[simp] theorem State.delEOut_free (s : State) (k : Nat) : (s.delEOut k).free = s.free := rfl
@[simp] theorem State.delEOut_nextId (s : State) (k : Nat) : (s.delEOut k).nextId = s.nextId := rfl
@[simp] theorem State.delEOut_csr (s : State) (k : Nat) : (s.delEOut k).csr = s.csr := rfl
@[simp] theorem State.delEOut_page (s : State) (k : Nat) : (s.delEOut k).page = s.page := rfl
@[simp] theorem State.delEOut_readData (s : State) (k : Nat) : (s.delEOut k).readData = s.readData := rfl
@[simp] theorem State.delEOut_epc (s : State) (k : Nat) : (s.delEOut k).epc = s.epc := rfl
@[simp] theorem State.delEOut_ports (s : State) (k : Nat) : (s.delEOut k).ports = s.ports := rfl
@[simp] theorem State.delEOut_pkts (s : State) (k : Nat) : (s.delEOut k).pkts = s.pkts := rfl
@[simp] theorem State.delEOut_prs (s : State) (k : Nat) : (s.delEOut k).prs = s.prs := rfl
@[simp] theorem State.delEOut_fwd (s : State) (k : Nat) : (s.delEOut k).fwd = s.fwd := rfl
@[simp] theorem State.delEOut_dsp (s : State) (k : Nat) : (s.delEOut k).dsp = s.dsp := rfl
@[simp] theorem State.delEOut_threads (s : State) (k : Nat) : (s.delEOut k).threads = s.threads := rfl
@[simp] theorem State.delEOut_cores (s : State) (k : Nat) : (s.delEOut k).cores = s.cores := rfl
@[simp] theorem State.delEOut_imem (s : State) (k : Nat) : (s.delEOut k).imem = s.imem := rfl
@[simp] theorem State.delEOut_mem (s : State) (k : Nat) : (s.delEOut k).mem = s.mem := rfl
@[simp] theorem State.delEOut_poison (s : State) (k : Nat) : (s.delEOut k).poison = s.poison := rfl
@[simp] theorem State.delEOut_chans (s : State) (k : Nat) : (s.delEOut k).chans = s.chans := rfl
@[simp] theorem State.delEOut_units (s : State) (k : Nat) : (s.delEOut k).units = s.units := rfl
@[simp] theorem State.delEOut_offers (s : State) (k : Nat) : (s.delEOut k).offers = s.offers := rfl
@[simp] theorem State.delEOut_rings (s : State) (k : Nat) : (s.delEOut k).rings = s.rings := rfl
@[simp] theorem State.delEOut_sems (s : State) (k : Nat) : (s.delEOut k).sems = s.sems := rfl
@[simp] theorem State.delEOut_umbraSem (s : State) (k : Nat) : (s.delEOut k).umbraSem = s.umbraSem := rfl
@[simp] theorem State.delEOut_lines (s : State) (k : Nat) : (s.delEOut k).lines = s.lines := rfl
@[simp] theorem State.delEOut_exts (s : State) (k : Nat) : (s.delEOut k).exts = s.exts := rfl
@[simp] theorem State.delEOut_dchans (s : State) (k : Nat) : (s.delEOut k).dchans = s.dchans := rfl
@[simp] theorem State.delEOut_wipe (s : State) (k : Nat) : (s.delEOut k).wipe = s.wipe := rfl
@[simp] theorem State.delEOut_slices (s : State) (k : Nat) : (s.delEOut k).slices = s.slices := rfl
@[simp] theorem State.delEOut_slcCmd (s : State) (k : Nat) : (s.delEOut k).slcCmd = s.slcCmd := rfl
@[simp] theorem State.delEOut_qps (s : State) (k : Nat) : (s.delEOut k).qps = s.qps := rfl
@[simp] theorem State.delEOut_unmasked (s : State) (k : Nat) : (s.delEOut k).unmasked = s.unmasked := rfl
@[simp] theorem State.delEOut_vectors (s : State) (k : Nat) : (s.delEOut k).vectors = s.vectors := rfl
@[simp] theorem State.delEOut_pba (s : State) (k : Nat) : (s.delEOut k).pba = s.pba := rfl
@[simp] theorem State.delEOut_d3 (s : State) (k : Nat) : (s.delEOut k).d3 = s.d3 := rfl
@[simp] theorem State.delEOut_power (s : State) (k : Nat) : (s.delEOut k).power = s.power := rfl
@[simp] theorem State.delEOut_boot (s : State) (k : Nat) : (s.delEOut k).boot = s.boot := rfl
@[simp] theorem State.delEOut_pins (s : State) (k : Nat) : (s.delEOut k).pins = s.pins := rfl
@[simp] theorem State.delEOut_errSeq (s : State) (k : Nat) : (s.delEOut k).errSeq = s.errSeq := rfl
@[simp] theorem State.delEOut_fatal (s : State) (k : Nat) : (s.delEOut k).fatal = s.fatal := rfl
@[simp] theorem State.delEOut_savedExts (s : State) (k : Nat) : (s.delEOut k).savedExts = s.savedExts := rfl
@[simp] theorem State.delEOut_semDone (s : State) (k : Nat) : (s.delEOut k).semDone = s.semDone := rfl
@[simp] theorem State.delEOut_errAt (s : State) (k : Nat) : (s.delEOut k).errAt = s.errAt := rfl
@[simp] theorem State.delEOut_alertAt (s : State) (k : Nat) : (s.delEOut k).alertAt = s.alertAt := rfl
@[simp] theorem State.delEOut_halts (s : State) (k : Nat) : (s.delEOut k).halts = s.halts := rfl
@[simp] theorem State.delEOut_dcmds (s : State) (k : Nat) : (s.delEOut k).dcmds = s.dcmds := rfl
@[simp] theorem State.delEOut_out (s : State) (k : Nat) : (s.delEOut k).out = s.out := rfl

@[simp] theorem State.emit_pending (s : State) (o : Output) : (s.emit o).pending = s.pending := rfl
@[simp] theorem State.emit_tick (s : State) (o : Output) : (s.emit o).tick = s.tick := rfl
@[simp] theorem State.emit_quarter (s : State) (o : Output) : (s.emit o).quarter = s.quarter := rfl
@[simp] theorem State.emit_copy (s : State) (o : Output) : (s.emit o).copy = s.copy := rfl
@[simp] theorem State.emit_cclk (s : State) (o : Output) : (s.emit o).cclk = s.cclk := rfl
@[simp] theorem State.emit_hclk (s : State) (o : Output) : (s.emit o).hclk = s.hclk := rfl
@[simp] theorem State.emit_uclk (s : State) (o : Output) : (s.emit o).uclk = s.uclk := rfl
@[simp] theorem State.emit_bucketAt (s : State) (o : Output) : (s.emit o).bucketAt = s.bucketAt := rfl
@[simp] theorem State.emit_ageingAt (s : State) (o : Output) : (s.emit o).ageingAt = s.ageingAt := rfl
@[simp] theorem State.emit_leaseAt (s : State) (o : Output) : (s.emit o).leaseAt = s.leaseAt := rfl
@[simp] theorem State.emit_thermalAt (s : State) (o : Output) : (s.emit o).thermalAt = s.thermalAt := rfl
@[simp] theorem State.emit_free (s : State) (o : Output) : (s.emit o).free = s.free := rfl
@[simp] theorem State.emit_nextId (s : State) (o : Output) : (s.emit o).nextId = s.nextId := rfl
@[simp] theorem State.emit_csr (s : State) (o : Output) : (s.emit o).csr = s.csr := rfl
@[simp] theorem State.emit_page (s : State) (o : Output) : (s.emit o).page = s.page := rfl
@[simp] theorem State.emit_readData (s : State) (o : Output) : (s.emit o).readData = s.readData := rfl
@[simp] theorem State.emit_epc (s : State) (o : Output) : (s.emit o).epc = s.epc := rfl
@[simp] theorem State.emit_ports (s : State) (o : Output) : (s.emit o).ports = s.ports := rfl
@[simp] theorem State.emit_pkts (s : State) (o : Output) : (s.emit o).pkts = s.pkts := rfl
@[simp] theorem State.emit_eouts (s : State) (o : Output) : (s.emit o).eouts = s.eouts := rfl
@[simp] theorem State.emit_prs (s : State) (o : Output) : (s.emit o).prs = s.prs := rfl
@[simp] theorem State.emit_fwd (s : State) (o : Output) : (s.emit o).fwd = s.fwd := rfl
@[simp] theorem State.emit_dsp (s : State) (o : Output) : (s.emit o).dsp = s.dsp := rfl
@[simp] theorem State.emit_threads (s : State) (o : Output) : (s.emit o).threads = s.threads := rfl
@[simp] theorem State.emit_cores (s : State) (o : Output) : (s.emit o).cores = s.cores := rfl
@[simp] theorem State.emit_imem (s : State) (o : Output) : (s.emit o).imem = s.imem := rfl
@[simp] theorem State.emit_mem (s : State) (o : Output) : (s.emit o).mem = s.mem := rfl
@[simp] theorem State.emit_poison (s : State) (o : Output) : (s.emit o).poison = s.poison := rfl
@[simp] theorem State.emit_chans (s : State) (o : Output) : (s.emit o).chans = s.chans := rfl
@[simp] theorem State.emit_units (s : State) (o : Output) : (s.emit o).units = s.units := rfl
@[simp] theorem State.emit_offers (s : State) (o : Output) : (s.emit o).offers = s.offers := rfl
@[simp] theorem State.emit_rings (s : State) (o : Output) : (s.emit o).rings = s.rings := rfl
@[simp] theorem State.emit_sems (s : State) (o : Output) : (s.emit o).sems = s.sems := rfl
@[simp] theorem State.emit_umbraSem (s : State) (o : Output) : (s.emit o).umbraSem = s.umbraSem := rfl
@[simp] theorem State.emit_lines (s : State) (o : Output) : (s.emit o).lines = s.lines := rfl
@[simp] theorem State.emit_exts (s : State) (o : Output) : (s.emit o).exts = s.exts := rfl
@[simp] theorem State.emit_dchans (s : State) (o : Output) : (s.emit o).dchans = s.dchans := rfl
@[simp] theorem State.emit_wipe (s : State) (o : Output) : (s.emit o).wipe = s.wipe := rfl
@[simp] theorem State.emit_slices (s : State) (o : Output) : (s.emit o).slices = s.slices := rfl
@[simp] theorem State.emit_slcCmd (s : State) (o : Output) : (s.emit o).slcCmd = s.slcCmd := rfl
@[simp] theorem State.emit_qps (s : State) (o : Output) : (s.emit o).qps = s.qps := rfl
@[simp] theorem State.emit_unmasked (s : State) (o : Output) : (s.emit o).unmasked = s.unmasked := rfl
@[simp] theorem State.emit_vectors (s : State) (o : Output) : (s.emit o).vectors = s.vectors := rfl
@[simp] theorem State.emit_pba (s : State) (o : Output) : (s.emit o).pba = s.pba := rfl
@[simp] theorem State.emit_d3 (s : State) (o : Output) : (s.emit o).d3 = s.d3 := rfl
@[simp] theorem State.emit_power (s : State) (o : Output) : (s.emit o).power = s.power := rfl
@[simp] theorem State.emit_boot (s : State) (o : Output) : (s.emit o).boot = s.boot := rfl
@[simp] theorem State.emit_pins (s : State) (o : Output) : (s.emit o).pins = s.pins := rfl
@[simp] theorem State.emit_errSeq (s : State) (o : Output) : (s.emit o).errSeq = s.errSeq := rfl
@[simp] theorem State.emit_fatal (s : State) (o : Output) : (s.emit o).fatal = s.fatal := rfl
@[simp] theorem State.emit_savedExts (s : State) (o : Output) : (s.emit o).savedExts = s.savedExts := rfl
@[simp] theorem State.emit_semDone (s : State) (o : Output) : (s.emit o).semDone = s.semDone := rfl
@[simp] theorem State.emit_errAt (s : State) (o : Output) : (s.emit o).errAt = s.errAt := rfl
@[simp] theorem State.emit_alertAt (s : State) (o : Output) : (s.emit o).alertAt = s.alertAt := rfl
@[simp] theorem State.emit_halts (s : State) (o : Output) : (s.emit o).halts = s.halts := rfl
@[simp] theorem State.emit_dcmds (s : State) (o : Output) : (s.emit o).dcmds = s.dcmds := rfl

@[simp] theorem State.putWord_pending (s : State) (a : Nat) (w : Word) : (s.putWord a w).pending = s.pending := rfl
@[simp] theorem State.putWord_tick (s : State) (a : Nat) (w : Word) : (s.putWord a w).tick = s.tick := rfl
@[simp] theorem State.putWord_quarter (s : State) (a : Nat) (w : Word) : (s.putWord a w).quarter = s.quarter := rfl
@[simp] theorem State.putWord_copy (s : State) (a : Nat) (w : Word) : (s.putWord a w).copy = s.copy := rfl
@[simp] theorem State.putWord_cclk (s : State) (a : Nat) (w : Word) : (s.putWord a w).cclk = s.cclk := rfl
@[simp] theorem State.putWord_hclk (s : State) (a : Nat) (w : Word) : (s.putWord a w).hclk = s.hclk := rfl
@[simp] theorem State.putWord_uclk (s : State) (a : Nat) (w : Word) : (s.putWord a w).uclk = s.uclk := rfl
@[simp] theorem State.putWord_bucketAt (s : State) (a : Nat) (w : Word) : (s.putWord a w).bucketAt = s.bucketAt := rfl
@[simp] theorem State.putWord_ageingAt (s : State) (a : Nat) (w : Word) : (s.putWord a w).ageingAt = s.ageingAt := rfl
@[simp] theorem State.putWord_leaseAt (s : State) (a : Nat) (w : Word) : (s.putWord a w).leaseAt = s.leaseAt := rfl
@[simp] theorem State.putWord_thermalAt (s : State) (a : Nat) (w : Word) : (s.putWord a w).thermalAt = s.thermalAt := rfl
@[simp] theorem State.putWord_free (s : State) (a : Nat) (w : Word) : (s.putWord a w).free = s.free := rfl
@[simp] theorem State.putWord_nextId (s : State) (a : Nat) (w : Word) : (s.putWord a w).nextId = s.nextId := rfl
@[simp] theorem State.putWord_csr (s : State) (a : Nat) (w : Word) : (s.putWord a w).csr = s.csr := rfl
@[simp] theorem State.putWord_page (s : State) (a : Nat) (w : Word) : (s.putWord a w).page = s.page := rfl
@[simp] theorem State.putWord_readData (s : State) (a : Nat) (w : Word) : (s.putWord a w).readData = s.readData := rfl
@[simp] theorem State.putWord_epc (s : State) (a : Nat) (w : Word) : (s.putWord a w).epc = s.epc := rfl
@[simp] theorem State.putWord_ports (s : State) (a : Nat) (w : Word) : (s.putWord a w).ports = s.ports := rfl
@[simp] theorem State.putWord_pkts (s : State) (a : Nat) (w : Word) : (s.putWord a w).pkts = s.pkts := rfl
@[simp] theorem State.putWord_eouts (s : State) (a : Nat) (w : Word) : (s.putWord a w).eouts = s.eouts := rfl
@[simp] theorem State.putWord_prs (s : State) (a : Nat) (w : Word) : (s.putWord a w).prs = s.prs := rfl
@[simp] theorem State.putWord_fwd (s : State) (a : Nat) (w : Word) : (s.putWord a w).fwd = s.fwd := rfl
@[simp] theorem State.putWord_dsp (s : State) (a : Nat) (w : Word) : (s.putWord a w).dsp = s.dsp := rfl
@[simp] theorem State.putWord_threads (s : State) (a : Nat) (w : Word) : (s.putWord a w).threads = s.threads := rfl
@[simp] theorem State.putWord_cores (s : State) (a : Nat) (w : Word) : (s.putWord a w).cores = s.cores := rfl
@[simp] theorem State.putWord_imem (s : State) (a : Nat) (w : Word) : (s.putWord a w).imem = s.imem := rfl
@[simp] theorem State.putWord_chans (s : State) (a : Nat) (w : Word) : (s.putWord a w).chans = s.chans := rfl
@[simp] theorem State.putWord_units (s : State) (a : Nat) (w : Word) : (s.putWord a w).units = s.units := rfl
@[simp] theorem State.putWord_offers (s : State) (a : Nat) (w : Word) : (s.putWord a w).offers = s.offers := rfl
@[simp] theorem State.putWord_rings (s : State) (a : Nat) (w : Word) : (s.putWord a w).rings = s.rings := rfl
@[simp] theorem State.putWord_sems (s : State) (a : Nat) (w : Word) : (s.putWord a w).sems = s.sems := rfl
@[simp] theorem State.putWord_umbraSem (s : State) (a : Nat) (w : Word) : (s.putWord a w).umbraSem = s.umbraSem := rfl
@[simp] theorem State.putWord_lines (s : State) (a : Nat) (w : Word) : (s.putWord a w).lines = s.lines := rfl
@[simp] theorem State.putWord_exts (s : State) (a : Nat) (w : Word) : (s.putWord a w).exts = s.exts := rfl
@[simp] theorem State.putWord_dchans (s : State) (a : Nat) (w : Word) : (s.putWord a w).dchans = s.dchans := rfl
@[simp] theorem State.putWord_wipe (s : State) (a : Nat) (w : Word) : (s.putWord a w).wipe = s.wipe := rfl
@[simp] theorem State.putWord_slices (s : State) (a : Nat) (w : Word) : (s.putWord a w).slices = s.slices := rfl
@[simp] theorem State.putWord_slcCmd (s : State) (a : Nat) (w : Word) : (s.putWord a w).slcCmd = s.slcCmd := rfl
@[simp] theorem State.putWord_qps (s : State) (a : Nat) (w : Word) : (s.putWord a w).qps = s.qps := rfl
@[simp] theorem State.putWord_unmasked (s : State) (a : Nat) (w : Word) : (s.putWord a w).unmasked = s.unmasked := rfl
@[simp] theorem State.putWord_vectors (s : State) (a : Nat) (w : Word) : (s.putWord a w).vectors = s.vectors := rfl
@[simp] theorem State.putWord_pba (s : State) (a : Nat) (w : Word) : (s.putWord a w).pba = s.pba := rfl
@[simp] theorem State.putWord_d3 (s : State) (a : Nat) (w : Word) : (s.putWord a w).d3 = s.d3 := rfl
@[simp] theorem State.putWord_power (s : State) (a : Nat) (w : Word) : (s.putWord a w).power = s.power := rfl
@[simp] theorem State.putWord_boot (s : State) (a : Nat) (w : Word) : (s.putWord a w).boot = s.boot := rfl
@[simp] theorem State.putWord_pins (s : State) (a : Nat) (w : Word) : (s.putWord a w).pins = s.pins := rfl
@[simp] theorem State.putWord_errSeq (s : State) (a : Nat) (w : Word) : (s.putWord a w).errSeq = s.errSeq := rfl
@[simp] theorem State.putWord_fatal (s : State) (a : Nat) (w : Word) : (s.putWord a w).fatal = s.fatal := rfl
@[simp] theorem State.putWord_savedExts (s : State) (a : Nat) (w : Word) : (s.putWord a w).savedExts = s.savedExts := rfl
@[simp] theorem State.putWord_semDone (s : State) (a : Nat) (w : Word) : (s.putWord a w).semDone = s.semDone := rfl
@[simp] theorem State.putWord_errAt (s : State) (a : Nat) (w : Word) : (s.putWord a w).errAt = s.errAt := rfl
@[simp] theorem State.putWord_alertAt (s : State) (a : Nat) (w : Word) : (s.putWord a w).alertAt = s.alertAt := rfl
@[simp] theorem State.putWord_halts (s : State) (a : Nat) (w : Word) : (s.putWord a w).halts = s.halts := rfl
@[simp] theorem State.putWord_dcmds (s : State) (a : Nat) (w : Word) : (s.putWord a w).dcmds = s.dcmds := rfl
@[simp] theorem State.putWord_out (s : State) (a : Nat) (w : Word) : (s.putWord a w).out = s.out := rfl

@[simp] theorem State.complete_pending (s : State) (t : Nat) : (s.complete t).pending = s.pending := rfl
@[simp] theorem State.complete_tick (s : State) (t : Nat) : (s.complete t).tick = s.tick := rfl
@[simp] theorem State.complete_quarter (s : State) (t : Nat) : (s.complete t).quarter = s.quarter := rfl
@[simp] theorem State.complete_copy (s : State) (t : Nat) : (s.complete t).copy = s.copy := rfl
@[simp] theorem State.complete_cclk (s : State) (t : Nat) : (s.complete t).cclk = s.cclk := rfl
@[simp] theorem State.complete_hclk (s : State) (t : Nat) : (s.complete t).hclk = s.hclk := rfl
@[simp] theorem State.complete_uclk (s : State) (t : Nat) : (s.complete t).uclk = s.uclk := rfl
@[simp] theorem State.complete_bucketAt (s : State) (t : Nat) : (s.complete t).bucketAt = s.bucketAt := rfl
@[simp] theorem State.complete_ageingAt (s : State) (t : Nat) : (s.complete t).ageingAt = s.ageingAt := rfl
@[simp] theorem State.complete_leaseAt (s : State) (t : Nat) : (s.complete t).leaseAt = s.leaseAt := rfl
@[simp] theorem State.complete_thermalAt (s : State) (t : Nat) : (s.complete t).thermalAt = s.thermalAt := rfl
@[simp] theorem State.complete_free (s : State) (t : Nat) : (s.complete t).free = s.free := rfl
@[simp] theorem State.complete_nextId (s : State) (t : Nat) : (s.complete t).nextId = s.nextId := rfl
@[simp] theorem State.complete_csr (s : State) (t : Nat) : (s.complete t).csr = s.csr := rfl
@[simp] theorem State.complete_page (s : State) (t : Nat) : (s.complete t).page = s.page := rfl
@[simp] theorem State.complete_readData (s : State) (t : Nat) : (s.complete t).readData = s.readData := rfl
@[simp] theorem State.complete_epc (s : State) (t : Nat) : (s.complete t).epc = s.epc := rfl
@[simp] theorem State.complete_ports (s : State) (t : Nat) : (s.complete t).ports = s.ports := rfl
@[simp] theorem State.complete_pkts (s : State) (t : Nat) : (s.complete t).pkts = s.pkts := rfl
@[simp] theorem State.complete_eouts (s : State) (t : Nat) : (s.complete t).eouts = s.eouts := rfl
@[simp] theorem State.complete_prs (s : State) (t : Nat) : (s.complete t).prs = s.prs := rfl
@[simp] theorem State.complete_fwd (s : State) (t : Nat) : (s.complete t).fwd = s.fwd := rfl
@[simp] theorem State.complete_dsp (s : State) (t : Nat) : (s.complete t).dsp = s.dsp := rfl
@[simp] theorem State.complete_cores (s : State) (t : Nat) : (s.complete t).cores = s.cores := rfl
@[simp] theorem State.complete_imem (s : State) (t : Nat) : (s.complete t).imem = s.imem := rfl
@[simp] theorem State.complete_mem (s : State) (t : Nat) : (s.complete t).mem = s.mem := rfl
@[simp] theorem State.complete_poison (s : State) (t : Nat) : (s.complete t).poison = s.poison := rfl
@[simp] theorem State.complete_chans (s : State) (t : Nat) : (s.complete t).chans = s.chans := rfl
@[simp] theorem State.complete_units (s : State) (t : Nat) : (s.complete t).units = s.units := rfl
@[simp] theorem State.complete_offers (s : State) (t : Nat) : (s.complete t).offers = s.offers := rfl
@[simp] theorem State.complete_rings (s : State) (t : Nat) : (s.complete t).rings = s.rings := rfl
@[simp] theorem State.complete_sems (s : State) (t : Nat) : (s.complete t).sems = s.sems := rfl
@[simp] theorem State.complete_umbraSem (s : State) (t : Nat) : (s.complete t).umbraSem = s.umbraSem := rfl
@[simp] theorem State.complete_lines (s : State) (t : Nat) : (s.complete t).lines = s.lines := rfl
@[simp] theorem State.complete_exts (s : State) (t : Nat) : (s.complete t).exts = s.exts := rfl
@[simp] theorem State.complete_dchans (s : State) (t : Nat) : (s.complete t).dchans = s.dchans := rfl
@[simp] theorem State.complete_wipe (s : State) (t : Nat) : (s.complete t).wipe = s.wipe := rfl
@[simp] theorem State.complete_slices (s : State) (t : Nat) : (s.complete t).slices = s.slices := rfl
@[simp] theorem State.complete_slcCmd (s : State) (t : Nat) : (s.complete t).slcCmd = s.slcCmd := rfl
@[simp] theorem State.complete_qps (s : State) (t : Nat) : (s.complete t).qps = s.qps := rfl
@[simp] theorem State.complete_unmasked (s : State) (t : Nat) : (s.complete t).unmasked = s.unmasked := rfl
@[simp] theorem State.complete_vectors (s : State) (t : Nat) : (s.complete t).vectors = s.vectors := rfl
@[simp] theorem State.complete_pba (s : State) (t : Nat) : (s.complete t).pba = s.pba := rfl
@[simp] theorem State.complete_d3 (s : State) (t : Nat) : (s.complete t).d3 = s.d3 := rfl
@[simp] theorem State.complete_power (s : State) (t : Nat) : (s.complete t).power = s.power := rfl
@[simp] theorem State.complete_boot (s : State) (t : Nat) : (s.complete t).boot = s.boot := rfl
@[simp] theorem State.complete_pins (s : State) (t : Nat) : (s.complete t).pins = s.pins := rfl
@[simp] theorem State.complete_errSeq (s : State) (t : Nat) : (s.complete t).errSeq = s.errSeq := rfl
@[simp] theorem State.complete_fatal (s : State) (t : Nat) : (s.complete t).fatal = s.fatal := rfl
@[simp] theorem State.complete_savedExts (s : State) (t : Nat) : (s.complete t).savedExts = s.savedExts := rfl
@[simp] theorem State.complete_semDone (s : State) (t : Nat) : (s.complete t).semDone = s.semDone := rfl
@[simp] theorem State.complete_errAt (s : State) (t : Nat) : (s.complete t).errAt = s.errAt := rfl
@[simp] theorem State.complete_alertAt (s : State) (t : Nat) : (s.complete t).alertAt = s.alertAt := rfl
@[simp] theorem State.complete_halts (s : State) (t : Nat) : (s.complete t).halts = s.halts := rfl
@[simp] theorem State.complete_dcmds (s : State) (t : Nat) : (s.complete t).dcmds = s.dcmds := rfl
@[simp] theorem State.complete_out (s : State) (t : Nat) : (s.complete t).out = s.out := rfl

@[simp] theorem State.jump_pending (s : State) (t : Nat) (pc : BitVec 16) : (s.jump t pc).pending = s.pending := rfl
@[simp] theorem State.jump_tick (s : State) (t : Nat) (pc : BitVec 16) : (s.jump t pc).tick = s.tick := rfl
@[simp] theorem State.jump_quarter (s : State) (t : Nat) (pc : BitVec 16) : (s.jump t pc).quarter = s.quarter := rfl
@[simp] theorem State.jump_copy (s : State) (t : Nat) (pc : BitVec 16) : (s.jump t pc).copy = s.copy := rfl
@[simp] theorem State.jump_cclk (s : State) (t : Nat) (pc : BitVec 16) : (s.jump t pc).cclk = s.cclk := rfl
@[simp] theorem State.jump_hclk (s : State) (t : Nat) (pc : BitVec 16) : (s.jump t pc).hclk = s.hclk := rfl
@[simp] theorem State.jump_uclk (s : State) (t : Nat) (pc : BitVec 16) : (s.jump t pc).uclk = s.uclk := rfl
@[simp] theorem State.jump_bucketAt (s : State) (t : Nat) (pc : BitVec 16) : (s.jump t pc).bucketAt = s.bucketAt := rfl
@[simp] theorem State.jump_ageingAt (s : State) (t : Nat) (pc : BitVec 16) : (s.jump t pc).ageingAt = s.ageingAt := rfl
@[simp] theorem State.jump_leaseAt (s : State) (t : Nat) (pc : BitVec 16) : (s.jump t pc).leaseAt = s.leaseAt := rfl
@[simp] theorem State.jump_thermalAt (s : State) (t : Nat) (pc : BitVec 16) : (s.jump t pc).thermalAt = s.thermalAt := rfl
@[simp] theorem State.jump_free (s : State) (t : Nat) (pc : BitVec 16) : (s.jump t pc).free = s.free := rfl
@[simp] theorem State.jump_nextId (s : State) (t : Nat) (pc : BitVec 16) : (s.jump t pc).nextId = s.nextId := rfl
@[simp] theorem State.jump_csr (s : State) (t : Nat) (pc : BitVec 16) : (s.jump t pc).csr = s.csr := rfl
@[simp] theorem State.jump_page (s : State) (t : Nat) (pc : BitVec 16) : (s.jump t pc).page = s.page := rfl
@[simp] theorem State.jump_readData (s : State) (t : Nat) (pc : BitVec 16) : (s.jump t pc).readData = s.readData := rfl
@[simp] theorem State.jump_epc (s : State) (t : Nat) (pc : BitVec 16) : (s.jump t pc).epc = s.epc := rfl
@[simp] theorem State.jump_ports (s : State) (t : Nat) (pc : BitVec 16) : (s.jump t pc).ports = s.ports := rfl
@[simp] theorem State.jump_pkts (s : State) (t : Nat) (pc : BitVec 16) : (s.jump t pc).pkts = s.pkts := rfl
@[simp] theorem State.jump_eouts (s : State) (t : Nat) (pc : BitVec 16) : (s.jump t pc).eouts = s.eouts := rfl
@[simp] theorem State.jump_prs (s : State) (t : Nat) (pc : BitVec 16) : (s.jump t pc).prs = s.prs := rfl
@[simp] theorem State.jump_fwd (s : State) (t : Nat) (pc : BitVec 16) : (s.jump t pc).fwd = s.fwd := rfl
@[simp] theorem State.jump_dsp (s : State) (t : Nat) (pc : BitVec 16) : (s.jump t pc).dsp = s.dsp := rfl
@[simp] theorem State.jump_cores (s : State) (t : Nat) (pc : BitVec 16) : (s.jump t pc).cores = s.cores := rfl
@[simp] theorem State.jump_imem (s : State) (t : Nat) (pc : BitVec 16) : (s.jump t pc).imem = s.imem := rfl
@[simp] theorem State.jump_mem (s : State) (t : Nat) (pc : BitVec 16) : (s.jump t pc).mem = s.mem := rfl
@[simp] theorem State.jump_poison (s : State) (t : Nat) (pc : BitVec 16) : (s.jump t pc).poison = s.poison := rfl
@[simp] theorem State.jump_chans (s : State) (t : Nat) (pc : BitVec 16) : (s.jump t pc).chans = s.chans := rfl
@[simp] theorem State.jump_units (s : State) (t : Nat) (pc : BitVec 16) : (s.jump t pc).units = s.units := rfl
@[simp] theorem State.jump_offers (s : State) (t : Nat) (pc : BitVec 16) : (s.jump t pc).offers = s.offers := rfl
@[simp] theorem State.jump_rings (s : State) (t : Nat) (pc : BitVec 16) : (s.jump t pc).rings = s.rings := rfl
@[simp] theorem State.jump_sems (s : State) (t : Nat) (pc : BitVec 16) : (s.jump t pc).sems = s.sems := rfl
@[simp] theorem State.jump_umbraSem (s : State) (t : Nat) (pc : BitVec 16) : (s.jump t pc).umbraSem = s.umbraSem := rfl
@[simp] theorem State.jump_lines (s : State) (t : Nat) (pc : BitVec 16) : (s.jump t pc).lines = s.lines := rfl
@[simp] theorem State.jump_exts (s : State) (t : Nat) (pc : BitVec 16) : (s.jump t pc).exts = s.exts := rfl
@[simp] theorem State.jump_dchans (s : State) (t : Nat) (pc : BitVec 16) : (s.jump t pc).dchans = s.dchans := rfl
@[simp] theorem State.jump_wipe (s : State) (t : Nat) (pc : BitVec 16) : (s.jump t pc).wipe = s.wipe := rfl
@[simp] theorem State.jump_slices (s : State) (t : Nat) (pc : BitVec 16) : (s.jump t pc).slices = s.slices := rfl
@[simp] theorem State.jump_slcCmd (s : State) (t : Nat) (pc : BitVec 16) : (s.jump t pc).slcCmd = s.slcCmd := rfl
@[simp] theorem State.jump_qps (s : State) (t : Nat) (pc : BitVec 16) : (s.jump t pc).qps = s.qps := rfl
@[simp] theorem State.jump_unmasked (s : State) (t : Nat) (pc : BitVec 16) : (s.jump t pc).unmasked = s.unmasked := rfl
@[simp] theorem State.jump_vectors (s : State) (t : Nat) (pc : BitVec 16) : (s.jump t pc).vectors = s.vectors := rfl
@[simp] theorem State.jump_pba (s : State) (t : Nat) (pc : BitVec 16) : (s.jump t pc).pba = s.pba := rfl
@[simp] theorem State.jump_d3 (s : State) (t : Nat) (pc : BitVec 16) : (s.jump t pc).d3 = s.d3 := rfl
@[simp] theorem State.jump_power (s : State) (t : Nat) (pc : BitVec 16) : (s.jump t pc).power = s.power := rfl
@[simp] theorem State.jump_boot (s : State) (t : Nat) (pc : BitVec 16) : (s.jump t pc).boot = s.boot := rfl
@[simp] theorem State.jump_pins (s : State) (t : Nat) (pc : BitVec 16) : (s.jump t pc).pins = s.pins := rfl
@[simp] theorem State.jump_errSeq (s : State) (t : Nat) (pc : BitVec 16) : (s.jump t pc).errSeq = s.errSeq := rfl
@[simp] theorem State.jump_fatal (s : State) (t : Nat) (pc : BitVec 16) : (s.jump t pc).fatal = s.fatal := rfl
@[simp] theorem State.jump_savedExts (s : State) (t : Nat) (pc : BitVec 16) : (s.jump t pc).savedExts = s.savedExts := rfl
@[simp] theorem State.jump_semDone (s : State) (t : Nat) (pc : BitVec 16) : (s.jump t pc).semDone = s.semDone := rfl
@[simp] theorem State.jump_errAt (s : State) (t : Nat) (pc : BitVec 16) : (s.jump t pc).errAt = s.errAt := rfl
@[simp] theorem State.jump_alertAt (s : State) (t : Nat) (pc : BitVec 16) : (s.jump t pc).alertAt = s.alertAt := rfl
@[simp] theorem State.jump_halts (s : State) (t : Nat) (pc : BitVec 16) : (s.jump t pc).halts = s.halts := rfl
@[simp] theorem State.jump_dcmds (s : State) (t : Nat) (pc : BitVec 16) : (s.jump t pc).dcmds = s.dcmds := rfl
@[simp] theorem State.jump_out (s : State) (t : Nat) (pc : BitVec 16) : (s.jump t pc).out = s.out := rfl

@[simp] theorem State.setStrobe_pending (s : State) (k : Strobe) (n : Nat) : (s.setStrobe k n).pending = s.pending := by cases k <;> rfl
@[simp] theorem State.setStrobe_tick (s : State) (k : Strobe) (n : Nat) : (s.setStrobe k n).tick = s.tick := by cases k <;> rfl
@[simp] theorem State.setStrobe_quarter (s : State) (k : Strobe) (n : Nat) : (s.setStrobe k n).quarter = s.quarter := by cases k <;> rfl
@[simp] theorem State.setStrobe_copy (s : State) (k : Strobe) (n : Nat) : (s.setStrobe k n).copy = s.copy := by cases k <;> rfl
@[simp] theorem State.setStrobe_cclk (s : State) (k : Strobe) (n : Nat) : (s.setStrobe k n).cclk = s.cclk := by cases k <;> rfl
@[simp] theorem State.setStrobe_hclk (s : State) (k : Strobe) (n : Nat) : (s.setStrobe k n).hclk = s.hclk := by cases k <;> rfl
@[simp] theorem State.setStrobe_uclk (s : State) (k : Strobe) (n : Nat) : (s.setStrobe k n).uclk = s.uclk := by cases k <;> rfl
@[simp] theorem State.setStrobe_free (s : State) (k : Strobe) (n : Nat) : (s.setStrobe k n).free = s.free := by cases k <;> rfl
@[simp] theorem State.setStrobe_nextId (s : State) (k : Strobe) (n : Nat) : (s.setStrobe k n).nextId = s.nextId := by cases k <;> rfl
@[simp] theorem State.setStrobe_csr (s : State) (k : Strobe) (n : Nat) : (s.setStrobe k n).csr = s.csr := by cases k <;> rfl
@[simp] theorem State.setStrobe_page (s : State) (k : Strobe) (n : Nat) : (s.setStrobe k n).page = s.page := by cases k <;> rfl
@[simp] theorem State.setStrobe_readData (s : State) (k : Strobe) (n : Nat) : (s.setStrobe k n).readData = s.readData := by cases k <;> rfl
@[simp] theorem State.setStrobe_epc (s : State) (k : Strobe) (n : Nat) : (s.setStrobe k n).epc = s.epc := by cases k <;> rfl
@[simp] theorem State.setStrobe_ports (s : State) (k : Strobe) (n : Nat) : (s.setStrobe k n).ports = s.ports := by cases k <;> rfl
@[simp] theorem State.setStrobe_pkts (s : State) (k : Strobe) (n : Nat) : (s.setStrobe k n).pkts = s.pkts := by cases k <;> rfl
@[simp] theorem State.setStrobe_eouts (s : State) (k : Strobe) (n : Nat) : (s.setStrobe k n).eouts = s.eouts := by cases k <;> rfl
@[simp] theorem State.setStrobe_prs (s : State) (k : Strobe) (n : Nat) : (s.setStrobe k n).prs = s.prs := by cases k <;> rfl
@[simp] theorem State.setStrobe_fwd (s : State) (k : Strobe) (n : Nat) : (s.setStrobe k n).fwd = s.fwd := by cases k <;> rfl
@[simp] theorem State.setStrobe_dsp (s : State) (k : Strobe) (n : Nat) : (s.setStrobe k n).dsp = s.dsp := by cases k <;> rfl
@[simp] theorem State.setStrobe_threads (s : State) (k : Strobe) (n : Nat) : (s.setStrobe k n).threads = s.threads := by cases k <;> rfl
@[simp] theorem State.setStrobe_cores (s : State) (k : Strobe) (n : Nat) : (s.setStrobe k n).cores = s.cores := by cases k <;> rfl
@[simp] theorem State.setStrobe_imem (s : State) (k : Strobe) (n : Nat) : (s.setStrobe k n).imem = s.imem := by cases k <;> rfl
@[simp] theorem State.setStrobe_mem (s : State) (k : Strobe) (n : Nat) : (s.setStrobe k n).mem = s.mem := by cases k <;> rfl
@[simp] theorem State.setStrobe_poison (s : State) (k : Strobe) (n : Nat) : (s.setStrobe k n).poison = s.poison := by cases k <;> rfl
@[simp] theorem State.setStrobe_chans (s : State) (k : Strobe) (n : Nat) : (s.setStrobe k n).chans = s.chans := by cases k <;> rfl
@[simp] theorem State.setStrobe_units (s : State) (k : Strobe) (n : Nat) : (s.setStrobe k n).units = s.units := by cases k <;> rfl
@[simp] theorem State.setStrobe_offers (s : State) (k : Strobe) (n : Nat) : (s.setStrobe k n).offers = s.offers := by cases k <;> rfl
@[simp] theorem State.setStrobe_rings (s : State) (k : Strobe) (n : Nat) : (s.setStrobe k n).rings = s.rings := by cases k <;> rfl
@[simp] theorem State.setStrobe_sems (s : State) (k : Strobe) (n : Nat) : (s.setStrobe k n).sems = s.sems := by cases k <;> rfl
@[simp] theorem State.setStrobe_umbraSem (s : State) (k : Strobe) (n : Nat) : (s.setStrobe k n).umbraSem = s.umbraSem := by cases k <;> rfl
@[simp] theorem State.setStrobe_lines (s : State) (k : Strobe) (n : Nat) : (s.setStrobe k n).lines = s.lines := by cases k <;> rfl
@[simp] theorem State.setStrobe_exts (s : State) (k : Strobe) (n : Nat) : (s.setStrobe k n).exts = s.exts := by cases k <;> rfl
@[simp] theorem State.setStrobe_dchans (s : State) (k : Strobe) (n : Nat) : (s.setStrobe k n).dchans = s.dchans := by cases k <;> rfl
@[simp] theorem State.setStrobe_wipe (s : State) (k : Strobe) (n : Nat) : (s.setStrobe k n).wipe = s.wipe := by cases k <;> rfl
@[simp] theorem State.setStrobe_slices (s : State) (k : Strobe) (n : Nat) : (s.setStrobe k n).slices = s.slices := by cases k <;> rfl
@[simp] theorem State.setStrobe_slcCmd (s : State) (k : Strobe) (n : Nat) : (s.setStrobe k n).slcCmd = s.slcCmd := by cases k <;> rfl
@[simp] theorem State.setStrobe_qps (s : State) (k : Strobe) (n : Nat) : (s.setStrobe k n).qps = s.qps := by cases k <;> rfl
@[simp] theorem State.setStrobe_unmasked (s : State) (k : Strobe) (n : Nat) : (s.setStrobe k n).unmasked = s.unmasked := by cases k <;> rfl
@[simp] theorem State.setStrobe_vectors (s : State) (k : Strobe) (n : Nat) : (s.setStrobe k n).vectors = s.vectors := by cases k <;> rfl
@[simp] theorem State.setStrobe_pba (s : State) (k : Strobe) (n : Nat) : (s.setStrobe k n).pba = s.pba := by cases k <;> rfl
@[simp] theorem State.setStrobe_d3 (s : State) (k : Strobe) (n : Nat) : (s.setStrobe k n).d3 = s.d3 := by cases k <;> rfl
@[simp] theorem State.setStrobe_power (s : State) (k : Strobe) (n : Nat) : (s.setStrobe k n).power = s.power := by cases k <;> rfl
@[simp] theorem State.setStrobe_boot (s : State) (k : Strobe) (n : Nat) : (s.setStrobe k n).boot = s.boot := by cases k <;> rfl
@[simp] theorem State.setStrobe_pins (s : State) (k : Strobe) (n : Nat) : (s.setStrobe k n).pins = s.pins := by cases k <;> rfl
@[simp] theorem State.setStrobe_errSeq (s : State) (k : Strobe) (n : Nat) : (s.setStrobe k n).errSeq = s.errSeq := by cases k <;> rfl
@[simp] theorem State.setStrobe_fatal (s : State) (k : Strobe) (n : Nat) : (s.setStrobe k n).fatal = s.fatal := by cases k <;> rfl
@[simp] theorem State.setStrobe_savedExts (s : State) (k : Strobe) (n : Nat) : (s.setStrobe k n).savedExts = s.savedExts := by cases k <;> rfl
@[simp] theorem State.setStrobe_semDone (s : State) (k : Strobe) (n : Nat) : (s.setStrobe k n).semDone = s.semDone := by cases k <;> rfl
@[simp] theorem State.setStrobe_errAt (s : State) (k : Strobe) (n : Nat) : (s.setStrobe k n).errAt = s.errAt := by cases k <;> rfl
@[simp] theorem State.setStrobe_alertAt (s : State) (k : Strobe) (n : Nat) : (s.setStrobe k n).alertAt = s.alertAt := by cases k <;> rfl
@[simp] theorem State.setStrobe_halts (s : State) (k : Strobe) (n : Nat) : (s.setStrobe k n).halts = s.halts := by cases k <;> rfl
@[simp] theorem State.setStrobe_dcmds (s : State) (k : Strobe) (n : Nat) : (s.setStrobe k n).dcmds = s.dcmds := by cases k <;> rfl
@[simp] theorem State.setStrobe_out (s : State) (k : Strobe) (n : Nat) : (s.setStrobe k n).out = s.out := by cases k <;> rfl

@[simp] theorem State.cycle_pending (s : State) : s.cycle.pending = s.pending := rfl
@[simp] theorem State.cycle_bucketAt (s : State) : s.cycle.bucketAt = s.bucketAt := rfl
@[simp] theorem State.cycle_ageingAt (s : State) : s.cycle.ageingAt = s.ageingAt := rfl
@[simp] theorem State.cycle_leaseAt (s : State) : s.cycle.leaseAt = s.leaseAt := rfl
@[simp] theorem State.cycle_thermalAt (s : State) : s.cycle.thermalAt = s.thermalAt := rfl
@[simp] theorem State.cycle_nextId (s : State) : s.cycle.nextId = s.nextId := rfl
@[simp] theorem State.cycle_csr (s : State) : s.cycle.csr = s.csr := rfl
@[simp] theorem State.cycle_page (s : State) : s.cycle.page = s.page := rfl
@[simp] theorem State.cycle_readData (s : State) : s.cycle.readData = s.readData := rfl
@[simp] theorem State.cycle_epc (s : State) : s.cycle.epc = s.epc := rfl
@[simp] theorem State.cycle_ports (s : State) : s.cycle.ports = s.ports := rfl
@[simp] theorem State.cycle_pkts (s : State) : s.cycle.pkts = s.pkts := rfl
@[simp] theorem State.cycle_eouts (s : State) : s.cycle.eouts = s.eouts := rfl
@[simp] theorem State.cycle_prs (s : State) : s.cycle.prs = s.prs := rfl
@[simp] theorem State.cycle_fwd (s : State) : s.cycle.fwd = s.fwd := rfl
@[simp] theorem State.cycle_dsp (s : State) : s.cycle.dsp = s.dsp := rfl
@[simp] theorem State.cycle_threads (s : State) : s.cycle.threads = s.threads := rfl
@[simp] theorem State.cycle_cores (s : State) : s.cycle.cores = s.cores := rfl
@[simp] theorem State.cycle_imem (s : State) : s.cycle.imem = s.imem := rfl
@[simp] theorem State.cycle_mem (s : State) : s.cycle.mem = s.mem := rfl
@[simp] theorem State.cycle_poison (s : State) : s.cycle.poison = s.poison := rfl
@[simp] theorem State.cycle_chans (s : State) : s.cycle.chans = s.chans := rfl
@[simp] theorem State.cycle_units (s : State) : s.cycle.units = s.units := rfl
@[simp] theorem State.cycle_offers (s : State) : s.cycle.offers = s.offers := rfl
@[simp] theorem State.cycle_rings (s : State) : s.cycle.rings = s.rings := rfl
@[simp] theorem State.cycle_sems (s : State) : s.cycle.sems = s.sems := rfl
@[simp] theorem State.cycle_umbraSem (s : State) : s.cycle.umbraSem = s.umbraSem := rfl
@[simp] theorem State.cycle_lines (s : State) : s.cycle.lines = s.lines := rfl
@[simp] theorem State.cycle_exts (s : State) : s.cycle.exts = s.exts := rfl
@[simp] theorem State.cycle_dchans (s : State) : s.cycle.dchans = s.dchans := rfl
@[simp] theorem State.cycle_wipe (s : State) : s.cycle.wipe = s.wipe := rfl
@[simp] theorem State.cycle_slices (s : State) : s.cycle.slices = s.slices := rfl
@[simp] theorem State.cycle_slcCmd (s : State) : s.cycle.slcCmd = s.slcCmd := rfl
@[simp] theorem State.cycle_qps (s : State) : s.cycle.qps = s.qps := rfl
@[simp] theorem State.cycle_unmasked (s : State) : s.cycle.unmasked = s.unmasked := rfl
@[simp] theorem State.cycle_vectors (s : State) : s.cycle.vectors = s.vectors := rfl
@[simp] theorem State.cycle_pba (s : State) : s.cycle.pba = s.pba := rfl
@[simp] theorem State.cycle_d3 (s : State) : s.cycle.d3 = s.d3 := rfl
@[simp] theorem State.cycle_power (s : State) : s.cycle.power = s.power := rfl
@[simp] theorem State.cycle_boot (s : State) : s.cycle.boot = s.boot := rfl
@[simp] theorem State.cycle_pins (s : State) : s.cycle.pins = s.pins := rfl
@[simp] theorem State.cycle_errSeq (s : State) : s.cycle.errSeq = s.errSeq := rfl
@[simp] theorem State.cycle_fatal (s : State) : s.cycle.fatal = s.fatal := rfl
@[simp] theorem State.cycle_savedExts (s : State) : s.cycle.savedExts = s.savedExts := rfl
@[simp] theorem State.cycle_semDone (s : State) : s.cycle.semDone = s.semDone := rfl
@[simp] theorem State.cycle_errAt (s : State) : s.cycle.errAt = s.errAt := rfl
@[simp] theorem State.cycle_alertAt (s : State) : s.cycle.alertAt = s.alertAt := rfl
@[simp] theorem State.cycle_halts (s : State) : s.cycle.halts = s.halts := rfl
@[simp] theorem State.cycle_dcmds (s : State) : s.cycle.dcmds = s.dcmds := rfl
@[simp] theorem State.cycle_out (s : State) : s.cycle.out = s.out := rfl

end Sys2Proof.Machine
end

