-- ==== Sys2Proof/Laws/Ops.lean ====
section
/-! SUPPORT. Ops.lean: reads after writes for registers, fields and typed tables, and what the shared operations leave alone. -/

namespace Sys2Proof.Machine

/-! ## Bit fields -/

theorem ext_lt {w : Nat} (v : BitVec w) (hi lo : Nat) : ext v hi lo < 2 ^ (hi + 1 - lo) := Nat.mod_lt _ (Nat.two_pow_pos _)

/-- Bit i of a field is bit lo + i of the value. -/
theorem ext_testBit {w : Nat} (v : BitVec w) (hi lo i : Nat) :
    (ext v hi lo).testBit i = (decide (i < hi + 1 - lo) && v.getLsbD (lo + i)) := by
  simp only [ext, Nat.testBit_mod_two_pow, Nat.testBit_div_two_pow, BitVec.getLsbD]
  rw [Nat.add_comm i lo]

theorem testBit_mask (hi lo i : Nat) (h : lo ≤ hi + 1) :
    (2 ^ (hi + 1) - 2 ^ lo).testBit i = (decide (i < hi + 1) && decide (lo ≤ i)) := by
  have e : 2 ^ (hi + 1) - 2 ^ lo = 2 ^ lo * (2 ^ (hi + 1 - lo) - 1) := by
    rw [Nat.mul_sub, ← pow_add, Nat.mul_one]; congr 2; omega
  rw [e, Nat.testBit_two_pow_mul, Nat.testBit_two_pow_sub_one]
  by_cases h1 : lo ≤ i
  · simp [h1]; omega
  · simp [h1]

/-- Bits of a value with the field [hi:lo] replaced. -/
theorem ins_getLsbD {w : Nat} (v : BitVec w) {hi lo : Nat} (n i : Nat) (h : lo ≤ hi + 1) (hi' : i < w) :
    (ins v hi lo n).getLsbD i = if lo ≤ i ∧ i ≤ hi then n.testBit (i - lo) else v.getLsbD i := by
  simp only [ins, BitVec.getLsbD_or, BitVec.getLsbD_and, BitVec.getLsbD_not, BitVec.getLsbD_ofNat, hi', decide_true,
    Bool.true_and, testBit_mask hi lo i h, Nat.testBit_mul_two_pow, Nat.testBit_mod_two_pow]
  by_cases h1 : lo ≤ i
  · by_cases h2 : i ≤ hi
    · have : i < hi + 1 := by omega
      have : i - lo < hi + 1 - lo := by omega
      simp [*]
    · have : ¬ i < hi + 1 := by omega
      have : ¬ i - lo < hi + 1 - lo := by omega
      simp [*]
  · simp [h1]

/-- A field reads what was put into it. -/
theorem ext_ins_self {w : Nat} (v : BitVec w) {hi lo : Nat} (n : Nat) (h : lo ≤ hi + 1) (hw : hi < w) :
    ext (ins v hi lo n) hi lo = n % 2 ^ (hi + 1 - lo) := by
  apply Nat.eq_of_testBit_eq
  intro i
  rw [ext_testBit, Nat.testBit_mod_two_pow]
  by_cases hi' : i < hi + 1 - lo
  · rw [ins_getLsbD v n _ h (by omega)]
    simp [hi']
    omega
  · simp [hi']

/-- A field apart from the one written keeps its value. -/
theorem ext_ins_of_disjoint {w : Nat} (v : BitVec w) {hi lo a b : Nat} (n : Nat) (h : lo ≤ hi + 1) (hw : a < w)
    (hd : a < lo ∨ hi < b) : ext (ins v hi lo n) a b = ext v a b := by
  apply Nat.eq_of_testBit_eq
  intro i
  rw [ext_testBit, ext_testBit]
  by_cases hi' : i < a + 1 - b
  · rw [ins_getLsbD v n _ h (by omega), if_neg (by omega)]
  · simp [hi']

theorem bit_eq_ext {w : Nat} (v : BitVec w) (i : Nat) : bit v i = decide (ext v i i = 1) := by
  have h := ext_testBit v i i 0
  have hl := ext_lt v i i
  simp only [bit]
  have e : i + 1 - i = 1 := by omega
  simp [e] at h hl
  rcases Nat.lt_or_ge (ext v i i) 1 with h0 | h1
  · have : ext v i i = 0 := by omega
    simp [this] at h ⊢
    exact h
  · have : ext v i i = 1 := by omega
    simp [this] at h ⊢
    exact h

/-! ## Registers -/

theorem State.reg_setReg_ne (s : State) {o p : Nat} (v : Pair) (h : o ≠ p) : (s.setReg p v).reg o = s.reg o :=
  SMap.get_set_ne' _ h

@[simp] theorem State.reg_setReg_self (s : State) (o : Nat) (v : Pair) : (s.setReg o v).reg o = v :=
  SMap.get_set_self _

theorem State.csrWf_setReg {s : State} (h : s.csrWf = true) (o : Nat) (v : Pair) : (s.setReg o v).csrWf = true :=
  SMap.wf_set (d := fun o => (regInfo o).reset) h

theorem State.csrWf_setFld {s : State} (h : s.csrWf = true) (f : Fld) (n : Nat) : (s.setFld f n).csrWf = true :=
  csrWf_setReg h _ _

theorem State.fld_setFld_self (s : State) (f : Fld) (n : Nat) (hl : f.lo ≤ f.hi + 1) (hh : f.hi < 28) :
    (s.setFld f n).fld f = n % 2 ^ (f.hi + 1 - f.lo) := by
  simp only [fld, setFld, reg_setReg_self, ext_ins_self _ n hl hh]

theorem State.fld_setFld_off (s : State) (f g : Fld) (n : Nat) (h : g.off ≠ f.off) : (s.setFld f n).fld g = s.fld g := by
  simp only [fld, setFld, reg_setReg_ne s _ h]

theorem State.fld_setFld_disjoint (s : State) (f g : Fld) (n : Nat) (ho : g.off = f.off)
    (hl : f.lo ≤ f.hi + 1) (hg : g.hi < 28) (hd : g.hi < f.lo ∨ f.hi < g.lo) : (s.setFld f n).fld g = s.fld g := by
  simp only [fld, setFld, ho, reg_setReg_self, ext_ins_of_disjoint _ n hl hg hd]

/-! ## Typed tables: a record after its update, and every other record -/

theorem State.thread_modThread_ne (s : State) {t u : Nat} (f : Thread → Thread) (h : u ≠ t) :
    (s.modThread t f).thread u = s.thread u := SMap.get_modify_ne _ h
@[simp] theorem State.thread_modThread (s : State) (t : Nat) (f : Thread → Thread) :
    (s.modThread t f).thread t = f (s.thread t) := SMap.get_modify_self _
theorem State.port_modPort_ne (s : State) {p q : Nat} (f : Port → Port) (h : q ≠ p) : (s.modPort p f).port q = s.port q :=
  SMap.get_modify_ne _ h
@[simp] theorem State.port_modPort (s : State) (p : Nat) (f : Port → Port) :
    (s.modPort p f).port p = f (s.port p) := SMap.get_modify_self _
theorem State.chan_modChan_ne (s : State) {c d : Nat} (f : Chan → Chan) (h : d ≠ c) : (s.modChan c f).chan d = s.chan d :=
  SMap.get_modify_ne _ h
@[simp] theorem State.chan_modChan (s : State) (c : Nat) (f : Chan → Chan) :
    (s.modChan c f).chan c = f (s.chan c) := SMap.get_modify_self _
theorem State.unit_modUnit_ne (s : State) {n m : Nat} (f : CopUnit → CopUnit) (h : m ≠ n) : (s.modUnit n f).unit m = s.unit m :=
  SMap.get_modify_ne _ h
@[simp] theorem State.unit_modUnit (s : State) (n : Nat) (f : CopUnit → CopUnit) :
    (s.modUnit n f).unit n = f (s.unit n) := SMap.get_modify_self _
@[simp] theorem State.ring_modRing (s : State) (r : Nat) (f : Ring → Ring) :
    (s.modRing r f).ring r = f (s.ring r) := SMap.get_modify_self _
theorem State.sem_modSem_ne (s : State) {i j : Nat} (f : Sem → Sem) (h : j ≠ i) : (s.modSem i f).sem j = s.sem j :=
  SMap.get_modify_ne _ h
@[simp] theorem State.sem_modSem (s : State) (i : Nat) (f : Sem → Sem) :
    (s.modSem i f).sem i = f (s.sem i) := SMap.get_modify_self _
theorem State.dchan_modDchan_ne (s : State) {k j : Nat} (f : DChan → DChan) (h : j ≠ k) :
    (s.modDchan k f).dchan j = s.dchan j := SMap.get_modify_ne _ h
@[simp] theorem State.dchan_modDchan (s : State) (k : Nat) (f : DChan → DChan) :
    (s.modDchan k f).dchan k = f (s.dchan k) := SMap.get_modify_self _
@[simp] theorem State.extent_modExtent (s : State) (x : Nat) (f : Extent → Extent) :
    (s.modExtent x f).extent x = f (s.extent x) := SMap.get_modify_self _
theorem State.slice_modSlice_ne (s : State) {i j : Nat} (f : Slice → Slice) (h : j ≠ i) :
    (s.modSlice i f).slice j = s.slice j := SMap.get_set_ne' _ h
@[simp] theorem State.slice_modSlice (s : State) (i : Nat) (f : Slice → Slice) :
    (s.modSlice i f).slice i = f (s.slice i) := SMap.get_modify_self _
@[simp] theorem State.core_modCore (s : State) (n : Nat) (f : Core → Core) :
    (s.modCore n f).core n = f (s.core n) := SMap.get_modify_self _
@[simp] theorem State.qp_modQp (s : State) (n : Nat) (f : QpState → QpState) :
    (s.modQp n f).qp n = f (s.qp n) := SMap.get_modify_self _
theorem State.getWord_putWord_ne (s : State) {a b : Nat} (w : Word) (h : b ≠ a) : (s.putWord a w).getWord b = s.getWord b :=
  SMap.get_set_ne _ h
@[simp] theorem State.getWord_putWord (s : State) (a : Nat) (w : Word) :
    (s.putWord a w).getWord a = w := SMap.get_set_self _

/-- The tables of a machine in canonical form rise. -/
theorem State.Canon.threads {s : State} (h : s.Canon) : SMap.rises s.threads = true := by
  have := h.units; simp only [unitsWf, Bool.and_eq_true] at this; exact SMap.rises_of_wf (d := fun _ => ({} : Thread)) (by tauto)
theorem State.Canon.ports {s : State} (h : s.Canon) : SMap.rises s.ports = true := by
  have := h.units; simp only [unitsWf, Bool.and_eq_true] at this; exact SMap.rises_of_wf (d := fun _ => ({} : Port)) (by tauto)
theorem State.Canon.chans {s : State} (h : s.Canon) : SMap.rises s.chans = true := by
  have := h.units; simp only [unitsWf, Bool.and_eq_true] at this; exact SMap.rises_of_wf (d := fun _ => ({} : Chan)) (by tauto)
theorem State.Canon.copUnits {s : State} (h : s.Canon) : SMap.rises s.units = true := by
  have := h.units; simp only [unitsWf, Bool.and_eq_true] at this; exact SMap.rises_of_wf (d := fun _ => ({} : CopUnit)) (by tauto)
theorem State.Canon.rings {s : State} (h : s.Canon) : SMap.rises s.rings = true := by
  have := h.units; simp only [unitsWf, Bool.and_eq_true] at this; exact SMap.rises_of_wf (d := fun _ => ({} : Ring)) (by tauto)
theorem State.Canon.sems {s : State} (h : s.Canon) : SMap.rises s.sems = true := by
  have := h.units; simp only [unitsWf, Bool.and_eq_true] at this; exact SMap.rises_of_wf (d := fun _ => ({} : Sem)) (by tauto)
theorem State.Canon.dchans {s : State} (h : s.Canon) : SMap.rises s.dchans = true := by
  have := h.units; simp only [unitsWf, Bool.and_eq_true] at this; exact SMap.rises_of_wf (d := fun _ => ({} : DChan)) (by tauto)
theorem State.Canon.exts {s : State} (h : s.Canon) : SMap.rises s.exts = true := by
  have := h.units; simp only [unitsWf, Bool.and_eq_true] at this; exact SMap.rises_of_wf (d := fun _ => ({} : Extent)) (by tauto)
theorem State.Canon.qps {s : State} (h : s.Canon) : SMap.rises s.qps = true := by
  have := h.units; simp only [unitsWf, Bool.and_eq_true] at this; exact SMap.rises_of_wf (d := fun _ => ({} : QpState)) (by tauto)
theorem State.Canon.slices {s : State} (h : s.Canon) : SMap.rises s.slices = true := by
  have := h.units; simp only [unitsWf, Bool.and_eq_true] at this; exact SMap.rises_of_wf (d := sliceReset) (by tauto)
theorem State.Canon.cores {s : State} (h : s.Canon) : SMap.rises s.cores = true := by
  have := h.units; simp only [unitsWf, Bool.and_eq_true] at this; exact SMap.rises_of_wf (d := coreReset) (by tauto)
theorem State.Canon.words {s : State} (h : s.Canon) : SMap.rises s.mem = true := by
  have := h.mem; simp only [memWf, Bool.and_eq_true] at this; exact SMap.rises_of_wf (d := fun _ => (0 : Word)) (by tauto)

end Sys2Proof.Machine
end

