-- ==== Sys2Proof/WellFormed.lean ====
section
/-! DEFINITION. WellFormed.lean: which operands make a command one that the spec's event can have. Bounds of
index operands are in the types of Syntax.lean. -/

namespace Sys2Proof

/-- A training point is of a step 3 to 8 of Table 13.7, on one lane in steps 3 and 4 and ten in the others; steps 3, 5 and 6 have one
set of delays. -/
def TrainPoint.wf (p : TrainPoint) : Bool :=
  decide (3 ≤ p.step.toNat) && decide (p.step.toNat ≤ 8) && decide (p.lane.toNat < if p.step.toNat ≤ 4 then 1 else 10) &&
    ((decide (p.step = 4) || decide (7 ≤ p.step.toNat)) || decide (p.points.length = 1))

/-- A command's operands agree with each other and with the encoding of what arrives. -/
def Instr.wf : Instr → Bool
  | .csrWrite _ _ off _ _ => decide (off.toNat % 4 = 0)
  | .rcRead _ _ off _ => decide (off.toNat % 4 = 0)
  | .csrBadAccess _ _ off x => decide (x.size ≠ 4) || decide (off.toNat % 4 ≠ 0)
  | .spRateWrite _ k _ => decide (1 ≤ k.val) && decide (k.val ≤ 13)
  | .trainEnd _ o => o.all TrainPoint.wf
  | .glint src _ => decide (3 ≤ src.val)
  | _ => true

end Sys2Proof
end

