-- ==== Sys2Proof/Tests/Slice0.lean ====
section
/-! SUPPORT. Slice0.lean: tests of the model against words and values written out from the spec, and for each statement that has
hypotheses, and each of its clauses, a concrete state and operands that meet them (wit_…). Expected values come from the spec's
tables and worked examples. -/

set_option maxRecDepth 100000
open Sys2Proof Sys2Proof.Machine Sys2Proof.Spec

namespace Sys2Proof.Tests

/-! ## Ill-formed commands (Syntax.lean, WellFormed.lean) -/

theorem test_wf_csrWrite : (Instr.csrWrite .host .bar0 2 0 0).wf = false ∧ (Instr.csrWrite .host .bar0 4 0 0).wf = true := by decide
theorem test_wf_rcRead : (Instr.rcRead .host .bar0 6 0).wf = false ∧ (Instr.rcRead .host .bar0 8 0).wf = true := by decide
theorem test_wf_csrBadAccess : (Instr.csrBadAccess false .bar0 8 { size := 4 }).wf = false ∧ (Instr.csrBadAccess false .bar0 8 { size := 2 }).wf = true := by decide
theorem test_wf_spRateWrite : (Instr.spRateWrite 0 0 0).wf = false ∧ (Instr.spRateWrite 0 14 0).wf = false ∧
    (Instr.spRateWrite 0 13 0).wf = true := by decide
theorem test_wf_trainEnd : (Instr.trainEnd 0 [⟨2, false, 0, 0, [1]⟩]).wf = false ∧ (Instr.trainEnd 0 [⟨9, false, 0, 0, [1]⟩]).wf = false ∧
    (Instr.trainEnd 0 [⟨4, false, 0, 1, [1]⟩]).wf = false ∧ (Instr.trainEnd 0 [⟨7, false, 0, 10, [1]⟩]).wf = false ∧
    (Instr.trainEnd 0 [⟨5, false, 0, 0, [1, 1]⟩]).wf = false ∧ (Instr.trainEnd 0 [⟨8, true, 3, 9, [1, 1]⟩]).wf = true := by decide
theorem test_wf_glint : (Instr.glint 2 0).wf = false ∧ (Instr.glint 3 0).wf = true := by decide

end Sys2Proof.Tests

namespace Sys2Proof.Tests

/-! ## Instruction words, written out from Table 8.2, and the hypotheses of the Lumen statements -/

/-- A word from its opcode and its fields, each a value and its lowest bit. -/
def word (op : Nat) (fs : List (Nat × Nat)) : Pair := BitVec.ofNat 28 (op * 2 ^ 22 + (fs.map fun p => p.1 * 2 ^ p.2).sum)
/-- The machine after reset with word w at address 0 of cluster 0 and thread 0 running there. -/
def lum (w : Pair) (f : Thread → Thread) : State :=
  { State.reset with imem := [(0, w)], threads := [(0, f { ({} : Thread) with st := .run })] }
def lum0 (w : Pair) : State := lum w id
/-- Each word is issued by thread 0 as (opcode, minor code), and no field of it raises ILL-FIELD. -/
def issues (l : List (Nat × Nat × Pair)) : Bool :=
  l.all fun p => decide ((lum0 p.2.2).issue 0 p.1 p.2.1 = some p.2.2) && fieldsOk p.2.2

theorem issues_elim {op m : Nat} {w : Pair} (h : issues [(op, m, w)] = true) : Issues (lum0 w) (0 : Fin 1024) op m w := by
  simp only [issues, List.all_cons, List.all_nil, Bool.and_true, Bool.and_eq_true, decide_eq_true_eq] at h
  exact ⟨h.1, h.2⟩

/-- w1 := w2 op k4 in ALU (RD 9, RA 10, RB 4); w0:w1 := k2:k3 op w4:w5 in ALUP (RD 8, RA 2, RB 12). -/
def aluWord (fn : Nat) : Pair := word 1 [(9, 17), (10, 12), (4, 7), (fn, 3)]
def alupWord (fn : Nat) : Pair := word 2 [(8, 17), (2, 12), (12, 7), (fn, 3)]
theorem test_alu_words_issue : issues ([0, 1, 2, 3, 4, 5, 6, 7, 8, 9, 10, 11].map fun fn => (1, fn, aluWord fn)) = true := by decide
theorem test_alu_short_words_issue : issues [(1, 12, word 1 [(10, 12), (4, 7), (12, 3)]), (1, 13, word 1 [(10, 12), (4, 7), (13, 3)]),
    (1, 14, word 1 [(9, 17), (10, 12), (14, 3)])] = true := by decide
theorem test_alup_words_issue : issues ([0, 2, 4, 5, 6, 8, 9, 10, 11].map fun fn => (2, fn, alupWord fn)) = true := by decide
theorem test_alup_short_words_issue :
    issues [(2, 12, word 2 [(2, 12), (12, 7), (12, 3)]), (2, 14, word 2 [(8, 17), (2, 12), (14, 3)])] = true := by decide
theorem test_immediate_words_issue : issues ([(4, 0, word 4 [(9, 17), (9, 12), (0xFFB, 0)]), (8, 0, word 8 [(10, 12), (0x800, 0)]),
    (9, 0, word 9 [(9, 17), (10, 12), (1, 9), (13, 4)]), (9, 0, word 9 [(8, 17), (10, 12), (6, 9), (27, 4)]),
    (10, 0, word 10 [(9, 17), (0x3FFF, 3)]), (3, 0, word 3 [])]
    ++ [5, 6, 7].map fun op => (op, 0, word op [(23, 17), (0, 12), (0xFFF, 0)])) = true := by decide
theorem test_bitfield_words_issue : issues [(11, 0, word 11 [(8, 17), (23, 12), (1, 7), (1, 6)]),
    (12, 0, word 12 [(9, 17), (10, 12), (13, 8), (0, 4), (1, 3)]), (13, 0, word 13 [(9, 17), (10, 12), (0, 8), (13, 4)]),
    (14, 0, word 14 [(9, 17), (10, 12), (1, 11)]), (15, 0, word 15 [(9, 17), (10, 12), (12, 7)]),
    (0x19, 0, word 0x19 [(3, 19), (10, 12)]), (0x1A, 0, word 0x1A [(10, 17), (7, 14)])] = true := by decide
theorem test_res_words_issue : issues (([0, 1, 2, 3, 4, 5].map fun fn => (16, fn, word 16 [(8, 17), (8, 12), (9, 7), (fn, 3)]))
    ++ [6, 7, 8].map fun fn => (16, fn, word 16 [(8, 17), (9, 12), (fn, 3)])) = true := by decide
theorem test_special_words_issue : issues [(0x31, 0, word 0x31 [(8, 17), (6, 13)]), (0x32, 0, word 0x32 [(8, 17), (16, 11)]),
    (0x33, 0, word 0x33 [(8, 17), (47, 11)])] = true := by decide
theorem test_control_words_issue : issues [(0x1C, 0, word 0x1C [(3, 18), (0xFFFF, 0)]), (0x1D, 0, word 0x1D [(7, 0)]),
    (0x1E, 0, word 0x1E [(7, 0)]), (0x1F, 0, word 0x1F [(10, 12)]), (0x1F, 1, word 0x1F [(1, 21), (10, 12)]), (0x20, 0, word 0x20 []),
    (0x21, 0, word 0x21 []), (0x22, 0, word 0x22 [(2, 20), (9, 14), (0x1FF, 0)]), (0x22, 0, word 0x22 [(1, 19), (0x3FF, 9)]),
    (0x23, 0, word 0x23 [(9, 16)]), (0x23, 0, word 0x23 [(1, 21), (6, 7)])] = true := by decide
theorem test_memory_words_issue : issues [(0x14, 0, word 0x14 [(9, 17), (3, 14), (12, 9), (0x1FF, 0)]),
    (0x15, 0, word 0x15 [(9, 17), (3, 14), (12, 9), (0xFF, 0)]), (0x16, 0, word 0x16 [(10, 17), (3, 14), (12, 9), (12, 0)]),
    (0x17, 0, word 0x17 [(10, 17), (3, 14), (12, 9), (0x100, 0)]), (0x18, 0, word 0x18 [(9, 17), (3, 14), (12, 9), (1, 7)]),
    (0x18, 0, word 0x18 [(10, 17), (3, 14), (12, 9), (3, 7)]), (0x30, 0, word 0x30 [(10, 17), (3, 14), (12, 9), (14, 4)])] = true := by decide
theorem test_thread_words_issue : issues [(0x24, 0, word 0x24 []), (0x25, 0, word 0x25 [(1, 21)]),
    (0x26, 0, word 0x26 [(9, 17), (1, 14), (14, 9), (1, 8), (6, 3)]), (0x26, 0, word 0x26 [(9, 17), (3, 1)]),
    (0x27, 0, word 0x27 [(9, 17), (0x40, 0)]), (0x28, 0, word 0x28 [(9, 12)]), (0x29, 0, word 0x29 [(9, 17), (0, 15), (0x3FF, 5)]),
    (0x29, 1, word 0x29 [(9, 17), (1, 15)]), (0x29, 2, word 0x29 [(2, 15), (1, 5)]), (0x2A, 0, word 0x2A [(0xFF, 13), (9, 8)]),
    (0x2A, 1, word 0x2A [(1, 21), (7, 18)])] = true := by decide
theorem test_coprocessor_words_issue : issues [(0x2C, 0, word 0x2C [(2, 20)]), (0x2C, 1, word 0x2C [(2, 20), (1, 19)]),
    (0x2D, 0, word 0x2D [(0, 20), (5, 14), (1, 13), (10, 8), (1, 5), (12, 0)]), (0x2E, 0, word 0x2E [(1, 20), (0, 19), (10, 14), (63, 8)]),
    (0x2E, 0, word 0x2E [(1, 20), (1, 19), (10, 14)]), (0x2F, 0, word 0x2F [(2, 20), (1, 18), (3, 0)])] = true := by decide
/-- R213: an odd pair, a register of 24, a nonzero reserved field, a displacement beyond the width; R212, R213: undefined words. -/
theorem test_illegal_fields : fieldsOk (word 2 [(9, 17)]) = false ∧ fieldsOk (word 1 [(24, 17)]) = false ∧
    fieldsOk (word 3 [(1, 0)]) = false ∧ fieldsOk (word 9 [(14, 4)]) = false ∧ fieldsOk (word 0x22 [(3, 20)]) = false ∧
    defined 0 = false ∧ defined (word 1 [(15, 3)]) = false ∧ defined (word 0x34 []) = false := by decide

theorem wit_one_issue : Issues (lum0 (aluWord 0)) (0 : Fin 1024) 1 0 (aluWord 0) := issues_elim (by decide)

end Sys2Proof.Tests

namespace Sys2Proof.Tests

/-- The canonical form as one Bool. -/
def simpleForm (s : State) : Bool :=
  s.csrWf && s.pageWf && s.memWf && s.msixWf && s.unitsWf && s.listsWf && s.innerWf
theorem canon_of {s : State} (h : simpleForm s = true) : s.Canon := by
  simp only [simpleForm, Bool.and_eq_true] at h
  obtain ⟨⟨⟨⟨⟨⟨h1, h2⟩, h3⟩, h4⟩, h5⟩, h6⟩, h7⟩ := h
  exact ⟨h1, h2, h3, h4, h5, h6, h7⟩

/-- Thread 16, of core 2, in a slice 1 that holds it: a thread in job mode, with no share of any memory. -/
def lumJob (w : Pair) (f : Thread → Thread) : State :=
  { State.reset with imem := [(0, w)], threads := [(16, f { ({} : Thread) with st := .run })], cores := [(2, { slice := some 1 })] }

/-! ## Threads: registers, control, exceptions -/

/-- MFS and MTS of XREG15 in a handler at depth 2, in its register and spilled, and outside a handler. -/
theorem wit_special_registers : simpleForm (lum0 (word 0x33 [(8, 17), (47, 11)])) = true ∧
    (let x := (lum (word 0x33 [(8, 17), (47, 11)]) fun x => { x with exc := true, d := 2 }).thread 0;
      x.exc = true ∧ x.spilled ≤ xFrame x 15) ∧
    (let x := (lum (word 0x33 [(8, 17), (47, 11)]) fun x => { x with exc := true, d := 12, edepth := 0, spilled := 2 }).thread 0;
      x.exc = true ∧ xFrame x 15 < x.spilled) := by decide
/-- R207: a level on its last pass, one that goes back, a repetition. -/
def loopThread (c : BitVec 16) : Thread := { ({} : Thread) with st := .run, pc := 5, l1 := { start := 2, last := 5, count := c } }
theorem wit_loop_back : acts (loopThread 2) (loopThread 2).l1 = true ∧ acts (loopThread 2) (loopThread 2).l2 = false ∧
    decide ((loopThread 2).l1.count = 1) = false ∧ decide ((loopThread 1).l1.count = 1) = true := by decide
/-- R207: the body's last instruction goes back with COUNT 2, and past the body with COUNT 1. -/
theorem test_loop_back : ((loopThread 2).after 5).pc = 2 ∧ ((loopThread 2).after 5).l1.count = 1 ∧
    ((loopThread 1).after 5).pc = 6 ∧ ((loopThread 1).after 5).l1.count = 0 := by decide
/-- A call that spills nothing, one that spills frame 0, one at the limit. -/
theorem wit_call : ((lum0 (word 0x1E [(7, 0)])).thread 0).d < 39 ∧
    (let x := (lum (word 0x1E [(7, 0)]) fun x => { x with d := 9 }).thread 0; x.spilled + 9 = x.d) ∧
    39 ≤ ((lum (word 0x1E [(7, 0)]) fun x => { x with d := 39 }).thread 0).d := by decide
/-- R188: CALL links in w14:w15, which the callee sees as w6:w7, and moves the window by eight registers. -/
theorem test_call : (match exec (.call 0) (lum (word 0x1E [(7, 0)]) fun x => x.setR 16 5) with
    | .next s => decide ((s.thread 0).pc = 7 ∧ (s.thread 0).d = 1 ∧ (s.thread 0).r 8 = 5 ∧ (s.thread 0).rp 14 = 1)
    | _ => false) = true := by decide
theorem wit_ret : (let x := (lum (word 0x20 []) fun x => { x with d := 1 }).thread 0;
      ¬(x.d = 0 ∨ (x.exc = true ∧ x.d ≤ x.edepth.toNat + 2))) ∧ ((lum0 (word 0x20 [])).thread 0).d = 0 ∧
    (let x := (lum (word 0x20 []) fun x => { x with d := 2, exc := true }).thread 0; x.exc = true ∧ x.d ≤ x.edepth.toNat + 2) := by
  decide
theorem wit_eret : (let x := (lum (word 0x21 []) fun x => { x with d := 2, exc := true, erep := 3, esRepv := true }).thread 0;
      x.stores = [] ∧ x.exc = true ∧ x.d = x.edepth.toNat + 2 ∧ x.esRepv = true ∧ x.erep ≠ 0) ∧
    ((lum0 (word 0x21 [])).thread 0).exc = false ∧
    ((lum (word 0x21 []) fun x => { x with stores := [{ id := 0, addr := 0, pair := false, val := 0 }] }).thread 0).stores ≠ [] := by
  decide
/-- REP 6 before an ADD, an undefined word, a word with an illegal field and a BRA; a REP that ends a loop body. -/
def repState (nw : Pair) (f : Thread → Thread) : State :=
  { lum (word 0x23 [(1, 21), (6, 7)]) f with imem := (0, word 0x23 [(1, 21), (6, 7)]) :: if nw = 0 then [] else [(1, nw)] }
theorem wit_rep : (repState (aluWord 0) id).issue 0 0x23 0 = some (word 0x23 [(1, 21), (6, 7)]) ∧
    (repState (aluWord 0) id).fetchOpenAt 0 1 = true ∧ (repState (aluWord 0) id).poisoned (imemPoison 0 1) = false ∧
    (repState (aluWord 0) id).instrAt 0 1 = aluWord 0 ∧ defined (aluWord 0) = true ∧ repBars (aluWord 0) = false ∧
    (repState 0 id).fetchOpenAt 0 1 = true ∧ defined ((repState 0 id).instrAt 0 1) = false ∧
    fieldsOk ((repState (word 3 [(1, 0)]) id).instrAt 0 1) = false ∧ repBars ((repState (word 0x1D []) id).instrAt 0 1) = true ∧
    (let x := (repState (aluWord 0) fun x => { x with l0 := { count := 1 } }).thread 0; acts x x.l0 = true) ∧
    simpleForm (repState (aluWord 0) id) = true := by decide
/-- LOOP with a count, and with 0. -/
theorem wit_loop : issues [(0x22, 0, word 0x22 [(1, 19), (0x3FF, 9)]), (0x22, 0, word 0x22 [(1, 19)])] = true ∧
    ext (word 0x22 [(1, 19), (0x3FF, 9)]) 18 9 = 1023 ∧ simpleForm (lum0 (word 0x22 [(1, 19)])) = true := by decide
theorem wit_exception_entry : ((lum0 0).thread 0).exc = false ∧
    (let x := (lum 0 fun x => { x with d := 9, rep := some 3 }).thread 0; x.exc = false ∧ x.spilled + 9 = x.d) := by decide
/-- R196: a fetch outside the slice's instruction memory. -/
theorem wit_fetch_closed : (lumJob 0 id).system 16 = false ∧ (lumJob 0 id).canIssue 16 = true ∧ (lumJob 0 id).fetchOpen 16 = false := by
  decide
theorem wit_ill_op : (lum0 0).canIssue 0 = true ∧ (lum0 0).fetchOpen 0 = true ∧ (lum0 0).poisoned (imemPoison 0 0) = false ∧
    defined ((lum0 0).instrAt 0 0) = false ∧
    (lum 0 fun x => { x with exc := true }).canIssue 0 = true ∧
    ({ lum0 0 with poison := [(imemPoison 0 0, true)] } : State).poisoned (imemPoison 0 0) = true := by decide

end Sys2Proof.Tests

namespace Sys2Proof.Tests

/-! ## Memory accesses -/

/-- Bank 3 points at core scratch 0; and at address 0 of an extent of group QUAD 0. -/
def atScratch (x : Thread) : Thread := x.setBank 3 0xFF00000
def ldWord : Pair := word 0x14 [(9, 17), (3, 14), (12, 9), (0x1FF, 0)]
def stpWord : Pair := word 0x17 [(10, 17), (3, 14), (12, 9), (2, 0)]
def casWord : Pair := word 0x30 [(10, 17), (3, 14), (12, 9), (14, 4)]
def dramState (w : Pair) : State := { lum w id with csr := [(0x8, 1)], exts := [(0, { ({} : Extent) with valid := true, owner := 0 })] }
theorem wit_access_rights : top State.reset = 0 ∧ (lumJob 0 id).system 16 = false ∧ closed (lumJob 0 id) 1 0x3FC00000000 false = true ∧
    State.reset.system 0 = true ∧ populated State.reset 0 = false ∧ populated State.reset 0x3FFFFFFC000 = true ∧
    inCsr 0x3FF00000000 = true ∧ closed (lumJob 0 id) 1 0x3FFFFFFC001 false = false ∧ closed (lumJob 0 id) 1 0x3FD00000000 false = true := by
  decide
/-- LD of [b3, w4 − 1] with w4 1: scratch word 0, clean, and with an uncorrectable error. -/
theorem wit_load_on_chip : (let s := lum ldWord fun x => (atScratch x).setR 12 1; let x := s.thread 0;
      s.issue 0 0x14 0 = some ldWord ∧ bankAt x ldWord (dispSum (x.r 12) ldWord) = 0x3FC00000000 ∧
      s.accFault 0 0x3FC00000000 false false = none ∧ top s ≤ 0x3FC00000000 ∧ inScratch 0x3FC00000000 = true ∧
      s.asleepAt 0 0x3FC00000000 = none ∧ s.system 0 = true ∧ cellBad s 0 0x3FC00000000 false = false ∧
      simpleForm s = true) ∧
    cellBad { lum ldWord id with poison := [(0x3FC00000000, true)] } 0 0x3FC00000000 false = true := by decide
/-- CAS of scratch pair 0, equal and not equal to the pair compared with; a DRAM line; a faulting address; the CSR window. -/
theorem wit_cas : (let s := lum casWord atScratch; let x := s.thread 0;
      s.issue 0 0x30 0 = some casWord ∧ x.stores = [] ∧ cellVal s 0 0x3FC00000000 true = x.rp 10) ∧
    (let s := lum casWord fun x => (atScratch x).setR 10 1;
      cellVal s 0 0x3FC00000000 true ≠ (s.thread 0).rp 10) ∧
    (let s := lum casWord fun x => x.setBank 3 0xFFC0000;
      bankAt (s.thread 0) casWord 0 = 0x3FF00000000 ∧ s.accFault 0 0x3FF00000000 true false = none) ∧
    (lum0 casWord).accFault 0 0 true false = some 6 ∧ (lum0 casWord).accFault 0 1 true false = some 5 := by decide
theorem wit_dram_access : (dramState casWord).accFault 0 0 true false = none ∧ 0 < top (dramState casWord) ∧
    ((dramState casWord).place 0).isSome = true ∧ (dramState casWord).asleepAt 0 0 = none ∧ simpleForm (dramState casWord) = true := by
  decide
theorem wit_load_response : (let x := ((lum0 0).modThread 0 fun x =>
      { x with await := some { dst := 9, pair := false, ans := some (.value 7) } }).thread 0
    x.st = .run ∧ x.await = some { dst := 9, pair := false, ans := some (.value 7) } ∧ x.stores.filter PStore.arrived = []) ∧
    ([{ id := 0, addr := 0, pair := false, val := 0, ans := some (.fault 6), arrived := true }] : List PStore).filter PStore.arrived ≠ [] := by
  decide
/-- STP of k-registers to scratch; with sixteen stores outstanding; a job's store to a wave buffer that is not open to it. -/
theorem wit_store : (let s := lum stpWord atScratch; let x := s.thread 0;
      s.issue 0 0x17 0 = some stpWord ∧ bankAt x stpWord (dispSum (x.r 12) stpWord) = 0x3FC00000002 ∧
      s.accFault 0 0x3FC00000002 true true = none ∧ s.asleepAt 0 0x3FC00000002 = none ∧ x.stores.length < 16) ∧
    (let s := lum stpWord fun x => { atScratch x with stores := List.replicate 16 { id := 0, addr := 0, pair := false, val := 0 } };
      16 ≤ (s.thread 0).stores.length) ∧
    (let s := lumJob 0 id;
      s.accFault 16 0x3FD00000000 false true = none ∧ top s ≤ 0x3FD00000000 ∧ inWave 0x3FD00000000 = true ∧
        s.asleepAt 16 0x3FD00000000 = none ∧ s.system 16 = false ∧ wavePart s (s.sliceOf 16) 0x3FD00000000 false = false) := by decide
/-- R226: STP writes the low word of the pair at the even address and the high word after it. -/
theorem test_store_pair : (match exec (.stp 0) (lum stpWord fun x => (atScratch x).setRp 10 (3 + 5 * 2 ^ 14)) with
    | .next s => decide (s.getWord 0x3FC00000002 = 3 ∧ s.getWord 0x3FC00000003 = 5 ∧ s.getWord 0x3FC00000001 = 0)
    | _ => false) = true := by decide
/-- R203: stores whose fault has come back, at a running thread and at one that awaits a load. -/
theorem wit_store_answer : (let p : PStore := { id := 0, addr := 0, pair := false, val := 0, ans := some (.fault 6) };
    let x := (lum 0 fun x => { x with stores := [p] }).thread 0;
    x.stores[(0 : Fin 16).val]? = some p ∧ x.await = none ∧ x.st = .run ∧
      x.stores.filter (fun q => q.arrived || decide (q.id = p.id)) = [p]) ∧
    ((lum 0 fun x => { x with await := some { dst := 8, pair := false } }).thread 0).await.isSome = true := by decide

/-! ## Tasks, outputs, channels, events, debug -/

theorem wit_task : ((lum0 (word 0x24 [])).thread 0).hasTask = false ∧ ((lum0 (word 0x24 [])).thread 0).child = false ∧
    (let x := (lum (word 0x24 []) fun x => { x with hasTask := true }).thread 0; x.stores = [] ∧ x.hasTask = true) ∧
    (let x := (lum (word 0x24 []) fun x => { x with child := true, staged := [1] }).thread 0; x.child = true ∧ x.staged ≠ []) := by decide
theorem wit_done : (let x := (lum (word 0x25 [(1, 21)]) fun x => { x with hasTask := true }).thread 0;
      x.stores = [] ∧ x.hasTask = true ∧ x.staged = [] ∧ x.copq = []) ∧
    (let s := lum 0 fun x => { x with st := .blocked, blk := .done, hasTask := true }; let x := s.thread 0;
      x.st = .blocked ∧ x.blk = .done ∧ x.hasTask = true ∧ x.stores = [] ∧ (s.slot 0 0).succ0 = none ∧ (s.slot 0 0).succ1 = none ∧
      (∀ c, c < 8 → isChild s 0 c = false) ∧ (∀ o ∈ x.outs, o.2.valid = false) ∧ x.gath = [] ∧ bitOf x.bw 21 = false ∧ (s.slot 0 0).ports = 0) := by decide
theorem wit_out : (let s := lum (word 0x26 [(9, 17), (3, 14), (12, 9), (1, 8), (14, 3)]) atScratch;
      s.accFault 0 0x3FC00000000 false false = none) ∧
    issues [(0x26, 0, word 0x26 [(9, 17), (3, 14), (12, 9), (1, 8), (14, 3)]), (0x26, 0, word 0x26 [(9, 17), (3, 1)])] = true ∧
    (lum0 0).accFault 0 0 false false = some 6 ∧
    (let s := { dramState (word 0x26 [(9, 17), (1, 14)]) with exts := [] };
      s.issue 0 0x26 0 = some (word 0x26 [(9, 17), (1, 14)]) ∧ s.accFault 0 0 false false = none ∧ 0 < top s ∧ (s.extent 0).valid = false) := by decide
/-- FORK with thread 1 waiting at TASK (after reset every other thread waits), and with the core full; JOIN with and without a child. -/
def fullCore : State := { State.reset with
  imem := [(0, word 0x27 [(9, 17), (0x40, 0)])]
  threads := (List.range 8).map fun i => (i, { ({} : Thread) with st := .run, child := decide (i = 1) }) }
theorem wit_fork : waitersOfCore (lum0 (word 0x27 [(9, 17), (0x40, 0)])) 0 ≠ [] ∧ waitersOfCore fullCore 0 = [] ∧
    fullCore.issue 0 0x27 0 = some (word 0x27 [(9, 17), (0x40, 0)]) ∧ isChild fullCore 0 1 = true ∧ isChild fullCore 0 2 = false := by
  decide
/-- R248: a CHR of a channel that is not VALID, of another slice, of DISPATCH; CHC with nothing staged; a 33rd word. -/
def chanState (cfg : Pair) (f : Thread → Thread) : State := { lumJob 0 f with csr := [(0x1401004, cfg)] }
theorem wit_channel_faults : chanReason (chanState 0 id) 16 0 1 = some 5 ∧ chanReason (chanState 0x42 id) 16 0 1 = some 0 ∧
    chanReason (chanState 0x41 id) 16 0 1 = none ∧ chanReason (chanState 0x41 id) 16 0 0x101 = some 4 ∧
    chanReason (chanState 0x41 id) 16 2 1 = some 3 ∧
    chanReason (chanState 0x41 fun x => { x with staged := List.replicate 32 0, stagedCh := 1 }) 16 1 1 = some 2 ∧
    chanReason (chanState 0x41 fun x => { x with staged := [1], stagedCh := 1 }) 16 2 1 = none ∧
    chanReason (chanState 0x41 fun x => { x with staged := [1], stagedCh := 0x102 }) 16 2 0x102 = some 7 ∧
    chanReason (chanState 0x41 fun x => { x with staged := [0, 0], stagedCh := 0x102 }) 16 2 0x102 = some 8 ∧
    chanReason (chanState 0x41 id) 16 0 0x102 = some 6 ∧
    chanReason (chanState 0x41 fun x => { x with timer := some 5 }) 16 0 0x102 = none ∧
    chanReason (chanState 0x41 fun x => { x with reply := [1] }) 16 0 0x100 = none := by decide
/-- Channel 1 with a message and no reader; full; with a reader that waits; a writer that waits. -/
theorem wit_channels : (let s := { lum0 0 with chans := [(1, { ({} : Chan) with msgs := [[7]] })] };
      (s.chan 1).rest = [] ∧ s.readers 1 = [] ∧ (s.chan 1).msgs = [[7]]) ∧
    (let s := { lum 0 fun x => { x with st := .blocked, blk := .chr, bw := word 0x29 [(9, 17), (1, 5)] } with
        chans := [(1, { ({} : Chan) with msgs := [[7, 8]] })] };
      s.readers 1 = [0] ∧ (s.chan 1).rest = []) ∧
    (let s := { lum0 0 with chans := [(1, { ({} : Chan) with writers := [{ pos := 0, qp := none, words := [1] }] })] };
      (s.chan 1).writers = [{ pos := 0, qp := none, words := [1] }] ∧ (s.chan 1).level + 1 ≤ 64) ∧
    (let s := { lum0 0 with chans := [(1, { ({} : Chan) with msgs := List.replicate 8 (List.replicate 8 0), writers := [{ pos := 0, qp := none, words := [1] }] })] };
      64 < (s.chan 1).level + 1) := by decide
/-- R251: CHR takes the oldest message's first word. -/
theorem test_chr : (match exec (.chr 0) { lum (word 0x29 [(9, 17), (1, 5)]) id with
      csr := [(0x1401004, 0x40)]
      chans := [(1, { ({} : Chan) with msgs := [[7, 8]] })] } with
    | .next s => decide ((s.thread 0).r 9 = 7 ∧ (s.chan 1).rest = [8] ∧ (s.chan 1).holder = some 0)
    | _ => false) = true := by decide
theorem wit_wfe : (let x := (lum (word 0x2A [(0xFF, 13), (9, 8)]) fun x => { x with evr := 4 }).thread 0; x.evr &&& 0xFF ≠ 0) ∧
    ((lum0 0).thread 0).evr &&& 0xFF = 0 := by decide
/-- R258: a timer that has expired at tick 6, and one still to expire. -/
theorem wit_timer : ((BitVec.ofNat 28 ({ lum0 0 with copy := 6 } : State).copy.toNat - 5 : BitVec 28)).toNat < 2 ^ 27 ∧
    2 ^ 27 ≤ ((BitVec.ofNat 28 ({ lum0 0 with copy := 4 } : State).copy.toNat - 5 : BitVec 28)).toNat := by decide

end Sys2Proof.Tests

namespace Sys2Proof.Tests

/-- Slice 1 in use, its one live thread blocked in CHR on a valid channel for 8,192 CCLK: the slice is stalled, the thread its supervisor. -/
def stalledSlice : State := { lumJob 0 fun x => { x with st := .blocked, blk := .chr, bw := word 0x29 [(9, 17), (1, 5)] } with
  csr := [(0x1401004, 0x41)]
  slices := [(1, { sliceReset 1 with state := 1, stallRun := 8192 })] }
theorem wit_stall : stalledSlice.stalled 1 = true ∧ (stalledSlice.slice 1).stallRun = 8192 ∧ (stalledSlice.slice 1).stallShut = false ∧
    (stalledSlice.threads.any fun x => x.2.live && stalledSlice.assigned x.1 1) = true ∧ (stalledSlice.thread 16).exc = false ∧ stalledSlice.sliceState 1 = 1 ∧ stalledSlice.supervisor 1 = some 16 ∧
    State.reset.stalled 1 = false := by decide
/-- A debug operation in progress on thread 0: HALT of a running thread, RESUME and STEP of a halted one, KILL. -/
def debugging (op : Nat) (f : Thread → Thread) : State :=
  { lum 0 f with csr := if op = 0 then [(0x1400108, 0x2000)] else [(0x1400104, BitVec.ofNat 28 op), (0x1400108, 0x2000)] }
def dbgGoing (s : State) (op : Nat) : Bool :=
  bitOf (s.reg 0x1400108) 13 && decide (ext (s.reg 0x1400104) 2 0 = op) && decide (ext (s.reg 0x1400100) 9 0 = 0)
theorem wit_debug : dbgGoing (debugging 1 id) 1 = true ∧ dbgGoing (debugging 2 fun x => { x with st := .halted, prior := .run }) 2 = true ∧
    dbgGoing (debugging 4 fun x => { x with st := .halted, prior := .run }) 4 = true ∧ dbgGoing (debugging 3 id) 3 = true ∧
    (debugging 3 id).quiet 0 = true ∧ (∀ u, u < 8 → isChild (debugging 3 id) 0 u = false) ∧
    dbgGoing (debugging 0 id) 1 = false ∧
    (debugging 3 fun x => { x with await := some { dst := 8, pair := false } }).quiet 0 = false := by decide
theorem wit_debug_data : writesReg (debugging 0 fun x => { x with st := .halted }) 0x1400114 ∧
    ((debugging 0 fun x => { x with st := .halted }).thread 0).st = .halted ∧
    ((lum0 0).thread 0).st = .run ∧ writesReg (lum0 0) 0x1400114 := ⟨⟨by decide, by decide⟩, by decide, by decide, ⟨by decide, by decide⟩⟩
theorem wit_chan_config : writesReg State.reset 0x1401004 ∧ State.reset.chanWaiters 1 = [] ∧ stalledSlice.chanWaiters 1 = [16] ∧
    (stalledSlice.thread 16).exc = false ∧ ext (State.reset.reg 0x1401004) 6 0 ≠ ext (0x41 : Pair) 6 0 :=
  ⟨⟨by decide, by decide⟩, by decide, by decide, by decide, by decide⟩

end Sys2Proof.Tests

namespace Sys2Proof.Tests

/-! ## Coprocessors -/

/-- Unit n with context 0 held by thread 0 and the commands listed. -/
def copState (n : Nat) (x : Ctx) (cmds : List Cmd) : State :=
  { State.reset with units := [(n, { ctxs := [(0, { x with holder := some 0 })], cmds := cmds })] }
/-- An immediate command with ARG arg. -/
def cmdOf (code arg : Nat) : Cmd :=
  { tag := 0, thread := 0, ctx := 0, cmd := BitVec.ofNat 6 code, ptr := false, bank := 0, arg := BitVec.ofNat 28 arg }
theorem runs_of (n code arg : Nat) (x : Ctx) (hn : n < 8) (hc : code < 64) : Runs (copState n x [cmdOf code arg]) n 0 code (cmdOf code arg) where
  oldest := by simp [copState, State.unit, SMap.get, cmdOf]
  ring := by intro o h; simp [copState, State.reset] at h
  code := by simp [cmdOf]; omega
  up := ⟨rfl, rfl, by
    have h : State.reset.domOn (3 + n / 8) = true := by rw [Nat.div_eq_of_lt hn]; decide
    exact h⟩
  wake := by intro h; simp [cmdOf] at h
  lines := by intro h; simp [cmdOf] at h
  cpms := by simp [copState, State.unit, SMap.get]
/-- Words that stand already where they are put leave the machine as it is. -/
theorem puts_same {s : State} {n : Nat} {c : Cmd} {aux : Bool} {as : List Nat} {v : Nat} {ws : List Word} (h : c.ptr = false)
    (hw : ∀ i, i < ws.length → vWord (s.ctx n c.ctx.val) (v + i) = ws.getD i 0) : puts s n c aux as v ws s := by
  simp only [puts, h, Bool.false_eq_true, if_false, true_and, implies_true, and_true]
  intro i _
  split
  · rename_i hv
    rw [← hw (i - v) (by omega), show v + (i - v) = i by omega]
  · rfl
theorem gets_zero {s : State} {n : Nat} {c : Cmd} {aux : Bool} {as : List Nat} {v : Nat} (h : c.ptr = false)
    (hw : vWord (s.ctx n c.ctx.val) v = 0) : gets s n c aux as v 1 [0] s := by
  simp [gets, h, hw]

theorem vWord_zero {n v : Nat} {x : Ctx} {cmds : List Cmd} (hx : x.uregs = []) : vWord ((copState n x cmds).ctx n 0) v = 0 := by
  simp [copState, State.ctx, State.unit, SMap.get, vWord, Ctx.ureg, hx]

/-- R286, R287: ENC of one zero word against a zero reference, whose one code word stands at V48 already, and its DEC. -/
theorem wit_enc : let x : Ctx := {}
    let c := cmdOf 0 0
    let s := copState 0 x [c]
    Runs s 0 0 0 c ∧ gets s 0 c false (inSpan c 0 1) 0 1 [0] s ∧ gets s 0 c true (auxSpan x 1) 24 1 [0] s ∧ argBit c 13 = false ∧ lenOf 0 c = 1 ∧
      puts s 0 c false (outSpan x (encode [0]).length) 48 (encode [0]) s ∧ (encode [0]).length = 1 := by
  intro x c s
  refine ⟨runs_of 0 0 0 x (by decide) (by decide), gets_zero rfl (vWord_zero rfl), gets_zero rfl (vWord_zero rfl), by decide, by decide,
    puts_same rfl fun i hi => ?_, by decide⟩
  have h : i = 0 := by have : (encode [0]).length = 1 := by decide
                       omega
  subst h
  decide
theorem wit_enc_ring : let c := cmdOf 0 0x2000
    let s := copState 0 {} [c]
    Runs s 0 0 0 c ∧ argBit c 13 = true ∧ s.offers.filter (fun o => decide (o.src.val = 0)) = [] :=
  ⟨runs_of 0 0 0x2000 {} (by decide) (by decide), by decide, by decide⟩
theorem wit_dec : let x : Ctx := {}
    let c := cmdOf 1 0
    let s := copState 0 x [c]
    Runs s 0 0 1 c ∧ argBit c 13 = false ∧ vWord x 48 = (encode [0]).getD 0 0 ∧ puts s 0 c false (outSpan x 1) 0 [0] s := by
  intro x c s
  exact ⟨runs_of 0 1 0 x (by decide) (by decide), by decide, by decide, puts_same rfl fun i hi => by
    have h : i = 0 := by simpa using hi
    subst h; decide⟩
/-- R287: a reserved code word. -/
theorem wit_dec_bad : 3 * 2 ^ 12 ≤ (vWord { uregs := [(24, 0x3000)] } 48).toNat := by decide
/-- R288: each XEV command on zero words, its results standing where they go already: zeros, and X from VNOT4 of Z nowhere. -/
theorem wit_xev : let s (code : Nat) := copState 1 {} [cmdOf code 0]
    (∀ fn : Fin 7, Runs (s fn) 1 0 fn (cmdOf fn 0)) ∧ (∀ code : Fin 12, Runs (s code) 1 0 code (cmdOf code 0)) ∧
    (∀ code, gets (s code) 1 (cmdOf code 0) false (inSpan (cmdOf code 0) 0 1) 0 1 [0] (s code)) ∧
    (∀ code, gets (s code) 1 (cmdOf code 0) true (auxSpan {} 1) 32 1 [0] (s code)) ∧
    (∀ code, puts (s code) 1 (cmdOf code 0) false (outSpan {} 1) 64 [0] (s code)) ∧ wireTab 0 0 = 0 ∧ wandTab 0 0 = 0 ∧ and4Tab 0 0 = 0 := by
  intro s
  refine ⟨fun fn => runs_of 1 fn 0 {} (by decide) (by omega), fun code => runs_of 1 code 0 {} (by decide) (by omega),
    fun code => gets_zero rfl (vWord_zero rfl), fun code => gets_zero rfl (vWord_zero rfl), fun code => puts_same rfl fun i hi => ?_, rfl, rfl, rfl⟩
  have h : i = 0 := by simpa using hi
  subst h
  exact vWord_zero rfl
theorem wit_match : ∀ i, i < 1 → matches4 (([0] : List Word).getD i 0) (([0] : List Word).getD i 0) := by
  intro i hi
  have h : i = 0 := by omega
  subst h
  exact fun j _ => .inr rfl
set_option exponentiation.threshold 1600 in
/-- R289: each Sponge command in the state it needs and in another. -/
theorem wit_sponge : let s (p : BitVec 2) (code : Nat) := copState 2 { sponge := p } [cmdOf code 0]
    (∀ p, ∀ code : Fin 17, Runs (s p code) 2 0 code (cmdOf code 0)) ∧
    (∀ p code, gets (s p code) 2 (cmdOf code 0) false (inSpan (cmdOf code 0) 0 1) 0 1 [0] (s p code)) ∧
    (∀ p code, ((s p code).ctx 2 0).sponge = p) ∧ (∀ p code, puts (s p code) 2 (cmdOf code 0) false (outSpan {} 1) 0 [0] (s p code)) ∧
    bitStream false [0] = (kSqueeze 14 (((s 2 3).ctx 2 0).keccak, ((s 2 3).ctx 2 0).pos) []).1 := by
  intro s
  refine ⟨fun p code => runs_of 2 code 0 _ (by decide) (by omega), fun p code => gets_zero rfl (vWord_zero rfl), fun p code => rfl,
    fun p code => puts_same rfl fun i hi => ?_, by decide⟩
  have h : i = 0 := by simpa using hi
  subst h
  exact vWord_zero rfl
/-- R273, R274: a unit with a free context, one with none, one that waits; a context to be released, idle and busy. -/
def fullUnit : CopUnit :=
  { ctxs := (List.range 4).map fun k => (k, { ({} : Ctx) with holder := some 8 }), waiters := [0] }
theorem wit_contexts : ctxFree (lum0 0) 0 0 ∧ holdsNone (lum0 0) 0 0 ∧ ((lum0 0).unit 0).waiters = [] ∧
    (∀ k, k < 4 → ¬ctxFree { lum0 0 with units := [(0, fullUnit)] } 0 k) ∧
    ¬holdsNone (copState 0 {} []) 0 0 ∧ (copState 0 {} []).unit 0 ≠ {} ∧ busyCmds (copState 0 {} []) 0 0 = [] ∧
    busyCmds (copState 0 {} [cmdOf 0 0]) 0 0 ≠ [] ∧
    (({ lum0 0 with units := [(0, { ctxs := [(0, { ({} : Ctx) with releasing := true })], waiters := [0] })] } : State).ctx 0 0).releasing = true ∧
    ctxFree { lum0 0 with units := [(0, { ctxs := [(0, { ({} : Ctx) with releasing := true })], waiters := [0] })] } 0 1 := by
  simp only [ctxFree, holdsNone]
  decide
/-- R274 to R276: CPQ of ENC, immediate, by the holder; by a thread that holds nothing; of an undefined command; with a bad argument; CPM. -/
def cpqWord (cmd : Nat) : Pair := word 0x2D [(0, 20), (cmd, 14), (10, 8), (12, 0)]
def cpqState (w : Pair) (f : Thread → Thread) : State := { lum w f with units := [(0, { ctxs := [(0, { ({} : Ctx) with holder := some 0 })] })] }
theorem wit_cpq : cpqCode (cpqState (cpqWord 0) id) 0 (cpqWord 0) = none ∧ cpqCode (lum0 (cpqWord 0)) 0 (cpqWord 0) = some 0x21 ∧
    cpqCode (cpqState (cpqWord 2) id) 0 (cpqWord 2) = some 0x22 ∧
    cpqCode (cpqState (cpqWord 0) fun x => x.setR 10 24) 0 (cpqWord 0) = some 0x24 ∧
    issues [(0x2D, 0, cpqWord 0)] = true ∧ ((cpqState (cpqWord 0) id).unit 0).held 0 = some 0 ∧
    ((cpqState (cpqWord 0) id).unit 0).cmds = [] ∧
    ((cpqState (cpqWord 0) id).thread 0).copq = [] := by decide
/-- R281: a CPQ and a CPM behind an instruction that has raised a precise exception, their handler not begun; and none. -/
def behindFault (w : Pair) : State := cpqState w fun x => { x with exc := true, ecause := 6, epcx := 0xFFFF, pc := 6 }
def cpmWord (rd : Nat) : Pair := word 0x2E [(rd, 19), (10, 14), (57, 8)]
theorem wit_squashed : (behindFault (cpqWord 0)).squashedWord 0 0x2D = some (cpqWord 0) ∧ cpqCode (behindFault (cpqWord 0)) 0 (cpqWord 0) = none ∧
    (behindFault (cpqWord 2)).squashedWord 0 0x2D = some (cpqWord 2) ∧ cpqCode (behindFault (cpqWord 2)) 0 (cpqWord 2) ≠ none ∧
    (behindFault (cpmWord 0)).squashedWord 0 0x2E = some (cpmWord 0) ∧ bitOf (cpmWord 0) 19 = false ∧
    ((behindFault (cpmWord 0)).unit 0).held 0 = some 0 ∧ (behindFault (cpmWord 1)).squashedWord 0 0x2E = some (cpmWord 1) ∧
    bitOf (cpmWord 1) 19 = true ∧ (lum0 0).squashedWord 0 0x2D = none ∧ (lum0 0).squashedWord 0 0x2E = none := by decide
/-- R275, R278: CPM of PARAM, with no command that has not read its operands, and with one; a CPM write that waits. -/
def waitingCpm : CpmWrite := { ctx := 0, tag := 0, reg := 57, v := 5 }
def cpmState (n : Nat) : State :=
  { copState n {} [cmdOf 0 0] with units := [(n, { ctxs := [(0, { ({} : Ctx) with holder := some 0 })], cmds := [cmdOf 0 0], cpms := [waitingCpm] })] }
theorem wit_cpm : issues [(0x2E, 0, cpmWord 0), (0x2E, 0, cpmWord 1)] = true ∧ unreadCmds (cpqState (cpmWord 0) id) 0 0 = [] ∧
    unreadCmds (copState 0 {} [cmdOf 0 0]) 0 0 = [] ++ [cmdOf 0 0] ∧ uregKeeps 57 ≠ 0 ∧
    (∃ p ∈ ((cpmState 0).unit 0).cpms, p.ctx.val = 0) ∧ ((cpmState 2).unit 2).cpms = [waitingCpm] ∧ waitingCpm.ctx = 0 ∧
    waitingCpm.tag = (cmdOf 0 0).tag ∧ ∀ d ∈ ((cpmState 2).unit 2).cmds, d.tag = (cmdOf 0 0).tag → d = cmdOf 0 0 := by decide
theorem oldest_with_cpm : Oldest (cpmState 2) 2 0 0 (cmdOf 0 0) where
  oldest := by decide
  ring := by intro o h; simp [cpmState, copState, State.reset] at h
  code := by decide
  up := ⟨rfl, rfl, by decide⟩
  wake := by intro h; cases h
/-- R282: a failed completion of unit 0 with status 0x26 in front, and the CPU, CHR and DONE that raise it. -/
theorem wit_failed : ext (0x980 : Word) 11 6 ≠ 0 ∧ ext (0x980 : Word) 1 0 = 0 ∧ failed 0 0x980 = true ∧
    issues [(0x2C, 1, word 0x2C [(1, 19)]), (0x29, 0, word 0x29 [(9, 17), (0x104, 5)]), (0x25, 0, word 0x25 [])] = true ∧
    chF (word 0x29 [(9, 17), (0x104, 5)]) = 0x104 := by decide
theorem wit_completion : let s := copState 0 {} [{ cmdOf 0 0 with done := some (0, false) }]
    simpleForm s = true ∧ (s.unit 0).cmds = [] ++ { cmdOf 0 0 with done := some (0, false) } :: [] ∧ ((lum0 0).unit 0).cmds = [] ∧
      (s.thread 0).copq.length < 48 ∧ 48 ≤ ((lum 0 fun x => { x with copq := List.replicate 48 0 }).thread 0).copq.length := by decide
theorem wit_cpm_read : let s := cpqState 0 fun x => { x with await := some { dst := 10, pair := true, cpm := some (0, 63) } }
    (s.thread 0).st = .run ∧ (s.thread 0).await = some { dst := 10, pair := true, cpm := some (0, 63) } ∧ (s.unit 0).held 0 = some 0 ∧
      busyCmds s 0 0 = [] ∧ (s.thread 0).stores.filter PStore.arrived = [] := by decide
/-- R279: words of scratch 0 as a unit reads and writes them; and an access that faults. -/
theorem wit_pointer : (∀ a ∈ [0x3FC00000000, 0x3FC00000001], State.reset.accFault 0 a false false = none ∧ top State.reset ≤ a ∧
      State.reset.poisoned (cellAt 0 a) = false) ∧ ([0x3FC00000000, 0x3FC00000001].map (cellAt 0)).Nodup ∧
    State.reset.accFault 0 0 false false = some 6 := by decide
/-- R336: XCOUNT of DRAM word 0 in pointer mode, whose line no channel has served. -/
def pointerCmd : Cmd := { cmdOf 9 0 with ptr := true }
def pointerState : State := { dramState 0 with units := [(1, { ctxs := [(0, { ({} : Ctx) with holder := some 0 })], cmds := [pointerCmd] })] }
theorem wit_pointer_wait : Oldest pointerState 1 0 9 pointerCmd ∧
    ∃ w ∈ pointerState.cmdWants 1 pointerCmd (pointerState.ctx 1 0), pointerState.visited (.cmd 1 pointerCmd.tag) w.lines = false :=
  ⟨⟨by decide, (by intro o h; simp [pointerState, dramState, lum, State.reset] at h), by decide, ⟨rfl, rfl, by decide⟩, fun _ => by decide⟩, by decide⟩
theorem test_pointer_fault : (match (State.reset.readFor 0 (State.reset.asUnit 0 0) [0]).1 with
    | .fault e a => decide (e = 6 ∧ a = 0)
    | _ => false) = true := by decide

end Sys2Proof.Tests

namespace Sys2Proof.Tests

/-! ## Rings, semaphores, registers -/

def regs (l : List (Nat × Pair)) : State := { State.reset with csr := l }
/-- Ring 0: EN, 64 lines at line 0, slice 0, in an installed and assigned extent; MODE and kind as given. -/
def ringState (mode st : Nat) (off : List Offer) : State :=
  { State.reset with
    csr := (0x8, 1) :: (0x1A00000, BitVec.ofNat 28 (1 + mode * 2 + 6 * 2 ^ 10)) :: if st = 0 then [] else [(0x1A0003C, BitVec.ofNat 28 st)]
    exts := [(0, { ({} : Extent) with valid := true })]
    slices := [(0, { sliceReset 0 with state := 1 })]
    offers := off }
def echoOffer : Offer :=
  { ring := 0, src := 0, rtype := 1, slice := 0, system := true, epoch := 0, ref := 0, change := false, words := [17, 6, 1, 0, 0], cmd := none }
theorem wit_ring_start : writesReg (ringState 0 0 []) (rgAt 0 0x38) ∧ rgStarts (ringState 0 0 []) 0 ∧ ¬rgStarts State.reset 0 ∧
    writesReg State.reset (rgAt 0 0x38) :=
  ⟨⟨by decide, by decide⟩, by simp only [rgStarts]; decide, by simp only [rgStarts]; decide, ⟨by decide, by decide⟩⟩
/-- A line that has room and storage, one without storage, one without room; a ring with a line on its way. -/
theorem wit_ring_line : (let s := ringState 0 1 []; writesReg s (rgAt 0 0x38) ∧ 1 ≤ rgState s 0 ∧ rgState s 0 ≤ 4 ∧ rgRoom s 0 1 ∧
      (s.ring 0).line.length < 36 ∧ (s.place (rgLine s 0)).isSome = true) ∧
    (let s := { ringState 0 1 [] with exts := [] }; rgRoom s 0 1 ∧ s.place (rgLine s 0) = none) ∧
    ¬rgRoom { State.reset with csr := [(0x1A00000, 0x1801), (0x1A0000C, 64), (0x1A0003C, 1)] } 0 1 ∧
    (({ ringState 0 1 [echoOffer] with rings := [(0, { ({} : Ring) with sent := [false] })] } : State).ring 0).sent ≠ [] :=
  ⟨⟨⟨by decide, by decide⟩, by decide, by decide, .inr (by decide), by decide, by decide⟩, ⟨.inr (by decide), by decide⟩,
    by simp only [rgRoom]; decide, by decide⟩
/-- Two sources with a record for one ring: whichever the pointer of the CCLK reaches first. -/
def otherOffer : Offer := { echoOffer with src := 4 }
theorem wit_record_order : ∃ (src b : Fin 14) (o2 : Offer), let s := ringState 0 1 [echoOffer, otherOffer]
    let far (c : Fin 14) : Nat := (c.val + 14 - s.pointer 5000 14) % 14
    s.offers.filter (fun p => decide (p.ring.toNat = 0 ∧ p.src ≠ src)) = [o2] ∧ o2.src = b ∧ s.headOffer b = some o2 ∧ far b < far src := by
  have hp : (ringState 0 1 [echoOffer, otherOffer]).pointer 5000 14 < 14 := Nat.mod_lt _ (by decide)
  rcases (by omega : (0 + 14 - (ringState 0 1 [echoOffer, otherOffer]).pointer 5000 14) % 14 <
      (4 + 14 - (ringState 0 1 [echoOffer, otherOffer]).pointer 5000 14) % 14 ∨
    (4 + 14 - (ringState 0 1 [echoOffer, otherOffer]).pointer 5000 14) % 14 <
      (0 + 14 - (ringState 0 1 [echoOffer, otherOffer]).pointer 5000 14) % 14) with h | h
  · exact ⟨4, 0, echoOffer, by decide, rfl, by decide, h⟩
  · exact ⟨0, 4, otherOffer, by decide, rfl, by decide, h⟩
theorem wit_only_source : onlySource (ringState 0 1 [echoOffer]) 0 0 ∧ ((ringState 0 1 [echoOffer]).ring 0).sent = [] ∧
    (ringState 0 1 [echoOffer]).offers = [] ++ echoOffer :: [] := by
  refine ⟨fun p hp _ => ?_, rfl, rfl⟩
  rw [List.mem_singleton.1 hp]; rfl
/-- R301: a RAW record of slice 0 for a ring of kind RAW, in the CCLK of a TRIG write. -/
def rawOffer : Offer := { echoOffer with rtype := 2, src := 3, epoch := 9, words := [18, 6, 1, 0, 0] }
theorem wit_record_cause : (let s := { State.reset with csr := [(0x8, 1), (0x1A00000, BitVec.ofNat 28 (1 + 6 * 2 ^ 10 + 2 * 2 ^ 15)), (0x1A0003C, 1)], slices := [(0, { sliceReset 0 with state := 1 })], offers := [rawOffer] };
    writesReg s (rgAt 0 0x38) ∧ s.offers = [rawOffer] ∧ rawOffer.ring.toNat = 0 ∧ rawOffer.cmd = none ∧ rawOffer.rtype = 2 ∧ disposed s rawOffer = 2 ∧
      rgF s 0 0 17 15 = 2 ∧ rgF s 0 0x3C 6 6 = 0 ∧ rgState s 0 = 1 ∧ rgF s 0 0 18 18 = 0 ∧ (s.ring 0).sent = [] ∧
      (s.ring 0).line.length + rawOffer.words.length < 28) :=
  ⟨⟨by decide, by decide⟩, rfl, by decide, rfl, by decide, by decide, by decide, by decide, by decide, by decide, by decide, by decide⟩
/-- Table 11.3: refused by an IDLE ring, filtered by a TRIGGERED window past its end, appended. -/
theorem wit_record : disposed (ringState 0 0 [echoOffer]) echoOffer = 0 ∧ disposed (ringState 0 1 [echoOffer]) echoOffer = 2 ∧
    disposed (ringState 2 4 []) { echoOffer with epoch := 1 } = 1 ∧ rgF (ringState 0 1 [echoOffer]) 0 0 17 15 = 0 ∧
    ((ringState 0 1 [echoOffer]).ring 0).line.length + echoOffer.words.length < 35 := by decide
theorem wit_trigger : rgF (ringState 0 1 []) 0 0x3C 6 6 = 0 ∧ rgState (ringState 2 3 []) 0 = 3 ∧ rgState (ringState 2 2 []) 0 = 2 ∧
    (ringState 2 3 []).sliceState (rgF (ringState 2 3 []) 0 0 8 3) = 1 := by decide
/-- R319, R321: an acquire of a free, a held and a forbidden semaphore; release by its owner; a lease that runs out. -/
def semHeld : State := { State.reset with sems := [(0, { ({} : Sem) with held := true, owner := 0, left := 1 })] }
theorem wit_semaphore : (semStep State.reset 0 (.thread 0) 0).1 = 0 ∧ (semStep semHeld 0 (.thread 1) 0).1 = 1 ∧
    (semStep semHeld 0 (.thread 0) 0).1 = 2 ∧ (semStep semHeld 0 (.queue 1 0) 0).1 = 5 ∧ (semStep semHeld 1 (.thread 0) 0).1 = 0 ∧
    (semStep semHeld 1 (.thread 1) 0).1 = 3 ∧ (semStep semHeld 2 (.thread 0) 0).2.left = 0 ∧ simpleForm semHeld = true ∧
    (semHeld.sem 0).held = true ∧ (semHeld.sem 0).left = 1 ∧ bitOf (0x1000 : Pair) 12 = true ∧ ext (0x1000 : Pair) 11 0 = 0 := by decide
theorem wit_force : writesReg semHeld 0x1C00010 ∧ writesReg State.reset 0x1C00010 := ⟨⟨by decide, by decide⟩, ⟨by decide, by decide⟩⟩
/-- R323: an operation that waits alone at its group, one that does not wait, one that waits at a strobe. -/
def semAsks (op : Fin 4) (m : SemMaster) : State := match m with
  | .thread _ => { semHeld with tick := 400, threads := [(0, { ({} : Thread) with st := .run, await := some { dst := 8, pair := true, addr := BitVec.ofNat 42 (0x3FF00000000 + (0x1C10000 + 0x4000 * op.val) / 2) } })] }
  | .queue _ _ => { semHeld with tick := 400, qps := [(8, { ({} : QpState) with entry := some { entry := BitVec.ofNat 512 (5 + op.val * 2 ^ 76), engine := 0, started := false, moved := 0, status := none, res0 := 0, res1 := 0, sent := true } })] }
  | .umbra => { semHeld with tick := 400, umbraSem := some (semOpOf op, 0) }
theorem semDue_alone {s : State} {op : Fin 4} {m : SemMaster} (h : s.semReqs = [(m, semOpOf op, 0)]) : semDue s op m 0 :=
  ⟨h ▸ List.mem_singleton_self _, fun r hr _ => .inl (List.mem_singleton.1 (h ▸ hr))⟩
theorem wit_semaphore_due : (∀ op, semDue (semAsks op (.thread 0)) op (.thread 0) 0) ∧ (∀ op, semDue (semAsks op .umbra) op .umbra 0) ∧
    (∀ op, semDue (semAsks op (.queue 1 0)) op (.queue 1 0) 0) ∧ ¬semDue semHeld 0 (.thread 0) 0 ∧ semHeld.semReqs = [] ∧
    ({ semHeld with copy := 400 } : State).leaseAt + 400 ≤ 400 ∧ semHeld.copy.toNat < semHeld.leaseAt + 400 :=
  ⟨fun op => semDue_alone (by revert op; decide), fun op => semDue_alone (by revert op; decide), fun op => semDue_alone (by revert op; decide +kernel),
    fun k => absurd k.1 (by decide), rfl, by decide, by decide⟩
/-- ACQUIRE of a thread serves its request, so that none is left for the strobe of its CCLK. -/
theorem test_acquire_then_strobe : (match exec (.acquire (.thread 0) 0) (semAsks 0 (.thread 0)) with
    | .next s => decide (s.semReqs = [])
    | _ => false) = true := by decide
theorem test_lease_breaks : (match exec .leaseStrobe { semHeld with copy := 400 } with
    | .next s => decide ((s.sem 0).held = false ∧ (s.sem 0).broken = true ∧ (s.sem 0).owner = 0)
    | _ => false) = true := by decide
/-- R9, R418: EPC.PERIOD of the shadow; a register of a domain that is not ON; the LO reads; a counter of port 31. -/
theorem wit_registers : plainAt 0x100004 ∧ writesReg State.reset 0x100004 ∧ writesReg State.reset 0x10000C ∧
    writesReg State.reset 0x100010 ∧ writesReg State.reset 0x100014 ∧ writesReg State.reset (0x400000 + 3 * 0x100000 + 7 * 0x10000 + 0x1A8) :=
  ⟨by simp [plainAt], ⟨by decide, by decide⟩, ⟨by decide, by decide⟩, ⟨by decide, by decide⟩, ⟨by decide, by decide⟩,
    ⟨by decide, by decide⟩⟩
/-- An access of 8 octets, one that is not aligned, and an MSI-X table entry of the PF. -/
theorem wit_bad_access : ({ size := 8 } : Access).size ≠ 4 ∧ 0x10000E % 4 ≠ 0 ∧ writesReg State.reset 0x100004 ∧ State.reset.pageOpen 0 = true ∧
    State.reset.domOn 2 = true ∧ 0x81F0 < 0x8200 ∧ 0x81F0 % 16 = 0 :=
  ⟨by decide, by decide, ⟨by decide, by decide⟩, by decide, by decide, by decide, by decide⟩
theorem wit_register_asleep : (regs [(0x2C00010, 5)]).errFree = true ∧
    ∃ s : State, s.writable 0x400018 = true ∧ s.regAwake 0x400018 = false :=
  ⟨by decide, regs [(0x2C0011C, 3)], by decide, by decide⟩

end Sys2Proof.Tests

namespace Sys2Proof.Tests

/-! ## Epochs, the Beacon, waves -/

/-- EPC in a run: RUN 1, the registers listed after it, and the state e. -/
def runState (l : List (Nat × Pair)) (e : Epc) : State := { State.reset with csr := (0x100000, 1) :: l, epc := e }
/-- A table of one phase of 1,600 ticks that accepts its waves, and one that fails checks 1, 2, 3 and 5 of Table 2.2. -/
def shadow (per e0 : Nat) : State := regs [(0x100004, BitVec.ofNat 28 per), (0x100100, BitVec.ofNat 28 e0)]
theorem wit_commit : commitResult (shadow 1600 (2 ^ 27 + 2 ^ 15)) = 0 ∧ commitResult (shadow 159 (2 ^ 27 + 2 ^ 15)) = 1 ∧
    commitResult (shadow 160 (2 ^ 27 + 2 ^ 15)) = 0 ∧ commitResult (shadow 25601 (2 ^ 27 + 2 ^ 15)) = 1 ∧
    commitResult (shadow 1600 (2 ^ 15)) = 2 ∧ commitResult (shadow 1600 (2 ^ 27)) = 5 ∧
    commitResult (shadow 1600 (2 ^ 27 + 2 ^ 15 + 2 ^ 16)) = 4 ∧ commitResult (shadow 1600 (2 ^ 27 + 2 ^ 15 + 3 * 2 ^ 20)) = 5 := by decide
theorem wit_run_control : writesReg State.reset 0x100000 ∧ writesReg State.reset 0x100020 ∧ phOk State.reset 0x100140 0 = false ∧
    phOk (regs [(0x100140, 0x8000000)]) 0x100140 0 = true ∧ ¬runs State.reset ∧ runs (runState [] {}) :=
  ⟨⟨by decide, by decide⟩, ⟨by decide, by decide⟩, by decide, by decide, by decide, by decide⟩
theorem wit_epoch_stop : (let s := runState [] { stop := some (5, 0) }; going s ∧ s.epc.gos = [] ∧ s.epc.stop = some (5, 0)) ∧
    (let s := { runState [(0x100008, 1600)] { stop := some (5, 9), begun := true, live := true, epoch := 4, start := 7 } with tick := 1607 };
      going s ∧ s.epc.begun = true ∧ (5 : Epoch) = s.epc.epoch + 1 ∧
        (s.epc.start + BitVec.ofNat 56 (ext (s.reg 0x100008) 14 0)).toNat ≤ s.tick.toNat) :=
  ⟨⟨⟨by decide, rfl⟩, rfl, rfl⟩, ⟨by decide, rfl⟩, rfl, by decide, by decide⟩
/-- A device that follows port 2 with a valid delay, and with none. -/
theorem wit_follows : (let s := runState [(0x100040, 0xB), (0x101048, 0x8000000)] { gos := [(5, 0)] };
      roleOf s = 3 ∧ ext (s.reg (0x101008 + 0x20 * ext (s.reg 0x100040) 6 2)) 27 27 = 1) ∧
    (let s := runState [(0x100040, 0xB)] { gos := [(5, 0)] };
      going s ∧ roleOf s = 3 ∧ ext (s.reg (0x101008 + 0x20 * ext (s.reg 0x100040) 6 2)) 27 27 ≠ 1) :=
  ⟨by decide, ⟨by decide, rfl⟩, by decide, by decide⟩
/-- EPOCH_START of epoch 5 at its start tick and before it, no slice in use, every ring IDLE. -/
theorem wit_epoch_start : (let s := { runState [] { gos := [(5, 7)] } with tick := 7 };
      (s.epc.gos = [(5, 7)] ∧ s.epc.stopped = false ∧ runs s ∧ (7 : Tick).toNat ≤ s.tick.toNat ∧ (∀ i, i < 64 → s.sliceState i ≤ 1)) ∧
      ∀ r, r < 256 → ext (s.reg (0x1A0003C + 0x100 * r)) 2 0 = 0) := by
  intro s
  refine ⟨by decide, fun r _ => ?_⟩
  have h : s.csr = [(0x100000, 1)] := rfl
  have hi : s.reg (0x1A0003C + 0x100 * r) = (regInfo (0x1A0003C + 0x100 * r)).reset := by
    simp only [State.reg, h, SMap.get]
    rw [if_neg (by omega)]
  rw [hi]
  interval_cases r <;> decide
theorem wit_phase_start : (let s := runState [(0x100140, 0x9000000)] { live := true };
    s.epc.live = true ∧ runs s ∧ phOk s 0x100140 0 = true ∧ s.epc.phase = none ∧ s.epc.start.toNat + phAt s 0x100140 0 ≤ s.tick.toNat ∧
      bitOf (phEntry s 0x100140 0) 24 = true) := by decide
/-- The master armed at tick 0, before and at start(N) less D; a follower of pin and of port 2; a pulse. -/
theorem wit_beacon : roleOf (runState [(0x100040, 1), (0x100044, 10)] { armed := some 200 }) = 1 ∧
    leadOf (runState [(0x100040, 1), (0x100044, 100)] { armed := some 0 }) = 200 ∧
    roleOf (runState [(0x100040, 2)] {}) = 2 ∧
    roleOf (runState [(0x100040, 0xB), (0x101048, 0x8000000)] {}) = 3 ∧
    ext ((runState [(0x100040, 0xB), (0x101048, 0x8000000)] {}).reg 0x100040) 6 2 = 2 ∧
    ext ((runState [(0x100040, 0xB), (0x101048, 0x8000000)] {}).reg (0x101008 + 0x20 * 2)) 27 27 = 1 ∧
    ext ((runState [(0x100040, 0xB), (0x101048, 0x8000000)] {}).reg 0x100040) 7 7 = 0 ∧
    (let t : Tick := BitVec.ofNat 56 (((4 : Tick).toNat * 16 + (256 : Pair).toNat + 8 - 0) / 16); (4 : Tick).toNat + 16 ≤ t.toNat) ∧
    rinekUp (regs [(0x400004, 0x16)]) 0 ∧ ¬rinekUp State.reset 0 := by
  refine ⟨by decide, by decide, by decide, by decide, by decide, by decide, by decide, by decide, ?_, ?_⟩ <;>
    simp only [rinekUp] <;> decide
/-- An announce and a pulse of epoch 3 at tick 200: due at port 0 and not; a pulse that is counted for the missed epoch, and for the next. -/
theorem wit_announces : (let s := runState [(0x100040, 1), (0x100044, 100), (0x100048, 100), (0x10004C, 1)] { anns := [(false, 3, 200)], pulses := [(false, 3, 200)] };
      roleOf s = 1 ∧ downSet s 0 = true ∧ ¬200 ≤ s.tick.toNat + ext (s.reg 0x100044) 14 0 + latOf s 0 ∧ s.fatal = 0 ∧
        s.tick.toNat + ext (s.reg 0x100048) 11 0 < 200) ∧
    (let s := { runState [(0x100040, 1), (0x100044, 100), (0x100048, 100), (0x10004C, 1), (0x400004, 0x16)] { anns := [(false, 3, 200)] } with tick := 100 };
      200 ≤ s.tick.toNat + ext (s.reg 0x100044) 14 0 + latOf s 0 ∧ (∀ p : Fin 32, downSet s p = true → p = 0) ∧ rinekUp s 0 ∧
        200 ≤ s.tick.toNat + ext (s.reg 0x100048) 11 0) ∧
    (let s := runState [(0x100040, 2)] { pulseNo := 3, missed := some 3 };
      roleOf s = 2 ∧ going s ∧ s.epc.stop = none ∧ s.epc.gos = [] ∧ s.epc.begun = false ∧ ext (s.reg 0x100040) 7 7 = 0 ∧ s.epc.missed = some s.epc.pulseNo) ∧
    (runState [] { pulseNo := 3 }).epc.missed ≠ some 3 := by
  simp only [rinekUp, going]
  decide
/-- Port 0 with a CTRL flit to take, and a request that left at tick 5. -/
def delayState (f : Flit) (r : Option (Word × Option Tick)) (now : Tick) : State :=
  { State.reset with ports := [(0, { ({} : Port) with ctrlIn := [f] })], epc := { ports := [(0, { ({} : EPort) with req := r, reqAt := some 0 })] }, tick := now }
theorem wit_delay : (delayState (flitDelayReq 5) none 0).port 0 = { ({} : Port) with ctrlIn := [flitDelayReq 5] } ∧
    ((delayState (flitDelayRsp 5 160) (some (5, some 5)) 0).port 0).ctrlIn = [flitDelayRsp 5 160] ∧
    ((delayState (flitDelayRsp 5 160) (some (5, some 5)) 0).eport 0).req = some (5, some 5) ∧ 1600 < ((1606 : Tick) - 5).toNat ∧
    ((1605 : Tick) - 5).toNat ≤ 1600 ∧ ((delayState 0 (some (5, some 5)) 1605).tick - 5).toNat ≤ 1600 ∧
    1600 < ((delayState 0 (some (5, some 5)) 1606).tick - 5).toNat :=
  ⟨rfl, rfl, rfl, by decide, by decide, by decide, by decide⟩
/-- A downstream port that asks for a delay: never asked, asked 16 µs ago, asked before that. -/
theorem wit_delay_request : (let s := regs [(0x10004C, 1), (0x400004, 0x16)]; rinekUp s 0 ∧ downSet s 0 = true ∧ (s.eport 0).reqAt = none) ∧
    (let s := { regs [(0x10004C, 1), (0x400004, 0x16)] with epc := { ports := [(0, { ({} : EPort) with reqAt := some 0 })] }, tick := 6400 };
      rinekUp s 0 ∧ downSet s 0 = true ∧ (s.eport 0).reqAt = some 0 ∧ 6400 ≤ (s.tick - 0).toNat) ∧
    ¬6400 ≤ ((6399 : Tick) - 0).toNat := by
  simp only [rinekUp]
  decide
theorem wit_overruns : quietRun (runState [] { begun := true, live := true }) ∧ writesReg (runState [] { begun := true }) 0x100000 ∧
    ext ((runState [(0x100060, 1)] { begun := true, overrun := true }).reg 0x100060) 0 0 = 1 ∧
    quietRun (runState [(0x100008, 1600), (0x100040, 3)] { begun := true, live := true }) ∧
    roleOf (runState [(0x100008, 1600), (0x100040, 3)] { begun := true, live := true }) = 3 ∧
    ext ((runState [(0x100008, 1600), (0x100040, 3)] { begun := true }).reg 0x100020) 1 1 = 0 :=
  ⟨⟨⟨by decide, rfl⟩, rfl, rfl, by decide⟩, ⟨by decide, by decide⟩, by decide, ⟨⟨by decide, rfl⟩, rfl, rfl, by decide⟩, by decide, by decide⟩
theorem test_ref_lost : (match exec .refLost (runState [] { begun := true, live := true }) with
    | .next s => decide (ext (s.reg 0x100060) 5 0 = 1 + 2 * 13 ∧ s.epc.overrun = true)
    | _ => false) = true := by decide
/-- R43: a wave of the epoch in progress, of the one before, and one that arrives with no epoch decided. -/
def waveHdr (e : Nat) : Flit := BitVec.ofNat 256 (2 ^ 252 + e % 2 ^ 14 * 2 ^ 56 + e / 2 ^ 14 * 2 ^ 70)
def wavePkt (e : Nat) : Pkt := { port := 0, flits := [waveHdr e] }
/-- A run in epoch 5 from tick 10, at tick 20, with packet 0 the next wave of port 0. -/
def waveState (e : Epc) (q : Pkt) : State := { runState [(0x100008, 1600), (0x100140, 0x8008000)] e with pkts := [(0, q)], tick := 20, copy := 20 }
def inEpoch5 : Epc := { begun := true, live := true, epoch := 5, start := 10, gos := [(6, 1610)], prev := some ⟨4, 0, 10, []⟩ }
theorem nextArrival_wave (e : Epc) (n b : Nat) : nextArrival (waveState e { wavePkt n with len := b }) 0 0 { wavePkt n with len := b } :=
  ⟨show (decide (ext (SMap.get (regInfo 0x2C0010C).reset [(0x100000, 1), (0x100008, 1600), (0x100140, 0x8008000)] 0x2C0010C) 2 0 = 0) && !false) = true by decide, [], [], rfl, rfl, rfl, rfl, rfl, rfl, by simp, by simp, fun x hx _ h => by rw [List.mem_singleton.1 hx] at h; exact absurd h (Nat.lt_irrefl 0)⟩
/-- R26: a wave buffer that one packet fills has no place for another. -/
theorem no_wave_room {s : State} {q n : Nat} (h : (waveBase q, waveSize) ∈ s.waveUsed) (hn : 0 < n) : s.allocWave q n = none := by
  simp only [State.allocWave, Option.map_eq_none_iff, List.find?_eq_none]
  intro o _ hf
  simp only [State.waveFree, Bool.and_eq_true, decide_eq_true_eq, List.all_eq_true] at hf
  have := hf.2 _ h
  simp only [Bool.or_eq_true, decide_eq_true_eq] at this
  omega
def filler : Pkt := { port := 8, cls := 1, stamped := true, addr := BitVec.ofNat 42 (waveBase 0), len := waveSize }
theorem wit_no_room : ({ State.reset with pkts := [(0, filler)] } : State).allocWave 0 18 = none :=
  no_wave_room (s := { State.reset with pkts := [(0, filler)] }) (q := 0) (n := 18)
    (List.mem_append_left _ (List.mem_append_left _ (List.mem_map.2 ⟨_, List.mem_cons_self, rfl⟩))) (by decide)
theorem wit_room : ∃ a s1, (waveState {} (wavePkt 5)).allocWave 0 (wavePkt 5).size = some (a, s1) := by
  have h : (((waveState {} (wavePkt 5)).choose waveSize).2.waveFree 0 (wavePkt 5).size 0) = true := by decide +kernel
  obtain ⟨o, ho⟩ := Option.isSome_iff_exists.1 (List.find?_isSome.2 ⟨0, List.mem_cons_of_mem ((waveState {} (wavePkt 5)).choose waveSize).1
    (List.mem_append_right (((waveState {} (wavePkt 5)).choose waveSize).2.waveUsed.map fun u => u.1 + u.2 - waveBase 0)
      (List.mem_map.2 ⟨0, List.mem_range.2 (show 0 < waveSize / pageSize by decide), show 0 * pageSize = 0 by decide⟩ : (0 : Nat) ∈ (List.range (waveSize / pageSize)).map fun k => k * pageSize)), h⟩)
  exact ⟨_, _, by simp only [State.allocWave, State.waveStarts]; rw [ho]; rfl⟩
/-- R43: waves of the epoch in progress, of the next one decided, of the one before and of others. -/
theorem wit_wave : (let s := waveState inEpoch5 { wavePkt 5 with len := 19 };
      runs s ∧ s.epc.begun = true ∧ s.epc.start.toNat ≤ s.copy.toNat ∧ (∀ x, s.epc.prev = some x → x.epoch + 1 = 5 ∧ x.start.toNat ≤ s.epc.start.toNat) ∧
        (∀ g ∈ s.epc.gos, s.copy.toNat < g.2.toNat) ∧ phOk s 0x100140 0 = true ∧ phAt s 0x100140 0 = 0 ∧ ext (s.reg 0x100020) 1 1 = 0) ∧
    waveEpoch (wavePkt 5) = 5 ∧ waveEpoch (wavePkt 6) = 5 + 1 ∧ waveEpoch (wavePkt 4) = 5 - 1 ∧ waveEpoch (wavePkt 9) = 9 ∧ ¬runs State.reset ∧
    (let s := waveState { gos := [(5, 30)] } { wavePkt 5 with len := 19 };
      runs s ∧ s.epc.begun = false ∧ s.epc.prev = none ∧ s.epc.gos = (5, 30) :: [] ∧ s.copy.toNat < (30 : Tick).toNat) ∧
    (let s := waveState {} (wavePkt 5); runs s ∧ s.epc.begun = false ∧ s.epc.gos = [] ∧ (wavePkt 5).placed = false ∧ ({ wavePkt 5 with len := 19 } : Pkt).placed = true) := by
  refine ⟨⟨by decide, rfl, by decide, fun x h => ?_, fun g hg => by rw [List.mem_singleton.1 hg]; decide, by decide, by decide, by decide⟩, by decide +kernel⟩
  · obtain rfl : (⟨4, 0, 10, []⟩ : PrevEpoch) = x := by simpa [waveState, runState, inEpoch5] using h
    decide
/-- R40: an output, a task, a LAST wave and an ARRIVAL limit at, and one tick before, their limit plus 5; events that came after theirs. -/
def lateOut : EOut := { port := 1, dl := 10, released := true }
def lateRun (e : Epc) : State := { runState [] { e with begun := true, live := true } with tick := 15 }
def lateEvent (cause : Nat) : LateEvent := { id := 0, ovr := { cause := cause, epoch := 0, inPort := none, outPort := some 1, deadline := 10 } }
theorem wit_deadlines : quietRun (lateRun {}) ∧ isLate (lateRun {}) 10 ∧ ¬isLate (lateRun {}) 11 ∧
    (let s := { lateRun {} with eouts := [(0, lateOut)] }; s.eout? 0 = some lateOut ∧ lateOut.late = false ∧ lateOut.started = false ∧ s.epc.lates = []) ∧
    (let s := { lateRun {} with pkts := [(0, { wavePkt 0 with counted := true })], dsp := [(0, { ({} : Dsp) with slots := [(3, { ({} : Slot) with st := .ready, pkt := some 0, dl := 10 })] })] };
      (s.slot 0 3).pkt = some 0 ∧ (s.pkt? 0).isSome = true ∧ (s.slot 0 3).st ≠ .free ∧ (s.slot 0 3).late = false ∧ (s.slot 0 3).ports = 0 ∧
        (s.slot 0 3).dl = 10) ∧
    (let s := lateRun { ports := [(2, { ({} : EPort) with lastDl := [(0, 10, false)], arrDl := [(0, 10)] })] };
      (s.eport 2).lastDl = [(0, 10, false)] ∧ (s.eport 2).arrDl = [(0, 10)] ∧ (s.eport 2).recs = []) ∧
    (∀ c : Fin 4, (lateRun { lates := [lateEvent c] }).epc.lates = [lateEvent c] ∧ (lateEvent c).ovr.cause = c ∧ (lateEvent c).id = 0) ∧
    (lateRun {}).eout? 0 = none ∧ ((lateRun {}).slot 0 0).pkt = none ∧ ((lateRun {}).eport 0).lastDl = [] :=
  ⟨⟨⟨by decide, rfl⟩, rfl, rfl, by decide⟩, by simp only [isLate, past]; decide, by simp only [isLate, past]; decide, by decide, by decide, by decide,
    fun c => ⟨rfl, rfl, rfl⟩, rfl, rfl, rfl⟩
/-- A LAST wave that arrived in time, with its link check passed and still open. -/
def lastRec (ok : Bool) : WaveRec := { epoch := 0, xseq := 0, seq := 0, arr := 10, due := 0, last := true, ok := ok, completed := false }
theorem wit_arrival : ∀ ok, ((lateRun { ports := [(2, { ({} : EPort) with recs := [lastRec ok], arrDl := [(0, 10)] })] }).eport 2).recs = [lastRec ok] ∧
    (lastRec ok).epoch = 0 ∧ (lastRec ok).last = true ∧ (lastRec ok).arr.toNat ≤ (10 : Tick).toNat ∧ (lastRec ok).ok = ok :=
  fun _ => ⟨rfl, rfl, rfl, Nat.le_refl _, rfl⟩
/-- R60: one output alone, whose key every port's watermark allows; two released waves of a port in an up link; a LAST wave; a message. -/
def upPort0 (l : List (Nat × Pair)) : List (Nat × Pair) := (0x400004, 0x16) :: l
def waveOut (x : Nat) : EOut := { port := 0, flits := [waveHdr 5, 0], xseq := BitVec.ofNat 16 x, released := true, dl := 100, epoch := 5 }
/-- Port 0 in an up link, in a run of epoch 5, with the outputs listed, at tick 50. -/
def egress (os : SMap EOut) (x : EPort) : State :=
  { State.reset with csr := [(0x100000, 1), (0x400004, 0x16)], epc := { begun := true, live := true, epoch := 5, ports := [(0, x)] }, eouts := os, tick := 50, copy := 50 }
theorem egress_ready (os : SMap EOut) (x : EPort) : rinekUp (egress os x) 0 ∧ ((egress os x).port 0).txq = [] ∧ ((egress os x).port 0).feed = [] ∧
    (egress os x).fatal = 0 ∧ going (egress os x) := by
  exact ⟨⟨show ext ((egress [] {}).reg 0x400004) 4 4 = 1 by decide, show ext ((egress [] {}).reg 0x400000) 3 1 < 2 by decide⟩, rfl, rfl, rfl,
    show runs (egress [] {}) by decide, rfl⟩
/-- Two waves, the second of a smaller key, of two flits and of 40; one past its deadline that is not yet late. -/
theorem wit_egress : (waveOut 3).xseq.toNat < (waveOut 4).xseq.toNat ∧ (egress [(0, waveOut 4), (1, waveOut 3)] {}).copy.toNat ≤ (waveOut 3).dl.toNat ∧
    (waveOut 3).pkt = none ∧ (waveOut 3).flits = waveHdr 5 :: [0] ∧ (waveOut 3).flits.length ≤ 32 ∧
    32 < ({ waveOut 3 with flits := waveHdr 5 :: List.replicate 39 0 } : EOut).flits.length ∧ ((egress [] {}).eport 0).lastDl = [] ∧
    ({ waveOut 3 with dl := 48 } : EOut).dl.toNat < (egress [] {}).copy.toNat ∧ ¬isLate (egress [] {}) 48 ∧
    ({ waveOut 3 with released := false } : EOut).released = false ∧
    (let s := egress [] { lastDl := [(5, 100, false)] }; (s.eport 0).lastDl = [(5, 100, false)] ∧ s.copy.toNat ≤ (100 : Tick).toNat ∧
      s.reg 0x10100C = 0 ∧ s.reg 0x101010 = 0) ∧ ({ waveOut 0 with kind := .msg } : EOut).slice = 0 := by
  simp only [isLate, past]
  decide
/-- A CTRL flit that leaves port 0: an announce of tick 200, a delay request, and an answer to one received at tick 40. -/
theorem wit_ctrl : (let s := egress [] { req := some (7, none) }; roleOf s ≠ 1 ∧ s.copy.toNat + latOf s 0 ≤ (200 : Tick).toNat ∧
    s.copy.toNat + latOf s 0 < 2 ^ 56 ∧ (s.eport 0).req = some (7, none) ∧ (40 : Tick).toNat ≤ s.copy.toNat + latOf s 0) := by decide

end Sys2Proof.Tests

namespace Sys2Proof.Tests

/-! ## Ports -/

/-- Port 0 in state st of Table 3.11, in mode m, with its link layer x. -/
def portState (st m : Nat) (x : Port) : State :=
  { State.reset with
    csr := (if m = 0 then [] else [(0x400000, BitVec.ofNat 28 (m * 2))]) ++ if st = 0 then [] else [(0x400004, BitVec.ofNat 28 (st + 2 ^ 4))]
    ports := [(0, x)] }
theorem wit_ports : lkState State.reset 0 = 0 ∧ writesReg State.reset (lkAt 0 0) ∧ rinek State.reset 0 ∧ ¬rinek (portState 2 2 {}) 0 ∧
    lkState (portState 2 2 {}) 0 = 2 ∧ lkState (portState 6 0 {}) 0 = 6 ∧ State.reset.domOn 7 = true ∧
    3 ≤ ((portState 3 0 { timeouts := 3 }).port 0).timeouts ∧ ext ((regs [(0x480000, 1)]).reg 0x480000) 0 0 = 1 ∧
    2 ≤ (2 : BitVec 3).toNat :=
  ⟨by decide, ⟨by decide, by decide⟩, by decide, by decide, by decide, by decide, by decide, by decide, by decide, by decide⟩
/-- The times of Table 3.8, reached and not; lanes whose inversion the configuration expects, and other lanes. -/
theorem wit_port_times : (∀ n, n ≤ 4 → stayed { portState 3 0 {} with tick := BitVec.ofNat 56 (400000 * n) } 0 n) ∧
    (∀ n, 1 ≤ n → ¬stayed (portState 3 0 {}) 0 n) ∧
    (∀ k, k < 4 → (k = 0 ∨ ext ((portState 2 2 {}).reg (lkAt 0 0)) 3 1 = 5) → bitOf (0 : BitVec 4) k = bitOf ((portState 2 2 {}).reg (lkAt 0 0)) (10 + k)) ∧
    bitOf (1 : BitVec 4) 0 ≠ bitOf ((portState 2 2 {}).reg (lkAt 0 0)) (10 + 0) := by
  refine ⟨by simp only [stayed]; decide, fun n hn h => ?_, by decide, by decide⟩
  have e : ((portState 3 0 {}).tick - ((portState 3 0 {}).port 0).since).toNat = 0 := by decide
  have h' : 400000 * n ≤ ((portState 3 0 {}).tick - ((portState 3 0 {}).port 0).since).toNat := h
  rw [e] at h'
  omega
/-- A training sequence of lane number n in state st, with CHECK over its 56 bits (R94). -/
def tsWord (n st tsn : Nat) : BitVec 64 :=
  let t := 0x4B3E + 2 * 2 ^ 26 + n * 2 ^ 16 + st * 2 ^ 23 + tsn * 2 ^ 44
  BitVec.ofNat 64 (t + crcOf 8 7 0 ((bitList (BitVec.ofNat 64 t) 0).take 56) * 2 ^ 56)
def lockedLanes (k : Nat) : SMap Lane := (List.range 4).map fun i => (i, { ({} : Lane) with locked := true, lane := BitVec.ofNat 2 ((i + k) % 4), start := some 9 })
theorem wit_training : trains (portState 3 0 {}) 0 ∧ ¬trains State.reset 0 ∧ tsOk (tsWord 0 1 0) ∧ ¬tsOk (0 : BitVec 64) ∧
    (laneOf (portState 3 0 {}) 0 0).locked = false ∧ seen {} (tsWord 0 1 0) = tsWord 0 1 0 ∧ seen {} (~~~tsWord 0 1 0) = tsWord 0 1 0 ∧
    allLocked (portState 3 0 { lanes := lockedLanes 0 }) 0 ∧
    (∀ j : Fin 4, (laneOf (portState 3 0 { lanes := lockedLanes 0 }) 0 j).lane.toNat = j.val) ∧
    ¬(∀ j : Fin 4, (laneOf (portState 3 0 { lanes := lockedLanes 1 }) 0 j).lane.toNat = j.val) ∧
    ext (tsWord 0 1 0) 27 26 = ext ((portState 3 0 {}).reg (lkAt 0 0)) 5 4 ∧
    ext (tsWord 0 4 9) 25 23 = 4 ∧ ext (tsWord 0 4 9) 51 44 = 9 ∧ (laneOf (portState 6 0 { lanes := lockedLanes 0 }) 0 1).start = some 9 := by
  simp only [trains, tsOk, allLocked]
  decide +kernel
/-- DESKEW: three lanes with sixteen TS with ACK and the fourth with fifteen; arrivals together and 600 UI apart. -/
def ackLanes : SMap Lane := (List.range 4).map fun i => (i, { ({} : Lane) with locked := true, lane := BitVec.ofNat 2 i, acks := if i = 0 then 15 else 16 })
def deskewAt (ui : Nat) (j : Fin 4) : Nat := ((if j = 0 then ui else 0) + 64 * (256 - if j = 0 then 1 else 0)) % 2 ^ 14
def apartAt (ui : Nat) (i j : Fin 4) : Nat := min ((deskewAt ui i + 2 ^ 14 - deskewAt ui j) % 2 ^ 14) ((deskewAt ui j + 2 ^ 14 - deskewAt ui i) % 2 ^ 14)
theorem wit_deskew : let s := portState 4 0 { lanes := ackLanes }
    trains s 0 ∧ allLocked s 0 ∧ trainState s 0 = 4 ∧ tsOk (tsWord 0 66 1) ∧ bitOf (tsWord 0 66 1) 29 = true ∧ ext (tsWord 0 66 1) 51 44 = 1 ∧
      (laneOf s 0 0).acks + 1 = 16 ∧ (laneOf s 0 1).acks = 16 ∧ (laneOf s 0 0).ui + 64 = 64 ∧ (∀ i j, apartAt 64 i j ≤ 511) ∧ ¬(∀ i j, apartAt 664 i j ≤ 511) := by
  simp only [trains, tsOk, allLocked]
  decide +kernel
/-- A lane with seven good sequences, and the other lanes not locked. -/
theorem wit_lane_locks : (laneOf (portState 3 0 { lanes := [(0, { ({} : Lane) with good := 7 })] }) 0 0).good + 1 = 8 ∧
    (laneOf (portState 3 0 { lanes := [(0, { ({} : Lane) with good := 7 })] }) 0 1).locked = false := by decide
/-- The transmitter: an empty group, sixteen flits, a replay before its first flit and at its end, a held group, a full retry buffer. -/
def grp (n : Nat) : Group := { gseq := BitVec.ofNat 12 n, flits := List.replicate 16 (BitVec.ofNat 256 (7 * 2 ^ 252)) }
theorem wit_groups : rinek (portState 6 0 {}) 0 ∧ lkState (portState 6 0 {}) 0 = 6 ∧ lkState (portState 7 0 { reqLeft := 8 }) 0 = 7 ∧
    ((portState 6 0 {}).port 0).held.length < 64 ∧ ((portState 6 0 {}).port 0).fresh = [] ∧
    16 ≤ ((portState 6 0 { filling := (grp 0).flits }).port 0).filling.length ∧
    ((portState 6 0 { held := [grp 0], replay := [grp 0], replayAt := 16 }).port 0).replay = grp 0 :: [] ∧
    replayNo (portState 6 0 { held := [grp 0] }) 0 (grp 0) ≤ replayLimit (portState 6 0 { held := [grp 0] }) 0 ∧
    ¬replayNo (portState 6 0 { held := [grp 0], replayFrom := some 0, replays := 15 }) 0 (grp 0) ≤ replayLimit (portState 6 0 {}) 0 := by decide
/-- RETRY_CFG.TIMEOUT past and not; a packet whose flits go on in the wave buffer, and one whose last flits leave it now. -/
theorem wit_transmit : (let s := { portState 6 0 { held := [grp 0] } with tick := 20000 };
      4 * ext (s.reg (lkAt 0 0xC)) 11 0 < (s.tick - (grp 0).sent).toNat) ∧
    (let s := portState 6 0 { held := [grp 0] }; ¬4 * ext (s.reg (lkAt 0 0xC)) 11 0 < (s.tick - (grp 0).sent).toNat) ∧
    (let x := ((portState 6 0 { txq := [0], feed := List.replicate 40 0, feedOut := some 3 }).port 0); x.feed.drop (32 - x.txq.tail.length) ≠ []) ∧
    (let x := ((portState 6 0 { txq := [0], feed := [0], feedOut := some 3 }).port 0);
      x.feedOut = some 3 ∧ x.feed.drop (32 - x.txq.tail.length) = []) := by decide
/-- Training: PRBS31, ALIGN, DESKEW, and CONFIRM before and at its end. -/
def confirmLanes : SMap Lane := (List.range 4).map fun i => (i, { ({} : Lane) with locked := true, confirms := 8 })
theorem wit_training_sent : (∀ st : Fin 9, lkState (portState st 0 {}) 0 = st) ∧ trainState (portState 2 0 {}) 0 = 2 ∧ rinek (portState 2 0 {}) 0 ∧
    trainState (portState 7 0 { phase := 3 }) 0 = 3 ∧ (let x := (portState 5 0 { lanes := confirmLanes, sent := 16 }).port 0; 16 ≤ x.sent) ∧
    (∀ k : Fin 4, 8 ≤ (laneOf (portState 5 0 { lanes := confirmLanes, sent := 16 }) 0 k).confirms) ∧ ¬16 ≤ ((portState 5 0 {}).port 0).sent := by decide
theorem wit_decoder : (List.replicate 272 0).length = 272 ∧ ∀ x ∈ List.replicate 272 0, x < 1024 :=
  ⟨List.length_replicate, fun x h => by rw [List.eq_of_mem_replicate h]; decide⟩
/-- The receiver, its descrambler in the state 0 that leaves every body as it is. -/
theorem scrAt_zero (n : Nat) : scrAt 0 n = 0 := by
  induction n with
  | zero => rfl
  | succ n ih => rw [scrAt, ih]; rfl
theorem plain_zero (x : Port) (f : Flit) (h : x.rxScr = 0) (st m : Nat) : plainOf (portState st m x) 0 f f := by
  intro i _
  have hp : (portState st m x).port 0 = x := rfl
  rw [show ((0 : Fin 32) : Nat) = 0 from rfl, hp, h, scrAt_zero, show bitOf (0 : BitVec 31) 30 = bitOf (0 : BitVec 31) 27 by decide]
  simp
/-- Lanes that bring a block of sync header h with body 0, or a codeword of zeros. -/
def headLanes (h : Nat) : Fin 4 → LaneBits := lanesOf (BitVec.ofNat 680 (h % 2)) (BitVec.ofNat 680 (h / 2)) 0 0
theorem wit_arrives : ∀ h : Fin 4, arrives (portState 6 0 { rxUp := true, rxScr := 0 }) 0 (headLanes h) (BitVec.ofNat 258 h) := by
  intro h
  simp only [arrives]
  rw [if_neg (by decide)]
  revert h
  decide +kernel
set_option exponentiation.threshold 3000 in
theorem wit_codeword : (let s := portState 6 1 { rxUp := true, rxScr := 0 }; receives s 0 ∧ ext (s.reg (lkAt 0 0)) 3 1 = 1 ∧ codeword s 0 (headLanes 0) 0) := by
  refine ⟨by simp only [receives]; decide, by decide, Nat.two_pow_pos _, fun i _ => ?_⟩
  have l : ∀ (k : Fin 4) (j : Nat), bitOf (headLanes 0 k) j = false := by
    intro k j
    have z : headLanes 0 k = 0 := by revert k; decide
    simp [z, bitOf]
  have r : ∀ k, k < 4 → bitOf ((portState 6 1 { rxUp := true, rxScr := 0 }).reg (lkAt 0 4)) (6 + k) = false := by decide
  simp only [streamBit]
  rw [Nat.zero_testBit, if_neg (by decide), l, r _ (Nat.mod_lt _ (by decide))]
  rfl
theorem wit_decoded : (decodeBlocks 0).2.head? = some 0 ∧ (decodeBlocks 0).1 = .clean := by decide +kernel
/-- Port 0 with 32 flits in its ingress queue, in a quadrant whose wave buffer is full. -/
def fullQueue (x : Port) : State :=
  { portState 6 0 x with pkts := [(0, { filler with port := 9 }), (1, { port := 0, flits := List.replicate 32 0 })] }
theorem wit_ingress_full (x : Port) : (fullQueue x).ingressFull 0 = true := by
  have h : (waveBase 0, waveSize) ∈ (fullQueue x).waveUsed := List.mem_append_left _ (List.mem_append_left _ (List.mem_map.2 ⟨_, List.mem_cons_self, rfl⟩))
  have d : (fullQueue x).drained (0 / 8) = fullQueue x := by
    show (fullQueue x).placePkt 1 { port := 0, flits := List.replicate 32 0 } 0 = fullQueue x
    simp only [State.placePkt, no_wave_room h (show 0 < Pkt.size { port := 0, flits := List.replicate 32 0 } by decide)]
  have i : (fullQueue x).ingress 0 = 32 := rfl
  simp only [State.ingressFull]
  rw [d, i]
  rfl
def rxPort : Port := { rxUp := true, rxScr := 0, rxFlits := (grp 0).flits }
/-- The check flit of sixteen idle flits in group 0, ACK group valid or not, NACK or not. -/
def checkFlit (ackV nack : Nat) : Flit :=
  let c := 6 * 2 ^ 252 + ackV * 2 ^ 227 + nack * 2 ^ 226
  let crc := crcOf 32 0x1EDC6F41 0xFFFFFFFF (((grp 0).flits.flatMap fun f => bitList f 0) ++ bitList (BitVec.ofNat 256 c) 32) ^^^ 0xFFFFFFFF
  BitVec.ofNat 256 (c + crc)
set_option exponentiation.threshold 300 in
theorem wit_check_flit : receives (portState 6 0 rxPort) 0 ∧ ((portState 6 0 rxPort).port 0).rxFlits.length = 16 ∧
    (let c := checkFlit 1 0; rxPort.rxBad = false ∧ ext c 212 32 = 0 ∧ ext c 226 226 = 0 ∧ ext c 227 227 = 1 ∧ ext c 251 240 = 0 ∧
      ext c 31 0 = crcOf 32 0x1EDC6F41 0xFFFFFFFF ((rxPort.rxFlits.flatMap fun f => bitList f 0) ++ bitList c 32) ^^^ 0xFFFFFFFF) ∧
    (let c := checkFlit 0 1; ext c 226 226 = 1 ∧ ext c 225 214 = (grp 0).gseq.toNat) := by
  simp only [receives]
  decide +kernel
set_option exponentiation.threshold 300 in
theorem wit_flits : receives (portState 6 0 { rxPort with rxFlits := [] }) 0 ∧
    (∀ ty : Fin 16, ext (BitVec.ofNat 256 (ty.val * 2 ^ 252)) 255 252 = ty.val) ∧
    (let s := { portState 6 0 { rxPort with rxFlits := [], openPkt := some 0 } with pkts := [(0, { ({ port := 0 } : Pkt) with missing := 2 })] };
      (s.port 0).openPkt = some 0 ∧ (s.pkt? 0).isSome = true) := by
  simp only [receives]
  decide +kernel
/-- Frames whose FCS holds, one of MAC control, and one with a wrong FCS (R101). -/
def goodFrame (o : List Octet) : List Octet := o ++ fcsOctets o
theorem wit_frames : ¬rinek (portState 6 2 {}) 0 ∧ lkState (portState 6 2 {}) 0 = 6 ∧ min 4004 (ext ((portState 6 2 {}).reg (lkAt 0 0x14)) 11 0) < 4005 ∧
    ¬min 4004 (ext ((portState 6 2 {}).reg (lkAt 0 0x14)) 11 0) < 64 ∧ fcsOk (goodFrame (List.replicate 60 0)) = true ∧ fcsOk (List.replicate 64 0) = false ∧
    (goodFrame (List.replicate 12 0 ++ [0x88, 0x08] ++ List.replicate 46 0))[12]? = some 0x88 ∧
    (portState 6 2 {}).frameOverflow 0 (List.replicate 60 0) = false ∧ ext ((portState 6 5 {}).reg (lkAt 0 0)) 3 1 = 5 := by decide +kernel

end Sys2Proof.Tests

namespace Sys2Proof.Tests

/-! ## Prism, forwarding, dispatch -/

/-- A message packet of slice 1, class 1, one flit, at a stage; and a frame of n octets. -/
def msgPkt (st : PStage) : Pkt := { port := 0, cls := 1, flits := [BitVec.ofNat 256 (2 * 2 ^ 252 + 2 ^ (14 * 3 + 8))], stage := st, link := .passed }
def framePkt (n : Nat) (st : PStage) : Pkt := { port := 0, cls := 3, octets := List.replicate n 0, stage := st, link := .passed }
def withPkt (p : Pkt) (l : List (Nat × Pair)) (x : Prs) : State := { State.reset with csr := l, pkts := [(0, p)], prs := [(0, x)] }
theorem wit_context : (let s := withPkt (framePkt 64 .waitCtx) [] {};
      SMap.rises s.pkts = true ∧ s.pkt? 0 = some (framePkt 64 .waitCtx) ∧ qOf (framePkt 64 .waitCtx) = 0 ∧ s.dom 3 = 0 ∧
        (s.pkts.filter fun e => holdsContext 0 e.2).length < 256 ∧ ¬nextInLine s 0 (framePkt 64 .waitCtx) ∧ inQueue (framePkt 64 .waitCtx)) ∧
    (let s := withPkt { framePkt 64 .waitCtx with len := 37 } [] {};
      nextInLine s 0 { framePkt 64 .waitCtx with len := 37 } ∧ settled s 0) := by
  refine ⟨⟨by decide, by decide, rfl, by decide, by decide, fun h => ?_, rfl, rfl⟩, ⟨by decide, rfl, ⟨rfl, rfl, rfl, rfl⟩, fun j r hj _ _ _ => ⟨fun _ => ?_, fun _ => Nat.zero_le _⟩,
    .inr (by decide), .inl (by decide)⟩, fun j r hj _ hq _ => ?_⟩
  · rcases h.2.2.2.2.2 with k | k
    · exact absurd k (by decide)
    · exact absurd k.1 (by decide)
  · have k : 0 = j ∧ { framePkt 64 .waitCtx with len := 37 } = r := by simpa [State.pkt?, withPkt, SMap.find?] using hj
    rw [← k.2]; rfl
  · have k : 0 = j ∧ { framePkt 64 .waitCtx with len := 37 } = r := by simpa [State.pkt?, withPkt, SMap.find?] using hj
    rw [← k.2] at hq
    exact absurd (show (37 : Nat) = 0 from hq.1) (by decide)
/-- The first page of the wave buffer of quadrant 0 while a filler fills that of quadrant 1. -/
theorem wit_free_place : freePlace { State.reset with pkts := [(0, { filler with port := 8, addr := BitVec.ofNat 42 (waveBase 1) })] } 0 37 0 := by
  refine ⟨by decide, by decide, fun u hu => ?_⟩
  have k : ({ State.reset with pkts := [(0, { filler with port := 8, addr := BitVec.ofNat 42 (waveBase 1) })] } : State).waveUsed = [(waveBase 1, waveSize)] := by rfl
  rw [k, List.mem_singleton] at hu
  rw [hu]; exact .inr (by decide)
/-- A first pass on a frame, on a message whose lengths agree, with reserved bits zero, in a slice that the port does and does not open. -/
theorem wit_pass_start : windowIn (framePkt 64 .waitPass) ∧ windowIn (msgPkt .waitPass) ∧ lengthsAgree (msgPkt .waitPass) ∧
    (∀ r ∈ reservedBits 1, hw (msgPkt .waitPass) r.1 r.2.1 r.2.2 = 0) ∧ hw (msgPkt .waitPass) 3 13 8 = 1 ∧
    sliceOpen (regs [(0x800304, 2)]) 0 1 ∧ ¬sliceOpen State.reset 0 1 ∧
    bitOf ((regs [(0x800204, 0x8000000)]).reg (psAt 0 (0x200 + 4 * (0 + 1)))) 27 = true := by
  simp only [windowIn, lengthsAgree, sliceOpen]
  set_option exponentiation.threshold 300 in decide
/-- A packet that has reached each operation of Table 4.3, with steps left and none left. -/
def stepState (op : Nat) (issued : Nat) : State :=
  withPkt { framePkt 64 .stepping with issued := issued } [] { steps := [(0, BitVec.ofNat 56 (op * 2 ^ 52))] }
theorem wit_steps : ∀ op : Fin 9, (op = 0 → True) ∧ SMap.get 0 ((stepState op 0).prsQ 0).steps 0 = BitVec.ofNat 56 (op.val * 2 ^ 52) ∧
    ext (BitVec.ofNat 56 (op.val * 2 ^ 52)) 55 52 = op.val ∧ (stepState op 24).pkt? 0 = some { framePkt 64 .stepping with issued := 24 } ∧
    fetchStop (framePkt 64 .stepping) 0 0 = 0 ∧ fetchStop (framePkt 64 .stepping) 63 0 = 2 ∧ fetchStop (framePkt 62 .stepping) 61 0 = 3 ∧
    fetchStop (framePkt 64 .stepping) 63 8 = 0 ∧ fetchStop (msgPkt .stepping) 36 0 = 2 ∧ fetchStop (msgPkt .stepping) 18 0 = 3 := by decide
/-- IPv4 frames of 64 octets: TOTAL LENGTH 64, and 20 with the end of the frame still to come (R116). -/
def ipFrame (len : Nat) : Pkt := { framePkt 64 .stepping with octets := 0x45 :: 0 :: 0 :: BitVec.ofNat 8 len :: List.replicate 60 0 }
theorem wit_ip_length : ipv4Fault (ipFrame 64) = 0 ∧ ¬lengthBad (ipFrame 64) (ipv4End (ipFrame 64)) ∧ ipv4Fault (ipFrame 20) = 0 ∧
    lengthBad (ipFrame 20) (ipv4End (ipFrame 20)) ∧ ({ ipFrame 20 with tail := true } : Pkt).tail = true ∧
    ({ framePkt 64 .matching with ipBad := true } : Pkt).ipBad = true := by
  simp only [Spec.lengthBad]
  decide
/-- A rule that matches everything, a rule whose VALID is clear, and the packet that reaches them. -/
def anyRule (act : Nat) : Rule := { metaVal := 0x8000000, act := BitVec.ofNat 56 act }
theorem wit_rule_match : ruleWins (withPkt (framePkt 64 .matching) [] { rules := [(0, anyRule 0)] }) (framePkt 64 .matching) 0 ∧
    SMap.rises ((withPkt (framePkt 64 .matching) [] { rules := [(0, anyRule 0)] }).prsQ 0).rules = true ∧
    ¬ruleMatches {} (framePkt 64 .matching) := by
  refine ⟨⟨by decide, ⟨by decide, fun b _ h => ?_, fun i _ b _ h => ?_⟩, fun j h => absurd h (by omega)⟩, by decide, fun h => absurd h.1 (by decide)⟩
  · have e : bitOf (0 : Pair) b = false := by simp [bitOf]
    exact absurd h (by rw [show (ruleAt (withPkt (framePkt 64 .matching) [] { rules := [(0, anyRule 0)] }) (qOf (framePkt 64 .matching))
      ((framePkt 64 .matching).bank.getD false) 0).metaMsk = 0 from rfl, e]; decide)
  · exact absurd h (by rw [show SMap.get 0 (ruleAt (withPkt (framePkt 64 .matching) [] { rules := [(0, anyRule 0)] }) (qOf (framePkt 64 .matching))
      ((framePkt 64 .matching).bank.getD false) 0).msks i = (0 : BitVec 16) from rfl]; simp [bitOf])
theorem wit_result_release : (let p : Pkt := { framePkt 64 .result with res := some (.task 0 1 0 false), slice := some 0 };
      let s := { withPkt p [] {} with slices := [(0, { sliceReset 0 with state := 1 })] };
      s.pkt? 0 = some p ∧ s.hasShare 0 0 = true ∧ bitOf p.rule 4 = false ∧ ¬taskWaits s 0) ∧ levelOf (regs [(0x800A04, 0)]) 0 1 < 16 ∧
    16 ≤ levelOf State.reset 0 1 ∧ ({ State.reset with cclk := 1600 } : State).bucketAt + 1600 ≤ 1600 ∧ State.reset.cclk < State.reset.bucketAt + 1600 := by
  refine ⟨⟨rfl, by decide, by decide, ?_⟩, by decide, by decide, by decide, by decide⟩
  rintro ⟨q, x, hx, _⟩
  exact absurd hx List.not_mem_nil
/-- A released result of port 0 that waits for its slot. -/
theorem wit_task_waits : taskWaits { State.reset with pkts := [(0, framePkt 64 .released)], dsp := [(0, { ({} : Dsp) with reqs := [(0, [{ pkt := some 0 }])] })] } 0 :=
  ⟨0, _, List.mem_singleton_self _, _, List.mem_singleton_self _, 0, framePkt 64 .released, rfl, rfl, rfl⟩
/-- Commands on the rules and steps: entries of an idle, an active and a draining bank. -/
theorem wit_rule_commands : writesReg State.reset (psAt 0 0x10) ∧ writesReg State.reset (psAt 0 0x108) ∧ writesReg State.reset (psAt 0 0) ∧
    bankOf State.reset 0 true ≠ 2 ∧ bankOf (regs [(0x800008, 9)]) 0 true = 2 ∧ bankOf State.reset 0 false = 1 ∧
    ext (0x2000 : Pair) 14 13 = 1 ∧ ext (0x4000 : Pair) 14 13 = 2 ∧ bitOf (0x400 : Pair) 10 = true ∧ stepFault (BitVec.ofNat 56 (2 ^ 52)) = 0 ∧
    stepFault (BitVec.ofNat 56 (9 * 2 ^ 52)) = 3 ∧ stepFault 1 = 2 :=
  by and_intros <;> first | decide | exact ⟨by decide, by decide⟩

/-- Forwarding: a key that stands in the first way of its first bucket, and one that stands nowhere. -/
def fwdState (x : Fwd) (p : Pkt) : State := { State.reset with pkts := [(0, p)], fwd := [(0, x)] }
theorem wit_absent : absent (fwdState {} (framePkt 64 .lookup)) 0 (macKey 0 1 2) := by
  intro x _ h
  have e : (entryAt (fwdState {} (framePkt 64 .lookup)) 0 x).valid = false := rfl
  rw [e] at h
  exact absurd h.1 (by decide)
def macEntry : FEntry := { valid := true, key := partKey 1 2, dest := 5, kind := 1 }
theorem wit_stands : standsAt (fwdState { tab := [(0x40000, macEntry)] } (msgPkt .lookup)) 0 (partKey 1 2) 0x40000 := by
  refine ⟨⟨.inr (.inr ⟨by decide, by decide⟩), rfl, rfl⟩, fun x h => ?_⟩
  have hv := h.2.1
  by_contra hne
  have e : entryAt (fwdState { tab := [(0x40000, macEntry)] } (msgPkt .lookup)) 0 x = {} := by
    show SMap.get {} [(0x40000, macEntry)] x = {}
    simp only [SMap.get]
    rw [if_neg (by omega)]
  rw [e] at hv
  exact absurd hv (by decide)
theorem wit_lookup : (let p : Pkt := { framePkt 64 .lookup with rule := BitVec.ofNat 56 (1 + 2 * 2 ^ 2) };
      bitOf p.rule 27 = false ∧ ext p.rule 1 0 = 1 ∧ ext p.rule 3 2 = 2) ∧
    (let p : Pkt := { framePkt 64 .lookup with rule := BitVec.ofNat 56 (2 ^ 27) }; bitOf p.rule 27 = true ∧ p.link = .passed ∧ ext p.rule 3 2 = 0) ∧
    bitOf ((regs [(0xC00200, 0x40)]).reg (fwAt 0 (0x200 + 4 * 0))) 6 = true ∧
    ((fwdState { learnq := [⟨partKey 1 2, 3, 0⟩] } (msgPkt .lookup)).fwdQ 0).learnq = ⟨partKey 1 2, 3, 0⟩ :: [] := by decide
theorem wit_table_commands : writesReg State.reset (fwAt 0 0) ∧ writesReg State.reset (fwAt 0 0x20) ∧ writesReg State.reset (fwAt 0 0x4C) ∧
    bitOf ((regs [(0xC00004, 0x10)]).reg (fwAt 0 4)) 4 = true ∧ cmdFault (regs [(0xC00008, 1)]) 0 0 0 ∧ cmdFault State.reset 0 5 5 ∧
    cmdFault State.reset 0 (0xC00 + 1) 6 ∧ (∀ x, ¬flushed 4 (entryAt State.reset 0 x)) ∧ inStash 0x40007 ∧ ¬inStash 0x40008 ∧ wayOf 0 3 := by
  refine ⟨⟨by decide, by decide⟩, ⟨by decide, by decide⟩, ⟨by decide, by decide⟩, by decide, ?_, ?_, ?_, fun x h => absurd h.1 ?_,
    ⟨by decide, by decide⟩, ?_, ⟨by decide, by decide⟩⟩
  · simp only [cmdFault, partKeyBad]
    exact ⟨fun h => absurd h (by decide), fun _ h => absurd h (by decide), fun _ _ => trivial⟩
  · simp only [cmdFault, partKeyBad]
    exact ⟨fun _ => trivial, fun h => absurd (by decide) h, fun h => absurd (by decide) h⟩
  · simp only [cmdFault, partKeyBad]
    exact ⟨fun h => absurd h (by decide), fun _ _ => trivial, fun _ h => absurd (by decide) h⟩
  · rw [show entryAt State.reset 0 x = {} from rfl]; decide
  · rintro ⟨_, h⟩; exact absurd h (by decide)

/-- A command that waits for a learn; a sweep at bucket 0 and at the stash; strobes due; an aged entry; a flush of port 5. -/
theorem wit_turns : ((fwdState { learnTurn := true } (msgPkt .lookup)).fwdQ 0).learnTurn = true ∧
    ((fwdState { cmd := some 0 } (msgPkt .lookup)).fwdQ 0).cmd = some 0 ∧
    (∀ b : Fin 2, ((fwdState { sweep := some (65536 * b.val) } (msgPkt .lookup)).fwdQ 0).sweep = some (65536 * b.val)) ∧
    (fwdState {} (msgPkt .lookup)).dom 3 = 0 ∧ (∀ x, (entryAt (fwdState {} (msgPkt .lookup)) 0 x).valid = false) ∧
    ({ State.reset with tick := 400000 } : State).ageingAt + 400000 ≤ 400000 ∧ State.reset.tick.toNat < State.reset.ageingAt + 400000 ∧
    (∀ e ∈ ((fwdState { tab := [(3, macEntry)], flushes := [5] } (msgPkt .lookup)).fwdQ 0).tab, e.2.valid = true) ∧
    (∃ x ∈ ((fwdState { tab := [(3, macEntry)], flushes := [5] } (msgPkt .lookup)).fwdQ 0).flushes, x.toNat = 5) ∧
    flushed (BitVec.ofNat 28 (16 * 5)) macEntry :=
  ⟨rfl, rfl, fun _ => rfl, by decide, fun _ => rfl, by decide, by decide, fun e h => by rw [List.mem_singleton.1 h]; rfl,
    ⟨5, List.mem_singleton_self _, rfl⟩, rfl, .inr ⟨rfl, by decide⟩, .inl rfl, fun h => absurd h (by decide)⟩
/-- An entry of bucket 0 that is old, and one that is not. -/
theorem wit_old : (let s := { regs [(0xC00028, 3), (0xC0002C, 7)] with fwd := [(0, { ({} : Fwd) with tab := [(0, macEntry), (1, { macEntry with ts := 6 })], sweep := some 0 })] };
    ext (s.reg (fwAt 0 0x28)) 13 0 = 3 ∧ nowOf s 0 = 7 ∧ (entryAt s 0 0).kind = 1 ∧ 3 ≤ (7 + 2 ^ 14 - (entryAt s 0 0).ts.toNat) % 2 ^ 14 ∧
      ¬3 ≤ (7 + 2 ^ 14 - (entryAt s 0 1).ts.toNat) % 2 ^ 14) := by decide
/-- Dispatch: slice 1 with a share in quadrant 0, two slots and sixteen handlers; a task of it, and a command on the channel. -/
def dspState (slots : SMap Slot) (msgs : List (Fin 1024 × List Word)) : State :=
  { State.reset with
    csr := [(0x1000108, 2 + 16 * 2 ^ 13), (0x2401140, 1)]
    slices := [(1, { sliceReset 1 with state := 1 })]
    cores := [(2, { slice := some 1 })]
    dsp := [(0, { slots := slots })]
    dcmds := msgs }
def hostSub : Submitter := { src := 5, slice := 0, system := true, quad := some 0 }
def descAt (handler : Nat) : Desc := { p0 := BitVec.ofNat 28 (handler + 2 ^ 12), p1 := 100, p2 := 0, p3 := 0, p4 := 0, p5 := 0 }
theorem wit_submit : writesReg State.reset (dsAt 0 8) ∧ quadFor (dspState [] []) hostSub (descAt 15) = some 0 ∧
    ext ((dspState [] []).reg (dsAt 0 (0x100 + 8))) 25 13 = 16 ∧ ext ((dspState [] []).reg (dsAt 0 (0x100 + 8))) 12 0 = 2 ∧
    nonpkt (dspState [] []) 0 1 = 0 ∧ slotOpen (dspState [] []) 0 0 ∧ lowestOpen (dspState [] []) 0 0 :=
  ⟨⟨by decide, by decide⟩, by decide, by decide, by decide, by decide, ⟨by decide, by decide, by decide⟩,
    ⟨by decide, by decide, by decide⟩, fun m _ => Nat.zero_le m⟩
def readyTask : Slot := { st := .ready, gen := 1, src := 5, slice := 1, count := 0, dl := 100, handler := 3 }
theorem wit_names : names (dspState [(7, { readyTask with st := .waiting, count := 1 })] []) hostSub 0 (handleWord 1 7) ∧
    ¬names (dspState [] []) hostSub 0 (handleWord 1 7) := by
  refine ⟨⟨by decide, by decide, .inl rfl⟩, fun h => absurd h.1 (by decide)⟩
theorem wit_channel_command : oldestMsg (dspState [] [(16, [1])]) 16 [1] ∧ ext (1 : Word) 2 0 = 1 ∧ ext (0x12 : Word) 2 0 = 2 :=
  ⟨⟨[], [], rfl, by simp⟩, by decide, by decide⟩
theorem wit_dispatch : eligible (dspState [(7, readyTask)] []) 0 7 ∧ waitsFor (dspState [(7, readyTask)] []) 0 1 16 ∧
    ((readyTask.dl - 100 : Pair)).toNat < 2 ^ 26 ∧ SMap.rises ((dspState [(7, readyTask)] []).dspQ 0).slots = true :=
  ⟨⟨by decide, by decide, 16, by decide, by decide, by decide⟩, ⟨by decide, by decide, by decide⟩, by decide, by decide⟩
def waitReq : AReq := { pkt := some 0, slice := 1, handler := 3, src := 0, ports := 0, k6 := 0, miss := false, cause := 0, trap := 0 }
theorem wit_allocation : (let s := { dspState [] [] with dsp := [(0, { ({} : Dsp) with reqs := [(0, [waitReq])] })], pkts := [(0, msgPkt .released)] };
    SMap.get [] (s.dspQ 0).reqs 0 = [waitReq] ∧ (∀ i, i < 12 → i ≠ 0 → SMap.get [] (s.dspQ 0).reqs i = []) ∧ waitReq.sub = none ∧
      s.pkt? 0 = some (msgPkt .released) ∧ s.sliceState waitReq.slice.toNat = 1) := by
  set_option exponentiation.threshold 300 in decide
/-- A SUBMIT through DSP.CMD that waits on port 11, one of a thread; DSP.CMD while BUSY; a cancelled task; the stop. -/
def subReq (x : SubmitTo) : AReq := { sub := some (hostSub, descAt 15, x) }
theorem wit_submission_waits : (let s := { dspState [] [] with dsp := [(0, { ({} : Dsp) with reqs := [(11, [subReq (.csr 0)])] })] };
      SMap.get [] (s.dspQ 0).reqs 11 = [subReq (.csr 0)] ∧ (∀ i, i < 12 → i ≠ 11 → SMap.get [] (s.dspQ 0).reqs i = []) ∧
        quadFor s hostSub (descAt 15) = some 0) ∧
    submitWaits { dspState [] [] with dsp := [(0, { ({} : Dsp) with reqs := [(10, [subReq (.thread 16)])] })] } 16 ∧ noneWaits (dspState [] []) ∧
    bitOf ((regs [(0x100000C, 0x10)]).reg (dsAt 0 0xC)) 4 = true ∧
    cancelledNow { dspState [(7, { readyTask with st := .free, cancelAt := some 5 })] [] with cclk := 5 } 0 (handleWord 1 7) ∧
    (let s := { dspState [(7, { readyTask with pkt := some 0 })] [] with epc := { stopped := true }, pkts := [(0, wavePkt 5)] };
      s.epc.stopped = true ∧ (s.slot 0 7).pkt = some 0 ∧ (s.pkt? 0).isSome = true ∧ (wavePkt 5).cls = 0) := by
  refine ⟨⟨rfl, by decide, by decide⟩, ⟨0, by decide, _, List.mem_singleton_self _, _, List.mem_singleton_self _, _, _, rfl⟩, fun q _ x hx => ?_,
    by decide, ⟨by decide, by decide, by decide⟩, rfl, rfl, rfl, rfl⟩
  match q, hx with
  | 0, hx => exact absurd hx List.not_mem_nil
  | q + 1, hx => exact absurd hx List.not_mem_nil

end Sys2Proof.Tests

namespace Sys2Proof.Tests

/-! ## DRAM -/

/-- Channel 0 READY, with one extent of group QUAD 0 at PBASE 0, and a load of word 0 of line 0 queued. -/
def loadReq : DReq := { line := 0, op := .read, slice := 0, port := 2, dl := none, arr := 0, reply := .load 0 0 false }
def dchanState (d : DChan) (l : List (Nat × Pair)) : State :=
  { State.reset with
    csr := (0x8, 1) :: (0x2000004, 3) :: l
    exts := [(0, { ({} : Extent) with valid := true })]
    dchans := [(0, d)] }
theorem wit_dram_service : serves (dchanState { reqs := [loadReq] } []) 0 ∧ siteOf (dchanState { reqs := [loadReq] } []) 0 = some (0, 0) ∧
    (dchanState { reqs := [loadReq] } []).dchan 0 = { reqs := [loadReq] } ∧
    SMap.get false ((dchanState { reqs := [loadReq] } []).dchan 0).flush (4 * 0 + rankIn (dchanState { reqs := [loadReq] } []) 0 0) = false ∧
    tagFault (dchanState {} []) 0 0 false = 0 ∧ tagFault (dchanState {} []) 1 0 false = 7 ∧ ¬serves State.reset 0 := by
  simp only [serves]
  decide
theorem not_siteBefore_self (s : State) (k : Nat) (r : DReq) : ¬siteBefore s k r r := by
  rintro ⟨_, ⟨h1, h2, _⟩ | ⟨_, a, b, ha, hb, h⟩⟩
  · exact h2 h1
  · obtain rfl : a = b := Option.some.inj (ha.symm.trans hb)
    exact absurd h (Nat.lt_irrefl _)
/-- A channel with one request, at a port or in the write queue, serves that one alone. -/
theorem only_of {s : State} {r : DReq} {m : Nat} (hq : ((s.dchan 0).reqs = [r] ∧ (s.dchan 0).wq = []) ∨ ((s.dchan 0).reqs = [] ∧ (s.dchan 0).wq = [r]))
    (hs : serves s 0) (hl : ∀ n, lineAt s 0 r n → n = m) (hf : SMap.get false (s.dchan 0).flush (4 * (m % 2) + rankIn s 0 m) = false)
    (hv : movesLine r = true → ∀ d ∈ s.dchans, d.2.wiping = none) (hu : movesLine r = false → r.m = none → ¬underCopy s r.line) :
    onlyServable s 0 (m % 2) r := by
  have hw : (s.dchan 0).wq.length < 64 := by rcases hq with h | h <;> simp [h.2]
  refine ⟨hs, ⟨?_, fun n h => ?_⟩, fun x hx => ?_⟩
  · rcases hq with h | h
    · refine .inr ⟨by simp [h.1], fun a b e hn y hy => ?_, fun x hx hb => ?_⟩
      swap
      · obtain rfl : x = r := by simpa [h.1] using hx
        exact not_siteBefore_self _ _ _ hb
      rw [h.1] at e
      cases a with
      | nil => simp at hy
      | cons z a => simp at e
    · exact .inl (by simp [h.2])
  · obtain rfl := hl n h
    exact ⟨rfl, hf, hv, hu, fun _ => .inr hw⟩
  · rcases hq with h | h <;> rcases hx.1 with e | e
    · simp [h.2] at e
    · simpa [h.1] using e.1
    · simpa [h.2] using e
    · simp [h.1] at e
def accessReq (op : LineOp) (r : Reply) : DReq := { loadReq with op := op, reply := r }
theorem access_line (r : DReq) (h : r.m = none) (hl : r.line = 0) (d : DChan) (n : Nat) : lineAt (dchanState d []) 0 r n → n = 0 := by
  rintro (h' | ⟨-, h'⟩)
  · simp [h] at h'
  · have e : siteOf (dchanState d []) 0 = some (0, 0) := show siteOf (dchanState {} []) 0 = some (0, 0) by decide
    rw [hl, e] at h'
    simpa using h'.symm
/-- R333 to R340: a load, a store, a CAS, a ring's line and a visit as the only request of their channel. -/
theorem wit_accesses : ∀ r, r ∈ [loadReq, accessReq (.write 0 false 5) (.store 0 0), accessReq (.cas 0 0 1) (.cas 0),
      accessReq (.words 5) (.ring 0 0 0), accessReq (.visit true) (.op .umbra)] →
    onlyServable (dchanState { reqs := [r] } []) 0 0 r ∧ lineAt (dchanState { reqs := [r] } []) 0 r 0 := by
  intro r hr
  have hm : r.m = none ∧ r.line = 0 ∧ movesLine r = false := by
    simp only [List.mem_cons, List.not_mem_nil, or_false] at hr
    rcases hr with rfl | rfl | rfl | rfl | rfl <;> exact ⟨rfl, rfl, rfl⟩
  have hs : serves (dchanState { reqs := [r] } []) 0 := .inr (show mmF (dchanState {} []) 0 4 2 0 = 3 by decide)
  refine ⟨only_of (.inl ⟨rfl, rfl⟩) hs (access_line r hm.1 hm.2.1 _) rfl (fun h => by simp [hm.2.2] at h) fun _ _ h => ?_, .inr ⟨hm.1, ?_⟩⟩
  · rw [hm.2.1] at h; exact absurd h.1 Bool.false_ne_true
  · rw [hm.2.1]; exact show siteOf (dchanState {} []) 0 = some (0, 0) by decide
/-- A write-back, a copy's read and its write, and a line of a wipe, each as the only request of its channel. -/
def drainReq : DReq := { accessReq .drain .none with m := some 0 }
def moveReq (op : LineOp) : DReq := { accessReq op (.move 0) with m := some 0, port := 5 }
def moveState (d : DChan) : State := { dchanState d [] with exts := [(0, { ({} : Extent) with valid := true, moving := some 0 })] }
def wipeReq : DReq := { accessReq .wipe .none with m := some 0 }
def wipingChan (d : DChan) : DChan := { d with wiping := some { next := 0, stop := 2, slice := 0, train := false } }
theorem own_line {s : State} {r : DReq} (h : r.m = some 0) (n : Nat) : lineAt s 0 r n → n = 0 := by
  rintro (h' | h')
  · rw [h] at h'; simpa using h'.symm
  · rw [h] at h'; simp at h'
theorem wit_line_work : onlyServable (dchanState { wq := [drainReq] } []) 0 0 drainReq ∧
    onlyServable (moveState { reqs := [moveReq .read] }) 0 0 (moveReq .read) ∧ (moveReq .read).line = 0 * 2 ^ 24 + 0 ∧
    onlyServable (moveState { wq := [moveReq .drain] }) 0 0 (moveReq .drain) ∧
    onlyServable (dchanState (wipingChan { reqs := [wipeReq] }) []) 0 0 wipeReq ∧
    extentsMapped (moveState {}) ∧ extentsMapped (dchanState {} []) := by
  have hw : ∀ d ∈ ({ wq := [moveReq .drain] } : DChan) :: [{ reqs := [moveReq .read] }], d.wiping = none := by
    intro d h
    rcases List.mem_cons.1 h with rfl | h
    · rfl
    · obtain rfl := List.mem_singleton.1 h; rfl
  refine ⟨only_of (.inr ⟨rfl, rfl⟩) (.inr rfl) (own_line rfl) rfl (fun h => absurd h Bool.false_ne_true) (fun _ h => by cases h),
    only_of (.inl ⟨rfl, rfl⟩) (.inr rfl) (own_line rfl) rfl (fun _ d h => by rw [List.mem_singleton.1 h]) (fun h => absurd h.symm Bool.false_ne_true), rfl,
    only_of (.inr ⟨rfl, rfl⟩) (.inr rfl) (own_line rfl) rfl (fun _ d h => by rw [List.mem_singleton.1 h]) (fun h => absurd h.symm Bool.false_ne_true),
    only_of (.inl ⟨rfl, rfl⟩) (.inr rfl) (own_line rfl) rfl (fun h => absurd h Bool.false_ne_true) (fun _ h => by cases h),
    ⟨by decide, by decide, fun x h _ => by rw [List.mem_singleton.1 h]; decide⟩,
    ⟨by decide, by decide, fun x h _ => by rw [List.mem_singleton.1 h]; decide⟩⟩
theorem wit_may_serve : mayServe (dchanState { reqs := [loadReq] } []) 0 0 loadReq ∧ isAccess loadReq ∧
    isAccess (accessReq (.write 0 false 5) (.store 0 0)) ∧ isAccess (accessReq (.cas 0 0 1) (.cas 0)) ∧ isAccess (accessReq (.words 5) (.ring 0 0 0)) ∧
    ∀ r, ¬mayServe (dchanState {} []) 0 0 r :=
  ⟨(wit_accesses loadReq (List.mem_cons_self ..)).1.2.1, ⟨rfl, trivial⟩, ⟨rfl, trivial⟩, ⟨rfl, trivial⟩, ⟨rfl, show 0 < 256 by decide⟩,
    fun _ h => h.1.elim (fun h => absurd h List.not_mem_nil) fun h => absurd h.1 List.not_mem_nil⟩
/-- Refresh: a rank that is there, one that is not, an owed REF; 8,192 REFs; a sweep; a scrub that is on; a move. -/
theorem wit_refresh : (0 : Nat) < 2 ^ rankBits (dchanState {} []) 0 ∧ ¬(1 : Nat) < 2 ^ rankBits (dchanState {} []) 0 ∧
    owedOf (dchanState {} [(0x2000018, 1)]) 0 0 0 = 1 ∧ 8192 ≤ SMap.get 0 ((dchanState { refs := [(0, 8192)] } []).dchan 0).refs 0 ∧
    (tableOf (dchanState { shadow := [(0, { ({} : Shadow) with sweeping := true })] } []) 0 0).sweeping = true ∧
    mmF (dchanState {} [(0x2000060, 1)]) 0 0x60 7 0 ≠ 0 ∧ 1 ≤ mmF (dchanState {} [(0x2000008, 5)]) 0 8 1 0 ∧
    ((moveState {}).extent 0).moving ≠ none := by decide
/-- R357: a scrub that is due, whichever tick the copy shows, and one that is not; R331: the end of a move with and without a wipe. -/
theorem wit_scrub : (let s := dchanState {} [(0x2000060, 1)]; (∀ c, mclkTick s c → (s.dchan 0).scrubAt ≤ mclkAt s 0 c) ∧ serves s 0 ∧ (s.dchan 0).reqs = [] ∧
      (s.dchan 0).wq = [] ∧ extentsMapped s) ∧
    (let s := dchanState { scrubAt := 100 } [(0x2000060, 1)]; mclkAt s 0 s.tick.toNat < (s.dchan 0).scrubAt) ∧
    (¬∃ d ∈ (moveState {}).dchans, d.2.wiping ≠ none) ∧ ∃ d ∈ (moveState (wipingChan {})).dchans, d.2.wiping ≠ none := by
  refine ⟨⟨fun c _ => Nat.zero_le _, .inr (by decide), rfl, rfl, by decide, by decide, fun x h _ => by rw [List.mem_singleton.1 h]; decide⟩, by decide,
    fun ⟨d, h, e⟩ => e (by rw [List.mem_singleton.1 h]), ⟨_, List.mem_singleton_self _, by simp [wipingChan]⟩⟩
theorem wit_census : writesReg State.reset (mmAt 0 0x48) ∧ mmF State.reset 0 0x48 4 3 ≠ 1 ∧ mmF (regs [(0x2000048, 8)]) 0 0x48 4 3 = 1 ∧
    mmF (regs [(0x2000048, 16)]) 0 0x48 4 3 = 2 ∧ (let s := { regs [(0x2000044, 0x80), (0x2000048, 8)] with tick := 400 };
      mmF s 0 0x44 22 7 = 1 ∧ (s.dchan 0).censusAt + 400 * 1 ≤ s.tick.toNat) := by
  refine ⟨⟨by decide, by decide⟩, by decide, by decide, by decide, by decide⟩
theorem wit_training_memory : writesReg State.reset (mmAt 0 0xC) ∧ ext (State.reset.reg 0xC) 2 0 ≠ 3 ∧ mmF (regs [(0x2000004, 1)]) 0 4 2 0 = 1 ∧
    modulesOk { supported := true, fastEnough := true, dpc := 1, ranks := 1, die := false, rfmReq := false, drfm := false } ∧
    ¬modulesOk { supported := false, fastEnough := true, dpc := 1, ranks := 1, die := false, rfmReq := false, drfm := false } ∧
    isPoint (regs [(0x2000004, 1)]) 0 ⟨3, false, 0, 0, [0]⟩ :=
  ⟨⟨by decide, by decide⟩, by decide, by decide, by simp [modulesOk], by simp [modulesOk], by decide, by decide, by decide, by decide⟩
/-- R353: results of every step, subchannel, rank and lane of a channel with one rank; with one more they are still there. -/
def fullEyes : SMap Eye := (List.range 120).map fun i => (eyeKey (3 + i / 20) (i / 10 % 2) 0 (i % 10), { width := 100 })
theorem find_put {k j : Nat} {e : Eye} (m : SMap Eye) (h : SMap.find? m j ≠ none) : SMap.find? (SMap.put k e m) j ≠ none := by
  induction m with
  | nil => exact absurd rfl h
  | cons x m ih =>
    obtain ⟨i, w⟩ := x
    simp only [SMap.put]
    split
    · simp only [SMap.find?]
      split
      · simp
      · exact h
    · split
      · simp only [SMap.find?] at h ⊢
        split
        · simp
        · rw [if_neg (by omega)] at h; exact h
      · simp only [SMap.find?] at h ⊢
        split
        · simp
        · rename_i hn
          rw [if_neg hn] at h
          exact ih h
theorem wit_every_lane (e : Eye) : everyLane (regs [(0x2000004, 1)]) 0 (SMap.put (eyeKey 3 0 0 0) e fullEyes) ∧
    ¬everyLane (regs [(0x2000004, 1)]) 0 (SMap.put (eyeKey 3 0 0 0) e []) := by
  have key : ∀ st : Fin 6, ∀ sc : Fin 2, ∀ l : Fin 10, (SMap.find? fullEyes (eyeKey (3 + st.val) sc.val 0 l.val)).isSome = true := by decide +kernel
  refine ⟨fun st sc rk l h1 h2 h3 h4 h5 => find_put _ ?_, fun h => ?_⟩
  · have hr : rankBits (regs [(0x2000004, 1)]) 0 = 0 := by decide
    rw [hr] at h4
    have hl : l < 10 := by split at h5 <;> omega
    obtain rfl : rk = 0 := by omega
    have hk := key ⟨st - 3, by omega⟩ ⟨sc, h3⟩ ⟨l, hl⟩
    rw [show 3 + (st - 3) = st by omega] at hk
    exact Option.isSome_iff_ne_none.1 hk
  · exact h 4 0 0 0 (by decide) (by decide) (by decide) (by decide) (by decide) (by simp [SMap.put, SMap.find?, eyeKey])
/-- R353: a sweep in which no delay passes fails the training; one in which all pass goes on. -/
theorem test_train_end : (match exec (.trainEnd 0 [⟨3, false, 0, 0, [0]⟩]) (regs [(0x2000004, 1), (0x200000C, 32)]) with
    | .next s => decide (mmF s 0 4 2 0 = 4 ∧ mmF s 0 0x10 8 6 = 2)
    | _ => false) = true ∧ (match exec (.trainEnd 0 [⟨3, false, 0, 0, [BitVec.allOnes 128]⟩]) (regs [(0x2000004, 1), (0x200000C, 32)]) with
    | .next s => decide (mmF s 0 4 2 0 = 1 ∧ (s.dchan 0).eyes = [(eyeKey 3 0 0 0, { vref := 0, delay := 63, width := 128 })])
    | _ => false) = true := by decide +kernel
theorem wit_wipe : writesReg State.reset (glAt 0x20) ∧ ext (State.reset.reg (glAt 0x24)) 0 0 = 0 ∧ bitOf (0x100001 : Pair) 20 = true ∧
    ext (0x100001 : Pair) 1 0 = 1 ∧ ext ((regs [(0x8, 1)]).reg 8) 12 0 ≤ 1 ∧ ({ State.reset with wipe := some .all } : State).wipe = some .all :=
  ⟨⟨by decide, by decide⟩, by decide, by decide, by decide, by decide, rfl⟩
/-- R358: lines that a wipe of software, of an extent, and of a training has still to reach. -/
def wipingState (train : Bool) (w : Option Wipe) : State :=
  { dchanState { wiping := some { next := 0, stop := 2, slice := 0, train := train } } [] with wipe := w }
theorem wit_wipe_end : (∀ b w, toWipe (wipingState b w) 0 { next := 0, stop := 2, slice := 0, train := b }) ∧ (∀ w, noTraining (wipingState false w)) ∧
    (∀ b w, extentsMapped (wipingState b w) ∧ SMap.rises (wipingState b w).lines = true ∧ ((wipingState b w).extent 0).moving = none ∧
      (wipingState b w).slcCmd = none ∧ ∀ j : Fin 16, j ≠ 0 → ((wipingState b w).dchan j).wiping = none) ∧
    (∀ k : Fin 16, (State.reset.dchan k).wiping = none) ∧ ext (0x300001 : Pair) 27 21 ≠ 0 := by
  refine ⟨fun b w => ⟨0, 0, ?_, rfl, Nat.le_refl 0, show 0 < 2 by decide⟩, fun w d h v e => ?_, fun b w => ⟨⟨?_, by rfl, fun x h _ => ?_⟩, rfl, rfl, rfl, ?_⟩, by decide, by decide⟩
  · exact show siteOf (dchanState {} []) 0 = some (0, 0) by decide
  · rw [List.mem_singleton.1 h] at e
    obtain rfl := Option.some.inj e
    rfl
  · exact show 0 < ext ((dchanState {} []).reg 8) 12 0 by decide
  · rw [List.mem_singleton.1 h]; exact show 0 < ext ((dchanState {} []).reg 8) 12 0 by decide
  · intro j h
    have h' : (0 : Nat) ≠ j.val := fun e => h (Fin.ext e.symm)
    simp [State.dchan, wipingState, dchanState, SMap.get, h']

/-! ## Slices -/

/-- Slice 1 in state st with two cores of cluster 0, and the registers listed. -/
def sliceState (st : Nat) (x : Slice) (l : List (Nat × Pair)) (c : Option SlcCmd) : State :=
  { State.reset with csr := l, slices := [(1, { x with state := BitVec.ofNat 4 st })], slcCmd := c }
def cmdVal (op : Nat) : Pair := BitVec.ofNat 28 (op + 2 ^ 4)
theorem wit_slice_checks : writesReg State.reset (slcAt 0) ∧ ext (State.reset.reg (slcAt 4)) 4 4 = 0 ∧
    ext ((regs [(0x2400004, 0x10)]).reg (slcAt 4)) 4 4 = 1 ∧ slcCheck State.reset 1 (cmdVal 1) = 0 ∧
    slcCheck State.reset 2 (cmdVal 2) = 2 ∧ slcCheck State.reset 1 1 = 3 ∧ slcCheck State.reset 1 (cmdVal 1 + 2 ^ 25) = 1 ∧
    slcCheck State.reset 3 (cmdVal 3) = 2 ∧ slcCheck State.reset 3 3 = 3 ∧ slcCheck (sliceState 1 {} [] none) 3 (cmdVal 3) = 3 ∧ slcCheck (sliceState 1 {} [(0x8, 1)] none) 3 (cmdVal 3) = 0 ∧
    slcCheck (sliceState 1 {} [(0x8, 1)] none) 4 (cmdVal 4) = 0 ∧ slcCheck (sliceState 1 {} [] none) 5 (cmdVal 5) = 0 ∧
    slcCheck (sliceState 2 {} [] none) 6 (cmdVal 6) = 0 ∧ slcCheck (sliceState 4 {} [] none) 7 (cmdVal 7) = 0 ∧
    slcCheck (sliceState 4 {} [] none) 8 (cmdVal 8) = 0 ∧ slcCheck (sliceState 5 {} [] none) 9 (cmdVal 9) = 0 ∧
    slcCheck (sliceState 1 {} [] none) 10 (cmdVal 10) = 0 ∧ slcCheck (sliceState 1 {} [] none) 2 (cmdVal 2) = 0 :=
  by and_intros <;> first | decide | exact ⟨by decide, by decide⟩
/-- A quota that fails and one that holds; an epoch too late; a place that is free. -/
theorem wit_quota : quotaBad (regs [(0x2401140, 1)]) 1 0 ∧ ¬quotaBad State.reset 1 0 ∧ tooLate (runState [] {}) 0 ∧ ¬tooLate State.reset 0 ∧
    placeFree (regs [(0x8, 1)]) 4 0 := by
  refine ⟨.inr (.inr (.inr (.inr ⟨by decide, by decide⟩))), ?_, ⟨by decide, .inl (by decide)⟩, fun h => absurd h.1 (by decide),
    ⟨by decide, fun h => absurd h (by decide), fun x h => absurd h (by simp [regs, State.reset])⟩⟩
  rintro (h | h | ⟨j, _, _, _, _, h⟩ | h | h)
  · exact absurd h (by decide)
  · exact absurd h (by decide)
  · have e1 : ext (State.reset.reg (shAt 1 0 + 0)) 21 13 = 0 := by decide
    have e2 : ext (State.reset.reg (shAt 1 0 + 4)) 16 8 = 0 := by decide
    rcases h with h | h
    · exact absurd h.1 (by show ¬0 < ext (State.reset.reg (shAt 1 0 + 0)) 21 13; rw [e1]; decide)
    · exact absurd h.1 (by show ¬0 < ext (State.reset.reg (shAt 1 0 + 4)) 16 8; rw [e2]; decide)
  · exact absurd h.1 (by decide)
  · exact absurd h.1 (by decide)
/-- An Afterimage of slice 1 that holds nothing: a header of three lines, every section empty. -/
def imagePlaces : Places := (List.range 12).map fun k => (k, 0, 0)
def imageState (st : Nat) (c : Option SlcCmd) : State :=
  let s := { sliceState st {} [(0x8, 1), (0x2000004, 3), (0x2400014, 3)] c with exts := [(0, { ({} : Extent) with valid := true })], lines := (List.range 3).map fun l => (l, { ({} : Line) with kind := 1 }) };
  (s.writeLines 0 (chunks 36 3 (s.header 1 0 3 imagePlaces [0, 0, 0]))).2
def restoreCmd : SlcCmd := { op := 9, slice := 1, ext := 0, rest := [] }
theorem wit_restore : (match (imageState 5 (some restoreCmd)).imageArea with
      | .ok m => decide ((imageState 5 (some restoreCmd)).mismatch 1 m = none) && decide (m.slots = []) &&
        decide ((imageState 5 (some restoreCmd)).restoreWait restoreCmd m = none)
      | .error _ => false) = true ∧
    (match State.reset.imageArea with
      | .ok _ => false
      | .error k => decide (k = 0)) = true := by decide +kernel
/-- A freeze that is complete and one that is not; FREEZE_LIMIT past; SAVE with room and without; slots in rising order. -/
theorem wit_freeze : (∀ t, ¬inSlice (sliceState 3 {} [] none) 1 t) ∧ stOf (sliceState 3 {} [] none) 1 = 3 ∧ drained (sliceState 3 {} [] none) 1 ∧
    (sliceState 3 {} [] none).pkts = [] ∧ SMap.rises ((sliceState 3 {} [] none).dspQ 0).slots = true ∧
    ¬(∃ e ∈ (sliceState 4 {} [] none).exts, e.2.valid = true) := by
  refine ⟨?_, by decide, ⟨by simp [sliceState, State.reset], by simp [sliceState, State.reset], fun j _ => rfl⟩, rfl, by decide,
    by simp [sliceState, State.reset]⟩
  rintro t ⟨ht, h⟩
  have hc : (sliceState 3 {} [] none).core (t / 8) = coreReset (t / 8) := rfl
  have key : ∀ n, n < 128 → (coreReset n).slice ≠ some (BitVec.ofNat 6 1) := by decide
  rw [hc] at h
  exact key _ (by omega) h
theorem wit_freeze_limit : (let s := { dspState [(7, { readyTask with st := .running, src := 1 })] [] with
        slices := [(1, { sliceReset 1 with state := 3 })]
        threads := [(16, { ({} : Thread) with st := .run, hasTask := true, handle := handleWord 1 7 })] };
      stOf s 1 = 3 ∧ (s.slice 1).limited = false ∧ (s.slotFor 16).isSome = true ∧ (s.core (16 / 8)).slice = some (BitVec.ofNat 6 1)) ∧
    ((regs [(0x240001C, 0)]).slice 1).freezeStart.toNat + 400 * ext ((regs [(0x240001C, 0)]).reg (slcAt 0x1C)) 9 0 ≤ 0 := by decide
/-- A wipe's end under each command; a share that is written, one refused; an idle core that is spare. -/
theorem wit_placement : writesReg State.reset (shAt 1 0) ∧ coresOf State.reset 0 0 = 2 ∧ ¬16 < 2 + 14 ∧ 16 < 2 + 15 ∧
    coreIdles State.reset 5 = true ∧ coreIdles (lum0 0) 0 = false ∧ (State.reset.core 5).slice = none ∧
    (let s := { State.reset with cores := [(5, { slice := some 1 })], sems := [(0, { ({} : Sem) with held := true, owner := 40 })] };
      coreIdles s 5 = true ∧ ¬heldIn s 1 0 ≤ coresOf s 1 0 ∧ (s.core 5).lent = false ∧ (s.sem 0).held = true ∧ (s.sem 0).owner.toNat / 8 = 5) :=
  ⟨⟨by decide, by decide⟩, by decide, by decide, by decide, by decide, by decide, by decide, by decide⟩
theorem wit_hold_none : threadsHoldNone State.reset := by
  intro n h
  exact absurd h Bool.false_ne_true
/-- R358: GRANT-EXT behind its wipe, whose line 0 is still to be written; R377: a slice with nothing in progress but a line of its ring. -/
def grantCmd : SlcCmd := { op := 3, slice := 1, ext := 0, rest := [], place := some (4, 0) }
def grantWipe : State := { wipingState false none with slcCmd := some grantCmd }
theorem wit_slice_wipe : grantWipe.wipe = none ∧ grantWipe.slcCmd = some grantCmd ∧ extentsMapped grantWipe ∧ SMap.rises grantWipe.lines = true ∧
    noTraining grantWipe ∧ (grantWipe.extent grantCmd.ext).moving = none ∧ grantCmd.op.toNat = 3 ∧ grantCmd.place = some (4, 0) :=
  ⟨rfl, rfl, (wit_wipe_end.2.2.1 false none).1, rfl, wit_wipe_end.2.1 none, rfl, rfl, rfl⟩
theorem wit_drained_ring : drained (dchanState { reqs := [{ accessReq (.words 5) (.ring 0 0 0) with slice := 1 }] } []) 1 :=
  ⟨fun d h r hr => by rw [List.mem_singleton.1 h] at hr; exact .inr ⟨0, 0, 0, by rw [List.mem_singleton.1 hr]; rfl⟩,
    fun _ h => absurd h List.not_mem_nil, fun _ _ => rfl⟩

end Sys2Proof.Tests

namespace Sys2Proof.Tests

/-! ## The host interface -/

def qp0 : Qp := { fn := 0, qp := 0 }
/-- Queue pair 0 of the PF enabled with rings of 16, SQ_TAIL 2, the registers listed before these, and its other state. -/
def hostSt (l : SMap Pair) (x : QpState) : State :=
  { State.reset with page := l ++ [(0, 0x889), (0x20, 0x20001)], qps := [(0, x)] }
def fetchedOf (e : BitVec 512) : Fetched := { entry := e, engine := 0, started := false, moved := 0, status := none, res0 := 0, res1 := 0 }
def entState (e : BitVec 512) : State := { hostSt [] { entry := some (fetchedOf e) } with csr := [(0x8, 1), (0x1401000, 64), (0x2000004, 3)] }
/-- A doorbell that takes each form of an index: at the last of 16, past it, more than there is; IRQ completions left and none left. -/
theorem wit_doorbells : pageUp State.reset 0 ∧ pageUp (hostSt [] {}) 0 ∧ stOf (hostSt [] {}) 0 = 1 ∧ qpF (hostSt [] {}) qp0 0 0 0 = 1 ∧
    qpF State.reset qp0 0 0 0 = 0 ∧ ext (15 : Pair) 11 0 < sqLen (hostSt [] {}) qp0 ∧ sqLen (hostSt [] {}) qp0 ≤ ext (16 : Pair) 11 0 ∧
    cqLen (hostSt [] {}) qp0 ≤ ext (16 : Pair) 11 0 ∧ (15 + cqLen (hostSt [] {}) qp0 - 0) % cqLen (hostSt [] {}) qp0 = 15 ∧
    (1 : Nat) ≤ [false, true].length ∧ true ∈ [false, true].drop 1 ∧ true ∉ [true, false].drop 1 ∧ bitOf (1 : Pair) 27 = false ∧
    bitOf (0x8000001 : Pair) 27 = true ∧ (16 : Nat) ≤ rqLen (hostSt [] {}) qp0 ∧ ([true] : List Bool).length < 15 := by
  refine ⟨?_, ?_, ?_⟩
  · simp only [pageUp, fnThere]; decide
  · simp only [pageUp, fnThere]; decide
  · decide
/-- QP_CTL with EN 1: sizes 2^4 that may be enabled, sizes 2^3 that may not; a queue pair that is on; a stop with no entry, with one
that has moved data and with one that has not. -/
theorem wit_enable : bitOf (0x889 : Pair) 0 = true ∧ ext (0x889 : Pair) 4 1 = 4 ∧ ext (0x889 : Pair) 8 5 = 4 ∧ ext (0x889 : Pair) 12 9 = 4 ∧
    ext (0x887 : Pair) 4 1 = 3 ∧ qpF State.reset qp0 0 0 0 = 0 ∧ qpF State.reset qp0 0x20 1 0 ≠ 2 ∧ qpF State.reset qp0 0x1C 20 20 = 0 ∧
    (stOf State.reset 0 = 1 ∨ stOf State.reset 0 = 2) ∧ ¬(qpF (hostSt [] {}) qp0 0 0 0 = 0) ∧ qpF (hostSt [] {}) qp0 0x20 1 0 = 1 ∧
    ((hostSt [] {}).qp (qpn qp0)).entry = none ∧ (fetchedOf 0).started = false ∧ { fetchedOf 2 with started := true }.started = true ∧
    qpF State.reset qp0 0x20 1 0 ≠ 1 := by decide
/-- Queue pair 0 has an entry to fetch and engine 0 is free; before any queue pair is enabled nothing is fetched. -/
theorem wit_fetch : (hostSt [] {}).fatal = 0 ∧ (hostSt [] {}).domOn 2 = true ∧ qpF (hostSt [] {}) qp0 0x20 15 4 ≠ qpF (hostSt [] {}) qp0 0x20 27 16 ∧
    ((hostSt [] {}).qp (qpn qp0)).irqs.length < cqLen (hostSt [] {}) qp0 ∧ SMap.get false (hostSt [] {}).d3 qp0.fn = false ∧
    (¬∃ y ∈ (hostSt [] {}).qps, y.2.entry.map (·.engine) = some 0) ∧ (∀ q : Qp, qpF State.reset q 0x20 1 0 ≠ 1) := by
  refine ⟨rfl, by decide, by decide, by decide, by decide, by decide, fun q h => ?_⟩
  have e : ∀ k : Fin 8, ext (pageInfo (0x40 * k.val + 0x20)).reset 1 0 ≠ 1 := by decide
  exact e q.qp h
/-- Entries that fail each check of Table 15.5, and one of each kind that fails none. -/
def nopE : BitVec 512 := 0
def taskE : BitVec 512 := 1
def dmaE (k : Nat) : BitVec 512 := BitVec.ofNat 512 (k + 4 * 2 ^ 192)
def chanE : BitVec 512 := BitVec.ofNat 512 (4 + 2 ^ 73 + 7 * 2 ^ 128)
def semE : BitVec 512 := 5
def pasidE : BitVec 512 := dmaE 2 ||| BitVec.ofNat 512 (2 ^ 52)
def casE : BitVec 512 := 6
def dmaState (k : Nat) : State :=
  { entState (dmaE k) with exts := [(0, { ({} : Extent) with valid := true })], lines := [(0, { ({} : Line) with kind := 1 })] }
theorem wit_entry_checks : entFails (entState nopE) 0 nopE 0 ∧ entFails (entState taskE) 0 taskE 0 ∧ entFails (entState chanE) 0 chanE 0 ∧
    entFails (entState semE) 0 semE 0 ∧ entFails (entState 7) 0 7 1 ∧ entFails (entState 4) 0 4 2 ∧
    entFails (entState pasidE) 0 pasidE 3 ∧ entFails (entState casE) 0 casE 4 ∧
    entFails (dmaState 2) 0 (dmaE 2) 0 ∧ entFails (dmaState 3) 0 (dmaE 3) 0 ∧ entFails (dmaState 2) 0 casE 0 := by
  simp only [entFails, linesThere, pasidOk]
  and_intros <;> decide +kernel

theorem all_on (e : BitVec 512) (d : Nat) (h : d < 15) : (entState e).domOn d = true := by
  have k : ∀ d, d < 15 → (entState 0).domOn d = true := by decide
  exact k d h
/-- A queue pair with an entry of each kind that may run now; an entry that has ended, one of a slice that is not active, one whose domain sleeps. -/
theorem wit_entries : entReady (entState nopE) qp0 (fetchedOf nopE) ∧ entReady (entState taskE) qp0 (fetchedOf taskE) ∧
    entReady (entState chanE) qp0 (fetchedOf chanE) ∧ entReady (entState semE) qp0 (fetchedOf semE) ∧
    ext (fetchedOf chanE).entry 3 0 = 4 ∧ ext ((entState chanE).reg (0x1401000 + 4 * (64 * ext chanE 66 64 + ext chanE 72 67))) 6 0 = 64 ∧
    (∀ w ∈ ((entState chanE).chan 0).writers, w.qp ≠ some qp0) ∧ ext (State.reset.reg 0x1401000) 6 0 ≠ 64 ∧
    { fetchedOf 0 with status := some 0 }.status = some 0 ∧ runsEntry (.entryNop qp0) qp0 0 { units := [], error := false } ∧
    ¬(stOf State.reset 1 = 1) ∧ ¬(stOf State.reset 1 = 2) ∧
    { entState taskE with csr := [(0x2C0010C, 2)] }.entryAsleep (fetchedOf taskE) = some (3, 3) := by
  have r : ∀ e : BitVec 512, entFails (entState e) 0 e 0 → entReady (entState e) qp0 (fetchedOf e) := fun e h =>
    ⟨rfl, rfl, (by decide : 0 < 4), all_on e, .inr ⟨.inl (show stOf (entState 0) 0 = 1 by decide), h⟩⟩
  have c := wit_entry_checks
  exact ⟨r _ c.1, r _ c.2.1, r _ c.2.2.1, r _ c.2.2.2.1, by decide, by decide, by decide,
    by decide, rfl, .inl ⟨rfl, .inl rfl⟩, by decide, by decide, by decide⟩
/-- DMA of four words at line 0 either way, CAS of its first pair, with the causes of Table 13.3 in reach. -/
theorem wit_dma : (∀ k, k = 2 ∨ k = 3 → entReady (dmaState k) qp0 (fetchedOf (dmaE k))) ∧ ext (dmaE 2) 3 0 = 2 ∧ ext (dmaE 3) 3 0 = 3 ∧
    (fetchedOf (dmaE 2)).moved < dCount (dmaE 2) ∧ dFirst (dmaE 2) < dPer (dmaE 2) ∧ siteOf (dmaState 2) 0 ≠ none ∧ siteOf (entState casE) 0 = none ∧
    dNext (fetchedOf (dmaE 2)) = (0, 0, 4) ∧ lineCause (dmaState 2) 0 0 false true false = 0 ∧ lineCause (dmaState 3) 0 0 false false false = 0 ∧
    lineCause (dmaState 3) 0 0 true false false = 7 ∧ lineCause (dmaState 3) 1 0 false false false = 7 ∧
    lineCause { dmaState 3 with lines := [(0, { ({} : Line) with kind := 3 })] } 0 0 false false false = 8 ∧
    linePairAt ((dmaState 2).line 0).data 0 = 0 := by
  refine ⟨?_, by decide +kernel⟩
  have c := wit_entry_checks
  rintro k (rfl | rfl)
  · exact ⟨rfl, rfl, by decide, by decide, .inr ⟨.inl (by decide), c.2.2.2.2.2.2.2.2.1⟩⟩
  · exact ⟨rfl, rfl, by decide, by decide, .inr ⟨.inl (by decide), c.2.2.2.2.2.2.2.2.2.1⟩⟩
/-- R336: a line that the entry has visited, with and without an uncorrectable error, and one that it has not. -/
def visitedState (k : Nat) (u : Bool) : State :=
  { dmaState k with dchans := [(0, { visits := [{ h := .entry qp0, line := 0, acted := true, ue := u }] })] }
theorem site_zero (k : Nat) (h : k = 2 ∨ k = 3) : siteOf (dmaState k) 0 = some (0, 0) := by rcases h with rfl | rfl <;> decide
theorem wit_visited (k : Nat) (h : k = 2 ∨ k = 3) : (∀ u, hasVisited (visitedState k u) (.entry qp0) 0 u) ∧ (∀ u, ¬hasVisited (dmaState k) (.entry qp0) 0 u) ∧
    ∀ u, entReady (visitedState k u) qp0 (fetchedOf (dmaE k)) := by
  refine ⟨fun u => ⟨0, 0, site_zero k h, rfl⟩, fun u ⟨j, m, _, e⟩ => ?_, fun u => wit_dma.1 k h⟩
  exact absurd (show none = some u from e) (by simp)
/-- R323, R402, R404: a CAS entry before and after its request; a TASK entry that waits for allocation; SEM entries that wait and are due;
a CAS entry that has been answered. -/
def casState (d : DChan) : State := { dmaState 2 with qps := [(0, { ({} : QpState) with entry := some (fetchedOf casE) })], dchans := [(0, d)] }
def semState (b : Bool) : State :=
  { entState semE with qps := [(0, { ({} : QpState) with entry := some { fetchedOf semE with sent := b } })] }
theorem wit_entry_waits : (∀ d, entReady (casState d) qp0 (fetchedOf casE)) ∧ ext (fetchedOf casE).entry 3 0 = 6 ∧
    (∃ d ∈ (casState { reqs := [accessReq (.cas 0 0 1) (.entry qp0)] }).dchans, ∃ r ∈ d.2.reqs, r.reply = .entry qp0) ∧
    (∀ d ∈ (casState {}).dchans, ∀ r ∈ d.2.reqs, r.reply ≠ .entry qp0) ∧
    (∃ p x, p < 4 ∧ x ∈ ({ entState taskE with dsp := [(0, { ({} : Dsp) with reqs := [(11, [subReq (.host qp0)])] })] }.dspQ p).reqs ∧
      ∃ r ∈ x.2, r.sub.map (·.2.2) = some (.host qp0)) ∧
    entReady (semState true) qp0 { fetchedOf semE with sent := true } ∧ semDue (semState true) 0 (.queue 0 0) 0 ∧
    ¬semDue (semState false) 0 (.queue 0 0) 0 ∧ { fetchedOf casE with status := some 0 }.status = some 0 := by
  have c := wit_entry_checks
  refine ⟨fun d => ⟨rfl, rfl, (by decide : 0 < 4), all_on (dmaE 2), .inr ⟨.inl (show stOf (entState 0) 0 = 1 by decide), c.2.2.2.2.2.2.2.2.2.2⟩⟩, by decide,
    ⟨_, List.mem_singleton_self _, _, List.mem_singleton_self _, rfl⟩, fun d h r hr => ?_,
    ⟨0, _, by decide, List.mem_singleton_self _, _, List.mem_singleton_self _, rfl⟩,
    ⟨rfl, rfl, by decide, all_on semE, .inr ⟨.inl (show stOf (entState 0) 0 = 1 by decide), c.2.2.2.1⟩⟩, semDue_alone (by decide), fun h => ?_, rfl⟩
  · rw [List.mem_singleton.1 h] at hr; exact absurd hr List.not_mem_nil
  · exact absurd h.1 (by decide)
/-- A vector that pends; FLR of the PF and of no function; queue pairs in order. -/
theorem wit_functions : pageUp State.reset 0 ∧ SMap.rises State.reset.qps = true ∧ (∀ k : Fin 8, (State.reset.qp (8 * 0 + k.val)).rqWait = []) ∧
    SMap.get false { State.reset with pba := [(3, true)] }.pba 3 = true ∧ (0 : Fin 64).val ≤ 62 ∧ 63 ≤ (63 : Fin 64).val := by
  refine ⟨by simp only [pageUp, fnThere]; decide, rfl, fun k => rfl, by decide, by decide, by decide⟩
/-- A thread of the PF with a staged message, and a receive ring with room; the PF in D3hot. -/
theorem wit_host_message : (let s := { hostSt [] {} with threads := [(5, { ({} : Thread) with st := .blocked, hasTask := true, blk := .chc, bw := 0x2020, staged := [0, 7] })] };
      s.rqFree qp0 = true ∧ s.fatal = 0 ∧ s.hostWriters qp0 = [5] ∧ SMap.get false s.d3 qp0.fn = false ∧
      SMap.get false { s with d3 := [(0, true)] }.d3 qp0.fn = true) := by decide

end Sys2Proof.Tests

namespace Sys2Proof.Tests

/-! ## Power -/

def pwState (l : SMap Pair) (p : Power) : State := { State.reset with csr := l, power := p }
theorem not_accessed {s : State} {d : Nat} (h1 : s.power.stalled = []) (h2 : s.threads = []) (h3 : s.units = []) (h4 : s.qps = []) (hd : d < 11) :
    ¬accessed s d := by
  rintro (⟨x, h, _⟩ | ⟨x, h, _⟩ | ⟨x, h, _⟩ | ⟨x, h, _⟩ | ⟨h, _⟩)
  · exact absurd (h1 ▸ h) List.not_mem_nil
  · exact absurd (h2 ▸ h) List.not_mem_nil
  · exact absurd (h3 ▸ h) List.not_mem_nil
  · exact absurd (h4 ▸ h) List.not_mem_nil
  · exact absurd h (Nat.not_le.2 hd)
/-- A request that is BUSY, one that starts nothing, one that Table 16.1 does not allow, a wake, an entry of LINK0 into RETAIN that no
refuser holds against, and each refuser. -/
theorem wit_power_request : State.reset.inReset = false ∧ State.reset.writable (pwAt 4) = true ∧ bitOf (State.reset.reg (pwAt 0)) 0 = false ∧
    bitOf (State.reset.reg (pwAt 8)) 0 = false ∧ bitOf ((regs [(0x2C00008, 1)]).reg (pwAt 8)) 0 = true ∧
    ext (0xA7 : Pair) 6 4 = 2 ∧ ext (0xA7 : Pair) 3 0 = 7 ∧ bitOf (0xA7 : Pair) 7 = true ∧ ext (0xA7 : Pair) 27 8 = 0 ∧ bitOf (0x27 : Pair) 7 = false ∧
    ext (0x87 : Pair) 6 4 = 0 ∧ domMay 7 2 ∧ domMay 7 0 ∧ ¬domMay 7 1 ∧ ¬domMay 0 1 ∧ (∀ r, ¬refusedBy State.reset 7 r) ∧ State.reset.waking 7 = false ∧
    State.reset.dom 7 = 0 ∧ (regs [(0x2C0011C, 2)]).dom 7 = 2 ∧ (pwState [] { waking := [(7, 3)] }).waking 7 = true := by
  suffices none_refuses : ∀ r, ¬refusedBy State.reset 7 r by
    and_intros <;> first | exact none_refuses | decide | simp [domMay]
  intro r h
  match r, h with
  | 1, h => exact h (by decide)
  | 2, h => exact not_accessed rfl rfl rfl rfl (by decide) h
  | 3, h => exact absurd h.1 (by decide)
  | 4, h => rcases h with h | h; exacts [absurd h.1 (by decide), absurd h.2.1 (by decide)]
  | 5, h =>
    rcases h with h | h | ⟨_, _, p, _, h⟩ | h
    · exact absurd h.1 (by decide)
    · exact absurd h.2.1 (by decide)
    · exact absurd h ((by decide : ∀ p : Fin 32, ¬ext (State.reset.reg (lkAt p 0)) 0 0 = 1) p)
    · exact absurd h.1 (by decide)
  | 6, h =>
    rcases h with ⟨_, _, p, _, h, _⟩ | h
    · exact absurd h ((by decide : ∀ p : Fin 32, ¬1 ≤ lkState State.reset p) p)
    · exact absurd h.1 (by decide)
theorem wit_refusers : refusedBy (regs [(0x2C0019C, 0x10), (0x2C0015C, 0x18)]) 7 1 ∧ refusedBy (pwState [] { stalled := [{ domain := 7, m := .host, wr := true, off := 0x400000, v := 0 }] }) 7 2 ∧
    refusedBy (regs [(0xC, 3)]) 1 3 ∧ refusedBy State.reset 1 4 ∧ refusedBy State.reset 2 5 ∧ refusedBy (portState 2 0 {}) 7 6 ∧
    ∀ r, r < 4 → ¬refusedBy State.reset 1 r := by
  refine ⟨by simp only [refusedBy]; decide, .inl ⟨_, List.mem_singleton_self _, .inl rfl⟩, ⟨by decide, .inl rfl⟩, .inl ⟨rfl, 3, by decide⟩,
    .inl ⟨rfl, 0, by decide⟩, .inl ⟨by decide, by decide, 0, by decide⟩, fun r hr h => ?_⟩
  match r, hr, h with
  | 1, _, h => exact h (by decide)
  | 2, _, h => exact not_accessed rfl rfl rfl rfl (by decide) h
  | 3, _, h => exact absurd h.1 (by decide)
/-- Entries in progress; with a store or a load that has come meanwhile; wakes in progress, of kept and of lost state. -/
theorem wit_domains : (pwState [] { entering := some (4, 3) }).power.entering = some (4, 3) ∧ (∀ t, State.reset.power.entering ≠ some (4, t)) ∧
    bitOf ((regs [(0x2C00190, 0x10)]).reg (pwAt (0x180 + 4 * 4))) 4 = true ∧ bitOf (State.reset.reg (pwAt (0x180 + 4 * 4))) 3 = false ∧
    (pwState [(0x2C00110, 0x13)] { waking := [(4, 3)] }).waking 4 = true ∧ nobodyWaits (pwState [(0x2C00110, 0x13)] { waking := [(4, 3)] }) ∧
    (pwState [(0x2C00110, 0x13)] { waking := [(4, 3)] }).dom 4 = 3 ∧ (pwState [(0x2C00110, 0x12)] { waking := [(4, 3)], badRet := [4] }).dom 4 = 2 ∧
    State.reset.waking 4 = false :=
  ⟨rfl, by intro t h; simp [State.reset] at h, by decide, by decide, by decide, ⟨rfl, fun t => ⟨rfl, rfl⟩⟩, by decide, by decide, by decide⟩
/-- A host access to a register of CORE that waits, and a load of thread 0 that waits for QUAD0. -/
def stallWr : Stalled := { domain := 1, m := .host, wr := true, off := 0x100004, v := 1600 }
theorem wit_stalled : (let s := pwState [(0x2C00104, 0x11)] { waking := [(1, 3)], stalled := [stallWr] };
      s.waking 1 = true ∧ s.dom 1 = 1 ∧ domOfReg stallWr.off.toNat = 1 ∧ s.entering 1 = false ∧ s.writable stallWr.off.toNat = true ∧
      s.pins.cclkLost = false ∧ waitsDom s 1 (.acc stallWr)) ∧ plainAt 0x100004 := by
  refine ⟨⟨by decide, by decide, by decide, by decide, by decide, by decide, List.mem_singleton_self _, rfl⟩, by decide, .inr (.inl rfl)⟩
/-- R418: an access whose wake limit has passed, one whose limit has not, and one for which none has been noted; it waits for one domain. -/
def limitState (l : List (Waiter × Nat)) : State :=
  { pwState [(0x2C00104, 0x11)] { waking := [(1, 3)], stalled := [stallWr], limits := l } with tick := 800 }
theorem wit_limits : limitPassed (limitState [(.acc stallWr, 800)]) (.acc stallWr) ∧ waitsDom (limitState [(.acc stallWr, 800)]) 1 (.acc stallWr) ∧
    ¬limitPassed (limitState [(.acc stallWr, 801)]) (.acc stallWr) ∧ (∀ w, ¬limitPassed (limitState []) w) ∧
    (∀ e, e < 15 → waitsDom (limitState []) e (.acc stallWr) → e = 1) ∧ ∃ e, e < 15 ∧ (limitState []).domOn e = false := by
  refine ⟨⟨800, by decide, by decide⟩, ⟨List.mem_singleton_self _, rfl⟩, fun ⟨n, h, k⟩ => ?_, fun w ⟨n, h, _⟩ => ?_, fun e _ h => h.2.symm, 1, by decide, by decide⟩
  · obtain rfl : 801 = n := Option.some.inj ((show notedLimit _ _ = some 801 by decide).symm.trans h)
    exact absurd k (by decide)
  · exact absurd (show (none : Option Nat) = some n from h) (by simp)
def quadWaits : State := { pwState [(0x2C0010C, 0x13)] { waking := [(3, 3)] } with threads := [(0, { ({} : Thread) with st := .run, await := some { addr := 0x3FC00000000, dst := 9, pair := false } })] }
theorem wit_waiting_load : quadWaits.waking 3 = true ∧ quadWaits.dom 3 = 3 ∧ quadWaits.power.stalled = [] ∧
    (quadWaits.thread 0).await = some { addr := 0x3FC00000000, dst := 9, pair := false } ∧ waitsDom quadWaits 3 (.load 0) ∧
    (∀ s', exec (.domainWakeComplete 3 true) quadWaits = .next s' → onChip s' 0 0x3FC00000000 false) ∧ quadWaits.dchans = [] := by
  refine ⟨by decide, by decide, rfl, by decide, ⟨_, 3, rfl, rfl, rfl, by decide⟩, fun s' h => ?_, rfl⟩
  have k : (match execDomainWakeComplete 3 true quadWaits with
      | .next x => decide (top x ≤ 0x3FC00000000) && inScratch 0x3FC00000000 && decide (x.asleepAt 0 0x3FC00000000 = none) && x.system 0
      | _ => false) = true := by decide +kernel
  have e : execDomainWakeComplete 3 true quadWaits = .next s' := h
  rw [e] at k
  simp only [Bool.and_eq_true, decide_eq_true_eq] at k
  exact ⟨k.1.1.1, .inl k.1.1.2, k.1.2, .inl k.2⟩
theorem wit_nobody_waits : ∀ w, ¬waitsDom State.reset 3 w := by
  have e : State.reset.domWaiters 3 = [] := by decide +kernel
  have h (w : Waiter) (hw : w ∈ State.reset.domWaiters 3) : False := by rw [e] at hw; exact absurd hw List.not_mem_nil
  rintro (x | t | ⟨t, i⟩ | ⟨n, k, c, a⟩ | q | ⟨t, a⟩ | t | ⟨r, u, i⟩ | _) hw
  · exact absurd hw.1 List.not_mem_nil
  · obtain ⟨w, src, h1, _⟩ := hw
    cases h1
  · obtain ⟨p, h1, _⟩ := hw
    exact absurd h1 List.not_mem_nil
  all_goals exact h _ hw
/-- Glints that are enabled and not, at a domain that is ON and one that sleeps; a wake that runs; the timer; the sensor at its points. -/
theorem wit_glint : bitOf (State.reset.reg (pwAt (0x140 + 4 * 3))) 4 = true ∧ bitOf (State.reset.reg (pwAt (0x140 + 4 * 3))) 6 = false ∧
    State.reset.dom 3 = 0 ∧ (regs [(0x2C0010C, 3)]).dom 3 = 3 ∧ (regs [(0x2C0010C, 3)]).entering 3 = false ∧
    ext ((regs [(0x2C00210, 0x300064)]).reg (pwAt 0x210)) 19 0 = 100 ∧ ext ((regs [(0x2C00210, 0x300064)]).reg (pwAt 0x210)) 23 20 = 3 ∧
    ext (State.reset.reg (pwAt 0x210)) 19 0 = 0 ∧ writesReg State.reset (pwAt 0x214) ∧ bitOf (0x134 : Pair) 8 = true ∧ ext (0x134 : Pair) 3 0 = 4 ∧
    ext (0x134 : Pair) 7 4 = 3 ∧ bitOf (0x34 : Pair) 8 = false ∧
    ext (State.reset.reg (pwAt 0x224)) 7 0 < ext (State.reset.reg (pwAt 0x224)) 15 8 ∧ ext (State.reset.reg (pwAt 0x224)) 15 8 ≤ 95 ∧
    ¬ext (State.reset.reg (pwAt 0x224)) 15 8 ≤ 94 ∧ State.reset.fatal = 0 ∧
    (regs [(0x2C00210, 0x300064)]).power.timerAt ≤ (regs [(0x2C00210, 0x300064)]).uclk ∧ (0 : Nat) < ({ timerAt := 200 } : Power).timerAt ∧
    State.reset.inReset = false ∧ State.reset.uclk < State.reset.thermalAt + 200000 ∧
    ({ State.reset with uclk := 200000 } : State).thermalAt + 200000 ≤ 200000 ∧ writesReg State.reset (pwAt 0x210) :=
  by and_intros <;> first | decide | exact ⟨by decide, by decide⟩

/-! ## The error log and the fatal path -/

/-- A log with one record, and one that is full for the host. -/
theorem wit_log : writesReg State.reset 0x340000C ∧ (ext (1 : Pair) 8 0 + 512 - 0) % 512 ≤ (ext ((regs [(0x3400008, 1)]).reg 0x3400008) 8 0 + 512 - 0) % 512 ∧
    ¬(ext (2 : Pair) 8 0 + 512 - 0) % 512 ≤ (ext ((regs [(0x3400008, 1)]).reg 0x3400008) 8 0 + 512 - 0) % 512 ∧
    unreadBy State.reset 0x340000C = 0 ∧ unreadBy (regs [(0x3400008, 256)]) 0x340000C = 256 ∧ unreadBy (regs [(0x3400008, 1)]) 0x340000C = 1 ∧
    sameRecord (regs [(0x3400008, 1), (0x3401000, 0x3E600)]) { src := 6, code := 0x3E, cls := 0 } 0 ∧
    unreadAt (regs [(0x3400008, 1)]) 0 = 0 ∧ bitOf (0x20000 : Pair) 17 = true ∧ ext (0x20000 : Pair) 1 0 ≠ 3 ∧ ext (0x20003 : Pair) 1 0 = 3 ∧
    (State.reset.slot 0 0).st = .free ∧ lkState (portState 6 0 {}) 0 = 6 ∧ itemOfSlice (.lumenWord 0) ∧ ¬itemOfSlice .umbra := by
  and_intros <;> first | exact id | trivial | decide | (simp only [sameRecord]; decide)
/-- The watchdog before and after its time; the fatal sequence before step 1, at step 2 and with a link up. -/
theorem wit_fatal : ¬State.reset.boot.kickAt + 200000 * max 1 (ext (State.reset.reg 0x3400030) 9 0) ≤ State.reset.uclk ∧
    ({ State.reset with uclk := 20000000 } : State).boot.kickAt + 200000 * max 1 (ext (State.reset.reg 0x3400030) 9 0) ≤ 20000000 ∧
    State.reset.fatal = 0 ∧ ({ State.reset with fatal := 2 } : State).fatal = 2 ∧ bitOf ((portState 6 0 {}).reg (lkAt 0 4)) 4 = true ∧
    mmF (dchanState {} []) 0 4 2 0 = 3 ∧ mmF State.reset 0 4 2 0 ≠ 5 ∧ lkState (portState 6 0 {}) 0 ≠ 8 := by decide

end Sys2Proof.Tests

namespace Sys2Proof.Tests

/-! ## Resets, boot, fuses and the mailbox -/

def bootState (b : Boot) : State := { State.reset with boot := b }
theorem wit_resets : State.reset.pins.porLow = false ∧ ({ State.reset with pins := { porLow := true } } : State).pins.porLow = true ∧
    SMap.rises State.reset.csr = true ∧ ({ State.reset with pins := { sysLow := true } } : State).pins.sysLow = true ∧
    lcOf State.reset.boot.otp = 0 ∧ lcOf { started := 8 } = 4 ∧ (5 : BitVec 8).toNat % 4 = 1 := by decide
/-- Octets of a number, least significant first, and n octets of zero. -/
def le (n v : Nat) : List Octet := (List.range n).map fun i => BitVec.ofNat 8 (v / 2 ^ (8 * i))
/-- An UMBRA image of one octet signed with slot 0, and a flash whose directory names it alone. -/
def umbraImage : List Octet := le 4 0x14405A70 ++ [1, 0, 1, 0] ++ le 4 0 ++ le 4 1 ++ le 48 0 ++ List.replicate 1952 0 ++ [0] ++ List.replicate 3309 0
def dirEntry : List Octet := le 4 1 ++ le 4 32 ++ le 4 5326 ++ le 4 0
def dirHead : List Octet := le 4 0x5A7D1440 ++ le 4 1 ++ le 4 0
def flashOne : List Octet :=
  dirHead ++ le 4 (~~~ crcBits 0x04C11DB7 0xFFFFFFFF (octetBits (dirHead ++ dirEntry))).toNat ++ dirEntry ++ umbraImage
theorem test_flash : umbraImage.length = 5326 ∧ flashOne.take 4 = [0x40, 0x14, 0x7D, 0x5A] ∧ dirKind flashOne 0 = 1 ∧
    oct (dirImage flashOne 0) 7 1 = 0 ∧ dirImage flashOne 0 = umbraImage := by decide +kernel
theorem wit_directory : dirValid flashOne 1 ∧ romWaits State.reset := by
  refine ⟨?_, rfl, rfl, rfl, rfl⟩
  simp only [dirValid, zeros]
  decide +kernel
/-- In BLANK the image starts where its signature verifies; a device with no directory has nothing to start. -/
theorem wit_boots (h : Config.mldsaVerify (pubOf umbraImage) (digestOf umbraImage) (sigOf umbraImage) = true) :
    bootsFrom State.reset flashOne 1 0 ∧ ¬∃ n e, bootsFrom State.reset [] n e := by
  have e : dirImage flashOne 0 = umbraImage := test_flash.2.2.2.2
  have hs : signed umbraImage = true := by decide +kernel
  have kl : keylessFor State.reset 1 := ⟨by decide, by simp only [slotValid]; decide, .inl rfl⟩
  refine ⟨⟨wit_directory.1, by decide, test_flash.2.2.1, ?_, fun d hd => absurd hd (Nat.not_lt_zero d)⟩, fun ⟨n, _, h', _⟩ => absurd h'.1 (by decide)⟩
  rw [e]
  intro c hc
  match c, hc with
  | 1, hc => exact absurd (show ¬oct umbraImage 0 4 ≠ 0x14405A70 by decide +kernel) (not_not_intro hc)
  | 2, hc => exact absurd hc (by simp only [checkFails, zeros]; decide +kernel)
  | 3, hc => exact absurd hc (by simp only [checkFails]; decide +kernel)
  | 4, hc => exact absurd hc.1 (by decide +kernel)
  | 5, hc => exact absurd hc (by simp only [checkFails]; decide +kernel)
  | 6, hc => exact absurd (hs.symm.trans hc.1) (by decide)
  | 7, hc => exact hc.2.1 kl
  | 8, hc => exact hc.2.1 kl
  | 9, hc => exact absurd hc (by simp only [checkFails]; decide +kernel)
  | 10, hc => exact absurd hc.1 (by decide +kernel)
  | 11, hc => exact absurd (hc.2.symm.trans h) (by decide)
  | 12, hc => exact absurd hc.1 (by decide)
/-- Fuses: a key programmed in BLANK, a move to DEVELOP, a slot that may be revoked, an SVN that may be set. -/
def keyed : Boot := { otp := { keys := [(0, 1), (1, 2)] }, fwSvn := 3 }
theorem wit_fuses : State.reset.inReset = false ∧ mayMove (bootState keyed) 1 false ∧ ¬mayMove State.reset 1 false ∧
    mayRevoke (bootState keyed) 0 [] ∧ ¬mayRevoke State.reset 0 [] ∧
    (bootState keyed).boot.otp.svn.toNat ≤ 3 ∧ 3 ≤ (bootState keyed).boot.fwSvn.toNat ∧ ¬slotValid State.reset.boot.otp 0 ∧
    slotValid (bootState keyed).boot.otp 0 := by
  refine ⟨rfl, ⟨by decide, .inl ⟨by decide, .inl rfl, 0, by decide, by simp only [slotValid]; decide⟩⟩, ?_, ⟨⟨1, by decide, by decide, ?_, by decide⟩, ?_⟩, ?_,
    by decide, by decide, by simp only [slotValid]; decide, by simp only [slotValid]; decide⟩
  · rintro ⟨_, ⟨_, _, i, _, h⟩ | h | h | h⟩
    · exact h rfl
    · exact absurd h.1 (by decide)
    · exact absurd h.1 (by decide)
    · exact absurd h.2 (by decide)
  · simp only [slotValid]; decide
  · exact fun h => absurd h (by decide)
  · rintro ⟨⟨k, _, _, h, _⟩, _⟩
    exact h rfl
/-- A mailbox whose area is two lines of octets with a LUMEN image of one instruction, for each operation. -/
def lumenImage : List Octet := le 4 0x14405A70 ++ [1, 0, 2, 0xFF] ++ le 4 0 ++ le 4 4 ++ le 4 0 ++ le 4 1 ++ le 40 0 ++ [1, 0, 0, 0]
def mbState (op : Nat) (b : Boot) : State :=
  { State.reset with
    csr := [(0x8, 1), (0x2000004, 3), (0x2E00020, BitVec.ofNat 28 op), (0x2E0002C, 16)]
    exts := [(0, { ({} : Extent) with valid := true })]
    lines := (List.range 64).map fun j => (j, { ({} : Line) with kind := 2, data := BitVec.ofNat 504 (numOf ((lumenImage.drop (63 * j)).take 63)) })
    boot := b }
theorem wit_mailbox : (mbRuns (mbState 1 {}) 1 ∧ mbRuns (mbState 2 {}) 2 ∧ mbRuns (mbState 3 {}) 3 ∧ mbRuns (mbState 4 {}) 4) ∧ ¬mbRuns State.reset 1 ∧
    (∀ j, j < 64 → areaOk (mbState 1 {}) j) ∧ ¬areaOk State.reset 0 ∧ (bootState { seed := some 1 }).boot.seed = some 1 ∧
    (bootState { mbox := some (1, 2, 3) }).boot.mbox = some (1, 2, 3) ∧ writesReg State.reset (seAt 0x20) ∧
    bitOf (State.reset.reg (seAt 0x2C)) 4 = false := by
  refine ⟨?_, ?_, ?_, ?_, rfl, rfl, ⟨by decide, by decide⟩, by decide⟩
  · simp only [mbRuns]; decide
  · simp only [mbRuns]; decide
  · simp only [areaOk]; decide +kernel
  · simp only [areaOk]; decide +kernel
/-- R435: words of MBOX_CMD that are reserved and one that is not; R336: an area whose lines Umbra has visited, and one not yet. -/
def seenState (op : Nat) (b : Boot) : State :=
  { mbState op b with dchans := (List.range 4).map fun k => (k, { visits := (List.range 16).map fun i => { h := .umbra, line := 4 * i + k, acted := true, ue := false } }) }
theorem wit_area : areaSeen (seenState 1 {}) 64 ∧ (∀ j, j < 64 → areaOk (seenState 1 {}) j) ∧ areaSeen State.reset 64 ∧ ¬areaOk State.reset 0 ∧
    (∃ j, j < 2 ∧ (∀ i, i ≤ j → areaOk (mbState 1 {}) i) ∧ ∀ u, ¬hasVisited (mbState 1 {}) .umbra (areaAt (mbState 1 {}) + j) u) ∧
    ext (5 : Pair) 3 0 = 5 ∧ ext (0x80001 : Pair) 27 19 ≠ 0 ∧ bitOf (0x40001 : Pair) 18 = true ∧ ext (0x403 : Pair) 17 10 ≠ 0 := by
  have a : areaAt (seenState 1 {}) = 0 := by decide
  have k : ∀ j, j < 64 → siteOf (seenState 1 {}) j = some (j % 4, j / 4) ∧
      ((((seenState 1 {}).dchan (j % 4)).visits.find? fun v => decide (v.h = .umbra) && decide (v.line = j)).map (·.ue)) = some false := by decide +kernel
  refine ⟨fun j h _ => ⟨j % 4, j / 4, ?_, ?_⟩, wit_mailbox.2.2.1, fun j _ h => absurd (h 0 (Nat.zero_le _)) wit_mailbox.2.2.2.1, wit_mailbox.2.2.2.1,
    ⟨0, by decide, fun i h => wit_mailbox.2.2.1 i (by omega), fun u ⟨_, _, _, e⟩ => absurd (show none = some u from e) (by simp)⟩,
    by decide, by decide, by decide, by decide⟩
  · rw [a, Nat.zero_add]; exact (k j h).1
  · rw [a, Nat.zero_add]; exact (k j h).2
theorem lumen_passes (s : State) (h : s.boot = {}) : imgPasses s 2 (2 ^ 32) lumenImage := by
  have us : signed lumenImage = false := by decide +kernel
  intro c hc
  match c, hc with
  | 1, hc => exact absurd (show ¬oct lumenImage 0 4 ≠ 0x14405A70 by decide +kernel) (not_not_intro hc)
  | 2, hc => exact absurd hc (by simp only [checkFails, zeros]; decide +kernel)
  | 3, hc => exact absurd hc (by simp only [checkFails]; decide +kernel)
  | 4, hc => exact absurd hc.1 (by decide +kernel)
  | 5, hc => exact absurd hc (by simp only [checkFails]; decide +kernel)
  | 6, hc => exact absurd (hc.2 rfl).1 (by rw [h]; decide)
  | 7, hc => exact absurd (us.symm.trans hc.1) (by decide)
  | 8, hc => exact absurd (us.symm.trans hc.1) (by decide)
  | 9, hc => exact absurd hc (by simp only [checkFails, h]; decide +kernel)
  | 10, hc => exact absurd hc.1 (by decide +kernel)
  | 11, hc => exact absurd (us.symm.trans hc.1) (by decide)
  | 12, hc => exact absurd hc.1 (by decide)
/-- R429, R435: an image of two lines, read whole; an area not yet visited, of which the header alone is asked for; an image too long for
an allotment of no instruction. -/
theorem wit_load_image : imageIn (seenState 1 {}) 2 = lumenImage ∧ imageOk (seenState 1 {}) 2 ∧
    linesRead (seenState 1 {}) (causeIs (seenState 1 {}) 2 (2 ^ 32)) 2 ∧ imgPasses (seenState 1 {}) 2 (2 ^ 32) lumenImage ∧
    causeIs (mbState 1 {}) 2 0 lumenImage 5 ∧ linesRead (mbState 1 {}) (causeIs (mbState 1 {}) 2 (2 ^ 32)) 2 := by
  have e : fullOf (areaOctets (seenState 1 {}) (63 * 2)) = lumenImage := by decide +kernel
  have us : signed (areaOctets (seenState 1 {}) (63 * 2)) = false := by decide +kernel
  have p := lumen_passes (seenState 1 {}) rfl
  have ar : areaRead (seenState 1 {}) 2 := fun j h k => ⟨false, wit_area.1 j (by omega) k⟩
  have no : ¬areaRead (mbState 1 {}) 2 := fun k => by
    obtain ⟨j, h, ok, n⟩ := wit_area.2.2.2.2.1
    obtain ⟨u, k⟩ := k j h ok
    exact n u k
  have nf : ¬(¬areaRead (seenState 1 {}) 2 ∨ ∃ c, causeIs (seenState 1 {}) 2 (2 ^ 32) (fullOf (areaOctets (seenState 1 {}) (63 * 2))) c ∧
      c ≤ if signed (areaOctets (seenState 1 {}) (63 * 2)) = true ∧ 2 < 32 then 7 else 10) := by
    rintro (h | ⟨c, h, _⟩)
    · exact h ar
    · exact p c (e ▸ h.1)
  refine ⟨e, fun j h => wit_area.2.1 j (by omega), ⟨fun h => absurd h nf, fun _ h => absurd h (by rw [if_neg (by rw [us]; decide)]; exact nf), fun _ _ => ?_⟩, p,
    ⟨by simp only [checkFails]; decide +kernel, fun d hd hc => ?_⟩, ⟨fun _ => rfl, fun h => absurd (.inl no) h, fun h => absurd (.inl no) h⟩⟩
  · rw [if_neg (by rw [us]; decide), e]; decide +kernel
  · match d, hd, hc with
    | 1, _, hc => exact p 1 hc
    | 2, _, hc => exact p 2 hc
    | 3, _, hc => exact p 3 hc
    | 4, _, hc => exact p 4 hc

/-! ## Further clauses -/

/-- Thread 0 in the wait step of DONE, or past it, with the outputs given and D as given; its task in slot 7, with the message packet 0
for the ports given; one successor that it still counts, in slot 9. -/
def doneState (past d : Bool) (ports : Nat) (outs : SMap OutEntry) (next : Option Word := none) : State :=
  { State.reset with
    threads := [(0, { st := if past then .run else .blocked, blk := if past then .none else .done, gathered := past, hasTask := true
                      handle := handleWord 1 7, bw := if d then 0x200000 else 0, outs := outs })]
    dsp := [(0, { slots := [(7, { st := .running, gen := 1, src := 1, ports := BitVec.ofNat 32 ports, pkt := if d then some 0 else none, succ0 := next }),
                            (9, { st := .waiting, gen := 1, count := 1 })] })]
    pkts := [(0, { port := 0, cls := 1, flits := [BitVec.ofNat 256 (2 * 2 ^ 252)], stage := .released, link := .passed, len := 18 })] }
theorem done_no_child (past d : Bool) (ports : Nat) (outs : SMap OutEntry) (c : Nat) : isChild (doneState past d ports outs) 0 c = false := by
  by_cases h : c = 0
  · subst h; rfl
  · have e : (doneState past d ports outs).thread c = {} := by
      simp only [State.thread, doneState, SMap.get]; rw [if_neg (by omega)]
    simp [isChild, e]
theorem wit_may_gather (past d : Bool) (ports : Nat) (outs : SMap OutEntry) : mayGather (doneState past d ports outs) 0 := by
  cases past
  · exact ⟨rfl, .inl ⟨rfl, rfl, done_no_child _ _ _ _, rfl⟩⟩
  · exact ⟨rfl, .inr ⟨rfl, rfl⟩⟩
/-- R173: the successor in slot 9 counts 1; R18, R234: a message for port 0 and for port 8, where there is room and where a packet fills
the wave buffer. -/
theorem wit_done_message : (∀ p : Fin 2, (let s := doneState false true (2 ^ (8 * p.val)) []; let y := s.slot 0 7
      y.ports = BitVec.ofNat 32 (2 ^ (8 * p.val)) ∧ bitOf (s.thread 0).bw 21 = true ∧ y.pkt = some 0 ∧ y.succ0 = none ∧ y.succ1 = none ∧
      (s.pkt? 0).map (fun k => (k.cls, k.link, k.len)) = some (1, .passed, 18 * (0 + 1)) ∧ s.eouts = [] ∧ simpleForm s = true)) ∧
    (doneState false true 256 []).waveRoom (8 / 8) 18 = true ∧
    (let s := doneState true false 0 [] (some (handleWord 1 9)); (s.slot 0 7).succ0 = some (handleWord 1 9) ∧ (s.slot 0 9).st ≠ .free ∧ (s.slot 0 9).gen.toNat = (handleWord 1 9).toNat / 4096 ∧
      (handleWord 1 9).toNat % 4096 = 9 ∧ (s.slot 0 9).slice = (s.slot 0 7).slice ∧ (s.slot 0 9).count = 1) := by
  set_option exponentiation.threshold 300 in decide +kernel
/-- A MSG entry whose 18 words stand in core scratch. -/
def msgEntry : OutEntry := { valid := true, rs := 0, cls := 1, hdr := 0x3FC00000000 }
theorem wit_done_entry : msgEntry.valid = true ∧ msgEntry.ports = none ∧ ext msgEntry.rs 6 0 = 0 ∧
    (let s := doneState true false 0 [(0, msgEntry)]; ext (s.getWord (cellAt 0 (msgEntry.hdr + 3).toNat)) 6 0 = 0 ∧
      (∀ b, b < 18 * (0 + 1) → inScratch (msgEntry.hdr + BitVec.ofNat 42 b).toNat = true ∧
        s.accFault 0 (msgEntry.hdr + BitVec.ofNat 42 b).toNat false false = none ∧ s.asleepAt 0 (msgEntry.hdr + BitVec.ofNat 42 b).toNat = none ∧
        s.poisoned (cellAt 0 (msgEntry.hdr + BitVec.ofNat 42 b).toNat) = false) ∧
      (s.slot 0 7).pkt = none ∧ bitOf (s.thread 0).bw 21 = false ∧ s.waveRoom 0 18 = true ∧ simpleForm s = true) := by
  decide +kernel
/-- R195: a packet that fills the wave buffer of quadrant 0 leaves no room for a message. -/
theorem wit_full_buffer : ({ State.reset with pkts := [(0, filler)] } : State).waveRoom 0 18 = false := by
  simp only [State.waveRoom, List.any_eq_false]
  intro o _ h
  simp only [State.waveFree, Bool.and_eq_true, decide_eq_true_eq, List.all_eq_true] at h
  have := h.2 (waveBase 0, waveSize) (by decide)
  simp only [Bool.or_eq_true, decide_eq_true_eq] at this
  omega
/-- R323: an operation of a master with two requests waiting is not due behind the other; a group that has served one in this CCLK. -/
theorem wit_semaphore_served : ¬semDue semHeld 0 (.thread 0) 0 ∧ (∀ a ∈ semHeld.semReqs, ∀ b ∈ semHeld.semReqs, a.1 = b.1 → a = b) ∧
    (let s := { semAsks 0 (.thread 0) with semDone := (0, [0]) }; s.semDone.1 = s.cclk ∧ (0 : Fin 4096).val / 256 ∈ s.semDone.2) ∧
    State.reset.clocked 1 = true ∧ ({ State.reset with pins := { cclkLost := true } } : State).clocked 1 = false ∧
    (semAsks 1 (.queue 1 0)).qpMode ⟨1, 0⟩ ≠ 2 ∧ ((semAsks 1 (.queue 1 0)).qp 8).ahead = [] :=
  ⟨fun k => absurd k.1 (by decide), by decide, by decide, by decide, by decide, by decide, by decide⟩
/-- R26, R28, R478: a wave stamped as IDLE whose link check passes; one that stands in the wave buffer and has passed; no clock. -/
theorem wit_idle_wave : (let q := { wavePkt 5 with idle := true, stamped := true, link := .passed }; plainWave q ∧ q.idle = true ∧
      ({ State.reset with pkts := [(0, q)] } : State).pkt? 0 = some q) ∧
    (let q := { wavePkt 5 with len := 19, link := .passed }; nextArrival { State.reset with pkts := [(0, q)] } 0 0 q ∧ q.placed = true ∧ plainWave q ∧
      ¬runs State.reset) ∧ ({ State.reset with pins := { cclkLost := true } } : State).clocked (3 + 0 / 8) = false := by
  refine ⟨⟨⟨rfl, rfl, rfl, rfl⟩, rfl, rfl⟩, ⟨⟨show State.reset.clocked 3 = true by decide, [], [], rfl, rfl, rfl, rfl, rfl, rfl, by simp, by simp,
    fun x hx _ h => by rw [List.mem_singleton.1 hx] at h; exact absurd h (Nat.lt_irrefl 0)⟩, by decide +kernel, ⟨rfl, rfl, rfl, rfl⟩, by decide⟩, by decide⟩
/-- R62: limits of two epochs, of which the first has its LAST in time and the second has not. -/
theorem wit_arrival_list : (let s := lateRun { ports := [(2, { ({} : EPort) with recs := [lastRec false], arrDl := [(0, 10), (1, 10)] })] };
    (s.eport 2).arrDl = [(0, 10)] ++ ((1 : Epoch), (10 : Tick)) :: [] ∧
      (∃ r ∈ (s.eport 2).recs, r.epoch = 0 ∧ r.last = true ∧ r.arr.toNat ≤ (10 : Tick).toNat) ∧
      ¬∃ r ∈ (s.eport 2).recs, r.epoch = 1 ∧ r.last = true ∧ r.arr.toNat ≤ (10 : Tick).toNat) := by
  decide
/-- R60, R382: outputs of ports 0 and 1 that wait; one behind a wave of its epoch not yet complete; a re-presented one, which is first;
a watermark that allows it and one that is final. -/
def markRec (e : Epoch) (x : Nat) (last : Bool) : WaveRec := { epoch := e, xseq := BitVec.ofNat 16 x, seq := 0, arr := 0, due := 0, last := last, ok := true, completed := true }
theorem wit_released : waveWaits 0 { waveOut 3 with released := false } ∧
    (let s := { egress [] {} with csr := [(0x100000, 1), (0x400004, 0x16), (0x10100C, 2)], epc := { begun := true, live := true, epoch := 5, ports := [(1, { ({} : EPort) with recs := [markRec 5 0 false, markRec 5 1 true] })] } };
      fed s 0 1 ∧ ¬fed s 0 0 ∧ finalMark s 1 5 ∧ (doneWaves s 1 5).length = 2) ∧
    keyBefore { waveOut 4 with replay := true } (waveOut 3) ∧ ¬keyBefore (waveOut 3) { waveOut 4 with replay := true } ∧
    replayOpen { State.reset with pkts := [(0, { wavePkt 5 with replay := true, epoch := 5, xseq := 2 })] } 5 3 ∧
    ¬replayOpen { State.reset with pkts := [(0, { wavePkt 5 with replay := true, epoch := 5, xseq := 2 })] } 5 2 ∧
    ¬replayOpen State.reset 5 (2 ^ 16) := by
  refine ⟨⟨rfl, rfl, rfl, rfl, rfl⟩, ⟨by simp only [fed]; decide, by simp only [fed]; decide, ⟨markRec 5 1 true, by decide, rfl⟩, by decide⟩, .inr ⟨rfl, .inl ⟨rfl, rfl⟩⟩, ?_,
    ⟨_, List.mem_singleton_self _, rfl, rfl, rfl, rfl, rfl, by decide⟩, ?_, ?_⟩
  · simp only [keyBefore]; decide
  · rintro ⟨x, h, _, _, _, _, _, k⟩
    rw [List.mem_singleton.1 h] at k
    exact absurd k (by decide)
  · rintro ⟨x, h, _⟩
    exact absurd h List.not_mem_nil
theorem wit_port_ready (os : SMap EOut) (x : EPort) : portReady (egress os x) 0 := by
  obtain ⟨a, b, c, d, _⟩ := egress_ready os x
  exact ⟨a, b, c, d, show (decide (ext (SMap.get (regInfo 0x2C0010C).reset [(0x100000, 1), (0x400004, 0x16)] 0x2C0010C) 2 0 = 0) && !false) = true by decide⟩
/-- R61, R64, R65: LAST that may leave; a wave output of an earlier epoch, released and not; room for one flit and for 40; a message that has not
crossed the flit plane, and where a packet fills its buffer. -/
def msgOut (n : Nat) : EOut := { port := 0, kind := .msg, flits := List.replicate n 0, released := true }
theorem wit_last_and_message :
    (let s := egress [] { lastDl := [(5, 100, false)] }; going s ∧ (∀ f, ¬fed s 0 f) ∧ ¬replayOpen s 5 (2 ^ 16) ∧ (∀ x ∈ s.eouts, ¬waveWaits 0 x.2)) ∧
    (let s := egress [(0, waveOut 3)] { lastDl := [(4, 100, false)] }; ∃ l ∈ (s.eport 0).lastDl, l.1.toNat < (waveOut 3).epoch.toNat) ∧
    leavesRoom (egress [(0, msgOut 1)] {}) 0 1 ∧ ¬leavesRoom (egress [(0, msgOut 1), (1, { waveOut 3 with dl := 60 })] {}) 0 1 ∧
    (msgOut 1).cross = false ∧ ({ msgOut 1 with cross := true } : EOut).cross = true ∧ (msgOut 40).flits.length = 40 := by
  refine ⟨⟨(egress_ready [] _).2.2.2.2, fun f h => ?_, ?_, by simp [egress]⟩, ⟨(4, 100, false), List.mem_singleton_self _, by decide⟩, .inr ⟨?_, ?_⟩, ?_, rfl, rfl, rfl⟩
  · have k : ∀ f : Fin 32, ¬fed (egress [] { lastDl := [(5, 100, false)] }) 0 f := by simp only [fed]; decide
    exact k f h
  · rintro ⟨x, h, _⟩
    exact absurd h List.not_mem_nil
  · intro x h _ k
    rw [List.mem_singleton.1 h] at k
    exact absurd k (by decide)
  · exact fun l h => absurd h List.not_mem_nil
  · rintro (h | ⟨h, _⟩)
    · exact absurd h (by decide)
    · exact absurd (h (1, { waveOut 3 with dl := 60 }) (List.mem_cons_of_mem _ (List.mem_singleton_self _)) rfl rfl rfl rfl) (by decide)
/-- R49: an announce that the master sends LEAD ticks before its epoch, one that waits for its turn, and one of a device that follows. -/
theorem wit_master_announce : (let s := { egress [] {} with csr := [(0x100000, 1), (0x400004, 0x16), (0x100040, 1), (0x100044, 100)] };
    roleOf s = 1 ∧ (160 : Tick).toNat ≤ s.tick.toNat + ext (s.reg 0x100044) 14 0 + latOf s 0 + 10 ∧ s.copy.toNat + ext (s.reg 0x100044) 14 0 ≤ (150 : Tick).toNat ∧
      s.tick.toNat + ext (s.reg 0x100044) 14 0 + latOf s 0 < (1000 : Tick).toNat) ∧ roleOf (egress [] {}) ≠ 1 := by decide
/-- R466: a link that is down; R396: an open page while HOST sleeps; R395: configuration space; R366: an SLC register that Umbra reaches. -/
theorem wit_register_paths : ({ State.reset with pins := { perstLow := true } } : State).pins.perstLow = true ∧ State.reset.inReset = false ∧
    (let s := regs [(0x2C00108, 1)]; s.pageOpen 0 = true ∧ s.domOn 2 = false) ∧ State.reset.cfgOpen 0 = true ∧ (regs [(0x2800004, 0x85)]).cfgOpen 5 = true ∧ State.reset.cfgOpen 5 = false ∧
    State.reset.boot.stopped = false ∧ State.reset.regAwake 0x2400000 = true := by decide
/-- R93: an announce of a replayed group that goes afresh, with the start of its epoch known. -/
theorem wit_fresh_announce : (let s := { portState 6 0 { fresh := [(false, 9)] } with epc := { gos := [(9, 500)] } };
    (s.port 0).fresh = [(false, 9)] ∧ s.startOf 9 = some 500 ∧ roleOf s ≠ 1 ∧ s.copy.toNat + latOf s 0 ≤ (500 : Tick).toNat ∧
      ext ((s.port 0).txq.headD 0) 255 252 ≠ 5 ∧ s.fatal = 0 ∧ (s.port 0).feed = [] ∧ (s.port 0).feedOut = none ∧ (s.port 0).replay = []) := by decide
/-- R26, R87: a replayed group whose flits all find the ingress queue full; one of which eight have been passed over. -/
theorem wit_replayed_full : (fullQueue { rxPort with nack := some 0 }).ingressFull 0 = true ∧ rxPort.skip < 16 ∧
    ((fullQueue { rxPort with nack := some 0 }).port 0).nack = some 0 ∧ ({ rxPort with skip := 8 } : Port).skip < 16 ∧
    (∀ y ∈ (portState 6 0 rxPort).pkts, y.2.placed = true) ∧ ((portState 6 0 rxPort).port 0).openPkt = none :=
  ⟨wit_ingress_full _, by decide, rfl, by decide, fun y h => absurd h List.not_mem_nil, rfl⟩
/-- A packet of port 0 with a rule of ACTION word a and a result, its link check passed, in slice 0; quadrant 0 with the registers listed. -/
def resPkt (a : Nat) (cls : Nat) (r : PResult) : Pkt :=
  { port := 0, cls := BitVec.ofNat 3 cls, flits := [waveHdr 5, 0], stage := .result, link := .passed, res := some r, slice := some 0,
    rule := BitVec.ofNat 56 a, due := 1000, counted := decide (cls = 0) }
theorem wit_mirrored : bitOf (resPkt 16 1 .drop).rule 4 = true ∧ (resPkt 16 1 .drop).link = .passed ∧
    (let s := withPkt (resPkt 16 1 .drop) [(0x800280, 0x8000001)] {}; let m := s.reg (psAt 0 (0x280 + 4 * ext (resPkt 16 1 .drop).rule 7 5));
      bitOf m 27 = true ∧ bitOf m 0 = true ∧ s.clocked (3 + 0 / 8) = true ∧ SMap.rises s.eouts = true ∧ (∀ x ∈ s.eouts, x.1 < s.nextId) ∧ s.offers = []) ∧
    (let s := withPkt (resPkt 16 1 .drop) [(0x800280, 0x8000002)] {}; let m := s.reg (psAt 0 (0x280 + 4 * ext (resPkt 16 1 .drop).rule 7 5));
      bitOf m 27 = true ∧ bitOf m 0 = false ∧ ext m 5 1 = 1) ∧ bitOf (State.reset.reg (psAt 0 0x280)) 27 = false ∧
    ({ resPkt 16 1 .drop with link := .open } : Pkt).link ≠ .passed := by
  set_option exponentiation.threshold 300 in decide
theorem none_waits (p : Pkt) (l : List (Nat × Pair)) (port : Fin 32) : ¬taskWaits (withPkt p l {}) port := by
  rintro ⟨q, x, hx, _⟩
  have e : ((withPkt p l {}).dspQ q).reqs = [] := rfl
  exact absurd (e ▸ hx) List.not_mem_nil
/-- R56, R60: a wave for port 1, which port 1 takes from port 0, and does not. -/
theorem wit_promised : (let s := withPkt (resPkt 1 0 (.task 5 2 0 false)) [(0x10102C, 1)] {};
      (∀ o : Fin 32, (2 : BitVec 32).getLsbD o = true → fed s o 0) ∧ s.hasShare 0 0 = true ∧ ¬fed s 2 0) ∧
    (2 : BitVec 32) = BitVec.ofNat 32 (2 ^ (1 : Fin 32).val) ∧ ¬fed State.reset 1 0 := by
  simp only [fed]
  set_option exponentiation.threshold 300 in decide
/-- R174: slice 1 with shares in quadrant 1 alone: a task of it moves there, where there is room; a full wave buffer. -/
def farState (l : SMap Pkt) : State :=
  { State.reset with csr := [(0x2401160, 1)], slices := [(1, { sliceReset 1 with state := 1 })], pkts := (0, { resPkt 1 1 (.task 5 0 0 false) with slice := some 1 }) :: l }
theorem wit_moves : (farState []).hasShare 1 0 = false ∧ (farState []).pickQuad 1 = some 1 ∧ ((farState []).slice 1).pick = none ∧
    0 < (resPkt 1 1 (.task 5 0 0 false)).size ∧ freePlace (farState []) 1 (resPkt 1 1 (.task 5 0 0 false)).size 0 ∧
    ¬∃ o, freePlace (farState [(1, { filler with addr := BitVec.ofNat 42 (waveBase 1) })]) 1 (resPkt 1 1 (.task 5 0 0 false)).size o := by
  refine ⟨by decide, by decide, by decide, by decide, ⟨by decide, by decide, fun u hu => ?_⟩, fun ⟨o, h, _, k⟩ => ?_⟩
  · have k : (farState []).waveUsed = [(0, 0)] := by rfl
    rw [k, List.mem_singleton] at hu
    rw [hu]; exact .inl (by decide)
  · have m : (waveBase 1, waveSize) ∈ (farState [(1, { filler with addr := BitVec.ofNat 42 (waveBase 1) })]).waveUsed := by
      have e : (farState [(1, { filler with addr := BitVec.ofNat 42 (waveBase 1) })]).waveUsed = [(0, 0), (waveBase 1, waveSize)] := by rfl
      rw [e]; exact List.mem_cons_of_mem _ (List.mem_singleton_self _)
    have n : 0 < (resPkt 1 1 (.task 5 0 0 false)).size := by decide
    have := k _ m
    simp only [waveBase, waveSize, bufferOf] at this h
    omega
/-- R147, R157: a flush at its first bucket, at its last place, and with a command that waits for it; a stash that stays empty. -/
theorem wit_flush : (∀ c : Fin 2, ∀ n : Fin 2, let s := fwdState { tab := [(3, macEntry)], flush := some { cmd := 4, next := 65543 * n.val }, cmd := (if c = 0 then none else some 0) } (msgPkt .lookup);
      (s.fwdQ 0).flush = some { cmd := 4, next := 65543 * n.val } ∧ (s.fwdQ 0).cmd = (if c = 0 then none else some 0)) ∧
    engineTaken (fwdState { flush := some { cmd := 4 } } (msgPkt .lookup)) 0 ∧ ¬engineTaken (fwdState {} (msgPkt .lookup)) 0 ∧
    cmdFault (fwdState {} (msgPkt .lookup)) 0 4 0 ∧ ext (4 : Pair) 2 0 = 4 ∧ scanned 0 3 ∧ scanned 65543 0x40007 ∧
    flushed (BitVec.ofNat 28 (4 + 16 * 5)) macEntry ∧
    (∀ y, inStash y → (entryAt (fwdState { tab := [(3, macEntry)] } (msgPkt .lookup)) 0 y).valid = false) ∧
    (fwdState {} (msgPkt .lookup)).clocked (3 + 0) = true := by
  refine ⟨by decide, .inr (by decide), ?_, ?_, by decide, ⟨by decide, by decide⟩, by simp [scanned], ⟨rfl, .inr ⟨rfl, by decide⟩, .inl rfl, fun h => absurd h (by decide)⟩, fun y hy => ?_, by decide⟩
  · rintro (⟨h, _⟩ | h)
    · exact absurd h (by decide)
    · exact h rfl
  · simp only [cmdFault, partKeyBad]
    exact ⟨fun h => absurd h (by decide), fun _ h => absurd h (by decide), fun _ _ => trivial⟩
  · have e : entryAt (fwdState { tab := [(3, macEntry)] } (msgPkt .lookup)) 0 y = {} := by
      show SMap.get {} [(3, macEntry)] y = {}
      simp only [SMap.get]
      rw [if_neg (by have := hy.1; omega)]
    rw [e]
/-- R417: a command on the dispatcher channel that names a quadrant that is ON, and one that sleeps. -/
theorem wit_names_awake : namesAwake (dspState [] [(16, [2, 4096, 0])]) 16 [2, 4096, 0] ∧
    ¬namesAwake { dspState [] [(16, [2, 4096, 1])] with csr := [(0x2C00110, 3)] } 16 [2, 4096, 1] ∧ oldestMsg (dspState [] [(16, [2, 4096, 1])]) 16 [2, 4096, 1] := by
  refine ⟨⟨fun h => absurd h (by decide), fun _ _ _ => by decide⟩, fun h => ?_, [], [], rfl, by simp⟩
  exact absurd (h.2 (.inl (by decide)) rfl (by decide)) (by decide)
/-- R361, R378: a packet of a slice that freezes, and of one that saves, at its allocation; its link check passed and open. -/
def captState (st : Nat) (p : Pkt) : State :=
  { dspState [] [] with slices := [(1, { sliceReset 1 with state := BitVec.ofNat 4 st })], dsp := [(0, { ({} : Dsp) with reqs := [(0, [waitReq])] })], pkts := [(0, p)] }
theorem wit_captured : (∀ st : Fin 9, (captState st (msgPkt .released)).sliceState waitReq.slice.toNat = st) ∧
    (captState 3 (msgPkt .released)).slotOfPkt 0 = none ∧
    waitReq.handler.toNat < ext ((captState 3 (msgPkt .released)).reg (dsAt 0 (0x100 + 8 * waitReq.slice.toNat))) 25 13 ∧ (msgPkt .released).cls ≠ 0 ∧
    (msgPkt .released).link = .passed ∧ (captState 3 (msgPkt .released)).clocked (3 + 0) = true := by
  set_option exponentiation.threshold 300 in decide
/-- R310: a core and a queue pair's engine ask for one pair in the same CCLK; the pointer meets one of them first; a wipe write goes first. -/
def coreReq (n : Nat) : DReq := { loadReq with mkind := 1, mid := n, reply := .load 0 0 false }
theorem wit_site_order : (siteBefore (dchanState {} []) 0 (coreReq 0) (coreReq 8) ∨ siteBefore (dchanState {} []) 0 (coreReq 8) (coreReq 0)) ∧
    siteBefore (dchanState {} []) 0 { coreReq 0 with op := .wipe } (coreReq 0) ∧ siteNumber (dchanState {} []) (coreReq 8) = some 1 := by
  refine ⟨?_, ⟨rfl, .inl ⟨rfl, by decide, fun m => Iff.rfl⟩⟩, by decide⟩
  have c : ∀ n m, sameCell (coreReq n) (coreReq m) := fun n m => ⟨rfl, rfl, rfl, .inr (.inr rfl)⟩
  rcases Nat.lt_or_ge ((0 + 151 - (Config.pointerPhase 6000 + 0) % 151) % 151) ((1 + 151 - (Config.pointerPhase 6000 + 0) % 151) % 151) with h | h
  · exact .inl ⟨rfl, .inr ⟨c _ _, 0, 1, by decide, by decide, h⟩⟩
  · exact .inr ⟨rfl, .inr ⟨c _ _, 1, 0, by decide, by decide, by
      show (1 + 151 - (Config.pointerPhase 6000 + 0) % 151) % 151 < (0 + 151 - (Config.pointerPhase 6000 + 0) % 151) % 151
      omega⟩⟩
/-- R23: a later load of the same core; one behind which none waits; a write queue of 64 lines and one that has room; a refresh that goes first. -/
theorem wit_request_waits : sameTarget (coreReq 0) (coreReq 0) ∧ ¬sameTarget { coreReq 0 with tag := some 1 } (coreReq 0) ∧
    ((dchanState { wq := List.replicate 64 (coreReq 0) } []).dchan 0).wq.length = 64 ∧ writesLine { coreReq 0 with op := .visit true } = true ∧
    refreshFirst (dchanState { flush := [(0, true)] } []) ∧ ¬refreshFirst State.reset ∧
    underCopy { State.reset with exts := [(0, { ({} : Extent) with valid := true, moving := some 5, copying := true })] } 5 := by
  refine ⟨⟨rfl, rfl, rfl, rfl, rfl, rfl, .inr (.inr rfl)⟩, fun h => absurd h.2.2.1 (by decide), by decide, rfl,
    ⟨_, List.mem_singleton_self _, _, List.mem_singleton_self _, rfl⟩, fun ⟨_, h, _⟩ => absurd h List.not_mem_nil, rfl, rfl⟩
/-- Table 13.10: two modules of a channel above 95 and above 85 °C, with one owed refresh of module 1; no link awaited and one that is. -/
theorem wit_two_modules : mmF (regs [(0x2000008, 2 + 4)]) 0 8 1 0 = 2 ∧ 95 < (96 : BitVec 8).toNat ∧ ext ((regs [(0x3400004, 1)]).reg 0x3400004) 9 9 = 0 ∧
    ext ((regs []).reg 0x3400008) 8 0 = ext ((regs []).reg 0x340000C) 8 0 ∧ owedOf (regs [(0x2000008, 6), (0x2000018, 8)]) 0 0 1 = 1 ∧
    mmF (regs [(0x2000008, 6)]) 0 8 3 2 = 1 ∧ ext (0 : Pair) 1 0 = 0 ∧ ext (3 : Pair) 1 0 = 3 ∧ writesReg State.reset (glAt 0x20) := by
  exact ⟨by decide, by decide, by decide, by decide, by decide, by decide, by decide, by decide, by decide, by decide⟩
theorem wit_links_settled : linksSettled State.reset ∧ linksSettled { portState 6 0 {} with boot := { links := [0], linkUntil := 5 } } ∧
    ¬linksSettled { State.reset with boot := { links := [0], linkUntil := 5 } } := by
  simp only [linksSettled]
  decide
/-- R361, R378: a wave whose epoch lies past the freeze epoch and one whose epoch does not; a packet that one slot alone has. -/
theorem wit_past_epoch : pastEpoch 2 (wavePkt 3) ∧ ¬pastEpoch 3 (wavePkt 3) ∧ ¬pastEpoch 4 (wavePkt 3) ∧ ¬pastEpoch 2 (msgPkt .released) :=
  ⟨⟨by decide, by decide⟩, fun h => absurd h.2 (by decide), fun h => absurd h.2 (by decide), fun h => absurd h.1 (by decide)⟩
theorem wit_only_slot : onlySlot (dspState [(7, { readyTask with st := .held, pkt := some 0 })] []) 0 7 0 := by
  refine ⟨by decide, fun m j hm h _ => ?_⟩
  have other : ∀ j : Nat, j ≠ 7 → (SMap.get ({} : Slot) [(7, { readyTask with st := .held, pkt := some 0 })] j).pkt = none := fun j hj => by
    rw [show SMap.get ({} : Slot) [(7, { readyTask with st := .held, pkt := some 0 })] j = {} from if_neg fun e => hj e.symm]
  match m, hm with
  | 0, _ =>
    refine ⟨rfl, ?_⟩
    by_cases hj : j = 7
    · exact hj
    · exact absurd ((other j hj).symm.trans h) (by decide)
  | 1, _ => exact absurd (show none = some 0 from h) (by decide)
  | 2, _ => exact absurd (show none = some 0 from h) (by decide)
  | 3, _ => exact absurd (show none = some 0 from h) (by decide)
/-- R378: the one packet that a freezing slice still captures: its record fits in the lines, or is lost; it waits while its link check is open. -/
def capturing (lines : Nat) (p : Pkt) : State :=
  { sliceState 3 { capQueue := [0], capLines := lines } [(0x8, 1)] none with pkts := [(0, p)] }
theorem wit_capture : (∀ n p, ((capturing n p).slice (1 : Fin 64)).capQueue = [0] ∧ (capturing n p).slotOfPkt 0 = none ∧ stOf (capturing n p) 1 = 3) ∧
    (capturing 1 (msgPkt .released)).pkt? 0 = some (msgPkt .released) ∧ (msgPkt .released).gone = false ∧ (msgPkt .released).link = .passed ∧
    ¬refreshFirst (capturing 1 (msgPkt .released)) ∧ cleanVisits (capturing 1 (msgPkt .released)) (.capture 1) ∧
    0 + ((capturing 1 (msgPkt .released)).rawOf 1 (msgPkt .released)).length ≤ 36 * 1 ∧
    ¬0 + ((capturing 0 (msgPkt .released)).rawOf 1 (msgPkt .released)).length ≤ 36 * 0 ∧
    ({ msgPkt .released with link := .open } : Pkt).link ≠ .passed := by
  refine ⟨fun n p => ⟨rfl, rfl, rfl⟩, rfl, by decide, by decide, ?_, ?_, by decide, by decide, by decide⟩
  · rintro ⟨d, h, _⟩; exact absurd h List.not_mem_nil
  · intro d h; exact absurd h List.not_mem_nil
/-- R377: a frozen slice; FREEZE_LIMIT past while a thread of the slice still runs its packet task. -/
theorem wit_frozen : frozenAll (sliceState 3 {} [] none) 1 ∧
    (let s := { dspState [] [] with
        slices := [(1, { sliceReset 1 with state := 3 })]
        threads := [(16, { ({} : Thread) with st := .run, hasTask := true, runsOn := true })] };
      inSlice s 1 16 ∧ stillRuns s 16 ∧ ¬frozenAll s 1) := by
  refine ⟨⟨fun t h => absurd h (wit_freeze.1 t), wit_freeze.2.2.1, fun q hq => ?_, rfl, .inr fun t h => absurd h (wit_freeze.1 t)⟩,
    ⟨by decide, by decide⟩, ⟨by decide, by decide⟩, fun h => absurd rfl (h.1 16 ⟨by decide, by decide⟩).1⟩
  have : ((sliceState 3 {} [] none).dspQ q).slots = [] := rfl
  rw [this]; intro x hx; exact absurd hx List.not_mem_nil
/-- R387: SAVE of slice 1 into eleven lines: all of them slice 0 word lines, none of them, too few, and a capture that met no word line. -/
def saving (lines n : Nat) (bad : Bool) : State :=
  { sliceState 4 { saved := true, imgLines := n, capBad := bad } [(0x8, 1), (0x2000004, 3)] (some { op := 8, slice := 1, ext := 0, rest := [] }) with
    exts := [(0, { ({} : Extent) with valid := true })], lines := (List.range lines).map fun l => (l, { ({} : Line) with kind := 1 }) }
theorem wit_save : (∀ l n b, (saving l n b).slcCmd.isSome = true ∧ ¬(∃ e ∈ (saving l n b).exts, e.2.valid = true ∧ e.2.owner.toNat = 1 ∧
      ((saving l n b).extent e.1).moving.isSome = true) ∧ ¬refreshFirst (saving l n b) ∧ (saving l n b).fatal < 3 ∧ cleanVisits (saving l n b) .image) ∧
    (saving 11 11 false).imageNeed 1 = 8 ∧ (saving 0 11 false).imageNeed 1 = 8 ∧
    (let s := saving 11 11 false; (∀ n, n < 12 ∧ n ≠ 0 ∧ n ≠ 2 → ¬secBad s 1 n) ∧ ¬secBad s 1 0) ∧
    (secBad (saving 0 11 false) 1 1 ∧ ∀ j, j < 12 ∧ j ≠ 0 ∧ j ≠ 2 → j < 1 → ¬secBad (saving 0 11 false) 1 j) := by
  refine ⟨fun l n b => ⟨rfl, ?_, ?_, Nat.succ_pos 2, ?_⟩, by decide +kernel, by decide +kernel, ?_, ?_, ?_⟩
  · rintro ⟨e, h, _, h2, _⟩
    rw [List.mem_singleton.1 h] at h2
    exact absurd h2 (by decide)
  · rintro ⟨d, h, _⟩; exact absurd h List.not_mem_nil
  · intro d h; exact absurd h List.not_mem_nil
  · have k : ∀ n, n < 12 → ∀ j, j < secLines (saving 11 11 false) 1 n → siteOf (saving 11 11 false) (((saving 11 11 false).slice 1).imgBase + secAt (saving 11 11 false) 1 n + j) ≠ none ∧
      ((saving 11 11 false).line (((saving 11 11 false).slice 1).imgBase + secAt (saving 11 11 false) 1 n + j)).slice = 0 ∧
      ((saving 11 11 false).line (((saving 11 11 false).slice 1).imgBase + secAt (saving 11 11 false) 1 n + j)).kind = 1 := by decide +kernel
    exact ⟨fun n h ⟨j, hj, hn⟩ => hn (k n h.1 j hj), fun ⟨j, hj, hn⟩ => hn (k 0 (by decide) j hj)⟩
  · exact ⟨0, by decide +kernel, fun h => absurd h.2.2 (by decide +kernel)⟩
  · intro j h h1; exact absurd (by omega : j = 0) h.2.1
/-- R389: RESTORE of an image with nothing to place: everything it needs is there; before its lines are read, checked or taken. -/
theorem wit_restoring : (∀ m : Image, m.slots = [] → slotsFree State.reset m) ∧ (∀ m : Image, m.cores = [] → coresThere State.reset 1 m) ∧
    (∀ k : SlcCmd, ctxsLeft {} [] k.ctxs = []) := by
  refine ⟨fun m h r hr => absurd (h ▸ hr) List.not_mem_nil, fun m h c _ => by rw [h]; exact Nat.zero_le _, fun k => rfl⟩
/-- R373: slice 1 lacks a core of its share; an idle core may be lent to the slice with a READY task and EN 1. -/
def lending : State := { dspState [(7, readyTask)] [] with csr := [(shAt 1 0, 1), (slAt 1 4, 1)], cores := [] }
theorem wit_lending : needsCores lending 1 0 ∧ ¬needsCores State.reset 1 0 ∧ mayLend (lending.modCore 5 fun _ => {}) 0 1 100 := by
  refine ⟨⟨by decide, by decide⟩, fun h => absurd h.1 (by decide), ⟨by decide, by decide, by decide, by decide, by decide, by decide⟩⟩
/-- R395, R409: no VF before VF Enable is set; with VF Enable and NumVFs 5, and with NumVFs 62. -/
theorem wit_vfs : ¬fnThere State.reset 1 ∧ fnThere State.reset 0 ∧ fnThere (regs [(0x2800004, 0x85)]) 5 ∧ ¬fnThere (regs [(0x2800004, 0x85)]) 6 ∧
    fnThere (regs [(0x2800004, 0xBE)]) 62 ∧ ¬fnThere (regs [(0x2800004, 0xFF)]) 63 ∧ (∀ k, k ≤ 0x10 → ∃ off : Off, off.toNat = sriovCap + k) := by
  simp only [fnThere]
  refine ⟨by decide, by decide, by decide, by decide, by decide, by decide, fun k hk => ⟨BitVec.ofNat _ (sriovCap + k), ?_⟩⟩
  have : sriovCap ≤ 0xFBC := by unfold sriovCap; omega
  rw [BitVec.toNat_ofNat]
  exact Nat.mod_eq_of_lt (Nat.lt_of_le_of_lt (by omega : sriovCap + k ≤ 0x1000) (by decide))
/-- R398, R401, R408: behind the entry that runs, one that a stop has aborted, one that it has not, none; a ring with a PASID and without. -/
theorem wit_ahead : (∀ e, aborted { fetchedOf e with status := some 10 } ∧ ¬aborted (fetchedOf e)) ∧
    (∀ a, (hostSt [] { entry := some (fetchedOf 0), ahead := [a] }).qp (qpn qp0) = { entry := some (fetchedOf 0), ahead := [a] }) ∧
    ringPas (hostSt [(0x1C, 0x100007)] {}) qp0 = some 7 ∧ ringPas (hostSt [] {}) qp0 = none ∧
    hostAt (hostSt [(0xC, 3), (0x10, 1)] {}) qp0 0xC 2 16 = 0x10000003020 := by
  refine ⟨fun e => ⟨⟨rfl, rfl⟩, fun h => absurd h.2 (by simp [fetchedOf])⟩, fun a => rfl, by decide, by decide, by decide⟩
/-- R453: a HALT flit that still stands in its port's queue, and one that has left. -/
def haltFlit : Flit := BitVec.ofNat 256 (4 * 2 ^ 252 + 4 + 16 * 2 ^ 14)
theorem wit_halts : let s (q : List Flit) : State := { portState 6 0 { txq := q } with fatal := 1, halts := [0] };
    (∀ q, (s q).fatal = 1 ∧ (0 : Fin 32) ∈ (s q).halts ∧ bitOf ((s q).reg (lkAt 0 4)) 4 = true) ∧
    (∃ f ∈ ((s [haltFlit]).port 0).txq, ext f 255 252 = 4 ∧ ext (fword f 0) 3 0 = 4 ∧ ext (fword f 1) 4 0 = 16) ∧ ((s []).port 0).txq = [] :=
  ⟨fun q => ⟨rfl, List.mem_singleton_self _, show bitOf ((portState 6 0 {}).reg (lkAt 0 4)) 4 = true by decide⟩, ⟨haltFlit, List.mem_singleton_self _, by decide, by decide, by decide⟩, rfl⟩
/-- R418, R432: Umbra held by a stopped boot; a register of Umbra awake, and one whose domain sleeps. -/
theorem wit_umbra_holds : umbraHolds (bootState { stopped := true }) ∧ ¬umbraHolds State.reset ∧ State.reset.regAwake 0x3400018 = true ∧
    (regs [(domAt (domOfReg 0x3400018), 1)]).regAwake 0x3400018 = false := by
  refine ⟨.inr rfl, ?_, by decide, by decide⟩
  rintro (h | h) <;> exact absurd h (by decide)
/-- R157, R263, R414: an idle clock with a quadrant that sleeps, with one that scans for a flush, with a stalled slice; what waits is at its end. -/
theorem wit_idle_clock : (let s := regs [(domAt 3, 1)]; s.dom (3 + 0) ≠ 0 ∧ s.dom (3 + 1) = 0) ∧
    ((fwdState { flush := some { cmd := 4, next := 3 } } (msgPkt .lookup)).fwdQ 0).flush ≠ none ∧
    ((∃ y ∈ stalledSlice.threads, y.2.live = true ∧ stalledSlice.assigned y.1 1 = true) ∧ stalledSlice.stalled 1 = true) ∧
    (∀ x ∈ State.reset.slices, x.2.capQueue = []) ∧ (∀ c, State.reset.slcCmd = some c → c.op ≠ 9 ∨ c.loaded = true) ∧
    ((capturing 1 (msgPkt .released)).slices.filter fun y => !decide (y.2.capQueue = [])).map (·.1) = [1] :=
  ⟨by decide, by decide, ⟨⟨_, List.mem_singleton_self _, by decide, by decide⟩, wit_stall.1⟩, fun x h => absurd h List.not_mem_nil, fun c h => absurd h (by simp [State.reset]),
    by decide⟩
/-- R418, R421: what an entry in progress meets: a store, a line in a channel's queue, a GLINT_TEST; nobody. -/
theorem wit_accessed : accessed (pwState [] { stalled := [stallWr] }) 1 ∧ accessed (dchanState { reqs := [loadReq] } []) 11 ∧
    accessed (entState taskE) 3 ∧ ¬accessed State.reset 1 ∧ nobodyWaits State.reset ∧ (4, 3) ∈ (pwState [] { tests := [(4, 3)] }).power.tests :=
  ⟨.inl ⟨stallWr, List.mem_singleton_self _, .inl rfl⟩, .inr (.inr (.inr (.inr ⟨by decide, 0, by decide, .inl (by decide)⟩))),
    .inr (.inr (.inr (.inl ⟨_, List.mem_singleton_self _, _, rfl, rfl, by decide +kernel⟩))),
    not_accessed rfl rfl rfl rfl (by decide), ⟨rfl, fun t => ⟨rfl, rfl⟩⟩, List.mem_singleton_self _⟩

/-! ## Reset and the invariants -/

/-- R35: an empty queue lets one cycle of CCLK pass. -/
theorem test_step_idle : (match step State.reset with
    | .next s => decide (s.cclk = 1 ∧ s.quarter = 1 ∧ s.pending = [])
    | _ => false) = true := by decide +kernel
/-- R169: the command on DSP.CMD ends with its code in the 24th CCLK after its write. -/
theorem test_step_dsp : (match step { regs [(dsAt 0 0xC, 16)] with cclk := 23, dsp := [(0, { ({} : Dsp) with cmdAt := some (0, false), res := some (5, 0) })] } with
    | .next s => decide (ext (s.reg (dsAt 0 0xC)) 4 0 = 5 ∧ (s.dspQ 0).cmdAt = none)
    | _ => false) = true := by decide +kernel
theorem test_step_front : step { State.reset with pending := [.refclkSysLoss] } = .next { State.reset with pins := { cclkLost := true } } := rfl
/-- A machine with one word in memory and one register off its reset value is in canonical form. -/
theorem wit_canon : ({ State.reset with mem := [(5, 7)], csr := [(0x8, 1)] } : State).Canon := by
  refine ⟨by decide, by decide, by decide, by decide, by decide, by decide, by decide⟩

end Sys2Proof.Tests

namespace Sys2Proof.Tests

/-! ## Worked examples of the spec -/

/-- spec/08: the program that resolves two drivers; its words as printed and as built from the fields of Table 8.2. -/
theorem test_worked_words : [word 0x14 [(8, 17), (7, 14), (4, 9), (18, 0)], word 0x14 [(9, 17), (7, 14), (4, 9), (19, 0)],
    word 0x10 [(8, 17), (8, 12), (9, 7)], word 0x15 [(8, 17), (7, 14), (4, 9), (18, 0)]] = [0x511C812, 0x513C813, 0x4108480, 0x551C812] := by decide
/-- spec/08: WIRE of driver A and driver B; US is set and Z is 0. -/
theorem test_worked_wire : (match execWire 0 (lum 0x4108480 fun x => (x.setR 8 0x2924).setR 9 0x12A2) with
    | .next s => decide ((s.thread 0).r 8 = 0x112C) && (s.thread 0).us && !(s.thread 0).z
    | _ => false) = true := by decide
/-- spec/10: the record of the ENC example; spec/11: the record of the ring example. -/
theorem test_worked_echo : encode [0, 0, 0, 0x0004, 0x3003, 0x0110, 0, 0, 0, 0, 0, 0x2000] = [0x2203, 0x1001, 0x3003, 0x0110, 0x2D05] ∧
    encode [0x2924, 0x12A2, 0, 0x0100, 0x0FFC, 0, 0, 0, 0, 0, 0, 0] = [0x1001, 0x2924, 0x12A2, 0x2801, 0x1000, 0x0FFC, 0x0006] := by decide
/-- spec/12: the lease that outlives a halt: ACQ, the break, REL by thread 70, ACQ by a queue pair. -/
theorem test_worked_lease : (let s0 := { regs [(0x1C00120, 50), (0x1C00124, 1)] with cores := [(8, { slice := some 0 })] };
    let a := s0.semOp .acquire (.thread 70) 0x213;
    let b := a.2.breakSem 0x213 0;
    let r := b.semOp .release (.thread 70) 0x213;
    let q := r.2.semOp .acquire (.queue 0 2) 0x213;
    decide (a.1 = 0x8D0) && decide ((a.2.sem 0x213).left = 50) && !(b.sem 0x213).held && (b.sem 0x213).broken && decide ((b.sem 0x213).owner = 0x46) &&
      decide (r.1 = 0x8CC) && decide (q.1 = 0x20058) && !(q.2.sem 0x213).broken) = true := by decide
/-- spec/13: where word 0x4_8102 lives: extent 0 is WIDE with PBASE 5. -/
theorem test_worked_line : 0x48102 / 36 = 8199 ∧ placeIn 4 5 8199 = (7, 0x500200) ∧
    (let s := regs [(0x21C0008, 0x19)]; lineSc 0x500200 = 0 ∧ 0x500200 / 2 ^ 4 % 2 ^ 7 = 32 ∧ s.lineRk 7 0x500200 = 0 ∧ s.lineRow 7 0x500200 = 320 ∧
      s.lineBank 7 0x500200 = 0) := by decide
/-- spec/07: a poisoned word in the middle of a repeated load: the third of six loads of thread 301 at depth 9 meets it. -/
def poisoned : State :=
  { regs [(0x2401768, 0x1040)] with
    cores := [(37, { slice := some 7 })]
    threads := [(301, ({ ({} : Thread) with st := .run, hasTask := true, pc := 0x2A41, d := 9, rep := some 4, await := some { addr := 0x48102, dst := 10, pair := false, ans := some (.fault 8) } }).setR 12 0x102)] }
theorem test_worked_poison : (match execLoadResponse 301 poisoned with
    | .next s => let x := s.thread 301;
      decide (x.pc = 0x1028) && decide (x.ecause = 8) && decide (x.einfo = 0x48102) && decide (x.epcx = 0x2A41) && x.esRepv && decide (x.edepth = 9) && decide (x.erep = 4) &&
        x.exc && x.lsusp && decide (x.d = 11) && decide (x.spilled = 2)
    | _ => false) = true := by decide

end Sys2Proof.Tests
end

/-! SUPPORT. What an instruction that issues does, and the results and flags of additions, subtractions, logic and four-state
functions (R197, R218, R220, R225). -/

namespace Sys2Proof.Machine

open Sys2Proof.Spec

/-! ## Issue -/

/-- A word that issues: the thread can issue, its fetch gives the word, and the word is defined with its opcode and minor code. -/
theorem State.issue_eq_some_iff {s : State} {t op m : Nat} {w : Pair} :
    s.issue t op m = some w ↔ s.canIssue t = true ∧ s.fetch t = some w ∧ opc w = op ∧ minorOf w = m ∧ defined w = true := by
  unfold State.issue
  by_cases hc : s.canIssue t = true
  · cases hf : s.fetch t with
    | none => simp [hc]
    | some v =>
      simp only [hc, if_true, true_and, Option.some.injEq]
      constructor
      · intro h
        split at h
        next hv => cases h; exact ⟨rfl, hv⟩
        next => cases h
      · rintro ⟨rfl, hv⟩
        exact if_pos hv
  · simp [hc]

/-- A thread that can issue has no store's exception to take first (R203). -/
theorem State.storeFaultDue_of_canIssue {s : State} {t : Nat} (h : s.canIssue t = true) : s.storeFaultDue t = false := by
  simp only [State.canIssue, Bool.and_eq_true, Bool.not_eq_true'] at h
  simp [State.storeFaultDue, h]

/-- An instruction that issues without a field fault has its effect. -/
theorem State.lum_of_issues {s : State} {t op m : Nat} {w : Pair} (h : Issues s t op m w) (f : State → Pair → State) :
    s.lum t op m f = f s w := by
  have hc := (State.issue_eq_some_iff.mp h.word).1
  simp [State.lum, State.storeFaultDue_of_canIssue hc, h.word, h.fields]

/-- An instruction of registers and flags completes with them changed. -/
theorem State.lumReg_of_issues {s : State} {t op m : Nat} {w : Pair} (h : Issues s t op m w) {f : Pair → Thread → Thread}
    {g : Thread → Thread} (hfg : ∀ x, f w x = g x) : s.lumReg t op m f = completes s t g := by
  have : f w = g := funext hfg
  simp [State.lumReg, State.lum_of_issues h, completes, this]

/-! ## Flags of arithmetic and logic -/

theorem Thread.zn_eq_znOf {n : Nat} (x : Thread) (r : BitVec n) : x.zn r = znOf x r := by
  simp [Thread.zn, znOf, BitVec.msb_eq_decide, ← BitVec.toNat_inj]

/-- A signed value survives the truncation to n bits exactly when it fits them. -/
theorem toInt_ofInt_ne_iff_not_fits {n : Nat} (hn : 0 < n) (i : Int) :
    decide ((BitVec.ofInt n i).toInt ≠ i) = !fits n i := by
  have hle := BitVec.le_toInt (BitVec.ofInt n i)
  have hlt := BitVec.toInt_lt (x := BitVec.ofInt n i)
  have hself : -2 ^ (n - 1) ≤ i → i < 2 ^ (n - 1) → (BitVec.ofInt n i).toInt = i := BitVec.toInt_ofInt_eq_self hn
  rw [fits, ← Bool.decide_and, ← decide_not, decide_eq_decide]
  push_cast
  exact ⟨fun h hf => h (hself hf.1 hf.2), fun h he => h (he ▸ ⟨hle, hlt⟩)⟩

theorem ofNat_add_eq_ofInt {n : Nat} (a b : BitVec n) (c : Nat) :
    BitVec.ofNat n (a.toNat + b.toNat + c) = BitVec.ofInt n (a.toInt + b.toInt + c) := by
  simp [BitVec.ofInt_add, BitVec.ofNat_add]

theorem sub_eq_ofInt_toNat {n : Nat} (a b : BitVec n) (c : Nat) :
    a - b - BitVec.ofNat n c = BitVec.ofInt n (a.toNat - b.toNat - c) := by
  simp [sub_eq_add_neg, BitVec.ofInt_add, BitVec.ofInt_neg]

theorem sub_eq_ofInt_toInt {n : Nat} (a b : BitVec n) (c : Nat) :
    a - b - BitVec.ofNat n c = BitVec.ofInt n (a.toInt - b.toInt - c) := by
  simp [sub_eq_add_neg, BitVec.ofInt_add, BitVec.ofInt_neg]

theorem addFull_fst {n : Nat} (a b : BitVec n) (c : Nat) : (addFull a b c).1 = BitVec.ofNat n (a.toNat + b.toNat + c) := rfl

theorem subFull_fst {n : Nat} (a b : BitVec n) (c : Nat) : (subFull a b c).1 = BitVec.ofInt n (a.toNat - b.toNat - c) :=
  sub_eq_ofInt_toNat a b c

theorem Thread.zncv_addFull {n : Nat} (hn : 0 < n) (x : Thread) (a b : BitVec n) (c : Nat) :
    x.zncv (addFull a b c) = addFlags x a b c := by
  have hv := toInt_ofInt_ne_iff_not_fits hn (a.toInt + b.toInt + c)
  rw [← ofNat_add_eq_ofInt] at hv
  simp only [Thread.zncv, Thread.zn_eq_znOf, addFull, addFlags, hv]

theorem Thread.zncv_subFull {n : Nat} (hn : 0 < n) (x : Thread) (a b : BitVec n) (c : Nat) :
    x.zncv (subFull a b c) = subFlags x a b c := by
  have hv := toInt_ofInt_ne_iff_not_fits hn (a.toInt - b.toInt - c)
  rw [← sub_eq_ofInt_toInt, sub_eq_ofInt_toNat] at hv
  simp only [Thread.zncv, Thread.zn_eq_znOf, subFull, subFlags, hv, sub_eq_ofInt_toNat]

/-- Additions and subtractions settle their thread by the flags that R197 gives, and logic by Z and N of its result. -/
theorem aluFn_arith {n : Nat} (hn : 0 < n) (x : Thread) (a b : BitVec n) :
    aluFn x 0 a b = (BitVec.ofNat n (a.toNat + b.toNat), addFlags x a b 0) ∧
    aluFn x 1 a b = (BitVec.ofNat n (a.toNat + b.toNat + b2n x.c), addFlags x a b (b2n x.c)) ∧
    aluFn x 2 a b = (BitVec.ofInt n (a.toNat - b.toNat), subFlags x a b 0) ∧
    aluFn x 3 a b = (BitVec.ofInt n (a.toNat - b.toNat - b2n x.c), subFlags x a b (b2n x.c)) := by
  refine ⟨?_, ?_, ?_, ?_⟩
  · simp only [aluFn, Thread.zncv_addFull hn, addFull_fst, Nat.add_zero]
  · simp only [aluFn, Thread.zncv_addFull hn, addFull_fst]
  · simp only [aluFn, Thread.zncv_subFull hn, subFull_fst, Int.natCast_zero, Int.sub_zero]
  · simp only [aluFn, Thread.zncv_subFull hn, subFull_fst]

theorem aluFn_logic {n : Nat} (x : Thread) (a b : BitVec n) :
    aluFn x 4 a b = (a &&& b, znOf x (a &&& b)) ∧ aluFn x 5 a b = (a ||| b, znOf x (a ||| b)) ∧
    aluFn x 6 a b = (a ^^^ b, znOf x (a ^^^ b)) ∧ aluFn x 7 a b = (a &&& ~~~b, znOf x (a &&& ~~~b)) := by
  simp only [aluFn, Thread.zn_eq_znOf, and_self]

/-- R197, R218, R220: additions and subtractions of words and pairs. -/
theorem addAndSubtractWriteResultAndFlags : AddAndSubtractWriteResultAndFlags := by
  have word : 0 < 14 := by decide
  have pair : 0 < 28 := by decide
  intro t s w
  refine ⟨?_, ?_, ?_, ?_, ?_, ?_, ?_, ?_, ?_, ?_⟩
  all_goals intro h; refine congrArg Host.Outcome.next (State.lumReg_of_issues h fun x => ?_)
  · simp only [aluOp, (aluFn_arith word x _ _).1]
  · simp only [aluOp, (aluFn_arith word x _ _).2.1]
  · simp only [aluOp, (aluFn_arith word x _ _).2.2.1]
  · simp only [aluOp, (aluFn_arith word x _ _).2.2.2]
  · exact Thread.zncv_subFull word x _ _ _
  · simp only [alupOp, (aluFn_arith pair x _ _).1]
  · simp only [alupOp, (aluFn_arith pair x _ _).2.2.1]
  · exact Thread.zncv_subFull pair x _ _ _
  · simp only [immOp, if_true, (aluFn_arith word x _ _).1, immS]
  · exact Thread.zncv_subFull word x _ _ _

/-- R218, R220: logic and TST. -/
theorem logicWritesResultAndZN : LogicWritesResultAndZN := by
  intro t s w
  refine ⟨?_, ?_, ?_, ?_, ?_, ?_, ?_, ?_, ?_, ?_, ?_⟩
  all_goals intro h; refine congrArg Host.Outcome.next (State.lumReg_of_issues h fun x => ?_)
  · simp only [aluOp, aluFn_logic]
  · simp only [aluOp, aluFn_logic]
  · simp only [aluOp, aluFn_logic]
  · simp only [aluOp, aluFn_logic]
  · exact Thread.zn_eq_znOf x _
  · simp only [alupOp, aluFn_logic]
  · simp only [alupOp, aluFn_logic]
  · simp only [alupOp, aluFn_logic]
  · simp only [immOp, Bool.false_eq_true, if_false, aluFn_logic, immU]
  · simp only [immOp, Bool.false_eq_true, if_false, aluFn_logic, immU]
  · simp only [immOp, Bool.false_eq_true, if_false, aluFn_logic, immU]

/-! ## Numbers by their digits -/

/-- The digits of a number written as a sum of digits times powers of the base. -/
theorem foldl_digits {B : Nat} {f : Nat → Nat} (hf : ∀ i, f i < B) (n : Nat) :
    (List.range n).foldl (fun acc i => acc + f i * B ^ i) 0 < B ^ n ∧
    ∀ i, i < n → (List.range n).foldl (fun acc i => acc + f i * B ^ i) 0 / B ^ i % B = f i := by
  have hB : 0 < B := Nat.lt_of_le_of_lt (Nat.zero_le _) (hf 0)
  induction n with
  | zero => simp
  | succ n ih =>
    obtain ⟨hlt, hdig⟩ := ih
    simp only [List.range_succ, List.foldl_append, List.foldl_cons, List.foldl_nil]
    generalize (List.range n).foldl (fun acc i => acc + f i * B ^ i) 0 = S at hlt hdig
    refine ⟨?_, fun i hi => ?_⟩
    · calc S + f n * B ^ n < B ^ n + f n * B ^ n := by omega
        _ = (f n + 1) * B ^ n := by ring
        _ ≤ B * B ^ n := Nat.mul_le_mul_right _ (hf n)
        _ = B ^ (n + 1) := by ring
    · rcases Nat.lt_or_ge i n with h | h
      · obtain ⟨k, rfl⟩ : ∃ k, n = i + (k + 1) := ⟨n - i - 1, by omega⟩
        have e : f (i + (k + 1)) * B ^ (i + (k + 1)) = B ^ i * (B * (f (i + (k + 1)) * B ^ k)) := by ring
        rw [e, Nat.add_mul_div_left _ _ (Nat.pow_pos hB), Nat.add_mul_mod_self_left]
        exact hdig i h
      · obtain rfl : i = n := by omega
        rw [Nat.add_mul_div_right _ _ (Nat.pow_pos hB), Nat.div_eq_of_lt hlt, Nat.zero_add, Nat.mod_eq_of_lt (hf i)]

/-! ## Dibits: R4, R225 -/

theorem toNat_dib (a : Word) (i : Nat) : (dib a i).toNat = dibit a i := by
  simp [dib, dibit, BitVec.extractLsb'_toNat, Nat.shiftRight_eq_div_pow, Nat.pow_mul]

/-- Dibit i of a word of seven dibits. -/
theorem dib_ofDibits {f : Nat → Nat} {i : Nat} (hi : i < 7) : dib (ofDibits f) i = BitVec.ofNat 2 (f i) := by
  obtain ⟨hlt, hdig⟩ := foldl_digits (B := 4) (f := fun i => f i % 4) (fun i => Nat.mod_lt _ (by decide)) 7
  apply BitVec.eq_of_toNat_eq
  rw [toNat_dib, dibit, ofDibits, BitVec.toNat_ofNat, Nat.mod_eq_of_lt (show _ < 2 ^ 14 from hlt), hdig i hi]
  rfl

theorem hasZX_eq_anyUnk (a : Word) : hasZX a = anyUnk a := by
  have key : ∀ d : BitVec 2, decide (2 ≤ d.toNat) = unk d := by decide
  simp only [hasZX, anyUnk, ← toNat_dib, key]

theorem Thread.resFlags_setR (s : State) (t : Nat) (w : Pair) (r : Word) (u : Bool) :
    completes s t (fun x => (x.resFlags r u).setR (rD w) r) = resDone s t w r u := by
  simp [resDone, Thread.resFlags, ← BitVec.toNat_inj]

/-- Two updates of thread t that agree on it give one state. -/
theorem completes_congr {s : State} {t : Nat} {f g : Thread → Thread} (h : f (s.thread t) = g (s.thread t)) :
    completes s t f = completes s t g := by
  simp only [completes, State.modThread, SMap.modify]
  rw [show SMap.get {} s.threads t = s.thread t from rfl, h]

/-- RES writes its word, with Z and U, when it issues. -/
theorem resOp_completes {s : State} {t fn m : Nat} {w : Pair} (h : Issues s t 16 m w) :
    s.lumReg t 16 m (resOp fn) = resDone s t w (resWord fn ((s.thread t).r (rA w)) ((s.thread t).r (rB w)))
      (resU fn ((s.thread t).r (rA w)) ((s.thread t).r (rB w))) := by
  rw [State.lumReg_of_issues h (g := resOp fn w) fun _ => rfl, ← Thread.resFlags_setR]
  exact completes_congr rfl

/-- A RES function of two operands follows its table on dibits. -/
theorem resTwo_of_table {s : State} {t fn m : Nat} {w : Pair} {f : BitVec 2 → BitVec 2 → BitVec 2} (h : Issues s t 16 m w)
    (hfn : fn < 6) (hf : ∀ a b : BitVec 2, BitVec.ofNat 2 (resD fn a.toNat b.toNat) = f a b) :
    resTwo s t w f (.next (s.lumReg t 16 m (resOp fn))) := by
  refine ⟨_, congrArg Host.Outcome.next ((resOp_completes h).trans (congrArg _ ?_)), fun i hi => ?_⟩
  · have h8 : fn ≠ 8 := by omega
    have h67 : ¬(fn = 6 ∨ fn = 7) := by omega
    simp only [resU, h8, h67, if_false, hasZX_eq_anyUnk]
  · have hw : ∀ a b : Word, resWord fn a b = ofDibits fun i => resD fn (dibit a i) (dibit b i) := by
      intro a b
      unfold resWord
      split
      · omega
      · omega
      · rfl
    rw [hw, dib_ofDibits hi, ← toNat_dib, ← toNat_dib, hf]

/-- TO2 gathers in bit i whether dibit i is 1. -/
theorem bitOf_to2 (a b : Word) (i : Nat) :
    bitOf (resWord 7 a b) i = (decide (i < 7) && decide (dib a i = 1)) := by
  have hb : ∀ j, (if dibit a j = 1 then 2 ^ j else 0) = b2n (decide (dibit a j = 1)) * 2 ^ j := by
    intro j
    by_cases h : dibit a j = 1 <;> simp [h, b2n]
  obtain ⟨hlt, hdig⟩ := foldl_digits (B := 2) (f := fun j => b2n (decide (dibit a j = 1)))
    (fun j => by by_cases h : dibit a j = 1 <;> simp [h, b2n]) 7
  have hd : (dib a i = 1) ↔ dibit a i = 1 := by rw [← toNat_dib, ← BitVec.toNat_inj]; rfl
  simp only [resWord, bitOf, hb, BitVec.toNat_ofNat, hd]
  rw [Nat.mod_eq_of_lt (by omega : _ < 2 ^ 14)]
  rcases Nat.lt_or_ge i 7 with h7 | h7
  · rw [hdig i h7]
    by_cases h : dibit a i = 1 <;> simp [h, h7, b2n]
  · rw [Nat.div_eq_of_lt (Nat.lt_of_lt_of_le hlt (Nat.pow_le_pow_right (by decide) h7))]
    simp [Nat.not_lt.mpr h7]

/-- R4, R197, R225: each RES function follows its table. -/
theorem fourStateFunctionsFollowTheirTables : FourStateFunctionsFollowTheirTables := by
  intro t s w a
  refine ⟨?_, ?_, ?_, ?_, ?_, ?_, ?_, ?_, ?_⟩
  · exact fun h => resTwo_of_table h (by decide) (by decide)
  · exact fun h => resTwo_of_table h (by decide) (by decide)
  · exact fun h => resTwo_of_table h (by decide) (by decide)
  · exact fun h => resTwo_of_table h (by decide) (by decide)
  · exact fun h => resTwo_of_table h (by decide) (by decide)
  · exact fun h => resTwo_of_table h (by decide) (by decide)
  · intro h
    have hnot : ∀ d : BitVec 2, BitVec.ofNat 2 (not4D d.toNat) = not4Tab d := by decide
    refine ⟨_, congrArg Host.Outcome.next ((resOp_completes h).trans (congrArg _ (hasZX_eq_anyUnk a))), fun i hi => ?_⟩
    exact (dib_ofDibits hi).trans (by rw [← hnot, toNat_dib]; rfl)
  · intro h
    exact ⟨_, congrArg Host.Outcome.next ((resOp_completes h).trans (congrArg _ (hasZX_eq_anyUnk a))), fun i _ => bitOf_to2 _ _ i⟩
  · intro h
    refine ⟨_, congrArg Host.Outcome.next (resOp_completes h), fun i hi => (dib_ofDibits hi).trans ?_⟩
    rcases Nat.mod_two_eq_zero_or_one (a.toNat / 2 ^ i) with h0 | h1
    · simp [bitOf, a, h0]
    · simp [bitOf, a, h1]

/-- Settles O3: an instruction that issues completes with its result and flags; those of additions and subtractions are the truncated
signed sums, and each RES function is its table on every dibit. -/
theorem arithmeticLogicAndFourState : Obligations.ArithmeticLogicAndFourState :=
  ⟨addAndSubtractWriteResultAndFlags, logicWritesResultAndZN, fourStateFunctionsFollowTheirTables⟩

end Sys2Proof.Machine

/-! SUPPORT. Accesses of the host to registers (R7 to R10, R40, R103, R395, R396, R418): the access codes bit by bit, what an access to
a sleeping domain leaves alone, and the record of an access of a wrong size. -/

namespace Sys2Proof.Machine

open Sys2Proof.Spec

/-! ## Bits of a pair -/

theorem bitOf_eq_getLsbD {n : Nat} (v : BitVec n) (i : Nat) : bitOf v i = v.getLsbD i := by
  simp [bitOf, BitVec.getLsbD, Nat.testBit_eq_decide_div_mod_eq]

/-- A field of one bit is 1 when the bit is set. -/
theorem ext_self_eq_one {n : Nat} (v : BitVec n) (i : Nat) : ext v i i = 1 ↔ bitOf v i = true := by
  simp [ext, bitOf]

/-- Bit i of a sum of the powers of two at the places where f holds. -/
theorem testBit_sum_two_pow (f : Nat → Bool) (n : Nat) :
    ((List.range n).map fun b => if f b then 2 ^ b else 0).sum < 2 ^ n ∧
    ∀ i, ((List.range n).map fun b => if f b then 2 ^ b else 0).sum.testBit i = (decide (i < n) && f i) := by
  induction n with
  | zero => simp
  | succ n ih =>
    obtain ⟨hlt, hbit⟩ := ih
    simp only [List.range_succ, List.map_append, List.sum_append, List.map_cons, List.map_nil, List.sum_cons, List.sum_nil,
      Nat.add_zero]
    generalize ((List.range n).map fun b => if f b then 2 ^ b else 0).sum = S at hlt hbit
    by_cases hf : f n = true
    · simp only [hf, if_true]
      refine ⟨by rw [Nat.pow_succ]; omega, fun i => ?_⟩
      rw [Nat.add_comm]
      rcases Nat.lt_trichotomy i n with h | h | h
      · rw [Nat.testBit_two_pow_add_gt h, hbit]
        simp [h, Nat.lt_succ_of_lt h]
      · rw [h, Nat.testBit_two_pow_add_eq, hbit]
        simp [hf]
      · rw [Nat.testBit_lt_two_pow (lt_of_lt_of_le (by rw [Nat.pow_succ]; omega : 2 ^ n + S < 2 ^ (n + 1))
          (Nat.pow_le_pow_right (by decide) h))]
        simp; omega
    · simp only [hf, if_false, Nat.add_zero, Bool.false_eq_true]
      refine ⟨by rw [Nat.pow_succ]; omega, fun i => ?_⟩
      rw [hbit]
      by_cases h : i = n
      · simp [h, hf]
      · simp [show (i < n + 1) = (i < n) by simp; omega]

theorem bitOf_ofNat_sum_two_pow (f : Nat → Bool) {i : Nat} (hi : i < 28) :
    bitOf (BitVec.ofNat 28 ((List.range 28).map fun b => if f b then 2 ^ b else 0).sum) i = f i := by
  rw [bitOf_eq_getLsbD, BitVec.getLsbD_ofNat, (testBit_sum_two_pow f 28).2]
  simp [hi]

/-! ## Access codes: R8, R9, Table 0.5 -/

/-- A register has no bit that a write both sets and clears. -/
def Info.apart (i : Info) : Bool := decide (i.w1c &&& (i.rw ||| i.rwl) = 0)

/-- What holds of no register and of each listed one holds of the one looked up. -/
theorem look_of_forall {p : Info → Bool} (h0 : p {} = true) {l : List (Nat × Info)} (h : (l.all fun x => p x.2) = true) (o : Nat) :
    p (look o l) = true := by
  induction l with
  | nil => exact h0
  | cons x l ih =>
    simp only [List.all_cons, Bool.and_eq_true] at h
    unfold look
    split
    · exact h.1
    · exact ih h.2

/-- The blocks in which the plain registers lie: GEN, EPC, ATM and HST, without the registers that a block computes or acts on. -/
theorem plainAt_blocks {o : Nat} (h : plainAt o) : o % 4 = 0 ∧
    (o < 0x100000 ∨
      (0x100000 < o ∧ o < 0x101400 ∧ o ≠ 0x10000C ∧ o ≠ 0x100010 ∧ o ≠ 0x100014 ∧ o ≠ 0x100018 ∧ o ≠ 0x10001C ∧ o ≠ 0x100020 ∧
        o ≠ 0x100040) ∨
      (0x1C00000 < o ∧ o < 0x1C00210 ∧ o ≠ 0x1C00008 ∧ o ≠ 0x1C0000C ∧ o ≠ 0x1C00010) ∨
      (0x2800010 ≤ o ∧ o < 0x2C00000)) := by
  obtain ⟨h4, h⟩ := h
  exact ⟨h4, by omega⟩

/-- No bit of a plain register is both set and cleared by writes. -/
theorem regInfo_apart_of_plainAt {o : Nat} (h : plainAt o) : (regInfo o).apart = true := by
  have h0 : ({} : Info).apart = true := by decide
  obtain ⟨h4, hg | he | ha | hh⟩ := plainAt_blocks h
  · simp (disch := omega) only [regInfo, if_pos, if_neg]
    exact look_of_forall h0 (by decide) _
  · simp (disch := omega) only [regInfo, if_pos, if_neg]
    rw [epcInfo]
    split
    · decide
    · split <;> exact look_of_forall h0 (by decide) _
  · simp (disch := omega) only [regInfo, if_pos, if_neg]
    rw [atmInfo]
    split <;> exact look_of_forall h0 (by decide) _
  · simp (disch := omega) only [regInfo, if_pos, if_neg]
    exact look_of_forall h0 (by decide) _

/-- A plain register reads as what the store holds, and a read does nothing but clear its RC bits. -/
theorem State.readReg_of_plainAt {o : Nat} (h : plainAt o) (s : State) (m : Master) (ev : Pair) :
    s.readReg m o ev = (s.reg o, if (regInfo o).rc = 0 then s
      else s.setReg o ((s.reg o &&& ~~~(regInfo o).rc) ||| (ev &&& (regInfo o).rc))) := by
  have hview : s.view o = s.reg o := by
    obtain ⟨h4, hg | he | ha | hh⟩ := plainAt_blocks h
    · simp (disch := omega) only [State.view, if_pos, if_neg, Option.getD_none]
    · simp (disch := omega) only [State.view, State.viewEpc, if_pos, if_neg, Option.getD_none]
    · delta State.view State.viewAtm atmOff
      simp (disch := omega) only [if_pos, if_neg, Option.getD_none]
    · delta State.view hstOff pwrOff errStatus
      simp (disch := omega) only [if_pos, if_neg, Option.getD_none]
  have hsem : semAt o = none := by
    obtain ⟨h4, hb⟩ := plainAt_blocks h
    simp (disch := omega) only [semAt, if_neg]
  obtain ⟨h4, hb⟩ := plainAt_blocks h
  simp (disch := omega) only [State.readReg, if_neg, hsem, hview]

/-- A write of a plain register goes by its access codes. -/
theorem State.writeReg_of_plainAt {o : Nat} (h : plainAt o) (s : State) (m : Master) (v ev : Pair) :
    s.writeReg m o v ev = s.plainWrite o v ev := by
  obtain ⟨h4, hg | he | ha | hh⟩ := plainAt_blocks h
  · simp (disch := omega) only [State.writeReg, if_pos, if_neg]
  · simp (disch := omega) only [State.writeReg, State.writeEpc, if_pos, if_neg]
  · delta State.writeReg atmOff
    simp (disch := omega) only [if_pos, if_neg]
  · simp (disch := omega) only [State.writeReg, if_pos, if_neg]

/-- The write by access codes is the write of Table 0.5, bit by bit, where no bit is both set and cleared by writes. -/
theorem State.plainWrite_eq_codedWrite {o : Nat} (h : (regInfo o).apart = true) (s : State) (v ev : Pair) :
    s.plainWrite o v ev = s.setReg o (codedWrite s o v ev) := by
  refine congrArg (s.setReg o) (BitVec.eq_of_getLsbD_eq fun b hb => ?_)
  have hap : ((regInfo o).w1c &&& ((regInfo o).rw ||| (regInfo o).rwl)).getLsbD b = false := by
    rw [of_decide_eq_true h]; simp
  have hall : (bits 27 0).getLsbD b = true := by
    have : bits 27 0 = BitVec.allOnes 28 := by decide
    rw [this, BitVec.getLsbD_allOnes, decide_eq_true hb]
  rw [← bitOf_eq_getLsbD (codedWrite s o v ev), codedWrite, bitOf_ofNat_sum_two_pow _ hb]
  simp only [BitVec.getLsbD_and, BitVec.getLsbD_or] at hap
  simp only [BitVec.getLsbD_or, BitVec.getLsbD_and, BitVec.getLsbD_not, hb, hall, decide_true, Bool.true_and, Bool.and_true,
    State.fld, ext_self_eq_one, bitOf_eq_getLsbD]
  generalize (regInfo o).w1c.getLsbD b = clear at hap ⊢
  generalize (regInfo o).rw.getLsbD b = set at hap ⊢
  generalize (s.reg (lockBit o).1).getLsbD (lockBit o).2 = locked
  generalize v.getLsbD b = new
  generalize (s.reg o).getLsbD b = old
  generalize ev.getLsbD b = event
  cases locked with
  | false =>
    simp only [Bool.false_eq_true, if_false, and_true]
    generalize (regInfo o).rwl.getLsbD b = unlocked at hap ⊢
    decide +revert
  | true =>
    simp only [if_true, Bool.true_eq_false, and_false, or_false]
    generalize (regInfo o).rwl.getLsbD b = unlocked at hap
    decide +revert

/-! ## Accesses that reach their register: R7, R40, R103 -/

theorem State.answered_of_writable {s : State} {o : Nat} (h : s.writable o = true) : s.answered o = true := by
  rw [State.writable, Bool.and_eq_true] at h
  exact h.1

/-- A host write of a register that is written now. -/
theorem State.accWrite_of_writesReg {s : State} {o : Nat} (h : writesReg s o) (v : BitVec 32) (ev : Pair) :
    s.accWrite .host .bar0 o v ev = s.writeReg .host o (v.setWidth 28) ev := by
  simp [State.accWrite, State.reaches, h.1, h.2]

/-- A host read of a register that is answered now. -/
theorem State.accRead_of_writesReg {s : State} {o : Nat} (h : writesReg s o) (ev : Pair) :
    s.accRead .host .bar0 o ev =
      { (s.readReg .host o ev).2 with readData := (s.readReg .host o ev).1.setWidth 64 } := by
  simp [State.accRead, State.reaches, State.answered_of_writable h.1, h.2]

/-- A row that reads a register that is answered now. -/
theorem State.readRow_of_writesReg {s : State} {o : Nat} (h : writesReg s o) (f : State → Pair × State) :
    s.readRow o f = { (f s).2 with readData := (f s).1.setWidth 64 } := by
  simp [State.readRow, State.answered_of_writable h.1, h.2]

theorem lo28_setWidth (x : BitVec 56) : (lo28 x).setWidth 64 = BitVec.ofNat 64 (x.toNat % 2 ^ 28) := by
  apply BitVec.eq_of_toNat_eq
  simp [lo28, BitVec.extractLsb'_toNat]

theorem hi28_eq (x : BitVec 56) : hi28 x = BitVec.ofNat 28 (x.toNat / 2 ^ 28) := by
  apply BitVec.eq_of_toNat_eq
  simp [hi28, BitVec.extractLsb'_toNat, Nat.shiftRight_eq_div_pow]

/-- Table 0.5: a write of a plain register changes that register alone, by its access codes. -/
theorem csrWrite_plainAt {s : State} {off : Off} (hp : plainAt off.toNat) (hw : writesReg s off.toNat) (v : BitVec 32) (ev : Pair) :
    exec (.csrWrite .host .bar0 off v ev) s =
      .next (s.setReg off.toNat (codedWrite s off.toNat (BitVec.ofNat 28 v.toNat) ev)) := by
  rw [exec_csrWrite, execCsrWrite, State.accWrite_of_writesReg hw, State.writeReg_of_plainAt hp,
    State.plainWrite_eq_codedWrite (regInfo_apart_of_plainAt hp), BitVec.ofNat_toNat]

/-- R10: a read of a plain register clears its RC bits but for the events of the same cycle. -/
theorem rcRead_plainAt {s : State} {off : Off} (hp : plainAt off.toNat) (hw : writesReg s off.toNat) (ev : Pair) :
    ∃ s' : State, exec (.rcRead .host .bar0 off ev) s = .next s' ∧
      s' = { s with csr := s'.csr, readData := BitVec.ofNat 64 (s.reg off.toNat).toNat } ∧
      (∀ b, b < 28 → bitOf (s'.reg off.toNat) b =
        if bitOf (regInfo off.toNat).rc b then bitOf ev b else bitOf (s.reg off.toNat) b) ∧
      ∀ p, p ≠ off.toNat → s'.reg p = s.reg p := by
  rw [exec_rcRead, execRcRead, State.accRead_of_writesReg hw, State.readReg_of_plainAt hp]
  by_cases hrc : (regInfo off.toNat).rc = 0
  · rw [if_pos hrc, hrc]
    refine ⟨_, rfl, congrArg (fun x => { s with readData := x }) (BitVec.ofNat_toNat ..).symm, fun b _ => ?_, fun _ _ => rfl⟩
    rw [if_neg (by simp [bitOf])]
    rfl
  · rw [if_neg hrc]
    have hreg : ∀ (v : Pair) (x : BitVec 64) (p : Nat), State.reg { s.setReg off.toNat v with readData := x } p =
      (s.setReg off.toNat v).reg p := fun _ _ _ => rfl
    refine ⟨_, rfl, ?_, fun b hb => ?_, fun p hpne => ?_⟩
    · rw [BitVec.ofNat_toNat]
      rfl
    · simp only [hreg, State.reg_setReg_self, bitOf_eq_getLsbD, BitVec.getLsbD_or, BitVec.getLsbD_and, BitVec.getLsbD_not, hb,
        decide_true, Bool.true_and]
      cases (regInfo off.toNat).rc.getLsbD b <;> simp
    · rw [hreg, State.reg_setReg_ne s _ hpne]

/-- R103: the read of a counter's LO latches its HI. -/
theorem counterLoRead_latches {s : State} (p : Fin 32) (n : Fin 22) (hw : writesReg s (lnk p (0x100 + 8 * n))) :
    ∃ s' : State, exec (.counterLoRead p n) s = .next s' ∧ s' = { s with ports := s'.ports, readData := s'.readData } ∧
      s'.readData = BitVec.ofNat 64 ((SMap.get 0 (s.port p).cnt n).toNat % 2 ^ 28) ∧
      SMap.get 0 (s'.port p).hi n = BitVec.ofNat 28 ((SMap.get 0 (s.port p).cnt n).toNat / 2 ^ 28) ∧
      s'.port p = { s.port p with hi := (s'.port p).hi } ∧ ∀ q, q ≠ p.val → s'.port q = s.port q := by
  rw [exec_counterLoRead, execCounterLoRead, State.readRow_of_writesReg hw]
  have hport : ∀ (x : BitVec 64) (f : Port → Port) (q : Nat),
      State.port { s.modPort p f with readData := x } q = (s.modPort p f).port q := fun _ _ _ => rfl
  refine ⟨_, rfl, rfl, lo28_setWidth _, ?_, ?_, fun q hq => ?_⟩
  · simp only [State.cntLo, hport, State.port_modPort, SMap.get_set_self, hi28_eq]
  · simp only [State.cntLo, hport, State.port_modPort]
  · simp only [State.cntLo, hport, State.port_modPort_ne s _ hq]

/-! ## Accesses to a sleeping domain: R418 -/

/-- Every change from s to s' is one of a domain that wakes: power registers and the power controller, but no stalled access. -/
structure OnlyWakes (s s' : State) : Prop where
  rest : s' = { s with csr := s'.csr, power := s'.power }
  stalled : s'.power.stalled = s.power.stalled
  reg : ∀ p, p < 0x2C00000 ∨ 0x2E00000 ≤ p → s'.reg p = s.reg p

theorem OnlyWakes.readData {s s' : State} (h : OnlyWakes s s') : s'.readData = s.readData := by rw [h.rest]
theorem OnlyWakes.mem {s s' : State} (h : OnlyWakes s s') : s'.mem = s.mem := by rw [h.rest]
theorem OnlyWakes.threads {s s' : State} (h : OnlyWakes s s') : s'.threads = s.threads := by rw [h.rest]
theorem OnlyWakes.vectors {s s' : State} (h : OnlyWakes s s') : s'.vectors = s.vectors := by rw [h.rest]

theorem OnlyWakes.refl (s : State) : OnlyWakes s s := ⟨rfl, rfl, fun _ _ => rfl⟩

theorem OnlyWakes.trans {a b c : State} (h : OnlyWakes a b) (k : OnlyWakes b c) : OnlyWakes a c where
  rest := by
    rw [k.rest, h.rest]
  stalled := k.stalled.trans h.stalled
  reg p hp := (k.reg p hp).trans (h.reg p hp)

theorem OnlyWakes.setReg (s : State) {o : Nat} (v : Pair) (h : 0x2C00000 ≤ o ∧ o < 0x2E00000) : OnlyWakes s (s.setReg o v) where
  rest := rfl
  stalled := rfl
  reg p hp := State.reg_setReg_ne s v (by omega)

theorem OnlyWakes.setPower (s : State) (p : Power) (h : p.stalled = s.power.stalled) : OnlyWakes s { s with power := p } where
  rest := rfl
  stalled := h
  reg _ _ := rfl

theorem pwrOff_mem {k : Nat} (h : k < 0x200000) : 0x2C00000 ≤ pwrOff k ∧ pwrOff k < 0x2E00000 := by
  unfold pwrOff
  omega

theorem State.wakeRecord_onlyWakes (s : State) (src d : Nat) (m : Word) (test fatal : Bool) :
    OnlyWakes s (s.wakeRecord src d m test fatal) := by
  unfold State.wakeRecord
  refine .trans ?_ (.setReg _ _ (pwrOff_mem (by decide)))
  refine .trans ?_ (.setReg _ _ (pwrOff_mem (by decide)))
  exact .setReg _ _ (pwrOff_mem (by decide))

theorem State.beginWake_onlyWakes (s : State) (src : Nat) {d : Nat} (hd : d < 16) (m : Word) (test : Bool) :
    OnlyWakes s (s.beginWake src d m test) := by
  unfold State.beginWake
  split
  · exact .refl s
  · have woken : OnlyWakes s ((s.wakeRecord src d m test false).setFld ⟨pwrOff (0x100 + 4 * d), 4, 4⟩ 1) :=
      (State.wakeRecord_onlyWakes s src d m test false).trans (.setReg _ _ (pwrOff_mem (by omega)))
    exact woken.trans (.setPower _ _ rfl)

theorem State.fireGlint_onlyWakes (s : State) (src : Nat) {d : Nat} (hd : d < 16) (m : Word) (test : Bool) :
    OnlyWakes s (s.fireGlint src d m test) := by
  unfold State.fireGlint
  split
  · exact .refl s
  split
  · have flagged : OnlyWakes s (s.setFld ⟨pwrOff (0x180 + 4 * d), src, src⟩ 1) := .setReg s _ (pwrOff_mem (by omega))
    exact flagged.trans (.setPower _ _ rfl)
  · exact State.beginWake_onlyWakes s src hd m test

theorem State.domAccess_onlyWakes (s : State) (src : Nat) {d : Nat} (hd : d < 16) (m : Word) : OnlyWakes s (s.domAccess src d m) := by
  unfold State.domAccess
  split
  · exact .refl s
  · have base : OnlyWakes s (if d = 0 ∨ d = 2 ∨ s.domOn 1 then s else s.fireGlint 3 1 m false) := by
      split
      · exact .refl s
      · exact State.fireGlint_onlyWakes s 3 (by decide) m false
    dsimp only
    generalize (if d = 0 ∨ d = 2 ∨ s.domOn 1 then s else s.fireGlint 3 1 m false) = u at base ⊢
    split
    · exact base
    · exact base.trans (State.fireGlint_onlyWakes _ src hd m false)

theorem domOfReg_lt {o : Nat} (h : o < 0x4000000) : domOfReg o < 16 := by
  simp only [domOfReg]
  by_cases hlow : o < 0x1400000
  · split_ifs <;> omega
  · simp (disch := omega) only [if_neg]
    split_ifs <;> omega

/-- R418: a host write to a sleeping domain waits, and the domain wakes. -/
theorem csrWrite_stalls {s : State} {off : Off} (hw : s.writable off.toNat = true) (ha : s.regAwake off.toNat = false)
    (v : BitVec 32) (ev : Pair) :
    ∃ s' : State, exec (.csrWrite .host .bar0 off v ev) s = .next s' ∧
      (∃ x : Stalled, s'.power.stalled = s.power.stalled ++ [x] ∧ x.off = off ∧ x.v = v ∧ x.wr = true ∧ x.m = .host) ∧
      (∀ p, (p < 0x2C00000 ∨ 0x2E00000 ≤ p) → s'.reg p = s.reg p) ∧ s'.mem = s.mem ∧ s'.threads = s.threads := by
  have wakes := State.domAccess_onlyWakes s 3 (domOfReg_lt off.isLt) (masterWord .host)
  have hrun : exec (.csrWrite .host .bar0 off v ev) s = .next (s.stallAcc .host true off.toNat v) := by
    rw [exec_csrWrite, execCsrWrite]
    simp only [State.accWrite, State.reaches, hw, ha, Bool.true_eq_false, Bool.false_eq_true, if_false, if_true]
  have hstalled : (s.stallAcc .host true off.toNat v).power.stalled = s.power.stalled ++
      [{ domain := domOfReg off.toNat, m := .host, wr := true, off := BitVec.ofNat 26 off.toNat, v := v }] :=
    congrArg (· ++ [_]) wakes.stalled
  exact ⟨_, hrun, ⟨_, hstalled, by simp, rfl, rfl, rfl⟩, wakes.reg, wakes.mem, wakes.threads⟩

/-! ## Notifications and the error log: R406, R447 to R449 -/

/-- What a report of an error changes: ERR's registers, events and vectors, and the log's own counters. -/
structure OnlyLogs (s s' : State) : Prop where
  rest : s' = { s with csr := s'.csr, page := s'.page, out := s'.out, pba := s'.pba, errSeq := s'.errSeq, errAt := s'.errAt,
                       alertAt := s'.alertAt }
  reg : ∀ p, ¬inErr p → s'.reg p = s.reg p
  events : ∀ fn b, bit (s.pageReg fn 0x2004) b = true → bit (s'.pageReg fn 0x2004) b = true

theorem OnlyLogs.readData {s s' : State} (h : OnlyLogs s s') : s'.readData = s.readData := by rw [h.rest]
theorem OnlyLogs.mem {s s' : State} (h : OnlyLogs s s') : s'.mem = s.mem := by rw [h.rest]
theorem OnlyLogs.threads {s s' : State} (h : OnlyLogs s s') : s'.threads = s.threads := by rw [h.rest]
theorem OnlyLogs.thread {s s' : State} (h : OnlyLogs s s') (t : Nat) : s'.thread t = s.thread t := by
  rw [State.thread, State.thread, h.threads]

theorem OnlyLogs.refl (s : State) : OnlyLogs s s := ⟨rfl, fun _ _ => rfl, fun _ _ h => h⟩

theorem OnlyLogs.trans {a b c : State} (h : OnlyLogs a b) (k : OnlyLogs b c) : OnlyLogs a c where
  rest := by rw [k.rest, h.rest]
  reg p hp := (k.reg p hp).trans (h.reg p hp)
  events fn b hb := k.events fn b (h.events fn b hb)

theorem OnlyLogs.setReg (s : State) {o : Nat} (v : Pair) (h : 0x3400000 ≤ o ∧ o < 0x3404000) : OnlyLogs s (s.setReg o v) where
  rest := rfl
  reg _ hp := State.reg_setReg_ne s v fun e => hp (e ▸ h)
  events _ _ h := h

theorem OnlyLogs.setFld (s : State) {f : Fld} (n : Nat) (h : 0x3400000 ≤ f.off ∧ f.off < 0x3404000) : OnlyLogs s (s.setFld f n) := .setReg s _ h

/-- A register is what the store of registers holds. -/
theorem State.reg_congr {a b : State} (h : a.csr = b.csr) (o : Nat) : a.reg o = b.reg o := by
  rw [State.reg, State.reg, h]

/-- Vectors and events reach no register of BAR0. -/
@[simp] theorem State.reg_msix (s : State) (fn v o : Nat) : (s.msix fn v).reg o = s.reg o := by
  unfold State.msix
  split <;> rfl

@[simp] theorem State.pageReg_msix (s : State) (fn v i o : Nat) : (s.msix fn v).pageReg i o = s.pageReg i o := by
  unfold State.msix
  split <;> rfl

theorem State.msix_onlyLogs (s : State) (fn v : Nat) : OnlyLogs s (s.msix fn v) where
  rest := by
    unfold State.msix
    split <;> rfl
  reg _ _ := s.reg_msix fn v _
  events _ _ h := by rwa [State.pageReg_msix]

/-- An event bit is set by its event, and stays. -/
theorem State.bit_setPageFld_event (s : State) {fn i b c : Nat} (hc : c < 28) :
    bit ((s.setPageFld fn ⟨0x2004, c, c⟩ 1).pageReg i 0x2004) b =
      (decide (i = fn ∧ b = c) || bit (s.pageReg i 0x2004) b) := by
  by_cases hi : i = fn
  · subst hi
    have hself : (s.setPageFld i ⟨0x2004, c, c⟩ 1).pageReg i 0x2004 = ins (s.pageReg i 0x2004) c c 1 := SMap.get_set_self _
    rw [hself]
    by_cases hb : b < 28
    · rw [bit, ins_getLsbD _ _ _ (by omega) hb]
      by_cases hbc : b = c
      · simp [hbc]
      · rw [if_neg (by omega)]
        simp [hbc, bit]
    · simp [bit, BitVec.getLsbD_of_ge _ _ (Nat.not_lt.mp hb), show b ≠ c by omega]
  · have hkey : i * 0x10000 + 0x2004 ≠ fn * 0x10000 + 0x2004 := by omega
    have hne : (s.setPageFld fn ⟨0x2004, c, c⟩ 1).pageReg i 0x2004 = s.pageReg i 0x2004 := SMap.get_set_ne' _ hkey
    simp [hne, hi]

/-- R406: an event sets its bit of FN_EVENT. -/
theorem State.bit_fnEvent (s : State) (fn i : Nat) {b c : Nat} (hc : c < 28) :
    bit ((s.fnEvent fn c).pageReg i 0x2004) b = (decide (i = fn ∧ b = c) || bit (s.pageReg i 0x2004) b) := by
  unfold State.fnEvent
  split
  next h =>
    by_cases hib : i = fn ∧ b = c
    · rw [hib.1, hib.2, h, Bool.or_true]
    · rw [decide_eq_false hib, Bool.false_or]
  next => rw [State.pageReg_msix, State.bit_setPageFld_event s hc]

@[simp] theorem State.reg_fnEvent (s : State) (fn b o : Nat) : (s.fnEvent fn b).reg o = s.reg o := by
  unfold State.fnEvent
  split
  · rfl
  · rw [State.reg_msix]
    rfl

theorem State.fnEvent_onlyLogs (s : State) (fn : Nat) {b : Nat} (hb : b < 28) : OnlyLogs s (s.fnEvent fn b) where
  rest := by
    unfold State.fnEvent
    split
    · rfl
    · rw [(State.msix_onlyLogs _ fn (16 + b)).rest]
      rfl
  reg p _ := s.reg_fnEvent fn b p
  events i c h := by rw [State.bit_fnEvent s fn i hb, h, Bool.or_true]

theorem State.errVector_onlyLogs (s : State) : OnlyLogs s s.errVector := by
  unfold State.errVector
  split
  · exact .refl s
  · exact (State.msix_onlyLogs s 0 29).trans ⟨rfl, fun _ _ => rfl, fun _ _ h => h⟩

@[simp] theorem State.reg_errVector (s : State) (o : Nat) : s.errVector.reg o = s.reg o := by
  unfold State.errVector
  split
  · rfl
  · exact s.reg_msix 0 29 o

theorem State.errNotify_onlyLogs (s : State) (e : ErrEvent) (rose : Bool) : OnlyLogs s (s.errNotify e rose) := by
  unfold State.errNotify
  dsimp only
  have event : OnlyLogs s (if e.cls = 1 then s.fnEvent (e.slice.getD 0) 4 else s) := by
    split
    · exact State.fnEvent_onlyLogs s _ (by decide)
    · exact .refl s
  generalize (if e.cls = 1 then s.fnEvent (e.slice.getD 0) 4 else s) = u at event ⊢
  have status : OnlyLogs u (if e.cls = 2 ∧ u.fld ⟨errCfg, 10, 10⟩ = 1 then u.setFld ⟨errStatus, 10, 10⟩ 1 else u) := by
    split
    · exact .setFld u _ (by decide)
    · exact .refl u
  generalize (if e.cls = 2 ∧ u.fld ⟨errCfg, 10, 10⟩ = 1 then u.setFld ⟨errStatus, 10, 10⟩ 1 else u) = w at status ⊢
  refine (event.trans status).trans ?_
  split
  · exact State.errVector_onlyLogs w
  · exact .refl w

/-- The notifications of a record that is not FATAL leave every register. -/
theorem State.reg_errNotify (s : State) {e : ErrEvent} (h : e.cls ≠ 2) (rose : Bool) (o : Nat) :
    (s.errNotify e rose).reg o = s.reg o := by
  simp only [State.errNotify, h, false_and, if_false, false_or]
  split_ifs <;> simp

theorem inErr_errLog {i k : Nat} (hi : i < 256) (hk : k < 8) : inErr (errLog i k) := by
  unfold inErr errLog
  omega

theorem State.errPut_onlyLogs (s : State) {i : Nat} (hi : i < 256) (k : Nat) (ps : List Pair) (h : k + ps.length ≤ 8) :
    OnlyLogs s (s.errPut i k ps) := by
  induction ps generalizing s k with
  | nil => exact .refl s
  | cons p ps ih =>
    rw [List.length_cons] at h
    exact (OnlyLogs.setReg s p (inErr_errLog hi (by omega))).trans (ih _ (k + 1) (by omega))

/-- The pairs of a record stand in its entry; registers apart from them keep their value. -/
theorem State.reg_errPut_of_ne (s : State) {i k o : Nat} (ps : List Pair) (h : ∀ j, k ≤ j → o ≠ errLog i j) :
    (s.errPut i k ps).reg o = s.reg o := by
  induction ps generalizing s k with
  | nil => rfl
  | cons p ps ih =>
    exact (ih _ fun j hj => h j (by omega)).trans (State.reg_setReg_ne s p (h k (Nat.le_refl k)))

theorem State.reg_errPut (s : State) {i k : Nat} (ps : List Pair) (j : Nat) (h : j < ps.length) :
    (s.errPut i k ps).reg (errLog i (k + j)) = ps[j] := by
  induction ps generalizing s k j with
  | nil => exact absurd h (Nat.not_lt_zero j)
  | cons p ps ih =>
    cases j with
    | zero =>
      refine (State.reg_errPut_of_ne _ ps fun j hj => ?_).trans (State.reg_setReg_self s _ p)
      unfold errLog
      omega
    | succ j =>
      rw [List.length_cons] at h
      have := ih (s.setReg (errLog i k) p) (k := k + 1) j (by omega)
      rwa [show k + 1 + j = k + (j + 1) by omega] at this

theorem State.errSwap_onlyLogs (s : State) {i j : Nat} (hi : i < 256) (hj : j < 256) : OnlyLogs s (s.errSwap i j) := by
  have step : ∀ (ks : List Nat) (t : State), (∀ k ∈ ks, k < 8) → OnlyLogs s t → OnlyLogs s (ks.foldl (fun t k =>
      (t.setReg (errLog i k) (s.reg (errLog j k))).setReg (errLog j k) (s.reg (errLog i k))) t) := by
    intro ks
    induction ks with
    | nil => exact fun t _ h => h
    | cons k ks ih =>
      intro t hk h
      have hk8 := hk k List.mem_cons_self
      exact ih _ (fun k hm => hk k (List.mem_cons_of_mem _ hm))
        ((h.trans (.setReg t _ (inErr_errLog hi hk8))).trans (.setReg _ _ (inErr_errLog hj hk8)))
  exact step _ s (by decide) (.refl s)

theorem State.errSink_onlyLogs (s : State) (n k : Nat) : OnlyLogs s (s.errSink n k) := by
  induction k generalizing s n with
  | zero => exact .refl s
  | succ k ih =>
    unfold State.errSink
    dsimp only
    split
    · exact (State.errSwap_onlyLogs s (Nat.mod_lt _ (by decide)) (Nat.mod_lt _ (by decide))).trans (ih _ _)
    · exact .refl s

theorem State.errWrite_onlyLogs (s : State) (e : ErrEvent) : OnlyLogs s (s.errWrite e) := by
  unfold State.errWrite
  split
  · have put := State.errPut_onlyLogs s (i := s.fld ⟨errWr, 8, 0⟩ % 256) (Nat.mod_lt _ (by decide)) 0 (s.errPairs e) (Nat.le_refl 8)
    have wr := put.trans (.setFld _ ((s.fld ⟨errWr, 8, 0⟩ + 1) % 512) (f := ⟨errWr, 8, 0⟩) (by decide))
    have sink := wr.trans (State.errSink_onlyLogs _ (s.fld ⟨errWr, 8, 0⟩) (s.errPeers (s.fld ⟨errWr, 8, 0⟩)))
    dsimp only
    refine .trans ?_ (State.errNotify_onlyLogs _ e _)
    exact sink.trans ⟨rfl, fun _ _ => rfl, fun _ _ h => h⟩
  · have status : OnlyLogs s (s.setFld ⟨errStatus, 9, 9⟩ 1) := .setFld s _ (by decide)
    dsimp only
    split
    · exact status.trans (.setFld _ _ (by decide))
    · exact status.trans (.setFld _ _ (by decide))

/-- A report of an error reaches ERR's registers, events and vectors alone. -/
theorem State.err_onlyLogs (s : State) (e : ErrEvent) : OnlyLogs s (s.err e) := by
  unfold State.err
  split
  next i hi =>
    have hlt : i < 256 := by
      split at hi
      · obtain ⟨j, -, rfl⟩ := List.mem_map.mp (List.mem_of_find?_eq_some hi)
        exact Nat.mod_lt _ (by decide)
      · cases hi
    exact .setFld s _ (inErr_errLog hlt (by decide))
  next => exact State.errWrite_onlyLogs s e

/-- Fields of pair 0 of a record (Table 18.2). -/
theorem ErrEvent.p0_fields (e : ErrEvent) (hu : e.unit < 256) (hs : e.src < 16) (hc : e.code < 64) (hcls : e.cls < 4) :
    ext e.p0 7 0 = e.unit ∧ ext e.p0 11 8 = e.src ∧ ext e.p0 17 12 = e.code ∧ ext e.p0 26 25 = e.cls ∧ ext e.p0 27 27 = 1 := by
  have hv : b2n e.slice.isSome ≤ 1 := by
    cases e.slice <;> simp [b2n]
  have hg := Nat.mod_lt (e.slice.getD 0) (show 0 < 64 by decide)
  simp only [ErrEvent.p0, ext, BitVec.toNat_ofNat]
  omega

/-- A record that is the first of its CCLK stands in the first free entry. -/
theorem State.err_logged (s : State) (e : ErrEvent) (hcls : e.cls = 1) (hu : e.unit < 256) (hs : e.src < 16) (hc : e.code < 64) :
    logged s (s.err e) e.src e.code 1 e.unit (e.info.getD 0 0) := by
  unfold logged
  intro n o hfree hfirst
  have hpeers : s.errPeers (s.fld ⟨errWr, 8, 0⟩) = 0 := by
    unfold State.errPeers
    split
    next h =>
      have hrd : s.fld ⟨errHostRd, 8, 0⟩ = s.fld ⟨errWr, 8, 0⟩ := hfirst.resolve_left (not_not_intro h)
      have : s.errUnread = 0 := by
        rw [State.errUnread, hrd]
        omega
      rw [this, Nat.min_zero]
    next => rfl
  have hreg : ∀ p, (s.err e).reg p = (((s.errPut (n % 256) 0 (s.errPairs e)).setFld ⟨errWr, 8, 0⟩ ((n + 1) % 512)).reg p) := by
    intro p
    have herr : s.err e = s.errWrite e := by simp [State.err, hcls]
    rw [herr, State.errWrite, if_pos hfree]
    refine (State.reg_errNotify _ (by omega) _ p).trans ?_
    have hsink : ∀ t : State, t.errSink n (s.errPeers n) = t := fun t => by rw [show s.errPeers n = 0 from hpeers]; rfl
    exact State.reg_congr (congrArg State.csr (hsink _)) p
  have hentry : ∀ j (hj : j < 8), (s.err e).reg (errLog (n % 256) j) = (s.errPairs e)[j] := by
    intro j hj
    have hne : errLog (n % 256) j ≠ errWr := by
      unfold errLog errWr
      omega
    rw [hreg, State.setFld, State.reg_setReg_ne _ _ hne]
    simpa using State.reg_errPut s (k := 0) (s.errPairs e) j hj
  have h0 : (s.err e).reg o = e.p0 := hentry 0 (by decide)
  obtain ⟨h7, h8, h12, h25, h27⟩ := e.p0_fields hu hs hc (by omega)
  refine ⟨?_, h0 ▸ h7, h0 ▸ h8, h0 ▸ h12, h0 ▸ (h25.trans hcls), h0 ▸ h27, hentry 4 (by decide), (hentry 2 (by decide)).trans ?_⟩
  · rw [hreg]
    exact (State.fld_setFld_self _ ⟨errWr, 8, 0⟩ _ (by decide) (by decide)).trans (Nat.mod_mod _ _)
  · change lo28 s.tick = _
    apply BitVec.eq_of_toNat_eq
    simp [lo28, BitVec.extractLsb'_toNat]

/-! ## Accesses of a wrong size, and of 64 bits: R7, R396, R418, R466 -/

/-- R466: where the link is down an access of a wrong size does nothing. -/
theorem csrBadAccess_of_linkDown {s : State} {off : Off} {x : Access} (hx : x.size ≠ 4 ∨ off.toNat % 4 ≠ 0)
    (h : s.inReset = true ∨ s.pins.perstLow = true) (wr : Bool) :
    exec (.csrBadAccess wr .bar0 off x) s = .next (if wr then s else { s with readData := 0 }) := by
  have hsize : ¬(x.size = 4 ∧ off.toNat % 4 = 0) := by omega
  have hlink : s.linked .bar0 = false := by
    rcases h with h | h <;> simp [State.linked, h]
  rw [exec_csrBadAccess, execCsrBadAccess, State.badAccess, if_neg hsize, if_pos hlink]
  exact nofun

/-- R7: an access of a wrong size is logged and has no effect; a read returns zeros. -/
theorem csrBadAccess_logged {s : State} {off : Off} {x : Access} (hx : x.size ≠ 4 ∨ off.toNat % 4 ≠ 0)
    (hr : s.inReset = false) (hp : s.pins.perstLow = false) (wr : Bool) :
    ∃ s' : State, exec (.csrBadAccess wr .bar0 off x) s = .next s' ∧ logged s s' 11 1 1 0 off.toNat ∧
      s'.readData = (if wr then s.readData else 0) ∧ s'.mem = s.mem ∧ s'.threads = s.threads ∧
      ∀ p, ¬inErr p → s'.reg p = s.reg p := by
  have hsize : ¬(x.size = 4 ∧ off.toNat % 4 = 0) := by omega
  have hlink : ¬s.linked .bar0 = false := by simp [State.linked, hr, hp]
  let e : ErrEvent := { src := 11, code := 1, cls := 1, slice := some 0, info := [off.toNat] }
  have run : ∀ z : State, z = (if wr then s else { s with readData := 0 }) →
      exec (.csrBadAccess wr .bar0 off x) s = .next (z.err e) := by
    rintro z rfl
    rw [exec_csrBadAccess, execCsrBadAccess, State.badAccess, if_neg hsize, if_neg hlink, if_neg (by simp [msixSizeOk])]
    exact nofun
  cases wr with
  | true =>
    have logs := s.err_onlyLogs e
    exact ⟨_, run s rfl, s.err_logged e rfl (by simp [e]) (by simp [e]) (by simp [e]), logs.readData, logs.mem, logs.threads, logs.reg⟩
  | false =>
    let z : State := { s with readData := 0 }
    have logs := z.err_onlyLogs e
    exact ⟨_, run z rfl, z.err_logged e rfl (by simp [e]) (by simp [e]) (by simp [e]), logs.readData, logs.mem, logs.threads, logs.reg⟩

theorem State.linked_of_pageOpen {s : State} {fn : Fin 64} (h : s.pageOpen fn = true) : s.linked (.page fn) = true := by
  simp only [State.pageOpen, Bool.and_eq_true] at h
  obtain ⟨⟨⟨-, hr⟩, hp⟩, hf⟩ := h
  simp [State.linked, hr, hp, hf]

/-- An aligned access of 64 bits to the MSI-X table of an open page is performed whole. -/
theorem csrBadAccess_wide {s : State} {fn : Fin 64} {off : Off} {x : Access} (ho : s.pageOpen fn = true)
    (hlo : 0x8000 ≤ off.toNat) (hhi : off.toNat < 0x8200) (h8 : off.toNat % 8 = 0) (hx : x.size = 8) (wr : Bool) :
    exec (.csrBadAccess wr (.page fn) off x) s = .next (s.wideAccess wr (.page fn) off.toNat x.v) := by
  rw [exec_csrBadAccess, execCsrBadAccess, State.badAccess, if_neg (by omega), if_neg (by simp [State.linked_of_pageOpen ho]),
    if_pos (by simp [msixSizeOk, hlo, hhi, h8, hx])]
  exact nofun

/-- A write of an open page whose domain is ON. -/
theorem State.accWrite_page {s : State} {fn : Fin 64} (ho : s.pageOpen fn = true) (hd : s.domOn 2 = true) (o : Nat)
    (v : BitVec 32) (ev : Pair) : s.accWrite .host (.page fn) o v ev = s.writePage fn o v ev := by
  simp only [State.pageOpen, Bool.and_eq_true, Bool.not_eq_true', decide_eq_true_eq] at ho
  obtain ⟨⟨⟨⟨hf, hb⟩, hr⟩, hp⟩, he⟩ := ho
  simp [State.accWrite, State.pageRow, Nat.not_le.mpr hf, hb, hr, hp, he, hd]

/-- A read of an open page whose domain is ON. -/
theorem State.accRead_page {s : State} {fn : Fin 64} (ho : s.pageOpen fn = true) (hd : s.domOn 2 = true) (o : Nat) (ev : Pair) :
    s.accRead .host (.page fn) o ev = { s with readData := (s.readPage fn o).setWidth 64 } := by
  simp [State.accRead, ho, hd]

/-- The address and data dwords of the MSI-X table hold 32 bits (R396). -/
theorem State.writePage_vector {s : State} {fn : Fin 64} {o : Nat} (hlo : 0x8000 ≤ o) (hhi : o < 0x8200) (h4 : o % 4 = 0)
    (h16 : o % 16 ≠ 12) (v : BitVec 32) (ev : Pair) :
    s.writePage fn o v ev = { s with vectors := SMap.set 0 s.vectors (vectorKey fn o) v } := by
  rw [State.writePage, if_neg (by omega), if_pos ⟨hlo, hhi, h16⟩]

theorem State.readPage_vector {s : State} {fn o : Nat} (hlo : 0x8000 ≤ o) (hhi : o < 0x8200) (h4 : o % 4 = 0)
    (h16 : o % 16 ≠ 12) : s.readPage fn o = SMap.get 0 s.vectors (vectorKey fn o) := by
  rw [State.readPage, if_neg (by omega), if_pos ⟨hlo, hhi, h16⟩]

/-- R396: a write of 64 bits at the head of an MSI-X table entry sets both dwords of its address. -/
theorem wideWrite_vector {s : State} {fn : Fin 64} {off : Off} {x : Access} (ho : s.pageOpen fn = true) (hd : s.domOn 2 = true)
    (hlo : 0x8000 ≤ off.toNat) (hhi : off.toNat < 0x8200) (h16 : off.toNat % 16 = 0) (hx : x.size = 8) :
    ∃ s' : State, exec (.csrBadAccess true (.page fn) off x) s = .next s' ∧ s' = { s with vectors := s'.vectors } ∧
      s'.readPage fn off.toNat = BitVec.ofNat 32 x.v.toNat ∧
      s'.readPage fn (off.toNat + 4) = BitVec.ofNat 32 (x.v.toNat / 2 ^ 32) := by
  have hkey : vectorKey fn off.toNat ≠ vectorKey fn (off.toNat + 4) := by
    unfold vectorKey
    omega
  let lo : State := { s with vectors := SMap.set 0 s.vectors (vectorKey fn off.toNat) (x.v.setWidth 32) }
  have hlow : s.accWrite .host (.page fn) off.toNat (x.v.setWidth 32) 0 = lo := by
    rw [State.accWrite_page ho hd, State.writePage_vector hlo hhi (by omega) (by omega)]
  have hrun : exec (.csrBadAccess true (.page fn) off x) s = .next { s with
      vectors := SMap.set 0 lo.vectors (vectorKey fn (off.toNat + 4)) (x.v.extractLsb' 32 32) } := by
    rw [csrBadAccess_wide ho hlo hhi (by omega) hx, State.wideAccess, if_pos rfl, hlow, State.accWrite_page (s := lo) ho hd,
      State.writePage_vector (by omega) (by omega) (by omega) (by omega)]
  refine ⟨_, hrun, rfl, ?_, ?_⟩
  · rw [State.readPage_vector hlo hhi (by omega) (by omega), SMap.get_set_ne _ hkey, SMap.get_set_self, BitVec.ofNat_toNat]
  · rw [State.readPage_vector (by omega) (by omega) (by omega) (by omega), SMap.get_set_self]
    apply BitVec.eq_of_toNat_eq
    simp [BitVec.extractLsb'_toNat, Nat.shiftRight_eq_div_pow]

/-- R396: a read of 64 bits returns both dwords. -/
theorem wideRead_vector {s : State} {fn : Fin 64} {off : Off} {x : Access} (ho : s.pageOpen fn = true) (hd : s.domOn 2 = true)
    (hlo : 0x8000 ≤ off.toNat) (hhi : off.toNat < 0x8200) (h16 : off.toNat % 16 = 0) (hx : x.size = 8) :
    exec (.csrBadAccess false (.page fn) off x) s = .next { s with
      readData := BitVec.ofNat 64 ((s.readPage fn off.toNat).toNat + (s.readPage fn (off.toNat + 4)).toNat * 2 ^ 32) } := by
  have hpair : ∀ a b : BitVec 32, a.setWidth 64 ||| b.setWidth 64 <<< 32 = BitVec.ofNat 64 (a.toNat + b.toNat * 2 ^ 32) := by
    intro a b
    apply BitVec.eq_of_toNat_eq
    have hb : b.toNat <<< 32 % 2 ^ 64 = b.toNat <<< 32 := Nat.mod_eq_of_lt (by rw [Nat.shiftLeft_eq]; omega)
    simp only [BitVec.toNat_or, BitVec.toNat_shiftLeft, BitVec.toNat_setWidth, BitVec.toNat_ofNat]
    rw [Nat.mod_eq_of_lt (by omega : a.toNat < 2 ^ 64), Nat.mod_eq_of_lt (by omega : b.toNat < 2 ^ 64), hb, Nat.or_comm,
      ← Nat.shiftLeft_add_eq_or_of_lt a.isLt, Nat.shiftLeft_eq]
    omega
  rw [csrBadAccess_wide ho hlo hhi (by omega) hx, State.wideAccess, if_neg (by decide), State.wideRead, ← hpair]
  let lo : State := { s with readData := (s.readPage fn off.toNat).setWidth 64 }
  rw [State.accRead_page ho hd, State.accRead_page (s := lo) ho hd]
  simp only [hd, true_or, if_true]
  rfl

/-- R418: a read of 64 bits of a page whose domain sleeps waits whole. -/
theorem wideRead_stalls {s : State} {fn : Fin 64} {off : Off} {x : Access} (ho : s.pageOpen fn = true) (hd : s.domOn 2 = false)
    (hlo : 0x8000 ≤ off.toNat) (hhi : off.toNat < 0x8200) (h8 : off.toNat % 8 = 0) (hx : x.size = 8) :
    ∃ s' : State, exec (.csrBadAccess false (.page fn) off x) s = .next s' ∧
      (∃ y : Stalled, s'.power.stalled = s.power.stalled ++ [y] ∧ y.off = off ∧ y.sp = .page fn ∧ y.wr = false ∧ y.wide = true ∧ y.domain = 2) ∧
      s'.readData = s.readData ∧ s'.mem = s.mem ∧ s'.vectors = s.vectors := by
  have wakes := s.domAccess_onlyWakes 3 (d := 2) (by decide) (0x1000#14 + BitVec.ofNat 14 (8 * fn.val))
  rw [csrBadAccess_wide ho hlo hhi h8 hx, State.wideAccess, if_neg (by decide), State.wideRead]
  simp only [hd, ho, Bool.false_eq_true, Bool.true_eq_false, or_self, if_false]
  exact ⟨_, rfl, ⟨_, congrArg (· ++ [_]) wakes.stalled, by simp, rfl, rfl, rfl, rfl⟩, wakes.readData,
    wakes.mem, wakes.vectors⟩

/-! ## Configuration space and Umbra: R395, R477, R366 -/

/-- R395, R477: the IDs, and the revision with the class. -/
theorem rcRead_cfg_ids {s : State} {fn : Fin 64} (h : s.cfgOpen fn = true) (off : Off) (ev : Pair) :
    (off.toNat = 0 → exec (.rcRead .host (.cfg fn) off ev) s =
      .next { s with readData := BitVec.ofNat 64 (0x1F7A + 2 ^ 16 * if fn.val = 0 then 0x1440 else 0x1441) }) ∧
    (off.toNat = 8 → exec (.rcRead .host (.cfg fn) off ev) s =
      .next { s with readData := BitVec.ofNat 64 (ext (s.reg 4) 7 0 + 2 ^ 8 * 0x120000) }) := by
  have hread : exec (.rcRead .host (.cfg fn) off ev) s = .next (s.cfgRead fn off.toNat) := by
    rw [exec_rcRead, execRcRead, State.accRead]
    simp [h]
  refine ⟨fun ho => ?_, fun ho => ?_⟩
  · rw [hread, ho, State.cfgRead, if_pos rfl]
    rfl
  · rw [hread, ho, State.cfgRead, if_neg (by decide), if_pos rfl]
    rfl

/-- R366: Umbra's writes do not reach SLC's engine. -/
theorem csrWrite_umbra_slc {s : State} {off : Off} (hr : s.inReset = false) (hb : s.boot.stopped = false)
    (ha : s.regAwake off.toNat = true) (hlo : 0x2400000 ≤ off.toNat) (hhi : off.toNat ≤ 0x2400018) (v : BitVec 32) (ev : Pair) :
    exec (.csrWrite .umbra .bar0 off v ev) s = .next s := by
  have hslc : off.toNat ≤ slcOff 0x18 := hhi
  rw [exec_csrWrite, execCsrWrite]
  simp only [State.accWrite, State.reaches, hr, hb, ha, Bool.not_false, Bool.and_self, Bool.true_eq_false, if_false, if_true]
  rw [State.writeReg]
  by_cases h4 : off.toNat % 4 ≠ 0
  · rw [if_pos h4]
  · simp (disch := omega) only [if_neg, if_pos]
    rw [State.writeSlc, if_pos ⟨rfl, hslc⟩]

theorem State.setReg_rest (s : State) (o : Nat) (v : Pair) : s.setReg o v = { s with csr := (s.setReg o v).csr } := rfl

/-- R40: the read of a LO register of EPC latches its HI. -/
theorem tickLoRead_latches {s : State} (hw : writesReg s 0x10000C) : exec .tickLoRead s = .next { s with
    readData := BitVec.ofNat 64 (s.tick.toNat % 2 ^ 28), epc := { s.epc with tickHi := BitVec.ofNat 28 (s.tick.toNat / 2 ^ 28) } } := by
  rw [exec_tickLoRead, execTickLoRead, State.readRow_of_writesReg hw, State.tickLo, lo28_setWidth, hi28_eq]
  rfl

theorem epochLoRead_latches {s : State} (hw : writesReg s 0x100014) : exec .epochLoRead s = .next { s with
    readData := BitVec.ofNat 64 (s.epc.epoch.toNat % 2 ^ 28),
    epc := { s.epc with epochHi := BitVec.ofNat 28 (s.epc.epoch.toNat / 2 ^ 28) } } := by
  rw [exec_epochLoRead, execEpochLoRead, State.readRow_of_writesReg hw, State.epochLo, lo28_setWidth, hi28_eq]
  rfl

/-- R40: TICK_HI reads as what the last read of TICK_LO latched. -/
theorem rcRead_tickHi {s : State} (hw : writesReg s 0x100010) :
    exec (.rcRead .host .bar0 0x100010 0) s = .next { s with readData := BitVec.ofNat 64 s.epc.tickHi.toNat } := by
  have hread : s.readReg .host 0x100010 0 = (s.epc.tickHi, s) := rfl
  rw [exec_rcRead, execRcRead, State.accRead_of_writesReg (o := (0x100010 : Off).toNat) hw]
  exact congrArg Host.Outcome.next (by rw [show (0x100010 : Off).toNat = 0x100010 from rfl, hread, BitVec.ofNat_toNat])

/-- Settles O23: each clause is the lemma of its access. -/
theorem registerAccessesFollowTheirCodes : Obligations.RegisterAccessesFollowTheirCodes := by
  intro s off v ev o
  refine ⟨fun hp hw => ?_, fun hp hw => rcRead_plainAt hp hw ev, fun hw ha _ => csrWrite_stalls hw ha v ev, tickLoRead_latches,
    rcRead_tickHi, epochLoRead_latches, fun p n => ?_, fun wr x hx hl => csrBadAccess_of_linkDown hx hl wr,
    fun wr x hr hl hx => csrBadAccess_logged hx hr hl wr,
    fun fn x ho hd hlo hhi h16 hx => ⟨wideWrite_vector ho hd hlo hhi h16 hx, wideRead_vector ho hd hlo hhi h16 hx⟩,
    fun fn x ho hd hlo hhi h8 hx => wideRead_stalls ho hd hlo hhi h8 hx, fun fn h => rcRead_cfg_ids h off ev,
    fun hr hb ha hlo hhi => csrWrite_umbra_slc hr hb ha hlo hhi v ev⟩
  · exact ⟨_, csrWrite_plainAt hp hw v ev, State.setReg_rest s _ _, State.reg_setReg_self s _ _,
      fun p hne => State.reg_setReg_ne s _ hne⟩
  · intro a c hw
    have hoff : lnk p (0x100 + 8 * n) = a := by
      unfold lnk
      omega
    exact counterLoRead_latches p n (hoff ▸ hw)

end Sys2Proof.Machine

/-! SUPPORT. Exceptions, double faults and stalls (R189, R201, R202, R206, R263): the window spills by whole groups, the entry saves the
context, and a stall reaches the supervisor. -/

namespace Sys2Proof.Machine

open Sys2Proof.Spec

/-! ## The save area: R189, R191 -/

/-- What a spill, and an exception's entry, change: threads and on-chip words. -/
structure OnlySpills (s s' : State) : Prop where
  rest : s' = { s with threads := s'.threads, mem := s'.mem, poison := s'.poison }

theorem OnlySpills.refl (s : State) : OnlySpills s s := ⟨rfl⟩

theorem OnlySpills.trans {a b c : State} (h : OnlySpills a b) (k : OnlySpills b c) : OnlySpills a c where
  rest := by rw [k.rest, h.rest]

theorem OnlySpills.modThread (s : State) (t : Nat) (f : Thread → Thread) : OnlySpills s (s.modThread t f) := ⟨rfl⟩

theorem OnlySpills.putWords (s : State) (a : Nat) (ws : List Word) : OnlySpills s (s.putWords a ws) := by
  induction ws generalizing s a with
  | nil => exact .refl s
  | cons w ws ih => exact .trans (b := s.putWord a w) ⟨rfl⟩ (ih _ _)

@[simp] theorem State.threads_putWords (s : State) (a : Nat) (ws : List Word) : (s.putWords a ws).threads = s.threads := by
  induction ws generalizing s a with
  | nil => rfl
  | cons w ws ih => exact ih _ _

theorem State.getWord_modThread (s : State) (t : Nat) (f : Thread → Thread) (a : Nat) :
    (s.modThread t f).getWord a = s.getWord a := rfl

theorem State.getWord_putWords_of_ne (s : State) {a b : Nat} (ws : List Word) (h : ∀ i, i < ws.length → b ≠ a + i) :
    (s.putWords a ws).getWord b = s.getWord b := by
  induction ws generalizing s a with
  | nil => rfl
  | cons w ws ih =>
    rw [List.length_cons] at h
    have hb : b ≠ a := h 0 (by omega)
    exact (ih _ fun i hi => by have := h (i + 1) (by omega); omega).trans (State.getWord_putWord_ne s w hb)

theorem State.getWord_putWords (s : State) {a i : Nat} (ws : List Word) (h : i < ws.length) :
    (s.putWords a ws).getWord (a + i) = ws[i] := by
  induction ws generalizing s a i with
  | nil => exact absurd h (Nat.not_lt_zero i)
  | cons w ws ih =>
    cases i with
    | zero => exact (State.getWord_putWords_of_ne _ ws fun j _ => by omega).trans (State.getWord_putWord s a w)
    | succ i =>
      rw [List.length_cons] at h
      have := ih (s.putWord a w) (a := a + 1) (i := i) (by omega)
      rwa [show a + 1 + i = a + (i + 1) by omega] at this

theorem saveAddr_eq_add (t f i : Nat) : saveAddr t f i = saveAddr t f 0 + i := rfl

theorem saveAddr_ne {t f g i j : Nat} (h : f ≠ g) (hi : i < 8) (hj : j < 8) : saveAddr t f i ≠ saveAddr t g j := by
  unfold saveAddr
  omega

/-! ## A call step of the window: R189 -/

/-- The thread after a call step. -/
def Thread.stepped (x : Thread) : Thread :=
  { x with spilled := x.spilled + (if x.spilled + 9 = x.d then 1 else 0), d := x.d + 1 }

theorem State.callStep_onlySpills (s : State) (t : Nat) : OnlySpills s (s.callStep t) := by
  unfold State.callStep
  dsimp only
  split
  · exact (OnlySpills.putWords s _ _).trans (.modThread _ _ _)
  · exact .modThread s _ _

theorem State.thread_putWords (s : State) (a u : Nat) (ws : List Word) : (s.putWords a ws).thread u = s.thread u := by
  rw [State.thread, State.threads_putWords]
  rfl

theorem State.thread_callStep (s : State) (t : Nat) : (s.callStep t).thread t = (s.thread t).stepped := by
  unfold State.callStep Thread.stepped
  dsimp only
  split <;> simp [State.thread_putWords]

theorem State.thread_callStep_ne (s : State) {t u : Nat} (h : u ≠ t) : (s.callStep t).thread u = s.thread u := by
  unfold State.callStep
  dsimp only
  split
  · rw [State.thread_modThread_ne _ _ h, State.thread_putWords]
  · rw [State.thread_modThread_ne _ _ h]

/-- A call step spills at most one frame, and does when the register file is full. -/
theorem Thread.stepped_spills {x : Thread} {f : Nat} :
    (x.spilled ≤ f ∧ f < x.stepped.spilled) ↔ f = x.spilled ∧ x.spilled + 9 = x.d := by
  simp only [Thread.stepped]
  split_ifs <;> omega

/-- A call step writes the frame that it spills, word by word, to its save slot. -/
theorem State.getWord_callStep (s : State) {t f i : Nat} (h : (s.thread t).spilled ≤ f ∧ f < (s.thread t).stepped.spilled)
    (hi : i < 8) : (s.callStep t).getWord (saveAddr t f i) = frameReg (s.thread t) f i := by
  obtain ⟨rfl, hfull⟩ := Thread.stepped_spills.mp h
  have hlen : i < ((s.thread t).group ((s.thread t).spilled % 11)).length := by simpa [Thread.group] using hi
  have hd : (s.thread t).d - 9 = (s.thread t).spilled := by omega
  rw [State.callStep, if_pos hfull, hd, State.getWord_modThread, saveAddr_eq_add t _ i, State.getWord_putWords s _ hlen]
  simp [Thread.group, frameReg, groupKey]

theorem State.getWord_callStep_of_ne (s : State) {t a : Nat}
    (h : ∀ f i, (s.thread t).spilled ≤ f ∧ f < (s.thread t).stepped.spilled → i < 8 → a ≠ saveAddr t f i) :
    (s.callStep t).getWord a = s.getWord a := by
  unfold State.callStep
  dsimp only
  split
  next hfull =>
    have hd : (s.thread t).d - 9 = (s.thread t).spilled := by omega
    rw [hd, State.getWord_modThread]
    refine State.getWord_putWords_of_ne s _ fun i hi => ?_
    rw [← saveAddr_eq_add]
    exact h _ i (Thread.stepped_spills.mpr ⟨rfl, hfull⟩) (by simpa [Thread.group] using hi)
  next => rw [State.getWord_modThread]

/-! ## Exception entry: R202 -/

/-- The thread with its context saved, before the window moves. -/
def Thread.trapped (x : Thread) (cause : Nat) (info : BitVec 42) (pc : BitVec 16) (imp : Bool) : Thread :=
  { x with ecause := BitVec.ofNat 6 cause, einfo := info, epcx := pc, esFlags := x.flags, esUs := x.us,
           esLsusp := x.lsusp, esRepv := x.rep.isSome, esImp := imp, erep := x.rep.getD x.erep,
           edepth := BitVec.ofNat 6 x.d, exc := true, lsusp := true, rep := none, await := none,
           st := .run, blk := .none }

/-- The machine after the two call steps of an exception's entry. -/
def State.entered (s : State) (t cause : Nat) (info : BitVec 42) (pc : BitVec 16) (imp : Bool) : State :=
  ((s.modThread t fun x => x.trapped cause info pc imp).callStep t).callStep t

theorem State.entered_onlySpills (s : State) (t cause : Nat) (info : BitVec 42) (pc : BitVec 16) (imp : Bool) :
    OnlySpills s (s.entered t cause info pc imp) :=
  ((OnlySpills.modThread s t _).trans (State.callStep_onlySpills _ t)).trans (State.callStep_onlySpills _ t)

theorem OnlySpills.ibase {s s' : State} (h : OnlySpills s s') (t : Nat) :
    s'.ibase (s'.sliceOf t) (clusterOf t) = s.ibase (s.sliceOf t) (clusterOf t) := by
  rw [h.rest]
  rfl

/-- Outside a handler an exception goes to its vector with the context saved. -/
theorem State.excEnter_of_not_exc {s : State} {t : Nat} (h : (s.thread t).exc = false) (cause : Nat) (info : BitVec 42)
    (pc : BitVec 16) (imp : Bool) :
    s.excEnter t cause info pc imp = (s.entered t cause info pc imp).modThread t fun x =>
      { x with pc := s.ibase (s.sliceOf t) (clusterOf t) - 32 + BitVec.ofNat 16 cause }.stepDone := by
  rw [State.excEnter, if_neg (by simp [h]), ← (State.entered_onlySpills s t cause info pc imp).ibase t]
  rfl

theorem State.excEnter_onlySpills {s : State} {t : Nat} (h : (s.thread t).exc = false) (cause : Nat) (info : BitVec 42)
    (pc : BitVec 16) (imp : Bool) : OnlySpills s (s.excEnter t cause info pc imp) := by
  rw [State.excEnter_of_not_exc h]
  exact (State.entered_onlySpills s t cause info pc imp).trans (.modThread _ _ _)

/-- The thread at the vector, when no STEP or freeze halts it there. -/
def Thread.atVector (x : Thread) (cause : Nat) (info : BitVec 42) (pc : BitVec 16) (imp : Bool) (vector : BitVec 16) : Thread :=
  { (x.trapped cause info pc imp).stepped.stepped with pc := vector }

theorem State.thread_excEnter {s : State} {t : Nat} (h : (s.thread t).exc = false) (cause : Nat) (info : BitVec 42)
    (pc : BitVec 16) (imp : Bool) :
    (s.excEnter t cause info pc imp).thread t = ((s.thread t).atVector cause info pc imp
      (s.ibase (s.sliceOf t) (clusterOf t) - 32 + BitVec.ofNat 16 cause)).stepDone := by
  rw [State.excEnter_of_not_exc h, State.thread_modThread, State.entered, State.thread_callStep, State.thread_callStep,
    State.thread_modThread]
  rfl

theorem State.thread_excEnter_ne {s : State} {t u : Nat} (h : (s.thread t).exc = false) (hu : u ≠ t) (cause : Nat)
    (info : BitVec 42) (pc : BitVec 16) (imp : Bool) : (s.excEnter t cause info pc imp).thread u = s.thread u := by
  rw [State.excEnter_of_not_exc h, State.thread_modThread_ne _ _ hu, State.entered, State.thread_callStep_ne _ hu,
    State.thread_callStep_ne _ hu, State.thread_modThread_ne _ _ hu]

/-- The end of a STEP touches the thread's state alone. -/
theorem Thread.stepDone_rest (x : Thread) : x.stepDone =
    { x with st := x.stepDone.st, prior := x.stepDone.prior, priorBlk := x.stepDone.priorBlk, dbg := x.stepDone.dbg,
             stepping := x.stepDone.stepping } := by
  unfold Thread.stepDone
  split <;> rfl

theorem Thread.spilled_stepped_stepped (x : Thread) : x.stepped.stepped.spilled =
    x.spilled + (if x.spilled + 9 = x.d then 2 else if x.spilled + 8 = x.d then 1 else 0) := by
  simp only [Thread.stepped]
  split_ifs <;> omega

/-- The frames that an exception's entry spills stand in their save slots; no other word changes. -/
theorem State.getWord_entered (s : State) (t cause : Nat) (info : BitVec 42) (pc : BitVec 16) (imp : Bool) :
    (∀ f i, (s.thread t).spilled ≤ f → f < (s.thread t).stepped.stepped.spilled → i < 8 →
      (s.entered t cause info pc imp).getWord (saveAddr t f i) = frameReg (s.thread t) f i) ∧
    ∀ a, (∀ f i, (s.thread t).spilled ≤ f → f < (s.thread t).stepped.stepped.spilled → i < 8 → a ≠ saveAddr t f i) →
      (s.entered t cause info pc imp).getWord a = s.getWord a := by
  let u := s.modThread t fun x => x.trapped cause info pc imp
  have hu : u.thread t = (s.thread t).trapped cause info pc imp := State.thread_modThread ..
  have hv : (u.callStep t).thread t = ((s.thread t).trapped cause info pc imp).stepped := by rw [State.thread_callStep, hu]
  have hfirst : (s.thread t).spilled ≤ (s.thread t).stepped.spilled := Nat.le_add_right ..
  have hsecond : (s.thread t).stepped.spilled ≤ (s.thread t).stepped.stepped.spilled := Nat.le_add_right ..
  refine ⟨fun f i hlo hhi hi => ?_, fun a ha => ?_⟩
  · by_cases hf : f < (s.thread t).stepped.spilled
    · have hlater : (s.entered t cause info pc imp).getWord (saveAddr t f i) = (u.callStep t).getWord (saveAddr t f i) :=
        State.getWord_callStep_of_ne _ fun g j hg hj => saveAddr_ne (by
          rw [hv] at hg
          exact Nat.ne_of_lt (Nat.lt_of_lt_of_le hf hg.1)) hi hj
      rw [hlater, State.getWord_callStep u (by rw [hu]; exact ⟨hlo, hf⟩) hi, hu]
      rfl
    · have hspill := State.getWord_callStep (u.callStep t) (f := f) (by rw [hv]; exact ⟨Nat.not_lt.mp hf, hhi⟩) hi
      rw [hv] at hspill
      exact hspill
  · have hlater : (s.entered t cause info pc imp).getWord a = (u.callStep t).getWord a :=
      State.getWord_callStep_of_ne _ fun g j hg hj => by
        rw [hv] at hg
        exact ha g j (hfirst.trans hg.1) hg.2 hj
    have hearlier : (u.callStep t).getWord a = u.getWord a :=
      State.getWord_callStep_of_ne _ fun g j hg hj => by
        rw [hu] at hg
        exact ha g j hg.1 (Nat.lt_of_lt_of_le hg.2 hsecond) hj
    rw [hlater, hearlier]
    rfl

theorem Thread.flags_toNat (x : Thread) : x.flags.toNat = flagBits x := by
  have hb : ∀ b : Bool, b2n b ≤ 1 := by decide
  have hz := hb x.z
  have hn := hb x.n
  have hc := hb x.c
  have hv := hb x.v
  have hu := hb x.u
  simp only [Thread.flags, BitVec.toNat_ofNat, flagBits]
  omega

/-- R202, R204: what taking an exception does, on a thread that runs no handler. -/
theorem exceptionEntrySavesTheContext : ExceptionEntrySavesTheContext := by
  intro t s cause info pc imp x s' y hcause hexc
  have hy : y = _ := (State.thread_excEnter hexc cause info pc imp).trans (Thread.stepDone_rest _)
  have hspilled : y.spilled = x.stepped.stepped.spilled := by
    rw [hy]
    rfl
  have hwords : ∀ a, s'.getWord a = (s.entered t cause info pc imp).getWord a := by
    intro a
    rw [show s' = _ from State.excEnter_of_not_exc hexc cause info pc imp, State.getWord_modThread]
  obtain ⟨hslots, hothers⟩ := State.getWord_entered s t cause info pc imp
  have field : ∀ {α : Type} (g : Thread → α), g y = g _ := fun g => congrArg g hy
  refine ⟨(field (·.ecause.toNat)).trans (Nat.mod_eq_of_lt hcause), field (·.einfo), field (·.epcx),
    (field (·.esFlags.toNat)).trans (Thread.flags_toNat x), field (·.esUs), field (·.esLsusp), field (·.esRepv),
    fun n hn => (field (·.erep)).trans (congrArg (·.getD x.erep) hn), field (·.esImp),
    (field (·.edepth.toNat)).trans (BitVec.toNat_ofNat ..), field (·.exc), field (·.lsusp), field (·.rep), field (·.await),
    field (·.d), field (·.pc), field flagBits, field (·.regs), field (·.banks), field (·.l0), field (·.l1), field (·.l2),
    hspilled.trans (Thread.spilled_stepped_stepped x), fun f i hlo hhi hi => ?_, fun a ha => ?_,
    (State.excEnter_onlySpills hexc cause info pc imp).rest, fun u hu => State.thread_excEnter_ne hexc hu cause info pc imp⟩
  · rw [hwords]
    exact hslots f i hlo (hspilled ▸ hhi) hi
  · rw [hwords]
    exact hothers a fun f i hlo hhi hi => ha f i hlo (hspilled ▸ hhi) hi

/-! ## Double faults: R12, R206, R213 -/

/-- The thread after a double fault. -/
def Thread.doubleFaulted (x : Thread) : Thread :=
  { x with st := .faulted, blk := .none, await := none, rep := none, stepping := false }

/-- Inside a handler an exception is a double fault: the thread is FAULTED with its task, and the function has its event. -/
theorem State.excEnter_of_exc {s : State} {t : Nat} (h : (s.thread t).exc = true) (cause : Nat) (info : BitVec 42) (pc : BitVec 16)
    (imp : Bool) :
    let s' := s.excEnter t cause info pc imp
    s'.thread t = (s.thread t).doubleFaulted ∧ bit (s'.pageReg (s.sliceOf t) 0x2004) 2 = true ∧ s'.mem = s.mem ∧ ∀ u, u ≠ t → s'.thread u = s.thread u := by
  intro s'
  have hs' : s' = s.doubleFault t cause info := if_pos h
  have fault : ∃ u : State, s' = u.fnEvent (s.sliceOf t) 2 ∧ OnlyLogs (s.modThread t Thread.doubleFaulted) u :=
    ⟨_, hs', State.err_onlyLogs _ _⟩
  obtain ⟨u, hu, logs⟩ := fault
  have logs' := logs.trans (State.fnEvent_onlyLogs u (s.sliceOf t) (b := 2) (by decide))
  rw [← hu] at logs'
  refine ⟨(logs'.thread t).trans (State.thread_modThread s t _), ?_, logs'.mem, fun n hn =>
    (logs'.thread n).trans (State.thread_modThread_ne s _ hn)⟩
  rw [hu, State.bit_fnEvent _ _ _ (by decide)]
  simp

/-- R12, R196, R206, R213: what ILL_OP raises, and the double fault inside a handler. -/
theorem undefinedInstructionTrapsAndDoubleFaults : UndefinedInstructionTrapsAndDoubleFaults := by
  intro t s hcan x bad w raise
  have hraise : ∀ cause info, s.illOp t = s.excEnter t cause info x.pc false → raise cause info := by
    intro cause info h
    have hrun : exec (.illOp t) s = .next (s.excEnter t cause info x.pc false) := congrArg Host.Outcome.next h
    exact ⟨hrun, fun hexc => ⟨_, hrun, State.excEnter_of_exc hexc cause info x.pc false⟩⟩
  have hill : s.illOp t = if s.fetchOpen t = false then s.exc t 4 (x.pc.setWidth 42)
      else if bad then s.exc t 8 (x.pc.setWidth 42) else if defined w = false then s.excBits t 1 w else s := by
    rw [State.illOp, if_neg (by simp [State.storeFaultDue_of_canIssue hcan]), if_pos hcan]
  refine ⟨fun hopen => hraise _ _ ?_, fun hopen hbad => hraise _ _ ?_, fun hopen hbad hdef => hraise _ _ ?_⟩
  · rw [hill, if_pos hopen]
    rfl
  · rw [hill, if_neg (by simp [hopen]), if_pos hbad]
    rfl
  · rw [hill, if_neg (by simp [hopen]), if_neg (by simp [hbad]), if_pos hdef]
    rfl

/-! ## STALL: R206, R263, R264, R393 -/

theorem State.sliceOf_lt (s : State) (t : Nat) : s.sliceOf t < 64 := by
  unfold State.sliceOf
  cases (s.core (t / 8)).slice with
  | none => decide
  | some i => exact i.isLt

/-- R406: a bit of SLC.STALL or SLC.FROZEN is set once it has been raised. -/
theorem State.bitOf_raiseSlc (s : State) (base i : Nat) :
    bitOf ((s.raiseSlc base i).reg (base + 4 * (i / 28))) (i % 28) = true := by
  have hi := Nat.mod_lt i (show 0 < 28 by decide)
  rw [← ext_self_eq_one]
  unfold State.raiseSlc
  dsimp only
  split
  next h => exact h
  next =>
    rw [State.reg_msix]
    refine (State.fld_setFld_self s ⟨base + 4 * (i / 28), i % 28, i % 28⟩ 1 (by simp) hi).trans ?_
    simp

theorem State.raiseSlc_rest (s : State) (base i : Nat) : s.raiseSlc base i =
    { s with csr := (s.raiseSlc base i).csr, out := (s.raiseSlc base i).out, pba := (s.raiseSlc base i).pba } := by
  unfold State.raiseSlc State.msix
  dsimp only
  split_ifs <;> rfl

theorem State.reg_raiseSlc_of_ne (s : State) {base i o : Nat} (h : o ≠ base + 4 * (i / 28)) :
    (s.raiseSlc base i).reg o = s.reg o := by
  unfold State.raiseSlc
  dsimp only
  split
  · rfl
  · rw [State.reg_msix]
    exact State.reg_setReg_ne s _ h

/-- A thread that waits nowhere any more: channels and coprocessor units forget it, and nothing else changes. -/
theorem State.unwait_rest (s : State) (t : Nat) :
    s.unwait t = { s with chans := (s.unwait t).chans, units := (s.unwait t).units } := by
  have fold : ∀ {α : Type} (f : State → α → State), (∀ u a, f u a = { u with chans := (f u a).chans, units := (f u a).units }) →
      ∀ (l : List α) (u : State), u = { s with chans := u.chans, units := u.units } →
      u.each l f = { s with chans := (u.each l f).chans, units := (u.each l f).units } := by
    intro α f hf l
    induction l with
    | nil => exact fun u hu => hu
    | cons a l ih =>
      intro u hu
      refine ih (f u a) ?_
      rw [hf u a, hu]
  exact fold _ (fun _ _ => rfl) _ _ (fold _ (fun _ _ => rfl) _ s rfl)

/-- The report of a stall, before the supervisor receives it. -/
def State.stallReported (s : State) (i t : Nat) : State :=
  (((s.modSlice i fun x => { x with stallRun := 0, stallShut := true }).raiseSlc (slcOff 0x30) i).fnEvent i 1).err
    { src := 10, code := 1, cls := 1, slice := some i, info := [t] }

theorem State.stall_of_supervisor {s : State} {i t : Nat}
    (hacts : (s.sliceState i = 1 ∨ s.sliceState i = 2) ∧ 8192 ≤ (s.slice i).stallRun ∧ s.stalled i = true)
    (hsup : s.supervisor i = some t) :
    s.stall i = if ((s.stallReported i t).thread t).exc then s.stallReported i t
      else ((s.stallReported i t).unwait t).excEnter t 0xF 0 ((s.stallReported i t).thread t).pc false := by
  rw [State.stall, if_pos hacts, hsup]
  rfl

/-- What the report of a stall sets, and that it touches neither threads nor cores nor any IBASE of the eight clusters. -/
structure StallReport (s s' : State) (i : Nat) : Prop where
  slcBit : bitOf (s'.reg (0x2400030 + 4 * (i / 28))) (i % 28) = true
  event : bitOf (s'.pageReg i 0x2004) 1 = true
  slice : s'.slice i = { s.slice i with stallRun := 0, stallShut := true }
  thread : ∀ u, s'.thread u = s.thread u
  cores : s'.cores = s.cores
  ibase : ∀ j c, j < 64 → c < 8 → s'.ibase j c = s.ibase j c

theorem State.stallReported_report (s : State) {i : Nat} (hi : i < 64) (t : Nat) : StallReport s (s.stallReported i t) i := by
  let marked := s.modSlice i fun x => { x with stallRun := 0, stallShut := true }
  let raised := marked.raiseSlc (slcOff 0x30) i
  let notified := raised.fnEvent i 1
  have hraised : raised = _ := marked.raiseSlc_rest (slcOff 0x30) i
  have notify : OnlyLogs raised notified := raised.fnEvent_onlyLogs i (by decide)
  have log : OnlyLogs notified (s.stallReported i t) := notified.err_onlyLogs _
  have both := notify.trans log
  have hevent : bit (notified.pageReg i 0x2004) 1 = true := by
    rw [State.bit_fnEvent _ _ _ (by decide)]
    simp
  have hout : ∀ o, 0x2400000 ≤ o → o < 0x3400000 → ¬inErr o := fun o _ _ h => by
    unfold inErr at h
    omega
  refine ⟨?_, ?_, ?_, fun u => ?_, ?_, fun j c hj hc => ?_⟩
  · rw [both.reg _ (hout _ (by omega) (by omega))]
    exact marked.bitOf_raiseSlc (slcOff 0x30) i
  · rw [bitOf_eq_getLsbD]
    exact log.events i 1 hevent
  · have hslices : (s.stallReported i t).slices = marked.slices := by rw [both.rest, hraised]
    refine (congrArg (SMap.get (sliceReset i) · i) hslices).trans ?_
    exact State.slice_modSlice s i _
  · rw [both.thread, State.thread, hraised]
    rfl
  · rw [both.rest, hraised]
    rfl
  · have hreg : (s.stallReported i t).reg (slcIbase j c) = s.reg (slcIbase j c) := by
      have hlo : 0x2401000 ≤ slcIbase j c ∧ slcIbase j c < 0x2406000 := by
        unfold slcIbase slcReg
        omega
      rw [both.reg _ (hout _ (by omega) (by omega))]
      refine (marked.reg_raiseSlc_of_ne ?_).trans rfl
      unfold slcOff
      omega
    simp only [State.ibase, State.fld, hreg]

/-- STALL reaches a supervisor among the 1,024 threads as an exception, unless it runs a handler (R206, R263). -/
theorem stall_reaches_supervisor {i : Fin 64} {s : State} {t : Nat} (ht : t < 1024)
    (hacts : (s.sliceState i = 1 ∨ s.sliceState i = 2) ∧ 8192 ≤ (s.slice i).stallRun ∧ s.stalled i = true)
    (hsup : s.supervisor i = some t) :
    let x := s.thread t
    ∃ s' : State, exec (.stall i) s = .next s' ∧
      let y := s'.thread t
      bitOf (s'.reg (0x2400030 + 4 * (i.val / 28))) (i.val % 28) = true ∧ bitOf (s'.pageReg i 0x2004) 1 = true ∧
      (x.exc = true → y = x) ∧
      (x.exc = false → y.ecause = 0xF ∧ y.epcx = x.pc ∧ y.exc = true ∧ y.d = x.d + 2 ∧
        y.pc = s.ibase (s.sliceOf t) (clusterOf t) - 17) ∧
      (s'.slice i).stallRun = 0 ∧ (s'.slice i).stallShut = true ∧
      ∀ u, u ≠ t → s'.thread u = s.thread u := by
  intro x
  have hrun : exec (.stall i) s = .next (s.stall i) := rfl
  rw [hrun, State.stall_of_supervisor hacts hsup]
  have report := s.stallReported_report i.isLt t
  generalize s.stallReported i t = r at report ⊢
  obtain ⟨hbit, hevent, hslice, hthread, hcores, hibase⟩ := report
  have hsl : ∀ r' : State, r'.slices = r.slices → (r'.slice i).stallRun = 0 ∧ (r'.slice i).stallShut = true := by
    intro r' h
    have : r'.slice i = r.slice i := congrArg (SMap.get (sliceReset i) · i.val) h
    rw [this, hslice]
    exact ⟨rfl, rfl⟩
  cases hexc : x.exc with
  | true =>
    rw [if_pos (by rw [hthread]; exact hexc)]
    exact ⟨_, rfl, hbit, hevent, fun _ => hthread t, nofun, (hsl r rfl).1, (hsl r rfl).2, fun u _ => hthread u⟩
  | false =>
    rw [if_neg (by rw [hthread]; simpa using hexc), hthread t]
    have hfree := r.unwait_rest t
    generalize r.unwait t = w at hfree ⊢
    have hw : ∀ u, w.thread u = s.thread u := fun u => by
      rw [← hthread u, hfree]
      rfl
    have hwexc : (w.thread t).exc = false := by rw [hw]; exact hexc
    have spills := State.excEnter_onlySpills hwexc 0xF 0 x.pc false
    have hy := (State.thread_excEnter hwexc 0xF 0 x.pc false).trans (Thread.stepDone_rest _)
    rw [hw t] at hy
    have hbase : w.ibase (w.sliceOf t) (clusterOf t) = s.ibase (s.sliceOf t) (clusterOf t) := by
      have hof : w.sliceOf t = s.sliceOf t := by
        rw [hfree]
        simp only [State.sliceOf, State.core, hcores]
      rw [hof, ← hibase _ _ (s.sliceOf_lt t) (by unfold clusterOf; omega), hfree]
      rfl
    have hpc : ((w.excEnter t 0xF 0 x.pc false).thread t).pc = s.ibase (s.sliceOf t) (clusterOf t) - 17 := by
      rw [hy, ← hbase]
      exact sub_add ..
    have hreg : ∀ o, (w.excEnter t 0xF 0 x.pc false).reg o = r.reg o := fun o => by
      rw [spills.rest, hfree]
      rfl
    have hpage : (w.excEnter t 0xF 0 x.pc false).pageReg i 0x2004 = r.pageReg i 0x2004 := by
      rw [spills.rest, hfree]
      rfl
    have hslices : (w.excEnter t 0xF 0 x.pc false).slices = r.slices := by rw [spills.rest, hfree]
    have field : ∀ {α : Type} (g : Thread → α), g ((w.excEnter t 0xF 0 x.pc false).thread t) = g _ := fun g => congrArg g hy
    exact ⟨_, rfl, (hreg _).symm ▸ hbit, hpage.symm ▸ hevent, nofun,
      fun _ => ⟨field (·.ecause), field (·.epcx), field (·.exc), field (·.d), hpc⟩, (hsl _ hslices).1, (hsl _ hslices).2,
      fun u hu => (State.thread_excEnter_ne hwexc hu ..).trans (hw u)⟩

/-! ## A stall whose supervisor is no thread of the device -/

/-- A thread number beyond 1,023, in whose cluster the address of SLC.IBASE is that of the error log's write count. -/
def strayThread : Nat := 128 * 0xFFEFC

/-- A machine that lists the stray thread before thread 0, which is blocked on WFE: slice 0 has been stalled for 8,192 CCLK. Its table of
threads does not rise, so it is not in canonical form. -/
def strayState : State :=
  { threads := [(strayThread, { st := .run }), (0, { st := .blocked, blk := .wfe, bw := 0x2A02000 })]
    slices := [(0, { state := 1, stallRun := 8192 })] }

/-- STALL enters the handler of the stray thread from an IBASE that the record of the stall has changed. -/
theorem strayState_pc : ((strayState.stall 0).thread strayThread).pc ≠ strayState.ibase (strayState.sliceOf strayThread)
    (clusterOf strayThread) - 17 := by decide +kernel

/-- Refutes O12, in its part (c), which speaks of every state and of a supervisor of any number: in `strayState` the stray thread is
the supervisor of slice 0. Parts (a) and (b) hold (`exceptionEntrySavesTheContext`, `undefinedInstructionTrapsAndDoubleFaults`), and a
supervisor among the 1,024 threads receives the stall as (c) says (`stall_reaches_supervisor`). -/
theorem not_exceptionsDoubleFaultsAndStalls : ¬ Obligations.ExceptionsDoubleFaultsAndStalls := by
  rintro ⟨-, -, hstall⟩
  obtain ⟨-, hsup, -⟩ := hstall 0 strayState
  have hacts : (strayState.sliceState 0 = 1 ∨ strayState.sliceState 0 = 2) ∧ 8192 ≤ (strayState.slice 0).stallRun ∧
    strayState.stalled 0 = true := by decide +kernel
  obtain ⟨s', hrun, -, -, -, hentry, -⟩ := hsup strayThread hacts (by decide +kernel)
  obtain ⟨-, -, -, -, hpc⟩ := hentry (by decide +kernel)
  rw [exec_stall, execStall] at hrun
  obtain rfl := Host.Outcome.next.inj hrun
  exact strayState_pc hpc

end Sys2Proof.Machine
